-- ==== Sys2Proof/Word.lean ====
section
/-! DEFINITION. The word types of the model: registers and special registers are bit vectors of the widths the spec gives, bytes are those of host memory, and a KMap is sparse data held as a list of key and value pairs. -/

namespace Sys2Proof

/-- A register of the control window (R532: 32-bit data). -/
abbrev Word := BitVec 32

/-- A scalar register of a context (R75). -/
abbrev Dword := BitVec 64

/-- A byte of host memory. -/
abbrev Byte := BitVec 8

/-- Sparse data: keys strictly rising, no entry equal to what an unlisted key reads as. -/
abbrev KMap (α : Type) := List (Nat × α)

end Sys2Proof
end

