-- ==== Sys2Proof/Syntax.lean ====
section
/-! DEFINITION. The commands that the block takes, one constructor per row of spec/opcode_table.json, with the operands that each carries from outside: a path of the control window, a partition, a register value, a message, a response. -/

namespace Sys2Proof

/-- The four paths into the control window (R572). (DESIGN CHOICE, assumption log 100) -/
inductive Path where
  | host | mgmt | jtag | i2c
  deriving DecidableEq, Repr

/-- The two users of Strings (R527): the ACTIVE management core, and JTAG through the Strings data register. -/
inductive StringsSrc where
  | mgmt | jtag
  deriving DecidableEq, Repr

/-- The answer to a memory-port transaction (R535): OKAY with good or bad parity or code (R469), EXOKAY, or an error (R581). -/
inductive MemResp where
  | okay | badParity | exokay | slverr | decerr
  deriving DecidableEq, Repr

/-- One fetched instruction of a context: the context that runs it, and the fields of its 64-bit word that R91
leaves beside MAJOR and MINOR, which the constructor names. -/
structure Ins where
  part : Fin 32
  ctx : Fin 16
  dst : BitVec 5
  srca : BitVec 5
  srcb : BitVec 5
  pred : BitVec 3
  ext : BitVec 32
  /-- MAJOR and MINOR of a fetched word that names no instruction (R90); the constructor then says nothing. (DESIGN CHOICE,
  assumption log 13) -/
  odd : Option (BitVec 6 × BitVec 8) := none
  /-- A LEDG shares the cycle in which the next operation reaches its ledger (R213). (DESIGN CHOICE, assumption log 121) -/
  joins : Bool := false
  deriving DecidableEq, Repr

/-- A remote message whose flits passed their CRC and whose reserved bits are 0, by the header fields of R551 and its
payload. (DESIGN CHOICE, assumption log 101) -/
structure RmMsg where
  port : Fin 4
  flags : BitVec 8
  src : BitVec 16
  dst : BitVec 16
  part : Fin 32
  tag : BitVec 24
  bytes : BitVec 16
  offset : BitVec 16
  body : BitVec 128
  payload : List Byte
  deriving DecidableEq, Repr

/-- An upstream Dispatch Link message whose CRC is right (R542). (DESIGN CHOICE, assumption log 101) -/
structure KdlMsg where
  part : Fin 32
  chan : BitVec 6
  flags : BitVec 8
  step : BitVec 48
  seq : BitVec 16
  arg0 : Word
  arg1 : Word
  deriving DecidableEq, Repr

/-- A hidden-row packet on VC 0 of a hidden-state port (R546); `crcOk` says that every flit passed its CRC (R547). (DESIGN
CHOICE, assumption log 101) -/
structure HRowPkt where
  port : Fin 8
  part : Fin 32
  step : BitVec 48
  row : Word
  bytes : Word
  payload : List Byte
  crcOk : Bool
  deriving DecidableEq, Repr

/-- Where an uncorrectable error stands (R473): in a cache or a weight panel buffer, which is fetched again; in an accumulator
panel, by its unit; in the hidden-state stage, by a row that holds the word; in the request table, by slot and word; in a cell or a ledger, by its
number; in the register file or context scratch of a core; in other state of one partition; or in other engine-wide state. -/
inductive UeAt where
  | refetched
  | accumulator (unit : Nat)
  | stage (part : Fin 32) (step : BitVec 48) (row : Nat)
  | request (slot : BitVec 17) (word : Fin 24 := 0)
  | core (part : Fin 32)
  | cell (cell : BitVec 16)
  | ledger (ledger : BitVec 13)
  | partition (part : Fin 32)
  | engine
  deriving DecidableEq, Repr

/-- What the scrubber or a functional access found (R470 to R473): a corrected error in a row of a bank, and whether the word
still showed it when it was read back (R472); an uncorrectable one; a slice whose control parity fails twice in
one operation (R479); a parity error in a generator lane (R405); or sources of
the next record that a partition forms, which fail their check so many times in a row (R414). (DESIGN CHOICE, assumption log
118) (DESIGN CHOICE, assumption log 36) -/
inductive ScrubFinding where
  | corrected (bank row : Nat) (stuck : Bool)
  | uncorrectable (at_ : UeAt)
  | slice (slice : Fin 32)
  | lane
  | source (part : Fin 32) (times : Fin 4)
  deriving DecidableEq, Repr

/-- What the SECDED code of a descriptor in admission showed (R207). -/
inductive Ecc where
  | clean | corrected
  /-- Found at a step of R206: 0 for step 2, up to 4 for step 6. -/
  | uncorrectable (step : Fin 5)
  deriving DecidableEq, Repr

/-- What comes to a cell, and whether it shares the cycle in which the next command acts on that cell (R175). (DESIGN CHOICE,
assumption log 113) -/
structure AtCell (α : Type) where
  what : α
  joins : Bool := false
  deriving DecidableEq, Repr

/-- A log entry that the ACTIVE core's firmware makes (R509, R514): a sensor whose sample crosses the bounds that the firmware
holds, or a NOTE with a payload of its own. (DESIGN CHOICE, assumption log 100) -/
inductive FirmEnt where
  | sensor (index : Fin 112)
  | note (payload : List Byte)
  deriving DecidableEq, Repr

/-- A sample of every sensor (R509): their VALUEs in the order of the table, and the entries that the firmware makes of it. (DESIGN CHOICE, assumption log 100) -/
structure SensSample where
  values : List Nat
  entries : List FirmEnt := []
  deriving DecidableEq, Repr

/-- Why a memory port fails: its watchdog for a transaction that is outstanding in the state, or for another read or write,
which the model makes within the command that needs it (R466, R537); or its own control check (R480). (DESIGN CHOICE,
assumption logs 26, 119) -/
inductive MemFail where
  | txn (id : Nat)
  | read (port : Fin 16)
  | check (port : Fin 16)
  deriving DecidableEq, Repr

/-- A remote message port that fails, by its watchdog (R553) or by its own control check (R480). (DESIGN CHOICE, assumption
log 119) -/
structure RmFail where
  port : Fin 4
  check : Bool := false
  deriving DecidableEq, Repr

/-- The core of a partition that fails, by a stall or by a residue check that failed twice (R477). (DEDUCED, assumption log 35) -/
structure CoreFail where
  core : Fin 32
  residue : Bool := false
  deriving DecidableEq, Repr

/-- The commands of the block (spec/opcode_table.json). -/
inductive Instr where
  /-- Power-on or wx_cold_rst_n_i held low resets everything except flash and begins start-up. R560. -/
  | coldReset (powerOn : Bool)
  /-- An internal PLL reports lock and its domains leave reset (start-up step 1). R491. -/
  | pllLock
  /-- Every SRAM has been cleared with its code and fused repairs applied; start-up moves on to the jump ROM check. R562. -/
  | sramClearDone
  /-- Bank 0 has been loaded with the boot slot's microcode; UCODE_READY is set, discovery is published and READY rises. R521. -/
  | ucodeLoadDone (loaded : Bool)
  /-- wx_warm_rst_n_i held low starts a warm reset. R561. -/
  | warmResetPin
  /-- A write of 1 to WARM in WX_GLB_RESET starts a warm reset: ready falls, steps are abandoned and the engine waits for
  outstanding responses. R561. -/
  | warm (path : Path)
  /-- Once outstanding memory responses are in, covered state is reset, start-up resumes at step 7 and WARM_DONE is set. R561. -/
  | warmResetComplete
  /-- A complete timecode frame is checked and taken, rejected, or used to jump, acquire, lock or relock beat time. R30. -/
  | timecodeFrame (frame : BitVec 96)
  /-- No valid edge arrives 32 tk after tick 255, so the follower declares loss and enters FREE. R40. -/
  | beatLoss
  /-- In FREE or EXPIRED the engine generates its own edge at the mean period and counts a free beat. R40. -/
  | freeRunEdge
  /-- In MASTER the engine generates an edge each master period and sends a frame. R43. -/
  | masterEdge
  /-- A write of FOLLOWER to MODE enters ACQUIRE, or schedules FREE and relock from MASTER. R44. -/
  | modeFollower (path : Path)
  /-- A write of MASTER to MODE enters MASTER at once or at the next local edge. R44. -/
  | modeMaster (path : Path)
  /-- A write of OFF to MODE enters IDLE when every partition is DISABLED. R44. -/
  | modeOff (path : Path)
  /-- A read of WX_BEAT_NOW_LO latches the whole beat time for WX_BEAT_NOW_HI. R47. -/
  | readBeatNowLo (path : Path)
  /-- A read of a latching _LO register, or of WX_PWR_ACT_BUSY, latches its partner registers for the reading path. R575. -/
  | latchingRead (path : Path) (addr : BitVec 22)
  /-- A write to a register that has no row of its own is stored, ignored, or refused with SLVERR. R534. -/
  | registerWrite (path : Path) (addr : BitVec 22) (data : Word) (strbFull : Bool)
  /-- A 4-byte I2C write sets the pointer into the control window. R556. -/
  | i2cPointerWrite (bytes : List Byte)
  /-- An I2C read returns 4 bytes at the pointer and advances it by 4. R556. -/
  | i2cRead
  /-- Setting ENABLE in DISABLED checks the shares and leaves the partition pending, or fails with CFG_ERR. R55. -/
  | enableSet (path : Path) (p : Fin 32)
  /-- A pending partition enters RUNNING once the beat allows it and every channel of its dispatch mask is UP. R55. -/
  | partitionStart (p : Fin 32)
  /-- Clearing ENABLE withdraws a pending enable, or starts a partition reset in RUNNING or HALTED. R55. -/
  | enableClear (path : Path) (p : Fin 32)
  /-- A write of RESET enters RESETTING, stops admission and contexts, and lets steps in flight run on. R60. -/
  | partitionReset (path : Path) (p : Fin 32)
  /-- The reset deadline expires and phase 3 abandons every step still in flight. R60. -/
  | resetDeadline (p : Fin 32)
  /-- Phases 4 and 5 finish freeing requests and clearing cells; phase 6 restarts the step number and sets RESET_DONE. R60. -/
  | resetClearDone (p : Fin 32)
  /-- A write of SQ_TAIL rings the doorbell and announces new descriptors, or is dropped. R199. -/
  | sqTail (p : Fin 32) (v : Word)
  /-- A handle written to CANCEL is accepted as a cancellation, counted as stale, or dropped. R222. -/
  | cancel (p : Fin 32) (h : Word)
  /-- The consumer writes CQ_HEAD to return completion-ring slots. R415. -/
  | cqHead (p : Fin 32) (v : Word)
  /-- The consumer writes TR_HEAD[n] to return slots of a privileged token ring. R422. -/
  | trHead (p : Fin 32) (n : Fin 256) (v : Word)
  /-- A HOST_SIGNAL write sends an add of the given amount to a partition-relative cell. R59. -/
  | hostSignal (p : Fin 32) (v : Word)
  /-- START clears a FREE context, sets its entry PC and makes it READY. R65. -/
  | ctxStart (path : Path) (p : Fin 32) (c : Fin 16)
  /-- STOP moves a context to STOPPED at its next instruction boundary and withdraws any wait. R65. -/
  | ctxStop (path : Path) (p : Fin 32) (c : Fin 16)
  /-- SAVE stops the context and writes its save area, entering SAVED. R70. -/
  | ctxSave (path : Path) (p : Fin 32) (c : Fin 16)
  /-- RESTORE checks and loads a save area and enters the recorded state. R72. -/
  | ctxRestore (path : Path) (p : Fin 32) (c : Fin 16)
  /-- RESET returns the context to FREE and zeroes its private cells. R68. -/
  | ctxReset (path : Path) (p : Fin 32) (c : Fin 16)
  /-- RESUME makes a STOPPED context READY at its saved PC. R65. -/
  | ctxResume (path : Path) (p : Fin 32) (c : Fin 16)
  /-- A background context operation completes; BUSY falls, ERR is set and CMD_DONE is set. R66. -/
  | ctxCmdComplete (p : Fin 32)
  /-- Register add, modulo 2^64. R111. -/
  | add (i : Ins)
  /-- Register subtract. R111. -/
  | sub (i : Ins)
  /-- Register bitwise and. R111. -/
  | iAnd (i : Ins)
  /-- Register bitwise or. R111. -/
  | iOr (i : Ins)
  /-- Register bitwise xor. R111. -/
  | xor (i : Ins)
  /-- Register logical shift left. R111. -/
  | sll (i : Ins)
  /-- Register logical shift right. R111. -/
  | srl (i : Ins)
  /-- Register arithmetic shift right. R111. -/
  | sra (i : Ins)
  /-- Low 64 bits of the product. R111. -/
  | mul (i : Ins)
  /-- High 64 bits of the unsigned product. R111. -/
  | mulhu (i : Ins)
  /-- Unsigned quotient, with fixed results on division by zero. R76. -/
  | divu (i : Ins)
  /-- Unsigned remainder. R76. -/
  | remu (i : Ins)
  /-- Signed quotient. R76. -/
  | div (i : Ins)
  /-- Signed remainder. R76. -/
  | rem (i : Ins)
  /-- Signed minimum. R111. -/
  | min (i : Ins)
  /-- Signed maximum. R111. -/
  | max (i : Ins)
  /-- Unsigned minimum. R111. -/
  | minu (i : Ins)
  /-- Unsigned maximum. R111. -/
  | maxu (i : Ins)
  /-- Add with a sign-extended immediate. R111. -/
  | addi (i : Ins)
  /-- Subtract an immediate. R111. -/
  | subi (i : Ins)
  /-- And with an immediate. R111. -/
  | andi (i : Ins)
  /-- Or with an immediate. R111. -/
  | ori (i : Ins)
  /-- Xor with an immediate. R111. -/
  | xori (i : Ins)
  /-- Logical shift left by an immediate. R111. -/
  | slli (i : Ins)
  /-- Logical shift right by an immediate. R111. -/
  | srli (i : Ins)
  /-- Arithmetic shift right by an immediate. R111. -/
  | srai (i : Ins)
  /-- Multiply by an immediate. R111. -/
  | muli (i : Ins)
  /-- Unsigned divide by an immediate. R111. -/
  | divui (i : Ins)
  /-- Unsigned remainder by an immediate. R111. -/
  | remui (i : Ins)
  /-- Signed divide by an immediate. R111. -/
  | divi (i : Ins)
  /-- Signed remainder by an immediate. R111. -/
  | remi (i : Ins)
  /-- Signed minimum with an immediate. R111. -/
  | mini (i : Ins)
  /-- Signed maximum with an immediate. R111. -/
  | maxi (i : Ins)
  /-- Unsigned minimum with an immediate. R111. -/
  | minui (i : Ins)
  /-- Unsigned maximum with an immediate. R111. -/
  | maxui (i : Ins)
  /-- Sets a predicate when two registers are equal. R112. -/
  | ceq (i : Ins)
  /-- Sets a predicate when two registers are not equal. R112. -/
  | cne (i : Ins)
  /-- Signed less-than compare into a predicate. R112. -/
  | clt (i : Ins)
  /-- Signed greater-or-equal compare into a predicate. R112. -/
  | cge (i : Ins)
  /-- Unsigned less-than compare into a predicate. R112. -/
  | cltu (i : Ins)
  /-- Unsigned greater-or-equal compare into a predicate. R112. -/
  | cgeu (i : Ins)
  /-- Equality compare with an immediate. R112. -/
  | ceqi (i : Ins)
  /-- Inequality compare with an immediate. R112. -/
  | cnei (i : Ins)
  /-- Signed less-than compare with an immediate. R112. -/
  | clti (i : Ins)
  /-- Signed greater-or-equal compare with an immediate. R112. -/
  | cgei (i : Ins)
  /-- Unsigned less-than compare with an immediate. R112. -/
  | cltui (i : Ins)
  /-- Unsigned greater-or-equal compare with an immediate. R112. -/
  | cgeui (i : Ins)
  /-- Reads a special register into a scalar register. R77. -/
  | mfsr (i : Ins)
  /-- Writes elen or fault from a scalar register, raising ELEN or ILLEGAL where required. R77. -/
  | mtsr (i : Ins)
  /-- Predicate and. R112. -/
  | pand (i : Ins)
  /-- Predicate or. R112. -/
  | por (i : Ins)
  /-- Predicate xor. R112. -/
  | pxor (i : Ins)
  /-- Predicate and-not. R112. -/
  | pandn (i : Ins)
  /-- Loads the immediate into the upper 32 bits of a register. R112. -/
  | lih (i : Ins)
  /-- Binary32 add. R113. -/
  | fadd (i : Ins)
  /-- Binary32 subtract. R113. -/
  | fsub (i : Ins)
  /-- Binary32 multiply. R113. -/
  | fmul (i : Ins)
  /-- Binary32 divide. R113. -/
  | fdiv (i : Ins)
  /-- Binary32 minimum, ordered as in R107. R113. -/
  | fmin (i : Ins)
  /-- Binary32 maximum, ordered as in R107. R113. -/
  | fmax (i : Ins)
  /-- Converts a signed integer to binary32. R113. -/
  | fcvti (i : Ins)
  /-- Converts binary32 to a signed integer, rounding toward zero and saturating. R113. -/
  | ftrunc (i : Ins)
  /-- Branch relative, made conditional by its guard. R112. -/
  | br (i : Ins) (off : BitVec 40)
  /-- Branch relative and link. R112. -/
  | call (i : Ins) (off : BitVec 40)
  /-- Jump to a register target and link. R112. -/
  | jr (i : Ins)
  /-- Loads from context scratch. R116. -/
  | lds (i : Ins) (minor : BitVec 8)
  /-- Stores to context scratch. R116. -/
  | sts (i : Ins) (minor : BitVec 8)
  /-- Loads from host memory, waiting for the response. R116. -/
  | ldd (i : Ins) (minor : BitVec 8)
  /-- Stores to host memory, waiting for the write response. R116. -/
  | std (i : Ins) (minor : BitVec 8)
  /-- Reads a word of a request table entry by handle. R118. -/
  | rqld (i : Ins)
  /-- Writes a writable word of a request table entry. R118. -/
  | rqst (i : Ins)
  /-- Compare-and-swap on a writable request table word. R119. -/
  | rqcas (i : Ins)
  /-- Reads a ledger balance. R120. -/
  | ledgRd (i : Ins)
  /-- Charges a ledger, clamped at its lower bound. R120. -/
  | ledgChg (i : Ins)
  /-- Charges a ledger only if its balance covers the amount. R120. -/
  | ledgTry (i : Ins)
  /-- Credits a ledger, clamped at CAP. R120. -/
  | ledgCrd (i : Ins)
  /-- Puts an item on a ready list or reports the list full. R122. -/
  | enq (i : Ins)
  /-- Takes an item from the most urgent eligible ready list. R122. -/
  | deq (i : Ins)
  /-- Inserts an ITEM entry into a delay list. R122. -/
  | dly (i : Ins)
  /-- Returns the context to READY so that Cascade chooses again. R151. -/
  | yield (i : Ins)
  /-- Sets the context's priority and then yields. R149. -/
  | yieldPrio (i : Ins)
  /-- Take-wait on a semaphore count with a timeout. R173. -/
  | swait (i : Ins)
  /-- Peek-wait on a semaphore count with a timeout. R173. -/
  | swaitp (i : Ins)
  /-- Adds to a semaphore cell. R126. -/
  | sadd (i : Ins)
  /-- Subtracts from a semaphore cell. R126. -/
  | ssub (i : Ins)
  /-- Arrives at a barrier and waits for P participants. R177. -/
  | sbar (i : Ins)
  /-- Sends a standalone remote signal. R127. -/
  | sigr (i : Ins)
  /-- Maps a virtual id to a shared cell. R128. -/
  | smapShared (i : Ins)
  /-- Maps a virtual id to a private cell. R128. -/
  | smapPrivate (i : Ins)
  /-- Marks a virtual table entry invalid. R128. -/
  | smapInvalid (i : Ins)
  /-- Delays the context until an absolute beat time. R130. -/
  | twaitAbs (i : Ins)
  /-- Delays the context for a relative number of ticks. R130. -/
  | twaitRel (i : Ins)
  /-- Arms a semaphore timer at an absolute time. R131. -/
  | tatAbs (i : Ins)
  /-- Arms a semaphore timer at a relative time. R131. -/
  | tatRel (i : Ins)
  /-- Disarms an armed timer by its token. R131. -/
  | tatDisarm (i : Ins)
  /-- Opens a GENERATION batch and reserves rows for aged requests. R133. -/
  | bopenGen (i : Ins)
  /-- Opens a LEARNING batch and reserves rows for aged requests. R133. -/
  | bopenLearn (i : Ins)
  /-- Offers a request to the open batch and returns the rows granted and a reason. R266. -/
  | baddq (i : Ins)
  /-- Seals the batch with a step number, defers it, or discards it. R135. -/
  | bseal (i : Ins)
  /-- Sends a sealed step's dispatch descriptors as credits allow. R136. -/
  | bissue (i : Ins)
  /-- Sets a vector handle's space, base, count and format. R139. -/
  | vbind (i : Ins)
  /-- Elementwise add. R141. -/
  | vadd (i : Ins)
  /-- Elementwise subtract. R141. -/
  | vsub (i : Ins)
  /-- Elementwise multiply. R141. -/
  | vmul (i : Ins)
  /-- Elementwise maximum. R141. -/
  | vmax (i : Ins)
  /-- Elementwise minimum. R141. -/
  | vmin (i : Ins)
  /-- Elementwise copy with conversion. R141. -/
  | vcopy (i : Ins)
  /-- Converts a vector, optionally with stochastic rounding. R140. -/
  | vcvt (i : Ins)
  /-- Sum reduction over the canonical tree. R106. -/
  | vredSum (i : Ins)
  /-- Maximum reduction. R106. -/
  | vredMax (i : Ins)
  /-- Minimum reduction. R106. -/
  | vredMin (i : Ins)
  /-- Argmax reduction. R106. -/
  | vredArgmax (i : Ins)
  /-- Queues the main-head projection of a sealed step. R143. -/
  | vprojMain (i : Ins)
  /-- Queues a Jet head projection after checking its bottleneck block. R375. -/
  | vprojJet (i : Ins) (head : Fin 8)
  /-- Masks a row with a BIT vector. R141. -/
  | vmaskBits (i : Ins)
  /-- Masks a row with the request's grammar mask. R141. -/
  | vmaskGrammar (i : Ins)
  /-- Masks a row with the request's allowed list. R141. -/
  | vmaskAllow (i : Ins)
  /-- Adds a bias vector to a row. R141. -/
  | vpenBias (i : Ins)
  /-- Applies repetition and presence penalties to a row. R141. -/
  | vpenPenalty (i : Ins)
  /-- Divides a row by the temperature, or applies greedy decoding. R142. -/
  | vtemp (i : Ins)
  /-- Keeps the k best elements of a row. R141. -/
  | vtopk (i : Ins)
  /-- Keeps the shortest prefix of the ranking whose mass reaches p. R352. -/
  | vtopp (i : Ins)
  /-- Draws the index of the greatest noisy element. R141. -/
  | vgmx (i : Ins)
  /-- Computes a row's log-sum-exp. R580. -/
  | vlse (i : Ins)
  /-- Computes a token's log-probability. R141. -/
  | vlprob (i : Ins)
  /-- Computes a row's logit gradient. R141. -/
  | vgradRow (i : Ins)
  /-- Queues a step's transposed projection and head-weight gradient. R340. -/
  | vgradBack (i : Ins)
  /-- Stages a token record for a request in PROGRAM mode. R146. -/
  | emitToken (i : Ins)
  /-- Stages a terminal token record with a given status. R146. -/
  | emitFinal (i : Ins)
  /-- Pins a request to a resident version from its boundary. R442. -/
  | wvpinPin (i : Ins)
  /-- Returns a request to its partition's version policy. R442. -/
  | wvpinUnpin (i : Ins)
  /-- Service call that stops the context and writes a TRAP fault record. R99. -/
  | trap (i : Ins)
  /-- Stops the context with no fault. R99. -/
  | halt (i : Ins)
  /-- A context has issued for QUANTUM × 64 cycles and gives up the slot to an equal-level context. R151. -/
  | quantumExpiry (p : Fin 32)
  /-- A due ITEM delay entry moves to its ready list or is held. R159. -/
  | itemDue (p : Fin 32)
  /-- A due TIMER entry adds its amount to its cell. R159. -/
  | timerDue (p : AtCell (Fin 32))
  /-- A due WAKE entry wakes its context under the slack check. R130. -/
  | wakeDue (p : Fin 32)
  /-- A held ITEM moves to its ready list once the list has room. R156. -/
  | heldItemMove (p : Fin 32) (level : Fin 32)
  /-- The operations that reach one cell in a cycle are applied in fixed order and its queue is walked. R175. -/
  | semOpAtCell (cell : AtCell (BitVec 16)) (ids : List Nat) (fails : Bool)
  /-- A queued wait or barrier reaches its deadline and returns TIMEOUT or faults. R172. -/
  | waitExpiry (cell : BitVec 16)
  /-- A write to WX_SYNC_SAT_CLR clears a cell's saturation flag. R170. -/
  | satClr (path : Path) (p : Fin 32) (off : BitVec 16)
  /-- Writing EN from 0 to 1 arms a realignment entry and records BASE. R193. -/
  | realignArm (path : Path) (p : Fin 32) (n : Fin 16) (v : Word)
  /-- Strings sets a cell's count and clears its flag, and the write is logged. R195. -/
  | manualSet (src : StringsSrc) (cell : AtCell (BitVec 16)) (v : Word)
  /-- Strings clears a cell's saturation flag, and the write is logged. R195. -/
  | manualClearSat (src : StringsSrc) (cell : AtCell (BitVec 16))
  /-- The spin window expires with no issuable context and the core gates, lending power. R192. -/
  | coreGate (p : Fin 32)
  /-- A cluster-barrier ARRIVE reaches a home entry and is counted. R180. -/
  | xbArrive (m : RmMsg)
  /-- A cluster-barrier RELEASE releases the forwarded SBAR waits. R180. -/
  | xbRelease (m : RmMsg)
  /-- A DATA packet opens or joins a transfer-table entry and is written to memory. R184. -/
  | data (m : RmMsg)
  /-- A standalone signal is applied, parked, or rejected. R186. -/
  | signal (m : AtCell RmMsg)
  /-- A parked signal exceeds PARK_LIMIT and is discarded and logged. R190. -/
  | parkExpiry (id : Nat)
  /-- An owner's ECHO is compared with the group's STEP. R452. -/
  | echo (m : RmMsg)
  /-- An UPDATE unanswered for ECHO_LIMIT beats sets ECHO_LATE. R453. -/
  | echoLate (g : BitVec 12)
  /-- An outbound remote port holds a flit without credit too long and fails. R553. -/
  | rmWatchdog (port : RmFail)
  /-- A descriptor read whole from the submission ring is checked, charged, planned and admitted or rejected. R206. -/
  | admitDescriptor (p : Fin 32) (ecc : Ecc)
  /-- An admission record waiting for completion-ring room is handed to Spout. R202. -/
  | admissionRecordHandoff (p : Fin 32)
  /-- A write of WX_ADM_LEDGER_BAL_LO stages the low word. R226. -/
  | ledgerBalStage (path : Path) (v : Word)
  /-- A write of WX_ADM_LEDGER_BAL_HI commits the 40-bit balance to the selected ledger. R226. -/
  | ledgerBalCommit (path : Path) (v : Word)
  /-- A write of CAP or FLOOR clamps the balance to the new bounds. R209. -/
  | ledgerBoundWrite (path : Path) (floor : Bool) (v : Word)
  /-- A write to a model profile or to the budget recomputes its plan. R216. -/
  | modelCfgWrite (path : Path) (p : Fin 32) (reg : BitVec 8) (v : Word)
  /-- LOAD checks a learned-prefix entry and marks it resident. R257. -/
  | lpLoad (path : Path) (id : BitVec 16)
  /-- UNLOAD clears residence and waits for its pages' references to drain. R257. -/
  | lpUnload (path : Path) (id : BitVec 16)
  /-- A learned-prefix command completes and sets ERR. R257. -/
  | lpCmdDone
  /-- Writing FLUSH unlinks every level-1 node of the partition's trees. R253. -/
  | flush (path : Path) (p : Fin 32)
  /-- Below the watermark, Basin evicts one node every 40 cycles. R252. -/
  | backgroundEvict (p : Fin 32)
  /-- Weir finishes processing a seal: forced runs, rows, passes and descriptors. R279. -/
  | sealProcessed (p : Fin 32)
  /-- At tick 0 of each beat, Weir updates the prefill share and possibly NP. R276. -/
  | roleUpdate (p : Fin 32)
  /-- The boundary cut falls after records, reports and operations complete, and events apply there. R17. -/
  | stepBoundary (p : Fin 32)
  /-- The engine takes a stepless boundary for an event on a partition with no step in flight. R18. -/
  | idleBoundary (p : Fin 32)
  /-- A latency alert falls due and is posted, held or dropped. R299. -/
  | alertDue (p : Fin 32)
  /-- A held alert is posted once its ready list has room. R301. -/
  | alertPostRetry (p : Fin 32)
  /-- A request's deadline arrives and its event is accepted for a boundary. R302. -/
  | deadlineEvent (p : Fin 32) (slot : BitVec 17)
  /-- A write of SW sets or clears the SW drawdown source. R307. -/
  | drawSw (path : Path) (p : Fin 32) (on : Bool)
  /-- Marionette writes the MGMT drawdown source. R307. -/
  | drawMgmt (path : Path) (p : Fin 32) (on : Bool)
  /-- START_BEATS have passed and the START source becomes inactive. R307. -/
  | drawStartEnd (p : Fin 32)
  /-- RECOVER_BEATS have passed and the RECOVER source becomes inactive. R313. -/
  | drawRecoverEnd (p : Fin 32)
  /-- At tick 0 after drawdown ends, paused requests return to WAITING. R311. -/
  | drawResume (p : Fin 32)
  /-- A hidden-row packet is placed in the stage, discarded, or retried. R548. -/
  | hrow (h : HRowPkt)
  /-- A pass's whole stage reservation is granted once room exists. R325. -/
  | stageGrant
  /-- A VPROJ or VGRAD BACK waiting on a full plane queue is queued once room exists. R327. -/
  | planeQueueRoom (p : Fin 32)
  /-- The plane starts the earliest eligible operation pass and forms any step group. R328. -/
  | planePassStart
  /-- A unit's last panel completes; its row-blocks are finished and logits written. R334. -/
  | planeUnitDone (unit : Nat) (mismatch : Bool)
  /-- A spare tile takes the failed tile's logical number and re-runs the unit. R475. -/
  | tileSpareSwap
  /-- An operation pass completes, with its AUTO sampling tail, records and reservation release. R331. -/
  | planePassEnd
  /-- LOAD reads and checks a grammar image. R369. -/
  | gramLoad (path : Path) (id : BitVec 10)
  /-- UNLOAD clears residence and waits for no request to name the grammar. R369. -/
  | gramUnload (path : Path) (id : BitVec 10)
  /-- A grammar command completes with its ERR code. R369. -/
  | gramCmdDone
  /-- A random-bit request is answered with mask bits or rejected. R402. -/
  | bitRequest (port : Fin 8) (bytes : List Byte) (crcOk : Bool)
  /-- A read of the probe word returns the generator word after the jump. R410. -/
  | readProbeWord (path : Path)
  /-- The jump matrices have been rebuilt into shadow RAM and jumps resume. R485. -/
  | romRebuildDone
  /-- Spilled records move to their ring as slots free. R425. -/
  | spillDrain (p : Fin 32) (ring : Option (Fin 256))
  /-- A ring's oldest unwritten record has waited DRAIN beats. R427. -/
  | drainLate (p : Fin 32) (ring : Option (Fin 256))
  /-- ANNOUNCE puts a version into an EMPTY slot as LOADING. R434. -/
  | announce (path : Path) (p : Fin 32) (version : BitVec 16)
  /-- RETIRE empties a LOADING slot or sets a RESIDENT slot DRAINING. R436. -/
  | retire (path : Path) (p : Fin 32) (version : BitVec 16)
  /-- Software reports a non-finite layer for the next vote. R445. -/
  | nfReport (path : Path) (p : Fin 32) (v : Word)
  /-- ABORT discards a group's commands and returns it to IDLE. R453. -/
  | abort (path : Path)
  /-- CLEAR returns a FAILED group to IDLE. R453. -/
  | clear (path : Path)
  /-- A memory-port read or write response is accepted and completes its transaction or raises its error outcome. R463. -/
  | memResponse (id : Nat) (resp : MemResp)
  /-- An unanswered memory transaction reaches its limit and the port fails. R537. -/
  | memWatchdog (id : MemFail)
  /-- HELLO brings a channel UP with credits, or restarts it. R539. -/
  | kdlHello (chan : Fin 68) (credits : Word)
  /-- DONE reports a group's completion of a step, or answers an ABANDON. R543. -/
  | kdlDone (chan : Fin 68) (m : KdlMsg)
  /-- ERROR causes the step to be re-sent or fails the channel. R544. -/
  | kdlError (chan : Fin 68) (m : KdlMsg)
  /-- The host returns a descriptor credit to a channel. R539. -/
  | kdlCreditReturn (chan : Fin 68)
  /-- The scrubber completes a pass, sparing rows and checking the jump ROM. R471. -/
  | scrubPass (findings : List ScrubFinding) (romOk : Bool)
  /-- A core that has not issued for 65,536 cycles is declared failed. R477. -/
  | coreStall (p : CoreFail)
  /-- A spare core has loaded every context from the mirror and resumes them. R477. -/
  | coreFailoverDone (p : Fin 32)
  /-- A spare semaphore slice finishes copying and held operations resume. R479. -/
  | sliceCopyDone (slice : Fin 32)
  /-- Software writes a fault-ring consumer index. R486. -/
  | fltHead (path : Path) (p : Fin 32) (v : Word)
  /-- Software writes the engine fault-ring consumer index. R486. -/
  | efrHead (path : Path) (v : Word)
  /-- A droop detector trips and stretches its domains to s = 8. R493. -/
  | droopTrip (det : Fin 64)
  /-- The hold count completes and the release starts. R493. -/
  | droopHoldDone (det : Fin 64)
  /-- s rises by 1 every STEP cycles up to 16. R493. -/
  | droopReleaseStep (det : Fin 64)
  /-- Every controller period, the plane's duty is updated against its budget. R496. -/
  | budgetPeriod (lpl total : Nat)
  /-- The sensor hub samples every sensor each millisecond. R509. -/
  | sensorSample (values : SensSample)
  /-- A core kicks its watchdog; a booting core's first kick makes it STANDBY or ACTIVE. R505. -/
  | kick (core : Fin 2)
  /-- A management core's watchdog expires and the core fails. R505. -/
  | mgmtWatchdog (core : Fin 2)
  /-- A residue check, or an SRAM check, fails a management core. R505. -/
  | mgmtCoreFault (core : Fin 2) (sram : Bool)
  /-- A booting core fails to kick within BOOT_LIMIT and is rebooted or marked FAILED. R506. -/
  | bootLimitExpiry (core : Fin 2)
  /-- RESTART resets and boots both management cores. R507. -/
  | restart (path : Path)
  /-- The ACTIVE core copies log entries to flash. R513. -/
  | logMirror
  /-- A held KEEP entry enters the log once a slot frees. R512. -/
  | logKeepRetry
  /-- Software writes the host log ring's consumer index. R511. -/
  | hlogHead (path : Path) (v : Word)
  /-- STAGE checks an image and writes it to the non-boot slot. R518. -/
  | stage (path : Path)
  /-- ACTIVATE_UCODE loads microcode into a free bank and schedules bank switches. R518. -/
  | activateUcode (path : Path)
  /-- ACTIVATE_MGMT boots the standby core on the new image and swaps roles. R520. -/
  | activateMgmt (path : Path)
  /-- CONFIRM marks a slot CONFIRMED and raises the minimum SVN. R518. -/
  | confirm (path : Path)
  /-- REVERT switches partitions to the other microcode bank. R518. -/
  | revert (path : Path)
  /-- An update command completes with its ERR code and is logged. R518. -/
  | updCmdDone
  /-- Marionette writes a level that sets AGREED at the next tick 0. R523. -/
  | levelSet (path : Path) (level : BitVec 16)
  /-- At each negotiation period the engine sends its SUPPORTED level. R524. -/
  | negArriveSend
  /-- The home counts a negotiation ARRIVE and releases the lowest level. R524. -/
  | negArrive (m : RmMsg)
  /-- A negotiation RELEASE schedules a change of AGREED. R525. -/
  | negRelease (m : RmMsg)
  /-- At beat EFFECTIVE, AGREED changes and the change is logged. R525. -/
  | levelEffective
  /-- Strings reads the control window, an SRAM or the context mirror. R527. -/
  | stringsRead (src : StringsSrc) (space : BitVec 2) (addr : Dword)
  /-- Strings writes a space and the write is logged. R528. -/
  | stringsWrite (src : StringsSrc) (space : BitVec 2) (addr : Dword) (data : Dword)
  /-- Capture-DR loads the Strings register from the WX_DBG registers. R557. -/
  | jtagCaptureDr
  /-- Update-DR writes data and address and may start a Strings operation. R557. -/
  | jtagUpdateDr (bits : BitVec 160)
  /-- The mid-bit transition of frame bit 95 arrives; a LOCKED follower starts the predicted beat at once, or an early edge
  cuts the tick short under R34. R29. -/
  | onTimeEdge (interval : Nat)
  /-- The start-up check of the jump ROM against its CRC completes, setting ROM_OK or ROM_ERR, and start-up moves on to
  booting the management cores. R562. -/
  | jumpRomCheckDone (crcOk : Bool)
  /-- The block loses power; every state except flash and host memory is lost and the isolated outputs hold low, with
  wx_ready_o falling without ENGINE_ABSENT headers being written. R533. -/
  | powerLoss
  /-- An upstream Dispatch Link message with a bad CRC, a reserved TYPE, non-zero reserved bytes or a bad HELLO CREDITS is
  discarded and counted, and two in a row fail the channel. R542. -/
  | upBad (chan : Fin 68)
  /-- A remote message whose flit CRC fails is discarded and counted in WX_GLB_RM_DROP, and one of reserved type or with
  non-zero reserved bits is rejected under R188. R553. -/
  | rmDrop (port : Fin 4) (crcBad : Bool) (part : Fin 32)
  /-- The host returns an outbound flit credit on a hidden-state port's VC, letting waiting GRAD, RETRY or bit-response
  packets leave. R545. -/
  | hsCreditReturn (port : Fin 8) (vc : Fin 2)
  /-- The fabric returns a flit credit for one class on a remote message port's outbound direction, letting held messages
  leave. R550. -/
  | rmCreditReturn (port : Fin 4) (cls : Fin 4)
  /-- The TAP's instruction register is updated, selecting BYPASS, IDCODE or the STRINGS data register. R557. -/
  | jtagUpdateIr (code : BitVec 8)
  /-- wx_jtag_trst_n_i is asserted and resets the TAP only. R557. -/
  | jtagTrst
  deriving DecidableEq, Repr

end Sys2Proof
end

