-- ==== Sys2Proof/Decode.lean ====
section
/-! DEFINITION. The decoder of table words, and the split of an instruction word into the command of its fetch (R88 to R90, R109). No row of spec/opcode_table.json gives a command any bits: the commands are register accesses, messages and events, and no table word spells one. -/

namespace Sys2Proof

/-- The command that a word spells by the table's bits: none, since no row gives bits. -/
def decodeTableWord (_nbits _w : Nat) : Option Instr := none

/-! ## Instruction words (R88, R89, R90) -/

/-- MAJOR and MINOR of an instruction word (R88, R89). -/
def wordMajor (w : BitVec 64) : BitVec 6 := w.extractLsb' 58 6
def wordMinor (w : BitVec 64) : BitVec 8 := w.extractLsb' 32 8

/-- The fields that a word gives the instruction of a context (R88): DST, SRCA, SRCB, PRED and EXT below MINOR. -/
def Ins.ofWord (p : Fin 32) (c : Fin 16) (w : BitVec 64) : Ins :=
  { part := p, ctx := c, dst := w.extractLsb' 53 5, srca := w.extractLsb' 48 5, srcb := w.extractLsb' 43 5,
    pred := w.extractLsb' 40 3, ext := w.extractLsb' 0 32 }

/-- Scalar instructions by MAJOR and MINOR (R90, R109). -/
def scalarOps : List (Nat × Nat × (Ins → Instr)) :=
  [(0x01, 0x00, .add), (0x01, 0x01, .sub), (0x01, 0x02, .iAnd), (0x01, 0x03, .iOr), (0x01, 0x04, .xor),
    (0x01, 0x05, .sll), (0x01, 0x06, .srl), (0x01, 0x07, .sra), (0x01, 0x08, .mul), (0x01, 0x09, .mulhu),
    (0x01, 0x0A, .divu), (0x01, 0x0B, .remu), (0x01, 0x0C, .div), (0x01, 0x0D, .rem), (0x01, 0x0E, .min),
    (0x01, 0x0F, .max), (0x01, 0x10, .minu), (0x01, 0x11, .maxu), (0x02, 0x00, .addi), (0x02, 0x01, .subi),
    (0x02, 0x02, .andi), (0x02, 0x03, .ori), (0x02, 0x04, .xori), (0x02, 0x05, .slli), (0x02, 0x06, .srli),
    (0x02, 0x07, .srai), (0x02, 0x08, .muli), (0x02, 0x0A, .divui), (0x02, 0x0B, .remui), (0x02, 0x0C, .divi),
    (0x02, 0x0D, .remi), (0x02, 0x0E, .mini), (0x02, 0x0F, .maxi), (0x02, 0x10, .minui), (0x02, 0x11, .maxui),
    (0x03, 0x00, .ceq), (0x03, 0x01, .cne), (0x03, 0x02, .clt), (0x03, 0x03, .cge), (0x03, 0x04, .cltu),
    (0x03, 0x05, .cgeu), (0x04, 0x00, .ceqi), (0x04, 0x01, .cnei), (0x04, 0x02, .clti), (0x04, 0x03, .cgei),
    (0x04, 0x04, .cltui), (0x04, 0x05, .cgeui), (0x05, 0x00, .mfsr), (0x05, 0x01, .mtsr), (0x06, 0x00, .pand),
    (0x06, 0x01, .por), (0x06, 0x02, .pxor), (0x06, 0x03, .pandn), (0x07, 0x00, .lih), (0x08, 0x00, .fadd),
    (0x08, 0x01, .fsub), (0x08, 0x02, .fmul), (0x08, 0x03, .fdiv), (0x08, 0x04, .fmin), (0x08, 0x05, .fmax),
    (0x08, 0x06, .fcvti), (0x08, 0x07, .ftrunc)]

/-- Register jumps by MAJOR and MINOR (R90, R109). -/
def jumpOps : List (Nat × Nat × (Ins → Instr)) :=
  [(0x12, 0x00, .jr)]

/-- Request table and ledgers by MAJOR and MINOR (R90, R109). -/
def memOps : List (Nat × Nat × (Ins → Instr)) :=
  [(0x18, 0x00, .rqld), (0x19, 0x00, .rqst), (0x1A, 0x00, .rqcas), (0x1B, 0x00, .ledgRd), (0x1B, 0x01, .ledgChg),
    (0x1B, 0x02, .ledgTry), (0x1B, 0x03, .ledgCrd)]

/-- Scheduling by MAJOR and MINOR (R90, R109). -/
def schedOps : List (Nat × Nat × (Ins → Instr)) :=
  [(0x1C, 0x00, .enq), (0x1D, 0x00, .deq), (0x1E, 0x00, .dly), (0x1F, 0x00, .yield), (0x1F, 0x01, .yieldPrio)]

/-- Synchronization and time by MAJOR and MINOR (R90, R109). -/
def syncOps : List (Nat × Nat × (Ins → Instr)) :=
  [(0x20, 0x00, .swait), (0x20, 0x01, .swaitp), (0x21, 0x00, .sadd), (0x22, 0x00, .ssub), (0x23, 0x00, .sbar),
    (0x24, 0x00, .sigr), (0x25, 0x00, .smapShared), (0x25, 0x01, .smapPrivate), (0x25, 0x02, .smapInvalid),
    (0x26, 0x00, .twaitAbs), (0x26, 0x01, .twaitRel), (0x27, 0x00, .tatAbs), (0x27, 0x01, .tatRel),
    (0x27, 0x02, .tatDisarm)]

/-- Batch by MAJOR and MINOR (R90, R109). -/
def batchOps : List (Nat × Nat × (Ins → Instr)) :=
  [(0x28, 0x00, .bopenGen), (0x28, 0x01, .bopenLearn), (0x29, 0x00, .baddq), (0x2A, 0x00, .bseal),
    (0x2B, 0x00, .bissue)]

/-- Vector and logit instructions by MAJOR and MINOR (R90, R109). -/
def vectorOps : List (Nat × Nat × (Ins → Instr)) :=
  [(0x2C, 0x00, .vbind), (0x2D, 0x00, .vadd), (0x2D, 0x01, .vsub), (0x2D, 0x02, .vmul), (0x2D, 0x03, .vmax),
    (0x2D, 0x04, .vmin), (0x2D, 0x05, .vcopy), (0x2E, 0x00, .vcvt), (0x2F, 0x00, .vredSum), (0x2F, 0x01, .vredMax),
    (0x2F, 0x02, .vredMin), (0x2F, 0x03, .vredArgmax), (0x30, 0x00, .vprojMain), (0x31, 0x00, .vmaskBits),
    (0x31, 0x01, .vmaskGrammar), (0x31, 0x02, .vmaskAllow), (0x32, 0x00, .vpenBias), (0x32, 0x01, .vpenPenalty),
    (0x33, 0x00, .vtemp), (0x34, 0x00, .vtopk), (0x35, 0x00, .vtopp), (0x36, 0x00, .vgmx), (0x37, 0x00, .vlse),
    (0x38, 0x00, .vlprob), (0x39, 0x00, .vgradRow), (0x39, 0x01, .vgradBack)]

/-- Stream, version and control by MAJOR and MINOR (R90, R109). -/
def endOps : List (Nat × Nat × (Ins → Instr)) :=
  [(0x3C, 0x00, .emitToken), (0x3C, 0x01, .emitFinal), (0x3D, 0x00, .wvpinPin), (0x3D, 0x01, .wvpinUnpin),
    (0x3E, 0x00, .trap), (0x3E, 0x01, .halt)]

/-- The instructions whose MINOR is a fixed value. -/
def minorOps : List (Nat × Nat × (Ins → Instr)) :=
  scalarOps ++ jumpOps ++ memOps ++ schedOps ++ syncOps ++ batchOps ++ vectorOps ++ endOps

/-- The instruction of a MAJOR and a fixed MINOR, if R109's tables list one. -/
def minorOp (major minor : Nat) : Option (Ins → Instr) :=
  (minorOps.find? fun x => decide (x.1 = major) && decide (x.2.1 = minor)).map fun x => x.2.2

/-- A MAJOR and MINOR that name an instruction (R90, R109): the J form has no MINOR, context memory takes its SIZE, SIGNED
and STORE from MINOR (R115) and VPROJ its head (R138). -/
def assigned (major minor : Nat) : Bool :=
  decide (major = 0x10) || decide (major = 0x11) || decide (major = 0x14) || decide (major = 0x15) ||
    (decide (major = 0x30) && decide (minor ≤ 8)) || (minorOp major minor).isSome

/-- The command of the fetch of a word by a context (R88): the instruction that MAJOR and MINOR name, with the fields of its
form; a word that names none comes with them in `odd` (R90). (DESIGN CHOICE, assumption log 13) -/
def Instr.ofWord (p : Fin 32) (c : Fin 16) (w : BitVec 64) : Instr :=
  let i := Ins.ofWord p c w
  let major := (wordMajor w).toNat
  let minor := wordMinor w
  if major = 0x10 then .br i (w.extractLsb' 0 40)
  else if major = 0x11 then .call i (w.extractLsb' 0 40)
  else if major = 0x14 then (if minor.getLsbD 3 then .sts i minor else .lds i minor)
  else if major = 0x15 then (if minor.getLsbD 3 then .std i minor else .ldd i minor)
  else if major = 0x30 ∧ 1 ≤ minor.toNat ∧ minor.toNat ≤ 8 then .vprojJet i (Fin.ofNat 8 (minor.toNat - 1))
  else match minorOp major minor.toNat with
    | some op => op i
    | none => .halt { i with odd := some (wordMajor w, minor) }

end Sys2Proof
end

