-- ==== Sys2Proof/Config.lean ====
section
/-! DEFINITION. What an implementation fixes and the values that the spec leaves open: constants with no body, so that no proof can see what they are. -/

namespace Sys2Proof.Config

/-- Which item of a ready list DEQ takes is not defined (R122, R155): the pick for the n-th draw. (DESIGN CHOICE, assumption
log 17) -/
opaque freePick : Nat → Nat

/-- A 64-bit value that the spec leaves open, at the n-th draw. (DESIGN CHOICE, assumption logs 27, 29; DESIGN CHOICE,
assumption logs 56, 96) -/
opaque freeWord : Nat → BitVec 64

/-- The fused SHA-384 hash of the public key of each key slot (R518). (DESIGN CHOICE, assumption log 23) -/
opaque keyHash : Fin 4 → BitVec 384

/-- Whether a key slot is revoked (R518). (DESIGN CHOICE, assumption log 23) -/
opaque keyRevoked : Fin 4 → Bool

/-- wx_jtag_idcode_i, which the integrator ties (R557). (DESIGN CHOICE, assumption log 23) -/
opaque idcode : BitVec 32

/-- The open part of the opaque token that TAT returns (R131), at the n-th draw. (DESIGN CHOICE, assumption log 18) -/
opaque freeToken : Nat → BitVec 30

/-- Where the shared scale of a block of an MX vector in SCRATCH or DEVICE space stands (R84 does not say): the byte
address for a format, base, element count and block number. (DESIGN CHOICE, assumption log 24) -/
opaque mxScaleAt : Nat → Nat → Nat → Nat → Nat

/-- Where element k of an MXFP8 hidden row of H elements stands in the row's bytes (R216 gives only their number). (DESIGN
CHOICE, assumption log 24) -/
opaque hidElemAt : Nat → Nat → Nat

/-- Where the scale of block k of an MXFP8 hidden row of H elements stands. (DESIGN CHOICE, assumption log 24) -/
opaque hidScaleAt : Nat → Nat → Nat

/-- The UNIT kind code of an engine fault record (R483 gives no values): 0 for no unit, then in the order of R482. (DESIGN
CHOICE, assumption log 23) -/
opaque unitCode : Nat → Nat

/-- The structure id of an engine fault record (R483 gives no values): 0 for none. (DESIGN CHOICE, assumption log 23) -/
opaque structId : Nat → Nat

/-- The SRAM banks that the block has, the rows of each beyond its first 64, and the words of every SRAM together. (DESIGN
CHOICE, assumption log 23) -/
opaque bankCount : Nat
opaque bankMore : Nat → Nat
opaque sramWords : Nat

/-- The rows of a bank. Each bank holds spare rows (R472), so it has 64 rows at least. (DESIGN CHOICE, assumption log 23) -/
def bankRows (bank : Nat) : Nat := 64 + bankMore bank

/-- The spare rows of a bank: one for every 64 rows (R472). -/
def bankSpares (bank : Nat) : Nat := bankRows bank / 64

/-- The syndrome of an uncorrectable error and the word address where the finding names none (R483 asks for both), by the
structure and the index of the record. (DESIGN CHOICE, assumption log 118) -/
opaque syndrome : Nat → Nat → BitVec 32
opaque faultWord : Nat → Nat → BitVec 64

/-- The words of the structure that an id of engine fault records names (R527 gives no extents). (DESIGN CHOICE, assumption
log 23) -/
opaque structWords : Nat → Nat

end Sys2Proof.Config
end

