-- ==== Sys2Proof/Machine/KMap.lean ====
section
/-! DEFINITION. Reading and writing sparse data (KMap) in its one canonical form: keys strictly rising and no entry equal to what an unlisted key reads as, so that equal contents are equal data. -/

namespace Sys2Proof.Machine

/-- The value at a key; an unlisted key reads as `d`. -/
def kget {α : Type} (d : α) : KMap α → Nat → α
  | [], _ => d
  | (k, v) :: r, n => if k = n then v else kget d r n

/-- The map without the key. -/
def kdel {α : Type} (m : KMap α) (n : Nat) : KMap α := m.filter fun e => decide (e.1 ≠ n)

/-- An entry put in key order into a map that does not list its key. -/
def kins {α : Type} (n : Nat) (v : α) : KMap α → KMap α
  | [] => [(n, v)]
  | (k, w) :: r => if n < k then (n, v) :: (k, w) :: r else (k, w) :: kins n v r

/-- Write a key: writing what an unlisted key reads as removes the entry. -/
def kset {α : Type} [DecidableEq α] (d : α) (m : KMap α) (n : Nat) (v : α) : KMap α :=
  if v = d then kdel m n else kins n v (kdel m n)

/-- Change the value at a key. -/
def kmod {α : Type} [DecidableEq α] (d : α) (m : KMap α) (n : Nat) (f : α → α) : KMap α :=
  kset d m n (f (kget d m n))

/-- Change every value of a map, in canonical form. -/
def kmapAll {α : Type} [DecidableEq α] (d : α) (m : KMap α) (f : α → α) : KMap α :=
  (m.map fun x => (x.1, f x.2)).filter fun x => decide (x.2 ≠ d)

/-- The canonical form. -/
def kwf {α : Type} [DecidableEq α] (d : α) : KMap α → Bool
  | [] => true
  | (k, v) :: r => decide (v ≠ d) && (r.all fun e => decide (k < e.1)) && kwf d r

/-- The bits `hi` down to `lo` of a number. -/
def bitsOf (v hi lo : Nat) : Nat := v / 2 ^ lo % 2 ^ (hi + 1 - lo)

/-- A number with its bits `hi` down to `lo` replaced. -/
def putBits (v hi lo n : Nat) : Nat :=
  v - bitsOf v hi lo * 2 ^ lo + n % 2 ^ (hi + 1 - lo) * 2 ^ lo

/-- `n` bytes of a number, least significant first (R5). -/
def leBytes (n v : Nat) : List Byte := (List.range n).map fun i => BitVec.ofNat 8 (v / 256 ^ i)

/-- The number that bytes hold, least significant first (R5). -/
def ofLe : List Byte → Nat
  | [] => 0
  | b :: r => b.toNat + 256 * ofLe r

/-- The bytes of a record from an offset on. -/
def bytesAt (l : List Byte) (o n : Nat) : List Byte := (l.drop o).take n

/-- The little-endian field of a record (R5). -/
def fieldAt (l : List Byte) (o n : Nat) : Nat := ofLe (bytesAt l o n)

/-- Sign extension of the low `w` bits. -/
def signed (w v : Nat) : Int :=
  let u := v % 2 ^ w
  if u < 2 ^ (w - 1) then u else (u : Int) - 2 ^ w

/-- An integer taken modulo 2^w. -/
def wrap (w : Nat) (i : Int) : Nat := (i % (2 ^ w : Int)).toNat

/-- Division rounding up. -/
def ceilDiv (a b : Nat) : Nat := (a + b - 1) / b

/-- The least `k` with 2^k at least `n`. -/
def clog2 (n : Nat) : Nat := if n ≤ 1 then 0 else Nat.log2 (n - 1) + 1

/-- The position of the lowest set bit of the low `w` bits, if one is set. -/
def lowBit (w v : Nat) : Option Nat := (List.range w).find? fun i => v.testBit i

/-- The number of set bits among the low `w` bits. -/
def popCount (w v : Nat) : Nat := ((List.range w).filter fun i => v.testBit i).length

/-- Put an element into a sorted list, after those that do not rank behind it. -/
def insertBy {α : Type} (lt : α → α → Bool) (x : α) : List α → List α
  | [] => [x]
  | y :: r => if lt x y then x :: y :: r else y :: insertBy lt x r

/-- A stable sort. -/
def sortBy {α : Type} (lt : α → α → Bool) (l : List α) : List α := l.foldl (fun s x => insertBy lt x s) []

end Sys2Proof.Machine
end

