-- ==== Sys2Proof/Machine/Regs.lean ====
section
/-! DEFINITION. The register map: one address function per register of the control window, and one row per register giving its access masks and its cold-reset word, transcribed from the register tables of spec/02 to spec/23 (R48, R74, R165, R197, R198, R224, R226, R261, R262, R290, R291, R317, R345, R373, R374, R391, R409, R410, R429, R430, R457, R458, R488, R489, R503, R530, R531, R565, R576) and checked against the index of R578. -/

namespace Sys2Proof.Machine

/-- One register (or array of registers) of the control window: its address for partition 0 and index 0, the
stride of the partitions (0 when the register is engine-wide), the length and stride of the array, the masks of
the access types of R8, the cold-reset word and what each partition adds to it (R578). -/
structure RegRow where
  base : Nat
  pstride : Nat
  count : Nat
  step : Nat
  rw : Nat
  rws : Nat
  w1c : Nat
  wo : Nat
  rst : Nat
  rstP : Nat
  deriving DecidableEq, Repr

namespace Reg

/-- WX_BEAT_CTRL -/ abbrev beatCtrl : Nat := 0x10000
/-- WX_BEAT_STATUS -/ abbrev beatStatus : Nat := 0x10004
/-- WX_BEAT_EVENT -/ abbrev beatEvent : Nat := 0x10008
/-- WX_BEAT_INT_EN -/ abbrev beatIntEn : Nat := 0x1000c
/-- WX_BEAT_NOW_LO -/ abbrev beatNowLo : Nat := 0x10010
/-- WX_BEAT_NOW_HI -/ abbrev beatNowHi : Nat := 0x10014
/-- WX_BEAT_PERIOD -/ abbrev beatPeriod : Nat := 0x10018
/-- WX_BEAT_MASTER_PERIOD -/ abbrev beatMasterPeriod : Nat := 0x1001c
/-- WX_BEAT_MASTER_START_LO -/ abbrev beatMasterStartLo : Nat := 0x10020
/-- WX_BEAT_MASTER_START_HI -/ abbrev beatMasterStartHi : Nat := 0x10024
/-- WX_BEAT_DELAY_COMP -/ abbrev beatDelayComp : Nat := 0x10028
/-- WX_BEAT_FREE_COUNT -/ abbrev beatFreeCount : Nat := 0x1002c
/-- WX_BEAT_MASTER_ID -/ abbrev beatMasterId : Nat := 0x10030
/-- WX_BEAT_OWN_ID -/ abbrev beatOwnId : Nat := 0x10034
/-- WX_BEAT_ERR_COUNT -/ abbrev beatErrCount : Nat := 0x10038
/-- WX_PART_CTRL -/ abbrev partCtrl (p : Nat) : Nat := 0x20000 + 0x400 * p
/-- WX_PART_STATUS -/ abbrev partStatus (p : Nat) : Nat := 0x20004 + 0x400 * p
/-- WX_PART_EVENT -/ abbrev partEvent (p : Nat) : Nat := 0x20008 + 0x400 * p
/-- WX_PART_INT_EN -/ abbrev partIntEn (p : Nat) : Nat := 0x2000c + 0x400 * p
/-- WX_PART_RQT -/ abbrev partRqt (p : Nat) : Nat := 0x20010 + 0x400 * p
/-- WX_PART_SEM -/ abbrev partSem (p : Nat) : Nat := 0x20014 + 0x400 * p
/-- WX_PART_LEDGER -/ abbrev partLedger (p : Nat) : Nat := 0x20018 + 0x400 * p
/-- WX_PART_DISP_LO -/ abbrev partDispLo (p : Nat) : Nat := 0x20020 + 0x400 * p
/-- WX_PART_DISP_HI -/ abbrev partDispHi (p : Nat) : Nat := 0x20024 + 0x400 * p
/-- WX_PART_SAVE_BASE_LO -/ abbrev partSaveBaseLo (p : Nat) : Nat := 0x20028 + 0x400 * p
/-- WX_PART_SAVE_BASE_HI -/ abbrev partSaveBaseHi (p : Nat) : Nat := 0x2002c + 0x400 * p
/-- WX_PART_CTX_ENTRY_LO -/ abbrev partCtxEntryLo (p : Nat) : Nat := 0x20030 + 0x400 * p
/-- WX_PART_CTX_ENTRY_HI -/ abbrev partCtxEntryHi (p : Nat) : Nat := 0x20034 + 0x400 * p
/-- WX_PART_RESET_TIMEOUT -/ abbrev partResetTimeout (p : Nat) : Nat := 0x20038 + 0x400 * p
/-- WX_PART_CTX_CMD -/ abbrev partCtxCmd (p : Nat) : Nat := 0x2003c + 0x400 * p
/-- WX_PART_CTX_STATE_LO -/ abbrev partCtxStateLo (p : Nat) : Nat := 0x20040 + 0x400 * p
/-- WX_PART_CTX_STATE_HI -/ abbrev partCtxStateHi (p : Nat) : Nat := 0x20044 + 0x400 * p
/-- WX_PART_CTX_PROGRESS_LO -/ abbrev partCtxProgressLo (p : Nat) : Nat := 0x20048 + 0x400 * p
/-- WX_PART_CTX_PROGRESS_HI -/ abbrev partCtxProgressHi (p : Nat) : Nat := 0x2004c + 0x400 * p
/-- WX_PART_DB_DROP -/ abbrev partDbDrop (p : Nat) : Nat := 0x20050 + 0x400 * p
/-- WX_SCHED_CTRL -/ abbrev schedCtrl (p : Nat) : Nat := 0x40000 + 0x100 * p
/-- WX_SCHED_PRIO[n] -/ abbrev schedPrio (p : Nat) (n : Nat) : Nat := 0x40004 + 0x100 * p + 4 * n
/-- WX_SCHED_RL_NONEMPTY -/ abbrev schedRlNonempty (p : Nat) : Nat := 0x40014 + 0x100 * p
/-- WX_SCHED_RL_FULL -/ abbrev schedRlFull (p : Nat) : Nat := 0x40018 + 0x100 * p
/-- WX_SCHED_DL_OCC[n] -/ abbrev schedDlOcc (p : Nat) (n : Nat) : Nat := 0x4001c + 0x100 * p + 4 * n
/-- WX_SCHED_DL_NEXT_LO -/ abbrev schedDlNextLo (p : Nat) : Nat := 0x4002c + 0x100 * p
/-- WX_SCHED_DL_NEXT_HI -/ abbrev schedDlNextHi (p : Nat) : Nat := 0x40030 + 0x100 * p
/-- WX_SCHED_EVENT -/ abbrev schedEvent (p : Nat) : Nat := 0x40034 + 0x100 * p
/-- WX_SCHED_INT_EN -/ abbrev schedIntEn (p : Nat) : Nat := 0x40038 + 0x100 * p
/-- WX_SCHED_LAG_LIMIT -/ abbrev schedLagLimit (p : Nat) : Nat := 0x4003c + 0x100 * p
/-- WX_SCHED_FULL_COUNT -/ abbrev schedFullCount (p : Nat) : Nat := 0x40040 + 0x100 * p
/-- WX_SCHED_STALL_COUNT -/ abbrev schedStallCount (p : Nat) : Nat := 0x40044 + 0x100 * p
/-- WX_SCHED_SWITCHES -/ abbrev schedSwitches (p : Nat) : Nat := 0x40048 + 0x100 * p
/-- WX_SCHED_PREEMPTS -/ abbrev schedPreempts (p : Nat) : Nat := 0x4004c + 0x100 * p
/-- WX_SYNC_CTRL -/ abbrev syncCtrl (p : Nat) : Nat := 0x50000 + 0x100 * p
/-- WX_SYNC_EVENT -/ abbrev syncEvent (p : Nat) : Nat := 0x50004 + 0x100 * p
/-- WX_SYNC_INT_EN -/ abbrev syncIntEn (p : Nat) : Nat := 0x50008 + 0x100 * p
/-- WX_SYNC_SAT_CLR -/ abbrev syncSatClr (p : Nat) : Nat := 0x5000c + 0x100 * p
/-- WX_SYNC_SAT_COUNT -/ abbrev syncSatCount (p : Nat) : Nat := 0x50010 + 0x100 * p
/-- WX_SYNC_TO_COUNT -/ abbrev syncToCount (p : Nat) : Nat := 0x50014 + 0x100 * p
/-- WX_SYNC_TO_LAST_ID -/ abbrev syncToLastId (p : Nat) : Nat := 0x50018 + 0x100 * p
/-- WX_SYNC_TO_LAST_PC_LO -/ abbrev syncToLastPcLo (p : Nat) : Nat := 0x5001c + 0x100 * p
/-- WX_SYNC_TO_LAST_PC_HI -/ abbrev syncToLastPcHi (p : Nat) : Nat := 0x50020 + 0x100 * p
/-- WX_SYNC_REALIGN -/ abbrev syncRealign (p : Nat) : Nat := 0x50024 + 0x100 * p
/-- WX_SYNC_DRIFT_COUNT -/ abbrev syncDriftCount (p : Nat) : Nat := 0x50028 + 0x100 * p
/-- WX_SYNC_REJ_COUNT -/ abbrev syncRejCount (p : Nat) : Nat := 0x5002c + 0x100 * p
/-- WX_SYNC_PARK_DROPS -/ abbrev syncParkDrops (p : Nat) : Nat := 0x50030 + 0x100 * p
/-- WX_SYNC_RA_CELL[n] -/ abbrev syncRaCell (p : Nat) (n : Nat) : Nat := 0x50040 + 0x100 * p + 8 * n
/-- WX_SYNC_RA_AMOUNT[n] -/ abbrev syncRaAmount (p : Nat) (n : Nat) : Nat := 0x50044 + 0x100 * p + 8 * n
/-- WX_SYNC_XB_CFG[n] -/ abbrev syncXbCfg (p : Nat) (n : Nat) : Nat := 0x500c0 + 0x100 * p + 16 * n
/-- WX_SYNC_XB_HOME[n] -/ abbrev syncXbHome (p : Nat) (n : Nat) : Nat := 0x500c4 + 0x100 * p + 16 * n
/-- WX_SYNC_XB_COUNT[n] -/ abbrev syncXbCount (p : Nat) (n : Nat) : Nat := 0x500c8 + 0x100 * p + 16 * n
/-- WX_SYNC_XB_STATUS[n] -/ abbrev syncXbStatus (p : Nat) (n : Nat) : Nat := 0x500cc + 0x100 * p + 16 * n
/-- WX_SYNC_ENGINE_ID -/ abbrev syncEngineId : Nat := 0x52000
/-- WX_SYNC_PARK_LIMIT -/ abbrev syncParkLimit : Nat := 0x52004
/-- WX_SYNC_PEND_OCC -/ abbrev syncPendOcc : Nat := 0x52008
/-- WX_SYNC_XFER_OCC -/ abbrev syncXferOcc : Nat := 0x5200c
/-- WX_SYNC_REJ_GLOBAL -/ abbrev syncRejGlobal : Nat := 0x52010
/-- WX_SYNC_MANUAL_CELL -/ abbrev syncManualCell : Nat := 0x52014
/-- WX_SYNC_MANUAL_VALUE -/ abbrev syncManualValue : Nat := 0x52018
/-- WX_SYNC_MANUAL_COUNT -/ abbrev syncManualCount : Nat := 0x5201c
/-- WX_SYNC_MANUAL_READ -/ abbrev syncManualRead : Nat := 0x52020
/-- WX_ADM_SQ_BASE_LO -/ abbrev admSqBaseLo (p : Nat) : Nat := 0x60000 + 0x100 * p
/-- WX_ADM_SQ_BASE_HI -/ abbrev admSqBaseHi (p : Nat) : Nat := 0x60004 + 0x100 * p
/-- WX_ADM_SQ_SIZE -/ abbrev admSqSize (p : Nat) : Nat := 0x60008 + 0x100 * p
/-- WX_ADM_RESERVE -/ abbrev admReserve (p : Nat) : Nat := 0x6000c + 0x100 * p
/-- WX_ADM_EVENT -/ abbrev admEvent (p : Nat) : Nat := 0x60010 + 0x100 * p
/-- WX_ADM_INT_EN -/ abbrev admIntEn (p : Nat) : Nat := 0x60014 + 0x100 * p
/-- WX_ADM_ADMITTED -/ abbrev admAdmitted (p : Nat) : Nat := 0x60018 + 0x100 * p
/-- WX_ADM_REJECTED -/ abbrev admRejected (p : Nat) : Nat := 0x6001c + 0x100 * p
/-- WX_ADM_LAST_REJECT -/ abbrev admLastReject (p : Nat) : Nat := 0x60020 + 0x100 * p
/-- WX_ADM_CANCEL_COUNT -/ abbrev admCancelCount (p : Nat) : Nat := 0x60024 + 0x100 * p
/-- WX_ADM_STALE_COUNT -/ abbrev admStaleCount (p : Nat) : Nat := 0x60028 + 0x100 * p
/-- WX_ADM_LIVE -/ abbrev admLive (p : Nat) : Nat := 0x6002c + 0x100 * p
/-- WX_ADM_MODEL_CFG[m] -/ abbrev admModelCfg (p : Nat) (n : Nat) : Nat := 0x60040 + 0x100 * p + 16 * n
/-- WX_ADM_MODEL_CTX[m] -/ abbrev admModelCtx (p : Nat) (n : Nat) : Nat := 0x60044 + 0x100 * p + 16 * n
/-- WX_ADM_MODEL_LIVE[m] -/ abbrev admModelLive (p : Nat) (n : Nat) : Nat := 0x60048 + 0x100 * p + 16 * n
/-- WX_ADM_PLAN[m] -/ abbrev admPlan (p : Nat) (n : Nat) : Nat := 0x6004c + 0x100 * p + 16 * n
/-- WX_ADM_ROW_CAP[m] -/ abbrev admRowCap (p : Nat) (n : Nat) : Nat := 0x600c0 + 0x100 * p + 4 * n
/-- WX_ADM_LEDGER_SEL -/ abbrev admLedgerSel : Nat := 0x62000
/-- WX_ADM_LEDGER_WEIGHT -/ abbrev admLedgerWeight : Nat := 0x62004
/-- WX_ADM_LEDGER_REFILL -/ abbrev admLedgerRefill : Nat := 0x62008
/-- WX_ADM_LEDGER_CAP -/ abbrev admLedgerCap : Nat := 0x6200c
/-- WX_ADM_LEDGER_FLOOR -/ abbrev admLedgerFloor : Nat := 0x62010
/-- WX_ADM_LEDGER_BAL_LO -/ abbrev admLedgerBalLo : Nat := 0x62014
/-- WX_ADM_LEDGER_BAL_HI -/ abbrev admLedgerBalHi : Nat := 0x62018
/-- WX_ADM_ECC_COUNT -/ abbrev admEccCount : Nat := 0x6201c
/-- WX_PAGE_CFG -/ abbrev pageCfg (p : Nat) : Nat := 0x80000 + 0x100 * p
/-- WX_PAGE_RANGE -/ abbrev pageRange (p : Nat) : Nat := 0x80004 + 0x100 * p
/-- WX_PAGE_NODES -/ abbrev pageNodes (p : Nat) : Nat := 0x80008 + 0x100 * p
/-- WX_PAGE_LIST_BASE_LO -/ abbrev pageListBaseLo (p : Nat) : Nat := 0x8000c + 0x100 * p
/-- WX_PAGE_LIST_BASE_HI -/ abbrev pageListBaseHi (p : Nat) : Nat := 0x80010 + 0x100 * p
/-- WX_PAGE_LIST_BLOCKS -/ abbrev pageListBlocks (p : Nat) : Nat := 0x80014 + 0x100 * p
/-- WX_PAGE_WATERMARK -/ abbrev pageWatermark (p : Nat) : Nat := 0x80018 + 0x100 * p
/-- WX_PAGE_CTRL -/ abbrev pageCtrl (p : Nat) : Nat := 0x8001c + 0x100 * p
/-- WX_PAGE_FREE -/ abbrev pageFree (p : Nat) : Nat := 0x80020 + 0x100 * p
/-- WX_PAGE_CACHED -/ abbrev pageCached (p : Nat) : Nat := 0x80024 + 0x100 * p
/-- WX_PAGE_LIST_FREE -/ abbrev pageListFree (p : Nat) : Nat := 0x80028 + 0x100 * p
/-- WX_PAGE_EVENT -/ abbrev pageEvent (p : Nat) : Nat := 0x8002c + 0x100 * p
/-- WX_PAGE_INT_EN -/ abbrev pageIntEn (p : Nat) : Nat := 0x80030 + 0x100 * p
/-- WX_PAGE_SHORT_COUNT -/ abbrev pageShortCount (p : Nat) : Nat := 0x80034 + 0x100 * p
/-- WX_PAGE_EVICTIONS -/ abbrev pageEvictions (p : Nat) : Nat := 0x80038 + 0x100 * p
/-- WX_PAGE_MATCHED -/ abbrev pageMatched (p : Nat) : Nat := 0x8003c + 0x100 * p
/-- WX_PAGE_COPIES -/ abbrev pageCopies (p : Nat) : Nat := 0x80040 + 0x100 * p
/-- WX_PAGE_INSERTS -/ abbrev pageInserts (p : Nat) : Nat := 0x80044 + 0x100 * p
/-- WX_PAGE_NODES_USED -/ abbrev pageNodesUsed (p : Nat) : Nat := 0x80048 + 0x100 * p
/-- WX_PAGE_ROOT[m] -/ abbrev pageRoot (p : Nat) (n : Nat) : Nat := 0x80080 + 0x100 * p + 4 * n
/-- WX_PAGE_POOL -/ abbrev pagePool : Nat := 0x82000
/-- WX_PAGE_PRT_BASE_LO -/ abbrev pagePrtBaseLo : Nat := 0x82004
/-- WX_PAGE_PRT_BASE_HI -/ abbrev pagePrtBaseHi : Nat := 0x82008
/-- WX_PAGE_NODE_BASE_LO -/ abbrev pageNodeBaseLo : Nat := 0x8200c
/-- WX_PAGE_NODE_BASE_HI -/ abbrev pageNodeBaseHi : Nat := 0x82010
/-- WX_PAGE_LP_TABLE_LO -/ abbrev pageLpTableLo : Nat := 0x82014
/-- WX_PAGE_LP_TABLE_HI -/ abbrev pageLpTableHi : Nat := 0x82018
/-- WX_PAGE_LP_RANGE -/ abbrev pageLpRange : Nat := 0x8201c
/-- WX_PAGE_LP_CMD -/ abbrev pageLpCmd : Nat := 0x82020
/-- WX_PAGE_LP_RESIDENT -/ abbrev pageLpResident : Nat := 0x82024
/-- WX_PAGE_NC_HITS -/ abbrev pageNcHits : Nat := 0x82028
/-- WX_PAGE_NC_MISSES -/ abbrev pageNcMisses : Nat := 0x8202c
/-- WX_WEIR_BUDGET -/ abbrev weirBudget (p : Nat) : Nat := 0x90000 + 0x100 * p
/-- WX_WEIR_CHUNK -/ abbrev weirChunk (p : Nat) : Nat := 0x90004 + 0x100 * p
/-- WX_WEIR_MIX -/ abbrev weirMix (p : Nat) : Nat := 0x90008 + 0x100 * p
/-- WX_WEIR_GCAP -/ abbrev weirGcap (p : Nat) : Nat := 0x9000c + 0x100 * p
/-- WX_WEIR_SEGMENT -/ abbrev weirSegment (p : Nat) : Nat := 0x90010 + 0x100 * p
/-- WX_WEIR_BUCKET -/ abbrev weirBucket (p : Nat) : Nat := 0x90014 + 0x100 * p
/-- WX_WEIR_ROLE -/ abbrev weirRole (p : Nat) : Nat := 0x90018 + 0x100 * p
/-- WX_WEIR_FIXED -/ abbrev weirFixed (p : Nat) : Nat := 0x9001c + 0x100 * p
/-- WX_WEIR_DWELL -/ abbrev weirDwell (p : Nat) : Nat := 0x90020 + 0x100 * p
/-- WX_WEIR_ROLE_STATUS -/ abbrev weirRoleStatus (p : Nat) : Nat := 0x90024 + 0x100 * p
/-- WX_WEIR_AGE -/ abbrev weirAge (p : Nat) : Nat := 0x90028 + 0x100 * p
/-- WX_WEIR_AGE_STATUS -/ abbrev weirAgeStatus (p : Nat) : Nat := 0x9002c + 0x100 * p
/-- WX_WEIR_OPEN -/ abbrev weirOpen (p : Nat) : Nat := 0x90030 + 0x100 * p
/-- WX_WEIR_EVENT -/ abbrev weirEvent (p : Nat) : Nat := 0x90034 + 0x100 * p
/-- WX_WEIR_INT_EN -/ abbrev weirIntEn (p : Nat) : Nat := 0x90038 + 0x100 * p
/-- WX_WEIR_SEALED -/ abbrev weirSealed (p : Nat) : Nat := 0x9003c + 0x100 * p
/-- WX_WEIR_ROWS -/ abbrev weirRows (p : Nat) : Nat := 0x90040 + 0x100 * p
/-- WX_WEIR_FORCED -/ abbrev weirForced (p : Nat) : Nat := 0x90044 + 0x100 * p
/-- WX_WEIR_REFUSED -/ abbrev weirRefused (p : Nat) : Nat := 0x90048 + 0x100 * p
/-- WX_WEIR_LAST_STEP_LO -/ abbrev weirLastStepLo (p : Nat) : Nat := 0x9004c + 0x100 * p
/-- WX_WEIR_LAST_STEP_HI -/ abbrev weirLastStepHi (p : Nat) : Nat := 0x90050 + 0x100 * p
/-- WX_WEIR_SEAL_BACKLOG -/ abbrev weirSealBacklog : Nat := 0x92000
/-- WX_WEIR_SEALS -/ abbrev weirSeals : Nat := 0x92004
/-- WX_LAT_CTRL -/ abbrev latCtrl (p : Nat) : Nat := 0xa0000 + 0x100 * p
/-- WX_LAT_DRAW_CTRL -/ abbrev latDrawCtrl (p : Nat) : Nat := 0xa0004 + 0x100 * p
/-- WX_LAT_DRAW_TIME -/ abbrev latDrawTime (p : Nat) : Nat := 0xa0008 + 0x100 * p
/-- WX_LAT_DRAW_RESUME -/ abbrev latDrawResume (p : Nat) : Nat := 0xa000c + 0x100 * p
/-- WX_LAT_DRAW_STATUS -/ abbrev latDrawStatus (p : Nat) : Nat := 0xa0010 + 0x100 * p
/-- WX_LAT_EVENT -/ abbrev latEvent (p : Nat) : Nat := 0xa0014 + 0x100 * p
/-- WX_LAT_INT_EN -/ abbrev latIntEn (p : Nat) : Nat := 0xa0018 + 0x100 * p
/-- WX_LAT_TTFT_VIOLS -/ abbrev latTtftViols (p : Nat) : Nat := 0xa001c + 0x100 * p
/-- WX_LAT_TBT_VIOLS -/ abbrev latTbtViols (p : Nat) : Nat := 0xa0020 + 0x100 * p
/-- WX_LAT_LATE -/ abbrev latLate (p : Nat) : Nat := 0xa0024 + 0x100 * p
/-- WX_LAT_DEADLINES -/ abbrev latDeadlines (p : Nat) : Nat := 0xa0028 + 0x100 * p
/-- WX_LAT_EXCUSED -/ abbrev latExcused (p : Nat) : Nat := 0xa002c + 0x100 * p
/-- WX_LAT_ALERTS -/ abbrev latAlerts (p : Nat) : Nat := 0xa0030 + 0x100 * p
/-- WX_LAT_FLOOR_CLIP -/ abbrev latFloorClip (p : Nat) : Nat := 0xa0034 + 0x100 * p
/-- WX_LAT_TTFT_WORST -/ abbrev latTtftWorst (p : Nat) : Nat := 0xa0038 + 0x100 * p
/-- WX_LAT_TBT_WORST -/ abbrev latTbtWorst (p : Nat) : Nat := 0xa003c + 0x100 * p
/-- WX_LPL_STATUS -/ abbrev lplStatus : Nat := 0xb0000
/-- WX_LPL_EVENT -/ abbrev lplEvent : Nat := 0xb0004
/-- WX_LPL_INT_EN -/ abbrev lplIntEn : Nat := 0xb0008
/-- WX_LPL_PROJS -/ abbrev lplProjs : Nat := 0xb000c
/-- WX_LPL_BACKS -/ abbrev lplBacks : Nat := 0xb0010
/-- WX_LPL_RESIDUE_COUNT -/ abbrev lplResidueCount : Nat := 0xb0014
/-- WX_LPL_REEXEC_COUNT -/ abbrev lplReexecCount : Nat := 0xb0018
/-- WX_LPL_NF_COUNT -/ abbrev lplNfCount : Nat := 0xb001c
/-- WX_LPL_NF_LAST -/ abbrev lplNfLast : Nat := 0xb0020
/-- WX_LPL_CYC_COMPUTE -/ abbrev lplCycCompute : Nat := 0xb0024
/-- WX_LPL_CYC_WEIGHT -/ abbrev lplCycWeight : Nat := 0xb0028
/-- WX_LPL_CYC_HIDDEN -/ abbrev lplCycHidden : Nat := 0xb002c
/-- WX_LPL_STAGE -/ abbrev lplStage : Nat := 0xb0030
/-- WX_LPL_QUEUE_HIGH -/ abbrev lplQueueHigh : Nat := 0xb0034
/-- WX_LPL_LAST_RESIDUE -/ abbrev lplLastResidue : Nat := 0xb0038
/-- WX_LPL_LAST_OP -/ abbrev lplLastOp : Nat := 0xb003c
/-- WX_SMP_CTRL -/ abbrev smpCtrl (p : Nat) : Nat := 0xc0000 + 0x100 * p
/-- WX_SMP_MASK_BASE_LO -/ abbrev smpMaskBaseLo (p : Nat) : Nat := 0xc0004 + 0x100 * p
/-- WX_SMP_MASK_BASE_HI -/ abbrev smpMaskBaseHi (p : Nat) : Nat := 0xc0008 + 0x100 * p
/-- WX_SMP_MASK_STRIDE -/ abbrev smpMaskStride (p : Nat) : Nat := 0xc000c + 0x100 * p
/-- WX_SMP_PEN_BASE_LO -/ abbrev smpPenBaseLo (p : Nat) : Nat := 0xc0010 + 0x100 * p
/-- WX_SMP_PEN_BASE_HI -/ abbrev smpPenBaseHi (p : Nat) : Nat := 0xc0014 + 0x100 * p
/-- WX_SMP_EVENT -/ abbrev smpEvent (p : Nat) : Nat := 0xc0018 + 0x100 * p
/-- WX_SMP_INT_EN -/ abbrev smpIntEn (p : Nat) : Nat := 0xc001c + 0x100 * p
/-- WX_SMP_SAMPLED -/ abbrev smpSampled (p : Nat) : Nat := 0xc0020 + 0x100 * p
/-- WX_SMP_GREEDY -/ abbrev smpGreedy (p : Nat) : Nat := 0xc0024 + 0x100 * p
/-- WX_SMP_DEAD -/ abbrev smpDead (p : Nat) : Nat := 0xc0028 + 0x100 * p
/-- WX_SMP_STOPS -/ abbrev smpStops (p : Nat) : Nat := 0xc002c + 0x100 * p
/-- WX_SMP_AUX_ERRS -/ abbrev smpAuxErrs (p : Nat) : Nat := 0xc0030 + 0x100 * p
/-- WX_SMP_UNSAMPLED_COUNT -/ abbrev smpUnsampledCount (p : Nat) : Nat := 0xc0034 + 0x100 * p
/-- WX_SMP_LAST_ERR_HANDLE -/ abbrev smpLastErrHandle (p : Nat) : Nat := 0xc0038 + 0x100 * p
/-- WX_SMP_LAST_ERR -/ abbrev smpLastErr (p : Nat) : Nat := 0xc003c + 0x100 * p
/-- WX_SMP_GRAM_CMD -/ abbrev smpGramCmd : Nat := 0xc2000
/-- WX_SMP_GRAM_ADDR_LO -/ abbrev smpGramAddrLo : Nat := 0xc2004
/-- WX_SMP_GRAM_ADDR_HI -/ abbrev smpGramAddrHi : Nat := 0xc2008
/-- WX_SMP_GRAM_PARTS -/ abbrev smpGramParts : Nat := 0xc200c
/-- WX_SMP_GRAM_PROG_LO -/ abbrev smpGramProgLo : Nat := 0xc2010
/-- WX_SMP_GRAM_PROG_HI -/ abbrev smpGramProgHi : Nat := 0xc2014
/-- WX_SMP_GRAM_RESIDENT -/ abbrev smpGramResident : Nat := 0xc2018
/-- WX_SMP_MB_BUILDS -/ abbrev smpMbBuilds : Nat := 0xc201c
/-- WX_SMP_MB_MISSES -/ abbrev smpMbMisses : Nat := 0xc2020
/-- WX_SPEC_CTRL -/ abbrev specCtrl (p : Nat) : Nat := 0xd0000 + 0x100 * p
/-- WX_SPEC_ADAPT -/ abbrev specAdapt (p : Nat) : Nat := 0xd0004 + 0x100 * p
/-- WX_SPEC_CAND_BASE_LO -/ abbrev specCandBaseLo (p : Nat) : Nat := 0xd0008 + 0x100 * p
/-- WX_SPEC_CAND_BASE_HI -/ abbrev specCandBaseHi (p : Nat) : Nat := 0xd000c + 0x100 * p
/-- WX_SPEC_EVENT -/ abbrev specEvent (p : Nat) : Nat := 0xd0010 + 0x100 * p
/-- WX_SPEC_INT_EN -/ abbrev specIntEn (p : Nat) : Nat := 0xd0014 + 0x100 * p
/-- WX_SPEC_VERIFIED -/ abbrev specVerified (p : Nat) : Nat := 0xd0018 + 0x100 * p
/-- WX_SPEC_DRAFTED -/ abbrev specDrafted (p : Nat) : Nat := 0xd001c + 0x100 * p
/-- WX_SPEC_ACCEPTED -/ abbrev specAccepted (p : Nat) : Nat := 0xd0020 + 0x100 * p
/-- WX_SPEC_WIDTH_CHG -/ abbrev specWidthChg (p : Nat) : Nat := 0xd0024 + 0x100 * p
/-- WX_SPEC_BREAKS -/ abbrev specBreaks (p : Nat) : Nat := 0xd0028 + 0x100 * p
/-- WX_SPEC_TREE[n] -/ abbrev specTree (p : Nat) (n : Nat) : Nat := 0xd0040 + 0x100 * p + 4 * n
/-- WX_RNG_SLOT_EN -/ abbrev rngSlotEn (p : Nat) : Nat := 0xe0000 + 0x100 * p
/-- WX_RNG_EVENT -/ abbrev rngEvent (p : Nat) : Nat := 0xe0004 + 0x100 * p
/-- WX_RNG_INT_EN -/ abbrev rngIntEn (p : Nat) : Nat := 0xe0008 + 0x100 * p
/-- WX_RNG_SVC_BITS -/ abbrev rngSvcBits (p : Nat) : Nat := 0xe000c + 0x100 * p
/-- WX_RNG_SVC_REJ -/ abbrev rngSvcRej (p : Nat) : Nat := 0xe0010 + 0x100 * p
/-- WX_RNG_K1_LO[n] -/ abbrev rngK1Lo (p : Nat) (n : Nat) : Nat := 0xe0080 + 0x100 * p + 16 * n
/-- WX_RNG_K1_HI[n] -/ abbrev rngK1Hi (p : Nat) (n : Nat) : Nat := 0xe0084 + 0x100 * p + 16 * n
/-- WX_RNG_K2_LO[n] -/ abbrev rngK2Lo (p : Nat) (n : Nat) : Nat := 0xe0088 + 0x100 * p + 16 * n
/-- WX_RNG_K2_HI[n] -/ abbrev rngK2Hi (p : Nat) (n : Nat) : Nat := 0xe008c + 0x100 * p + 16 * n
/-- WX_RNG_STATUS -/ abbrev rngStatus : Nat := 0xe2000
/-- WX_RNG_EVENT_G -/ abbrev rngEventG : Nat := 0xe2004
/-- WX_RNG_INT_EN_G -/ abbrev rngIntEnG : Nat := 0xe2008
/-- WX_RNG_PARITY_COUNT -/ abbrev rngParityCount : Nat := 0xe200c
/-- WX_RNG_PROBE_K1_LO -/ abbrev rngProbeK1Lo : Nat := 0xe2010
/-- WX_RNG_PROBE_K1_HI -/ abbrev rngProbeK1Hi : Nat := 0xe2014
/-- WX_RNG_PROBE_K2_LO -/ abbrev rngProbeK2Lo : Nat := 0xe2018
/-- WX_RNG_PROBE_K2_HI -/ abbrev rngProbeK2Hi : Nat := 0xe201c
/-- WX_RNG_PROBE_POS_LO -/ abbrev rngProbePosLo : Nat := 0xe2020
/-- WX_RNG_PROBE_POS_HI -/ abbrev rngProbePosHi : Nat := 0xe2024
/-- WX_RNG_PROBE_IDX_LO -/ abbrev rngProbeIdxLo : Nat := 0xe2028
/-- WX_RNG_PROBE_IDX_HI -/ abbrev rngProbeIdxHi : Nat := 0xe202c
/-- WX_RNG_PROBE_WORD -/ abbrev rngProbeWord : Nat := 0xe2030
/-- WX_RNG_SVC_REJ_GLOBAL -/ abbrev rngSvcRejGlobal : Nat := 0xe2034
/-- WX_SPOUT_CQ_BASE_LO -/ abbrev spoutCqBaseLo (p : Nat) : Nat := 0xf0000 + 0x100 * p
/-- WX_SPOUT_CQ_BASE_HI -/ abbrev spoutCqBaseHi (p : Nat) : Nat := 0xf0004 + 0x100 * p
/-- WX_SPOUT_CQ_SIZE -/ abbrev spoutCqSize (p : Nat) : Nat := 0xf0008 + 0x100 * p
/-- WX_SPOUT_TR_BASE_LO -/ abbrev spoutTrBaseLo (p : Nat) : Nat := 0xf000c + 0x100 * p
/-- WX_SPOUT_TR_BASE_HI -/ abbrev spoutTrBaseHi (p : Nat) : Nat := 0xf0010 + 0x100 * p
/-- WX_SPOUT_TR_CFG -/ abbrev spoutTrCfg (p : Nat) : Nat := 0xf0014 + 0x100 * p
/-- WX_SPOUT_SPILL_BASE_LO -/ abbrev spoutSpillBaseLo (p : Nat) : Nat := 0xf0018 + 0x100 * p
/-- WX_SPOUT_SPILL_BASE_HI -/ abbrev spoutSpillBaseHi (p : Nat) : Nat := 0xf001c + 0x100 * p
/-- WX_SPOUT_DRAIN -/ abbrev spoutDrain (p : Nat) : Nat := 0xf0020 + 0x100 * p
/-- WX_SPOUT_EVENT -/ abbrev spoutEvent (p : Nat) : Nat := 0xf0024 + 0x100 * p
/-- WX_SPOUT_INT_EN -/ abbrev spoutIntEn (p : Nat) : Nat := 0xf0028 + 0x100 * p
/-- WX_SPOUT_RECORDS -/ abbrev spoutRecords (p : Nat) : Nat := 0xf002c + 0x100 * p
/-- WX_SPOUT_SPILL_OCC -/ abbrev spoutSpillOcc (p : Nat) : Nat := 0xf0030 + 0x100 * p
/-- WX_SPOUT_DRAIN_LATE -/ abbrev spoutDrainLate (p : Nat) : Nat := 0xf0034 + 0x100 * p
/-- WX_SPOUT_PRIV_HELD -/ abbrev spoutPrivHeld (p : Nat) : Nat := 0xf0038 + 0x100 * p
/-- WX_SPOUT_PRIV_FREE -/ abbrev spoutPrivFree : Nat := 0xf2000
/-- WX_SPOUT_REFORMS -/ abbrev spoutReforms : Nat := 0xf2004
/-- WX_WLC_CTRL -/ abbrev wlcCtrl (p : Nat) : Nat := 0x100000 + 0x100 * p
/-- WX_WLC_VNEXT -/ abbrev wlcVnext (p : Nat) : Nat := 0x100004 + 0x100 * p
/-- WX_WLC_FAN_CFG -/ abbrev wlcFanCfg (p : Nat) : Nat := 0x100008 + 0x100 * p
/-- WX_WLC_VER_CMD -/ abbrev wlcVerCmd (p : Nat) : Nat := 0x10000c + 0x100 * p
/-- WX_WLC_SLOT[s] -/ abbrev wlcSlot (p : Nat) (n : Nat) : Nat := 0x100010 + 0x100 * p + 4 * n
/-- WX_WLC_FAN_PROG_LO -/ abbrev wlcFanProgLo (p : Nat) : Nat := 0x100020 + 0x100 * p
/-- WX_WLC_FAN_PROG_HI -/ abbrev wlcFanProgHi (p : Nat) : Nat := 0x100024 + 0x100 * p
/-- WX_WLC_VERDICT_CFG -/ abbrev wlcVerdictCfg (p : Nat) : Nat := 0x100028 + 0x100 * p
/-- WX_WLC_NF_REPORT -/ abbrev wlcNfReport (p : Nat) : Nat := 0x10002c + 0x100 * p
/-- WX_WLC_NF_STATUS -/ abbrev wlcNfStatus (p : Nat) : Nat := 0x100030 + 0x100 * p
/-- WX_WLC_ROUND -/ abbrev wlcRound (p : Nat) : Nat := 0x100034 + 0x100 * p
/-- WX_WLC_LAST_VERDICT -/ abbrev wlcLastVerdict (p : Nat) : Nat := 0x100038 + 0x100 * p
/-- WX_WLC_APPLIES -/ abbrev wlcApplies (p : Nat) : Nat := 0x10003c + 0x100 * p
/-- WX_WLC_SKIPS -/ abbrev wlcSkips (p : Nat) : Nat := 0x100040 + 0x100 * p
/-- WX_WLC_FROZEN_SUPP -/ abbrev wlcFrozenSupp (p : Nat) : Nat := 0x100044 + 0x100 * p
/-- WX_WLC_SKEWS -/ abbrev wlcSkews (p : Nat) : Nat := 0x100048 + 0x100 * p
/-- WX_WLC_EVENT -/ abbrev wlcEvent (p : Nat) : Nat := 0x10004c + 0x100 * p
/-- WX_WLC_INT_EN -/ abbrev wlcIntEn (p : Nat) : Nat := 0x100050 + 0x100 * p
/-- WX_WLC_PHASE_BASE_LO -/ abbrev wlcPhaseBaseLo (p : Nat) : Nat := 0x100054 + 0x100 * p
/-- WX_WLC_PHASE_BASE_HI -/ abbrev wlcPhaseBaseHi (p : Nat) : Nat := 0x100058 + 0x100 * p
/-- WX_WLC_PHASE_CFG -/ abbrev wlcPhaseCfg (p : Nat) : Nat := 0x10005c + 0x100 * p
/-- WX_WLC_PHASE_IDX -/ abbrev wlcPhaseIdx (p : Nat) : Nat := 0x100060 + 0x100 * p
/-- WX_WLC_ECHO_LIMIT -/ abbrev wlcEchoLimit (p : Nat) : Nat := 0x100064 + 0x100 * p
/-- WX_WLC_GRP_SEL -/ abbrev wlcGrpSel : Nat := 0x102000
/-- WX_WLC_GRP_CFG -/ abbrev wlcGrpCfg : Nat := 0x102004
/-- WX_WLC_GRP_LAYER -/ abbrev wlcGrpLayer : Nat := 0x102008
/-- WX_WLC_GRP_SHARD_LO -/ abbrev wlcGrpShardLo : Nat := 0x10200c
/-- WX_WLC_GRP_SHARD_HI -/ abbrev wlcGrpShardHi : Nat := 0x102010
/-- WX_WLC_GRP_SHARDS -/ abbrev wlcGrpShards : Nat := 0x102014
/-- WX_WLC_GRP_LR -/ abbrev wlcGrpLr : Nat := 0x102018
/-- WX_WLC_GRP_STEP -/ abbrev wlcGrpStep : Nat := 0x10201c
/-- WX_WLC_GRP_STATUS -/ abbrev wlcGrpStatus : Nat := 0x102020
/-- WX_WLC_GRP_CMD -/ abbrev wlcGrpCmd : Nat := 0x102024
/-- WX_WLC_STALE_ECHO -/ abbrev wlcStaleEcho : Nat := 0x102028
/-- WX_INT_FLT_BASE_LO -/ abbrev intFltBaseLo (p : Nat) : Nat := 0x110000 + 0x100 * p
/-- WX_INT_FLT_BASE_HI -/ abbrev intFltBaseHi (p : Nat) : Nat := 0x110004 + 0x100 * p
/-- WX_INT_FLT_CFG -/ abbrev intFltCfg (p : Nat) : Nat := 0x110008 + 0x100 * p
/-- WX_INT_FLT_TAIL -/ abbrev intFltTail (p : Nat) : Nat := 0x11000c + 0x100 * p
/-- WX_INT_FLT_HEAD -/ abbrev intFltHead (p : Nat) : Nat := 0x110010 + 0x100 * p
/-- WX_INT_FLT_LOST -/ abbrev intFltLost (p : Nat) : Nat := 0x110014 + 0x100 * p
/-- WX_INT_SPARES -/ abbrev intSpares : Nat := 0x112000
/-- WX_INT_EVENT -/ abbrev intEvent : Nat := 0x112004
/-- WX_INT_INT_EN -/ abbrev intIntEn : Nat := 0x112008
/-- WX_INT_SCRUB -/ abbrev intScrub : Nat := 0x11200c
/-- WX_INT_SCRUB_PROG_LO -/ abbrev intScrubProgLo : Nat := 0x112010
/-- WX_INT_SCRUB_PROG_HI -/ abbrev intScrubProgHi : Nat := 0x112014
/-- WX_INT_CE_COUNT -/ abbrev intCeCount : Nat := 0x112018
/-- WX_INT_UE_COUNT -/ abbrev intUeCount : Nat := 0x11201c
/-- WX_INT_ROWS -/ abbrev intRows : Nat := 0x112020
/-- WX_INT_EFR_BASE_LO -/ abbrev intEfrBaseLo : Nat := 0x112024
/-- WX_INT_EFR_BASE_HI -/ abbrev intEfrBaseHi : Nat := 0x112028
/-- WX_INT_EFR_CFG -/ abbrev intEfrCfg : Nat := 0x11202c
/-- WX_INT_EFR_TAIL -/ abbrev intEfrTail : Nat := 0x112030
/-- WX_INT_EFR_HEAD -/ abbrev intEfrHead : Nat := 0x112034
/-- WX_INT_EFR_LOST -/ abbrev intEfrLost : Nat := 0x112038
/-- WX_INT_CTRL -/ abbrev intCtrl : Nat := 0x11203c
/-- WX_INT_CE_LIMIT -/ abbrev intCeLimit : Nat := 0x112040
/-- WX_PWR_CTRL -/ abbrev pwrCtrl : Nat := 0x120000
/-- WX_PWR_LPL_BUDGET -/ abbrev pwrLplBudget : Nat := 0x120004
/-- WX_PWR_CORE_LEND -/ abbrev pwrCoreLend : Nat := 0x120008
/-- WX_PWR_STATUS -/ abbrev pwrStatus : Nat := 0x12000c
/-- WX_PWR_MEAS -/ abbrev pwrMeas : Nat := 0x120010
/-- WX_PWR_DROOP_CFG -/ abbrev pwrDroopCfg : Nat := 0x120014
/-- WX_PWR_DROOP_SEL -/ abbrev pwrDroopSel : Nat := 0x120018
/-- WX_PWR_DROOP_COUNT -/ abbrev pwrDroopCount : Nat := 0x12001c
/-- WX_PWR_THERM -/ abbrev pwrTherm : Nat := 0x120020
/-- WX_PWR_EVENT -/ abbrev pwrEvent : Nat := 0x120024
/-- WX_PWR_INT_EN -/ abbrev pwrIntEn : Nat := 0x120028
/-- WX_PWR_ACT_SEL -/ abbrev pwrActSel : Nat := 0x12002c
/-- WX_PWR_ACT_BUSY -/ abbrev pwrActBusy : Nat := 0x120030
/-- WX_PWR_ACT_TOTAL -/ abbrev pwrActTotal : Nat := 0x120034
/-- WX_PWR_ACT_STRETCH -/ abbrev pwrActStretch : Nat := 0x120038
/-- WX_PWR_GATED -/ abbrev pwrGated : Nat := 0x12003c
/-- WX_PWR_LENT -/ abbrev pwrLent : Nat := 0x120040
/-- WX_MGMT_CTRL -/ abbrev mgmtCtrl : Nat := 0x130000
/-- WX_MGMT_STATUS -/ abbrev mgmtStatus : Nat := 0x130004
/-- WX_MGMT_EVENT -/ abbrev mgmtEvent : Nat := 0x130008
/-- WX_MGMT_INT_EN -/ abbrev mgmtIntEn : Nat := 0x13000c
/-- WX_MGMT_WDT -/ abbrev mgmtWdt : Nat := 0x130010
/-- WX_MGMT_KICK -/ abbrev mgmtKick : Nat := 0x130014
/-- WX_MGMT_BOOT_LIMIT -/ abbrev mgmtBootLimit : Nat := 0x130018
/-- WX_MGMT_BOOT_COUNT -/ abbrev mgmtBootCount : Nat := 0x13001c
/-- WX_MGMT_LOG_SEQ -/ abbrev mgmtLogSeq : Nat := 0x130020
/-- WX_MGMT_LOG_MIRRORED -/ abbrev mgmtLogMirrored : Nat := 0x130024
/-- WX_MGMT_LOG_OCC -/ abbrev mgmtLogOcc : Nat := 0x130028
/-- WX_MGMT_LOG_LOST -/ abbrev mgmtLogLost : Nat := 0x13002c
/-- WX_MGMT_HLOG_BASE_LO -/ abbrev mgmtHlogBaseLo : Nat := 0x130030
/-- WX_MGMT_HLOG_BASE_HI -/ abbrev mgmtHlogBaseHi : Nat := 0x130034
/-- WX_MGMT_HLOG_CFG -/ abbrev mgmtHlogCfg : Nat := 0x130038
/-- WX_MGMT_HLOG_TAIL -/ abbrev mgmtHlogTail : Nat := 0x13003c
/-- WX_MGMT_HLOG_HEAD -/ abbrev mgmtHlogHead : Nat := 0x130040
/-- WX_MGMT_SENS_SEL -/ abbrev mgmtSensSel : Nat := 0x130044
/-- WX_MGMT_SENS_VAL -/ abbrev mgmtSensVal : Nat := 0x130048
/-- WX_MGMT_UPD_ADDR_LO -/ abbrev mgmtUpdAddrLo : Nat := 0x13004c
/-- WX_MGMT_UPD_ADDR_HI -/ abbrev mgmtUpdAddrHi : Nat := 0x130050
/-- WX_MGMT_UPD_CMD -/ abbrev mgmtUpdCmd : Nat := 0x130054
/-- WX_MGMT_UPD_PARTS -/ abbrev mgmtUpdParts : Nat := 0x130058
/-- WX_MGMT_UPD_STATUS -/ abbrev mgmtUpdStatus : Nat := 0x13005c
/-- WX_MGMT_UCODE_BANK -/ abbrev mgmtUcodeBank : Nat := 0x130060
/-- WX_MGMT_UPD_PROG_LO -/ abbrev mgmtUpdProgLo : Nat := 0x130064
/-- WX_MGMT_UPD_PROG_HI -/ abbrev mgmtUpdProgHi : Nat := 0x130068
/-- WX_MGMT_RQ_SEL -/ abbrev mgmtRqSel : Nat := 0x13006c
/-- WX_MGMT_RQ_PROG_LO -/ abbrev mgmtRqProgLo : Nat := 0x130070
/-- WX_MGMT_RQ_PROG_HI -/ abbrev mgmtRqProgHi : Nat := 0x130074
/-- WX_MGMT_LEVEL -/ abbrev mgmtLevel : Nat := 0x130078
/-- WX_MGMT_LEVEL_SET -/ abbrev mgmtLevelSet : Nat := 0x13007c
/-- WX_MGMT_NEG_CFG -/ abbrev mgmtNegCfg : Nat := 0x130080
/-- WX_MGMT_NEG_COUNT -/ abbrev mgmtNegCount : Nat := 0x130084
/-- WX_MGMT_NEG_TIME -/ abbrev mgmtNegTime : Nat := 0x130088
/-- WX_MGMT_NEG_STATUS -/ abbrev mgmtNegStatus : Nat := 0x13008c
/-- WX_MGMT_NEG_EFF_LO -/ abbrev mgmtNegEffLo : Nat := 0x130090
/-- WX_MGMT_NEG_EFF_HI -/ abbrev mgmtNegEffHi : Nat := 0x130094
/-- WX_DBG_CTRL -/ abbrev dbgCtrl : Nat := 0x140000
/-- WX_DBG_CMD -/ abbrev dbgCmd : Nat := 0x140004
/-- WX_DBG_ADDR_LO -/ abbrev dbgAddrLo : Nat := 0x140008
/-- WX_DBG_ADDR_HI -/ abbrev dbgAddrHi : Nat := 0x14000c
/-- WX_DBG_DATA_LO -/ abbrev dbgDataLo : Nat := 0x140010
/-- WX_DBG_DATA_HI -/ abbrev dbgDataHi : Nat := 0x140014
/-- WX_DBG_WRITES -/ abbrev dbgWrites : Nat := 0x140018
/-- WX_DBG_STATUS -/ abbrev dbgStatus : Nat := 0x14001c
/-- WX_GLB_RESET -/ abbrev glbReset : Nat := 0x1000
/-- WX_GLB_STATUS -/ abbrev glbStatus : Nat := 0x1004
/-- WX_GLB_RESET_CAUSE -/ abbrev glbResetCause : Nat := 0x1008
/-- WX_GLB_WARM_COUNT -/ abbrev glbWarmCount : Nat := 0x100c
/-- WX_GLB_WDT -/ abbrev glbWdt : Nat := 0x1010
/-- WX_GLB_AXI_CFG -/ abbrev glbAxiCfg : Nat := 0x1014
/-- WX_GLB_PORT_FAILED -/ abbrev glbPortFailed : Nat := 0x1018
/-- WX_GLB_KDL_UP_LO -/ abbrev glbKdlUpLo : Nat := 0x101c
/-- WX_GLB_KDL_UP_MID -/ abbrev glbKdlUpMid : Nat := 0x1020
/-- WX_GLB_KDL_UP_HI -/ abbrev glbKdlUpHi : Nat := 0x1024
/-- WX_GLB_KDL_ERR -/ abbrev glbKdlErr : Nat := 0x1028
/-- WX_GLB_HS_DROP -/ abbrev glbHsDrop : Nat := 0x102c
/-- WX_GLB_RM_DROP -/ abbrev glbRmDrop : Nat := 0x1030
/-- WX_GLB_EVENT -/ abbrev glbEvent : Nat := 0x1034
/-- WX_GLB_INT_EN -/ abbrev glbIntEn : Nat := 0x1038
/-- WX_GLB_LINK_CREDITS -/ abbrev glbLinkCredits : Nat := 0x103c
/-- WX_GLB_ID -/ abbrev glbId : Nat := 0x0
/-- WX_GLB_CONTRACT -/ abbrev glbContract : Nat := 0x4
/-- WX_GLB_DISC_PART -/ abbrev glbDiscPart : Nat := 0x10
/-- WX_GLB_DISC_TILE -/ abbrev glbDiscTile : Nat := 0x14
/-- WX_GLB_DISC_CORE -/ abbrev glbDiscCore : Nat := 0x18
/-- WX_GLB_DISC_CHAN -/ abbrev glbDiscChan : Nat := 0x1c
/-- WX_GLB_DISC_RQT -/ abbrev glbDiscRqt : Nat := 0x20
/-- WX_GLB_DISC_SYNC -/ abbrev glbDiscSync : Nat := 0x24
/-- WX_GLB_DISC_SCHED -/ abbrev glbDiscSched : Nat := 0x28
/-- WX_GLB_DISC_PAGE -/ abbrev glbDiscPage : Nat := 0x2c
/-- WX_GLB_DISC_LPL -/ abbrev glbDiscLpl : Nat := 0x30
/-- WX_GLB_DISC_SMP -/ abbrev glbDiscSmp : Nat := 0x34
/-- WX_GLB_DISC_MISC -/ abbrev glbDiscMisc : Nat := 0x38
/-- WX_GLB_DISC_PORTS -/ abbrev glbDiscPorts : Nat := 0x3c
/-- WX_GLB_DISC_PODS -/ abbrev glbDiscPods : Nat := 0x40
/-- WX_GLB_SCRATCH -/ abbrev glbScratch : Nat := 0x44

end Reg

/-- The rows of the WX_BEAT registers. -/
def rowsBeat : List RegRow := [
  ⟨0x10000, 0x0, 1, 0, 0x0, 0x3, 0x0, 0x0, 0x0, 0⟩,
  ⟨0x10004, 0x0, 1, 0, 0x0, 0x0, 0x0, 0x0, 0x0, 0⟩,
  ⟨0x10008, 0x0, 1, 0, 0x0, 0x0, 0x1ff, 0x0, 0x0, 0⟩,
  ⟨0x1000c, 0x0, 1, 0, 0x0, 0x1ff, 0x0, 0x0, 0x107, 0⟩,
  ⟨0x10010, 0x0, 1, 0, 0x0, 0x0, 0x0, 0x0, 0x0, 0⟩,
  ⟨0x10014, 0x0, 1, 0, 0x0, 0x0, 0x0, 0x0, 0x0, 0⟩,
  ⟨0x10018, 0x0, 1, 0, 0x0, 0x0, 0x0, 0x0, 0x0, 0⟩,
  ⟨0x1001c, 0x0, 1, 0, 0x0, 0x7fffff, 0x0, 0x0, 0xc350, 0⟩,
  ⟨0x10020, 0x0, 1, 0, 0x0, 0xffffffff, 0x0, 0x0, 0x0, 0⟩,
  ⟨0x10024, 0x0, 1, 0, 0x0, 0xffff, 0x0, 0x0, 0x0, 0⟩,
  ⟨0x10028, 0x0, 1, 0, 0x0, 0xffff, 0x0, 0x0, 0x0, 0⟩,
  ⟨0x1002c, 0x0, 1, 0, 0x0, 0x0, 0x0, 0x0, 0x0, 0⟩,
  ⟨0x10030, 0x0, 1, 0, 0x0, 0x0, 0x0, 0x0, 0x0, 0⟩,
  ⟨0x10034, 0x0, 1, 0, 0x0, 0xffff, 0x0, 0x0, 0x0, 0⟩,
  ⟨0x10038, 0x0, 1, 0, 0x0, 0x0, 0x0, 0x0, 0x0, 0⟩]

/-- The rows of the WX_PART registers. -/
def rowsPart : List RegRow := [
  ⟨0x20000, 0x400, 1, 0, 0x0, 0x1, 0x0, 0x2, 0x0, 0⟩,
  ⟨0x20004, 0x400, 1, 0, 0x0, 0x0, 0x0, 0x0, 0x0, 0⟩,
  ⟨0x20008, 0x400, 1, 0, 0x0, 0x0, 0x7f, 0x0, 0x0, 0⟩,
  ⟨0x2000c, 0x400, 1, 0, 0x0, 0x7f, 0x0, 0x0, 0x39, 0⟩,
  ⟨0x20010, 0x400, 1, 0, 0x0, 0xff007f, 0x0, 0x0, 0x40000, 4⟩,
  ⟨0x20014, 0x400, 1, 0, 0x0, 0x1ff00ff, 0x0, 0x0, 0x80000, 8⟩,
  ⟨0x20018, 0x400, 1, 0, 0x0, 0x1ff00ff, 0x0, 0x0, 0x80000, 8⟩,
  ⟨0x20020, 0x400, 1, 0, 0x0, 0xffffffff, 0x0, 0x0, 0x0, 0⟩,
  ⟨0x20024, 0x400, 1, 0, 0x0, 0xffffffff, 0x0, 0x0, 0x0, 0⟩,
  ⟨0x20028, 0x400, 1, 0, 0x0, 0xffff0000, 0x0, 0x0, 0x0, 0⟩,
  ⟨0x2002c, 0x400, 1, 0, 0x0, 0xffffffff, 0x0, 0x0, 0x0, 0⟩,
  ⟨0x20030, 0x400, 1, 0, 0x0, 0xfffffff8, 0x0, 0x0, 0x0, 0⟩,
  ⟨0x20034, 0x400, 1, 0, 0x0, 0xffffffff, 0x0, 0x0, 0x0, 0⟩,
  ⟨0x20038, 0x400, 1, 0, 0x0, 0xffff, 0x0, 0x0, 0x40, 0⟩,
  ⟨0x2003c, 0x400, 1, 0, 0xf, 0x0, 0x0, 0x700, 0x0, 0⟩,
  ⟨0x20040, 0x400, 1, 0, 0x0, 0x0, 0x0, 0x0, 0x0, 0⟩,
  ⟨0x20044, 0x400, 1, 0, 0x0, 0x0, 0x0, 0x0, 0x0, 0⟩,
  ⟨0x20048, 0x400, 1, 0, 0x0, 0x0, 0x0, 0x0, 0x0, 0⟩,
  ⟨0x2004c, 0x400, 1, 0, 0x0, 0x0, 0x0, 0x0, 0x0, 0⟩,
  ⟨0x20050, 0x400, 1, 0, 0x0, 0x0, 0x0, 0x0, 0x0, 0⟩]

/-- The rows of the WX_SCHED registers. -/
def rowsSched : List RegRow := [
  ⟨0x40000, 0x100, 1, 0, 0x0, 0xffff0001, 0x0, 0x0, 0x400001, 0⟩,
  ⟨0x40004, 0x100, 4, 4, 0x0, 0x1f1f1f1f, 0x0, 0x0, 0x10101010, 0⟩,
  ⟨0x40014, 0x100, 1, 0, 0x0, 0x0, 0x0, 0x0, 0x0, 0⟩,
  ⟨0x40018, 0x100, 1, 0, 0x0, 0x0, 0x0, 0x0, 0x0, 0⟩,
  ⟨0x4001c, 0x100, 4, 4, 0x0, 0x0, 0x0, 0x0, 0x0, 0⟩,
  ⟨0x4002c, 0x100, 1, 0, 0x0, 0x0, 0x0, 0x0, 0x0, 0⟩,
  ⟨0x40030, 0x100, 1, 0, 0x0, 0x0, 0x0, 0x0, 0x0, 0⟩,
  ⟨0x40034, 0x100, 1, 0, 0x0, 0x0, 0xf, 0x0, 0x0, 0⟩,
  ⟨0x40038, 0x100, 1, 0, 0x0, 0xf, 0x0, 0x0, 0xc, 0⟩,
  ⟨0x4003c, 0x100, 1, 0, 0x0, 0xffff, 0x0, 0x0, 0x20, 0⟩,
  ⟨0x40040, 0x100, 1, 0, 0x0, 0x0, 0x0, 0x0, 0x0, 0⟩,
  ⟨0x40044, 0x100, 1, 0, 0x0, 0x0, 0x0, 0x0, 0x0, 0⟩,
  ⟨0x40048, 0x100, 1, 0, 0x0, 0x0, 0x0, 0x0, 0x0, 0⟩,
  ⟨0x4004c, 0x100, 1, 0, 0x0, 0x0, 0x0, 0x0, 0x0, 0⟩]

/-- The rows of the WX_SYNC registers. -/
def rowsSync : List RegRow := [
  ⟨0x50000, 0x100, 1, 0, 0x0, 0xffff, 0x0, 0x0, 0x800, 0⟩,
  ⟨0x50004, 0x100, 1, 0, 0x0, 0x0, 0x7f, 0x0, 0x0, 0⟩,
  ⟨0x50008, 0x100, 1, 0, 0x0, 0x7f, 0x0, 0x0, 0x5d, 0⟩,
  ⟨0x5000c, 0x100, 1, 0, 0x0, 0x0, 0x0, 0xffff, 0x0, 0⟩,
  ⟨0x50010, 0x100, 1, 0, 0x0, 0x0, 0x0, 0x0, 0x0, 0⟩,
  ⟨0x50014, 0x100, 1, 0, 0x0, 0x0, 0x0, 0x0, 0x0, 0⟩,
  ⟨0x50018, 0x100, 1, 0, 0x0, 0x0, 0x0, 0x0, 0x0, 0⟩,
  ⟨0x5001c, 0x100, 1, 0, 0x0, 0x0, 0x0, 0x0, 0x0, 0⟩,
  ⟨0x50020, 0x100, 1, 0, 0x0, 0x0, 0x0, 0x0, 0x0, 0⟩,
  ⟨0x50024, 0x100, 1, 0, 0x0, 0xffff, 0x0, 0x0, 0x0, 0⟩,
  ⟨0x50028, 0x100, 1, 0, 0x0, 0x0, 0x0, 0x0, 0x0, 0⟩,
  ⟨0x5002c, 0x100, 1, 0, 0x0, 0x0, 0x0, 0x0, 0x0, 0⟩,
  ⟨0x50030, 0x100, 1, 0, 0x0, 0x0, 0x0, 0x0, 0x0, 0⟩,
  ⟨0x50040, 0x100, 16, 8, 0x0, 0x8000ffff, 0x0, 0x0, 0x0, 0⟩,
  ⟨0x50044, 0x100, 16, 8, 0x0, 0xffffffff, 0x0, 0x0, 0x0, 0⟩,
  ⟨0x500c0, 0x100, 4, 16, 0x0, 0xc01fffff, 0x0, 0x0, 0x0, 0⟩,
  ⟨0x500c4, 0x100, 4, 16, 0x0, 0xffffffff, 0x0, 0x0, 0x0, 0⟩,
  ⟨0x500c8, 0x100, 4, 16, 0x0, 0xffffffff, 0x0, 0x0, 0x0, 0⟩,
  ⟨0x500cc, 0x100, 4, 16, 0x0, 0x0, 0x0, 0x0, 0x0, 0⟩,
  ⟨0x52000, 0x0, 1, 0, 0x0, 0xffff, 0x0, 0x0, 0x0, 0⟩,
  ⟨0x52004, 0x0, 1, 0, 0x0, 0xffff, 0x0, 0x0, 0x1000, 0⟩,
  ⟨0x52008, 0x0, 1, 0, 0x0, 0x0, 0x0, 0x0, 0x0, 0⟩,
  ⟨0x5200c, 0x0, 1, 0, 0x0, 0x0, 0x0, 0x0, 0x0, 0⟩,
  ⟨0x52010, 0x0, 1, 0, 0x0, 0x0, 0x0, 0x0, 0x0, 0⟩,
  ⟨0x52014, 0x0, 1, 0, 0xffff, 0x0, 0x0, 0xc0000000, 0x0, 0⟩,
  ⟨0x52018, 0x0, 1, 0, 0xffffffff, 0x0, 0x0, 0x0, 0x0, 0⟩,
  ⟨0x5201c, 0x0, 1, 0, 0x0, 0x0, 0x0, 0x0, 0x0, 0⟩,
  ⟨0x52020, 0x0, 1, 0, 0x0, 0x0, 0x0, 0x0, 0x0, 0⟩]

/-- The rows of the WX_ADM registers. -/
def rowsAdm : List RegRow := [
  ⟨0x60000, 0x100, 1, 0, 0x0, 0xfffff000, 0x0, 0x0, 0x0, 0⟩,
  ⟨0x60004, 0x100, 1, 0, 0x0, 0xffffffff, 0x0, 0x0, 0x0, 0⟩,
  ⟨0x60008, 0x100, 1, 0, 0x0, 0x1f, 0x0, 0x0, 0xa, 0⟩,
  ⟨0x6000c, 0x100, 1, 0, 0x0, 0xffffff, 0x0, 0x0, 0x100, 0⟩,
  ⟨0x60010, 0x100, 1, 0, 0x0, 0x0, 0x1f, 0x0, 0x0, 0⟩,
  ⟨0x60014, 0x100, 1, 0, 0x0, 0x1f, 0x0, 0x0, 0x1c, 0⟩,
  ⟨0x60018, 0x100, 1, 0, 0x0, 0x0, 0x0, 0x0, 0x0, 0⟩,
  ⟨0x6001c, 0x100, 1, 0, 0x0, 0x0, 0x0, 0x0, 0x0, 0⟩,
  ⟨0x60020, 0x100, 1, 0, 0x0, 0x0, 0x0, 0x0, 0x0, 0⟩,
  ⟨0x60024, 0x100, 1, 0, 0x0, 0x0, 0x0, 0x0, 0x0, 0⟩,
  ⟨0x60028, 0x100, 1, 0, 0x0, 0x0, 0x0, 0x0, 0x0, 0⟩,
  ⟨0x6002c, 0x100, 1, 0, 0x0, 0x0, 0x0, 0x0, 0x0, 0⟩,
  ⟨0x60040, 0x100, 8, 16, 0x0, 0xff0001ff, 0x0, 0x0, 0x0, 0⟩,
  ⟨0x60044, 0x100, 8, 16, 0x0, 0x1fffff, 0x0, 0x0, 0x0, 0⟩,
  ⟨0x60048, 0x100, 8, 16, 0x0, 0x3ffff, 0x0, 0x0, 0x0, 0⟩,
  ⟨0x6004c, 0x100, 8, 16, 0x0, 0x0, 0x0, 0x0, 0x0, 0⟩,
  ⟨0x600c0, 0x100, 8, 4, 0x0, 0x0, 0x0, 0x0, 0x0, 0⟩,
  ⟨0x62000, 0x0, 1, 0, 0x1fff, 0x0, 0x0, 0x0, 0x0, 0⟩,
  ⟨0x62004, 0x0, 1, 0, 0x0, 0xffffffff, 0x0, 0x0, 0x10001, 0⟩,
  ⟨0x62008, 0x0, 1, 0, 0x0, 0xffffffff, 0x0, 0x0, 0xffffffff, 0⟩,
  ⟨0x6200c, 0x0, 1, 0, 0x0, 0xffffffff, 0x0, 0x0, 0xffffffff, 0⟩,
  ⟨0x62010, 0x0, 1, 0, 0x0, 0xffffffff, 0x0, 0x0, 0x0, 0⟩,
  ⟨0x62014, 0x0, 1, 0, 0x0, 0xffffffff, 0x0, 0x0, 0x0, 0⟩,
  ⟨0x62018, 0x0, 1, 0, 0x0, 0xff, 0x0, 0x0, 0x0, 0⟩,
  ⟨0x6201c, 0x0, 1, 0, 0x0, 0x0, 0x0, 0x0, 0x0, 0⟩]

/-- The rows of the WX_PAGE registers. -/
def rowsPage : List RegRow := [
  ⟨0x80000, 0x100, 1, 0, 0x0, 0x3, 0x0, 0x0, 0x1, 0⟩,
  ⟨0x80004, 0x100, 1, 0, 0x0, 0x1fff0fff, 0x0, 0x0, 0x800000, 128⟩,
  ⟨0x80008, 0x100, 1, 0, 0x0, 0x1fff0fff, 0x0, 0x0, 0x800000, 128⟩,
  ⟨0x8000c, 0x100, 1, 0, 0x0, 0xfffff000, 0x0, 0x0, 0x0, 0⟩,
  ⟨0x80010, 0x100, 1, 0, 0x0, 0xffffffff, 0x0, 0x0, 0x0, 0⟩,
  ⟨0x80014, 0x100, 1, 0, 0x0, 0xffffff, 0x0, 0x0, 0x0, 0⟩,
  ⟨0x80018, 0x100, 1, 0, 0x0, 0xffffff, 0x0, 0x0, 0x400, 0⟩,
  ⟨0x8001c, 0x100, 1, 0, 0x0, 0x0, 0x0, 0x1, 0x0, 0⟩,
  ⟨0x80020, 0x100, 1, 0, 0x0, 0x0, 0x0, 0x0, 0x0, 0⟩,
  ⟨0x80024, 0x100, 1, 0, 0x0, 0x0, 0x0, 0x0, 0x0, 0⟩,
  ⟨0x80028, 0x100, 1, 0, 0x0, 0x0, 0x0, 0x0, 0x0, 0⟩,
  ⟨0x8002c, 0x100, 1, 0, 0x0, 0x0, 0xf, 0x0, 0x0, 0⟩,
  ⟨0x80030, 0x100, 1, 0, 0x0, 0xf, 0x0, 0x0, 0xc, 0⟩,
  ⟨0x80034, 0x100, 1, 0, 0x0, 0x0, 0x0, 0x0, 0x0, 0⟩,
  ⟨0x80038, 0x100, 1, 0, 0x0, 0x0, 0x0, 0x0, 0x0, 0⟩,
  ⟨0x8003c, 0x100, 1, 0, 0x0, 0x0, 0x0, 0x0, 0x0, 0⟩,
  ⟨0x80040, 0x100, 1, 0, 0x0, 0x0, 0x0, 0x0, 0x0, 0⟩,
  ⟨0x80044, 0x100, 1, 0, 0x0, 0x0, 0x0, 0x0, 0x0, 0⟩,
  ⟨0x80048, 0x100, 1, 0, 0x0, 0x0, 0x0, 0x0, 0x0, 0⟩,
  ⟨0x80080, 0x100, 8, 4, 0x0, 0x0, 0x0, 0x0, 0xfffffff, 0⟩,
  ⟨0x82000, 0x0, 1, 0, 0x0, 0x1ffffff, 0x0, 0x0, 0x1000000, 0⟩,
  ⟨0x82004, 0x0, 1, 0, 0x0, 0xfffff000, 0x0, 0x0, 0x0, 0⟩,
  ⟨0x82008, 0x0, 1, 0, 0x0, 0xffffffff, 0x0, 0x0, 0x0, 0⟩,
  ⟨0x8200c, 0x0, 1, 0, 0x0, 0xfffff000, 0x0, 0x0, 0x0, 0⟩,
  ⟨0x82010, 0x0, 1, 0, 0x0, 0xffffffff, 0x0, 0x0, 0x0, 0⟩,
  ⟨0x82014, 0x0, 1, 0, 0x0, 0xfffff000, 0x0, 0x0, 0x0, 0⟩,
  ⟨0x82018, 0x0, 1, 0, 0x0, 0xffffffff, 0x0, 0x0, 0x0, 0⟩,
  ⟨0x8201c, 0x0, 1, 0, 0x0, 0x1fff0fff, 0x0, 0x0, 0x0, 0⟩,
  ⟨0x82020, 0x0, 1, 0, 0xffff, 0x0, 0x0, 0x3000000, 0x0, 0⟩,
  ⟨0x82024, 0x0, 1, 0, 0x0, 0x0, 0x0, 0x0, 0x0, 0⟩,
  ⟨0x82028, 0x0, 1, 0, 0x0, 0x0, 0x0, 0x0, 0x0, 0⟩,
  ⟨0x8202c, 0x0, 1, 0, 0x0, 0x0, 0x0, 0x0, 0x0, 0⟩]

/-- The rows of the WX_WEIR registers. -/
def rowsWeir : List RegRow := [
  ⟨0x90000, 0x100, 1, 0, 0x0, 0x7fff, 0x0, 0x0, 0x200, 0⟩,
  ⟨0x90004, 0x100, 1, 0, 0x0, 0x7fff, 0x0, 0x0, 0x100, 0⟩,
  ⟨0x90008, 0x100, 1, 0, 0x0, 0x7fff7fff, 0x0, 0x0, 0x0, 0⟩,
  ⟨0x9000c, 0x100, 1, 0, 0x0, 0x7fff, 0x0, 0x0, 0x0, 0⟩,
  ⟨0x90010, 0x100, 1, 0, 0x0, 0x7fff, 0x0, 0x0, 0x1000, 0⟩,
  ⟨0x90014, 0x100, 1, 0, 0x0, 0xffffffff, 0x0, 0x0, 0xe9876543, 0⟩,
  ⟨0x90018, 0x100, 1, 0, 0x0, 0xc0ff7f7f, 0x0, 0x0, 0x40400100, 0⟩,
  ⟨0x9001c, 0x100, 1, 0, 0x0, 0x7f, 0x0, 0x0, 0x1, 0⟩,
  ⟨0x90020, 0x100, 1, 0, 0x0, 0xffff, 0x0, 0x0, 0x10, 0⟩,
  ⟨0x90024, 0x100, 1, 0, 0x0, 0x0, 0x0, 0x0, 0x0, 0⟩,
  ⟨0x90028, 0x100, 1, 0, 0x0, 0x3f, 0x0, 0x0, 0x20, 0⟩,
  ⟨0x9002c, 0x100, 1, 0, 0x0, 0x0, 0x0, 0x0, 0x0, 0⟩,
  ⟨0x90030, 0x100, 1, 0, 0x0, 0x0, 0x0, 0x0, 0x0, 0⟩,
  ⟨0x90034, 0x100, 1, 0, 0x0, 0x0, 0x1f, 0x0, 0x0, 0⟩,
  ⟨0x90038, 0x100, 1, 0, 0x0, 0x1f, 0x0, 0x0, 0x18, 0⟩,
  ⟨0x9003c, 0x100, 1, 0, 0x0, 0x0, 0x0, 0x0, 0x0, 0⟩,
  ⟨0x90040, 0x100, 1, 0, 0x0, 0x0, 0x0, 0x0, 0x0, 0⟩,
  ⟨0x90044, 0x100, 1, 0, 0x0, 0x0, 0x0, 0x0, 0x0, 0⟩,
  ⟨0x90048, 0x100, 1, 0, 0x0, 0x0, 0x0, 0x0, 0x0, 0⟩,
  ⟨0x9004c, 0x100, 1, 0, 0x0, 0x0, 0x0, 0x0, 0x0, 0⟩,
  ⟨0x90050, 0x100, 1, 0, 0x0, 0x0, 0x0, 0x0, 0x0, 0⟩,
  ⟨0x92000, 0x0, 1, 0, 0x0, 0x0, 0x0, 0x0, 0x0, 0⟩,
  ⟨0x92004, 0x0, 1, 0, 0x0, 0x0, 0x0, 0x0, 0x0, 0⟩]

/-- The rows of the WX_LAT registers. -/
def rowsLat : List RegRow := [
  ⟨0xa0000, 0x100, 1, 0, 0x0, 0xff1f0000, 0x0, 0x0, 0x0, 0⟩,
  ⟨0xa0004, 0x100, 1, 0, 0x3, 0x1f000c, 0x0, 0x0, 0x10000c, 0⟩,
  ⟨0xa0008, 0x100, 1, 0, 0x0, 0xffffffff, 0x0, 0x0, 0x1000100, 0⟩,
  ⟨0xa000c, 0x100, 1, 0, 0x0, 0xffff, 0x0, 0x0, 0x0, 0⟩,
  ⟨0xa0010, 0x100, 1, 0, 0x0, 0x0, 0x0, 0x0, 0x0, 0⟩,
  ⟨0xa0014, 0x100, 1, 0, 0x0, 0x0, 0x7f, 0x0, 0x0, 0⟩,
  ⟨0xa0018, 0x100, 1, 0, 0x0, 0x7f, 0x0, 0x0, 0x60, 0⟩,
  ⟨0xa001c, 0x100, 1, 0, 0x0, 0x0, 0x0, 0x0, 0x0, 0⟩,
  ⟨0xa0020, 0x100, 1, 0, 0x0, 0x0, 0x0, 0x0, 0x0, 0⟩,
  ⟨0xa0024, 0x100, 1, 0, 0x0, 0x0, 0x0, 0x0, 0x0, 0⟩,
  ⟨0xa0028, 0x100, 1, 0, 0x0, 0x0, 0x0, 0x0, 0x0, 0⟩,
  ⟨0xa002c, 0x100, 1, 0, 0x0, 0x0, 0x0, 0x0, 0x0, 0⟩,
  ⟨0xa0030, 0x100, 1, 0, 0x0, 0x0, 0x0, 0x0, 0x0, 0⟩,
  ⟨0xa0034, 0x100, 1, 0, 0x0, 0x0, 0x0, 0x0, 0x0, 0⟩,
  ⟨0xa0038, 0x100, 1, 0, 0x0, 0x0, 0x0, 0x0, 0x0, 0⟩,
  ⟨0xa003c, 0x100, 1, 0, 0x0, 0x0, 0x0, 0x0, 0x0, 0⟩]

/-- The rows of the WX_LPL registers. -/
def rowsLpl : List RegRow := [
  ⟨0xb0000, 0x0, 1, 0, 0x0, 0x0, 0x0, 0x0, 0x80, 0⟩,
  ⟨0xb0004, 0x0, 1, 0, 0x0, 0x0, 0x1f, 0x0, 0x0, 0⟩,
  ⟨0xb0008, 0x0, 1, 0, 0x0, 0x1f, 0x0, 0x0, 0x6, 0⟩,
  ⟨0xb000c, 0x0, 1, 0, 0x0, 0x0, 0x0, 0x0, 0x0, 0⟩,
  ⟨0xb0010, 0x0, 1, 0, 0x0, 0x0, 0x0, 0x0, 0x0, 0⟩,
  ⟨0xb0014, 0x0, 1, 0, 0x0, 0x0, 0x0, 0x0, 0x0, 0⟩,
  ⟨0xb0018, 0x0, 1, 0, 0x0, 0x0, 0x0, 0x0, 0x0, 0⟩,
  ⟨0xb001c, 0x0, 1, 0, 0x0, 0x0, 0x0, 0x0, 0x0, 0⟩,
  ⟨0xb0020, 0x0, 1, 0, 0x0, 0x0, 0x0, 0x0, 0x0, 0⟩,
  ⟨0xb0024, 0x0, 1, 0, 0x0, 0x0, 0x0, 0x0, 0x0, 0⟩,
  ⟨0xb0028, 0x0, 1, 0, 0x0, 0x0, 0x0, 0x0, 0x0, 0⟩,
  ⟨0xb002c, 0x0, 1, 0, 0x0, 0x0, 0x0, 0x0, 0x0, 0⟩,
  ⟨0xb0030, 0x0, 1, 0, 0x0, 0x0, 0x0, 0x0, 0x0, 0⟩,
  ⟨0xb0034, 0x0, 1, 0, 0x0, 0x0, 0x0, 0x0, 0x0, 0⟩,
  ⟨0xb0038, 0x0, 1, 0, 0x0, 0x0, 0x0, 0x0, 0x0, 0⟩,
  ⟨0xb003c, 0x0, 1, 0, 0x0, 0x0, 0x0, 0x0, 0x0, 0⟩]

/-- The rows of the WX_SMP registers. -/
def rowsSmp : List RegRow := [
  ⟨0xc0000, 0x100, 1, 0, 0x0, 0xd, 0x0, 0x0, 0x0, 0⟩,
  ⟨0xc0004, 0x100, 1, 0, 0x0, 0xfffff000, 0x0, 0x0, 0x0, 0⟩,
  ⟨0xc0008, 0x100, 1, 0, 0x0, 0xffffffff, 0x0, 0x0, 0x0, 0⟩,
  ⟨0xc000c, 0x100, 1, 0, 0x0, 0xffff, 0x0, 0x0, 0x0, 0⟩,
  ⟨0xc0010, 0x100, 1, 0, 0x0, 0xffffc000, 0x0, 0x0, 0x0, 0⟩,
  ⟨0xc0014, 0x100, 1, 0, 0x0, 0xffffffff, 0x0, 0x0, 0x0, 0⟩,
  ⟨0xc0018, 0x100, 1, 0, 0x0, 0x0, 0x1f, 0x0, 0x0, 0⟩,
  ⟨0xc001c, 0x100, 1, 0, 0x0, 0x1f, 0x0, 0x0, 0xa, 0⟩,
  ⟨0xc0020, 0x100, 1, 0, 0x0, 0x0, 0x0, 0x0, 0x0, 0⟩,
  ⟨0xc0024, 0x100, 1, 0, 0x0, 0x0, 0x0, 0x0, 0x0, 0⟩,
  ⟨0xc0028, 0x100, 1, 0, 0x0, 0x0, 0x0, 0x0, 0x0, 0⟩,
  ⟨0xc002c, 0x100, 1, 0, 0x0, 0x0, 0x0, 0x0, 0x0, 0⟩,
  ⟨0xc0030, 0x100, 1, 0, 0x0, 0x0, 0x0, 0x0, 0x0, 0⟩,
  ⟨0xc0034, 0x100, 1, 0, 0x0, 0x0, 0x0, 0x0, 0x0, 0⟩,
  ⟨0xc0038, 0x100, 1, 0, 0x0, 0x0, 0x0, 0x0, 0x0, 0⟩,
  ⟨0xc003c, 0x100, 1, 0, 0x0, 0x0, 0x0, 0x0, 0x0, 0⟩,
  ⟨0xc2000, 0x0, 1, 0, 0x3ff, 0x0, 0x0, 0x3000000, 0x0, 0⟩,
  ⟨0xc2004, 0x0, 1, 0, 0xffffffc0, 0x0, 0x0, 0x0, 0x0, 0⟩,
  ⟨0xc2008, 0x0, 1, 0, 0xffffffff, 0x0, 0x0, 0x0, 0x0, 0⟩,
  ⟨0xc200c, 0x0, 1, 0, 0xffffffff, 0x0, 0x0, 0x0, 0x0, 0⟩,
  ⟨0xc2010, 0x0, 1, 0, 0x0, 0x0, 0x0, 0x0, 0x0, 0⟩,
  ⟨0xc2014, 0x0, 1, 0, 0x0, 0x0, 0x0, 0x0, 0x0, 0⟩,
  ⟨0xc2018, 0x0, 1, 0, 0x0, 0x0, 0x0, 0x0, 0x0, 0⟩,
  ⟨0xc201c, 0x0, 1, 0, 0x0, 0x0, 0x0, 0x0, 0x0, 0⟩,
  ⟨0xc2020, 0x0, 1, 0, 0x0, 0x0, 0x0, 0x0, 0x0, 0⟩]

/-- The rows of the WX_SPEC registers. -/
def rowsSpec : List RegRow := [
  ⟨0xd0000, 0x100, 1, 0, 0x0, 0xffff007f, 0x0, 0x0, 0x400000, 0⟩,
  ⟨0xd0004, 0x100, 1, 0, 0x0, 0xffffffff, 0x0, 0x0, 0x80002000, 0⟩,
  ⟨0xd0008, 0x100, 1, 0, 0x0, 0xfffffc00, 0x0, 0x0, 0x0, 0⟩,
  ⟨0xd000c, 0x100, 1, 0, 0x0, 0xffffffff, 0x0, 0x0, 0x0, 0⟩,
  ⟨0xd0010, 0x100, 1, 0, 0x0, 0x0, 0xf, 0x0, 0x0, 0⟩,
  ⟨0xd0014, 0x100, 1, 0, 0x0, 0xf, 0x0, 0x0, 0x8, 0⟩,
  ⟨0xd0018, 0x100, 1, 0, 0x0, 0x0, 0x0, 0x0, 0x0, 0⟩,
  ⟨0xd001c, 0x100, 1, 0, 0x0, 0x0, 0x0, 0x0, 0x0, 0⟩,
  ⟨0xd0020, 0x100, 1, 0, 0x0, 0x0, 0x0, 0x0, 0x0, 0⟩,
  ⟨0xd0024, 0x100, 1, 0, 0x0, 0x0, 0x0, 0x0, 0x0, 0⟩,
  ⟨0xd0028, 0x100, 1, 0, 0x0, 0x0, 0x0, 0x0, 0x0, 0⟩,
  ⟨0xd0040, 0x100, 32, 4, 0x0, 0xfff0fff, 0x0, 0x0, 0xfe00fe0, 0⟩]

/-- The rows of the WX_RNG registers. -/
def rowsRng : List RegRow := [
  ⟨0xe0000, 0x100, 1, 0, 0x0, 0xff, 0x0, 0x0, 0x0, 0⟩,
  ⟨0xe0004, 0x100, 1, 0, 0x0, 0x0, 0x1, 0x0, 0x0, 0⟩,
  ⟨0xe0008, 0x100, 1, 0, 0x0, 0x1, 0x0, 0x0, 0x1, 0⟩,
  ⟨0xe000c, 0x100, 1, 0, 0x0, 0x0, 0x0, 0x0, 0x0, 0⟩,
  ⟨0xe0010, 0x100, 1, 0, 0x0, 0x0, 0x0, 0x0, 0x0, 0⟩,
  ⟨0xe0080, 0x100, 8, 16, 0x0, 0xffffffff, 0x0, 0x0, 0x0, 0⟩,
  ⟨0xe0084, 0x100, 8, 16, 0x0, 0xffffffff, 0x0, 0x0, 0x0, 0⟩,
  ⟨0xe0088, 0x100, 8, 16, 0x0, 0xffffffff, 0x0, 0x0, 0x0, 0⟩,
  ⟨0xe008c, 0x100, 8, 16, 0x0, 0xffffffff, 0x0, 0x0, 0x0, 0⟩,
  ⟨0xe2000, 0x0, 1, 0, 0x0, 0x0, 0x0, 0x0, 0x1000, 0⟩,
  ⟨0xe2004, 0x0, 1, 0, 0x0, 0x0, 0x3, 0x0, 0x0, 0⟩,
  ⟨0xe2008, 0x0, 1, 0, 0x0, 0x3, 0x0, 0x0, 0x2, 0⟩,
  ⟨0xe200c, 0x0, 1, 0, 0x0, 0x0, 0x0, 0x0, 0x0, 0⟩,
  ⟨0xe2010, 0x0, 1, 0, 0xffffffff, 0x0, 0x0, 0x0, 0x0, 0⟩,
  ⟨0xe2014, 0x0, 1, 0, 0xffffffff, 0x0, 0x0, 0x0, 0x0, 0⟩,
  ⟨0xe2018, 0x0, 1, 0, 0xffffffff, 0x0, 0x0, 0x0, 0x0, 0⟩,
  ⟨0xe201c, 0x0, 1, 0, 0xffffffff, 0x0, 0x0, 0x0, 0x0, 0⟩,
  ⟨0xe2020, 0x0, 1, 0, 0xffffffff, 0x0, 0x0, 0x0, 0x0, 0⟩,
  ⟨0xe2024, 0x0, 1, 0, 0xf000ffff, 0x0, 0x0, 0x0, 0x0, 0⟩,
  ⟨0xe2028, 0x0, 1, 0, 0xffffffff, 0x0, 0x0, 0x0, 0x0, 0⟩,
  ⟨0xe202c, 0x0, 1, 0, 0xff, 0x0, 0x0, 0x0, 0x0, 0⟩,
  ⟨0xe2030, 0x0, 1, 0, 0x0, 0x0, 0x0, 0x0, 0x0, 0⟩,
  ⟨0xe2034, 0x0, 1, 0, 0x0, 0x0, 0x0, 0x0, 0x0, 0⟩]

/-- The rows of the WX_SPOUT registers. -/
def rowsSpout : List RegRow := [
  ⟨0xf0000, 0x100, 1, 0, 0x0, 0xfffff000, 0x0, 0x0, 0x0, 0⟩,
  ⟨0xf0004, 0x100, 1, 0, 0x0, 0xffffffff, 0x0, 0x0, 0x0, 0⟩,
  ⟨0xf0008, 0x100, 1, 0, 0x0, 0x1f, 0x0, 0x0, 0xa, 0⟩,
  ⟨0xf000c, 0x100, 1, 0, 0x0, 0xfffff000, 0x0, 0x0, 0x0, 0⟩,
  ⟨0xf0010, 0x100, 1, 0, 0x0, 0xffffffff, 0x0, 0x0, 0x0, 0⟩,
  ⟨0xf0014, 0x100, 1, 0, 0x0, 0x1ff000f, 0x0, 0x0, 0x8, 0⟩,
  ⟨0xf0018, 0x100, 1, 0, 0x0, 0xfff00000, 0x0, 0x0, 0x0, 0⟩,
  ⟨0xf001c, 0x100, 1, 0, 0x0, 0xffffffff, 0x0, 0x0, 0x0, 0⟩,
  ⟨0xf0020, 0x100, 1, 0, 0x0, 0xffff, 0x0, 0x0, 0x10, 0⟩,
  ⟨0xf0024, 0x100, 1, 0, 0x0, 0x0, 0xf, 0x0, 0x0, 0⟩,
  ⟨0xf0028, 0x100, 1, 0, 0x0, 0xf, 0x0, 0x0, 0x5, 0⟩,
  ⟨0xf002c, 0x100, 1, 0, 0x0, 0x0, 0x0, 0x0, 0x0, 0⟩,
  ⟨0xf0030, 0x100, 1, 0, 0x0, 0x0, 0x0, 0x0, 0x0, 0⟩,
  ⟨0xf0034, 0x100, 1, 0, 0x0, 0x0, 0x0, 0x0, 0x0, 0⟩,
  ⟨0xf0038, 0x100, 1, 0, 0x0, 0x0, 0x0, 0x0, 0x0, 0⟩,
  ⟨0xf2000, 0x0, 1, 0, 0x0, 0x0, 0x0, 0x0, 0x100, 0⟩,
  ⟨0xf2004, 0x0, 1, 0, 0x0, 0x0, 0x0, 0x0, 0x0, 0⟩]

/-- The rows of the WX_WLC registers. -/
def rowsWlc : List RegRow := [
  ⟨0x100000, 0x100, 1, 0, 0x0, 0x7, 0x0, 0x0, 0x0, 0⟩,
  ⟨0x100004, 0x100, 1, 0, 0x0, 0xffff, 0x0, 0x0, 0x1, 0⟩,
  ⟨0x100008, 0x100, 1, 0, 0x0, 0x1fffffff, 0x0, 0x0, 0x0, 0⟩,
  ⟨0x10000c, 0x100, 1, 0, 0xffff, 0x0, 0x0, 0x3000000, 0x0, 0⟩,
  ⟨0x100010, 0x100, 4, 4, 0x0, 0x0, 0x0, 0x0, 0x0, 0⟩,
  ⟨0x100020, 0x100, 1, 0, 0x0, 0x0, 0x0, 0x0, 0x0, 0⟩,
  ⟨0x100024, 0x100, 1, 0, 0x0, 0x0, 0x0, 0x0, 0x0, 0⟩,
  ⟨0x100028, 0x100, 1, 0, 0x0, 0x8300ffff, 0x0, 0x0, 0x0, 0⟩,
  ⟨0x10002c, 0x100, 1, 0, 0x0, 0x0, 0x0, 0xfff, 0x0, 0⟩,
  ⟨0x100030, 0x100, 1, 0, 0x0, 0x0, 0x0, 0x0, 0x0, 0⟩,
  ⟨0x100034, 0x100, 1, 0, 0x0, 0x0, 0x0, 0x0, 0x0, 0⟩,
  ⟨0x100038, 0x100, 1, 0, 0x0, 0x0, 0x0, 0x0, 0x0, 0⟩,
  ⟨0x10003c, 0x100, 1, 0, 0x0, 0x0, 0x0, 0x0, 0x0, 0⟩,
  ⟨0x100040, 0x100, 1, 0, 0x0, 0x0, 0x0, 0x0, 0x0, 0⟩,
  ⟨0x100044, 0x100, 1, 0, 0x0, 0x0, 0x0, 0x0, 0x0, 0⟩,
  ⟨0x100048, 0x100, 1, 0, 0x0, 0x0, 0x0, 0x0, 0x0, 0⟩,
  ⟨0x10004c, 0x100, 1, 0, 0x0, 0x0, 0x1ff, 0x0, 0x0, 0⟩,
  ⟨0x100050, 0x100, 1, 0, 0x0, 0x1ff, 0x0, 0x0, 0x1a8, 0⟩,
  ⟨0x100054, 0x100, 1, 0, 0x0, 0xfffff000, 0x0, 0x0, 0x0, 0⟩,
  ⟨0x100058, 0x100, 1, 0, 0x0, 0xffffffff, 0x0, 0x0, 0x0, 0⟩,
  ⟨0x10005c, 0x100, 1, 0, 0x0, 0x8000001f, 0x0, 0x0, 0xa, 0⟩,
  ⟨0x100060, 0x100, 1, 0, 0x0, 0x0, 0x0, 0x0, 0x0, 0⟩,
  ⟨0x100064, 0x100, 1, 0, 0x0, 0xffff, 0x0, 0x0, 0x40, 0⟩,
  ⟨0x102000, 0x0, 1, 0, 0xfff, 0x0, 0x0, 0x0, 0x0, 0⟩,
  ⟨0x102004, 0x0, 1, 0, 0x0, 0xdf001fff, 0x0, 0x0, 0x0, 0⟩,
  ⟨0x102008, 0x0, 1, 0, 0x0, 0xfff, 0x0, 0x0, 0x0, 0⟩,
  ⟨0x10200c, 0x0, 1, 0, 0x0, 0xfffffffc, 0x0, 0x0, 0x0, 0⟩,
  ⟨0x102010, 0x0, 1, 0, 0x0, 0xffffffff, 0x0, 0x0, 0x0, 0⟩,
  ⟨0x102014, 0x0, 1, 0, 0x0, 0x7ff, 0x0, 0x0, 0x1, 0⟩,
  ⟨0x102018, 0x0, 1, 0, 0x0, 0xffffffff, 0x0, 0x0, 0x0, 0⟩,
  ⟨0x10201c, 0x0, 1, 0, 0x0, 0xffffffff, 0x0, 0x0, 0x0, 0⟩,
  ⟨0x102020, 0x0, 1, 0, 0x0, 0x0, 0x0, 0x0, 0x0, 0⟩,
  ⟨0x102024, 0x0, 1, 0, 0x0, 0x0, 0x0, 0x3, 0x0, 0⟩,
  ⟨0x102028, 0x0, 1, 0, 0x0, 0x0, 0x0, 0x0, 0x0, 0⟩]

/-- The rows of the WX_INT registers. -/
def rowsInt : List RegRow := [
  ⟨0x110000, 0x100, 1, 0, 0x0, 0xfffff000, 0x0, 0x0, 0x0, 0⟩,
  ⟨0x110004, 0x100, 1, 0, 0x0, 0xffffffff, 0x0, 0x0, 0x0, 0⟩,
  ⟨0x110008, 0x100, 1, 0, 0x0, 0x1f, 0x0, 0x0, 0x8, 0⟩,
  ⟨0x11000c, 0x100, 1, 0, 0x0, 0x0, 0x0, 0x0, 0x0, 0⟩,
  ⟨0x110010, 0x100, 1, 0, 0xffffffff, 0x0, 0x0, 0x0, 0x0, 0⟩,
  ⟨0x110014, 0x100, 1, 0, 0x0, 0x0, 0x0, 0x0, 0x0, 0⟩,
  ⟨0x112000, 0x0, 1, 0, 0x0, 0x0, 0x0, 0x0, 0x8040402, 0⟩,
  ⟨0x112004, 0x0, 1, 0, 0x0, 0x0, 0x3f, 0x0, 0x0, 0⟩,
  ⟨0x112008, 0x0, 1, 0, 0x0, 0x3f, 0x0, 0x0, 0x35, 0⟩,
  ⟨0x11200c, 0x0, 1, 0, 0x0, 0x8000ffff, 0x0, 0x0, 0x80004000, 0⟩,
  ⟨0x112010, 0x0, 1, 0, 0x0, 0x0, 0x0, 0x0, 0x0, 0⟩,
  ⟨0x112014, 0x0, 1, 0, 0x0, 0x0, 0x0, 0x0, 0x0, 0⟩,
  ⟨0x112018, 0x0, 1, 0, 0x0, 0x0, 0x0, 0x0, 0x0, 0⟩,
  ⟨0x11201c, 0x0, 1, 0, 0x0, 0x0, 0x0, 0x0, 0x0, 0⟩,
  ⟨0x112020, 0x0, 1, 0, 0x0, 0x0, 0x0, 0x0, 0x0, 0⟩,
  ⟨0x112024, 0x0, 1, 0, 0x0, 0xfffff000, 0x0, 0x0, 0x0, 0⟩,
  ⟨0x112028, 0x0, 1, 0, 0x0, 0xffffffff, 0x0, 0x0, 0x0, 0⟩,
  ⟨0x11202c, 0x0, 1, 0, 0x0, 0x1f, 0x0, 0x0, 0x8, 0⟩,
  ⟨0x112030, 0x0, 1, 0, 0x0, 0x0, 0x0, 0x0, 0x0, 0⟩,
  ⟨0x112034, 0x0, 1, 0, 0xffffffff, 0x0, 0x0, 0x0, 0x0, 0⟩,
  ⟨0x112038, 0x0, 1, 0, 0x0, 0x0, 0x0, 0x0, 0x0, 0⟩,
  ⟨0x11203c, 0x0, 1, 0, 0x0, 0x3, 0x0, 0x0, 0x1, 0⟩,
  ⟨0x112040, 0x0, 1, 0, 0x0, 0xff, 0x0, 0x0, 0x2, 0⟩]

/-- The rows of the WX_PWR registers. -/
def rowsPwr : List RegRow := [
  ⟨0x120000, 0x0, 1, 0, 0x0, 0x11f, 0x0, 0x0, 0x104, 0⟩,
  ⟨0x120004, 0x0, 1, 0, 0x0, 0xffff, 0x0, 0x0, 0x73a, 0⟩,
  ⟨0x120008, 0x0, 1, 0, 0x0, 0xff, 0x0, 0x0, 0x3c, 0⟩,
  ⟨0x12000c, 0x0, 1, 0, 0x0, 0x0, 0x0, 0x0, 0x10073a, 0⟩,
  ⟨0x120010, 0x0, 1, 0, 0x0, 0x0, 0x0, 0x0, 0x0, 0⟩,
  ⟨0x120014, 0x0, 1, 0, 0x0, 0xffffffff, 0x0, 0x0, 0xac820100, 0⟩,
  ⟨0x120018, 0x0, 1, 0, 0x3f, 0x0, 0x0, 0x0, 0x0, 0⟩,
  ⟨0x12001c, 0x0, 1, 0, 0x0, 0x0, 0x0, 0x0, 0x0, 0⟩,
  ⟨0x120020, 0x0, 1, 0, 0x0, 0xffff00, 0x0, 0x0, 0x5f6e00, 0⟩,
  ⟨0x120024, 0x0, 1, 0, 0x0, 0x0, 0xf, 0x0, 0x0, 0⟩,
  ⟨0x120028, 0x0, 1, 0, 0x0, 0xf, 0x0, 0x0, 0xc, 0⟩,
  ⟨0x12002c, 0x0, 1, 0, 0x7f, 0x0, 0x0, 0x0, 0x0, 0⟩,
  ⟨0x120030, 0x0, 1, 0, 0x0, 0x0, 0x0, 0x0, 0x0, 0⟩,
  ⟨0x120034, 0x0, 1, 0, 0x0, 0x0, 0x0, 0x0, 0x0, 0⟩,
  ⟨0x120038, 0x0, 1, 0, 0x0, 0x0, 0x0, 0x0, 0x0, 0⟩,
  ⟨0x12003c, 0x0, 1, 0, 0x0, 0x0, 0x0, 0x0, 0x0, 0⟩,
  ⟨0x120040, 0x0, 1, 0, 0x0, 0x0, 0x0, 0x0, 0x0, 0⟩]

/-- The rows of the WX_MGMT registers. -/
def rowsMgmt : List RegRow := [
  ⟨0x130000, 0x0, 1, 0, 0x0, 0x0, 0x0, 0x1, 0x0, 0⟩,
  ⟨0x130004, 0x0, 1, 0, 0x0, 0x0, 0x0, 0x0, 0x0, 0⟩,
  ⟨0x130008, 0x0, 1, 0, 0x0, 0x0, 0x3ff, 0x0, 0x0, 0⟩,
  ⟨0x13000c, 0x0, 1, 0, 0x0, 0x3ff, 0x0, 0x0, 0x2f5, 0⟩,
  ⟨0x130010, 0x0, 1, 0, 0x0, 0xffff, 0x0, 0x0, 0x3e8, 0⟩,
  ⟨0x130014, 0x0, 1, 0, 0x0, 0x0, 0x0, 0xffffffff, 0x0, 0⟩,
  ⟨0x130018, 0x0, 1, 0, 0x0, 0xff, 0x0, 0x0, 0x14, 0⟩,
  ⟨0x13001c, 0x0, 1, 0, 0xffffffff, 0x0, 0x0, 0x0, 0x0, 0⟩,
  ⟨0x130020, 0x0, 1, 0, 0x0, 0x0, 0x0, 0x0, 0x0, 0⟩,
  ⟨0x130024, 0x0, 1, 0, 0xffffffff, 0x0, 0x0, 0x0, 0x0, 0⟩,
  ⟨0x130028, 0x0, 1, 0, 0x0, 0x0, 0x0, 0x0, 0x0, 0⟩,
  ⟨0x13002c, 0x0, 1, 0, 0x0, 0x0, 0x0, 0x0, 0x0, 0⟩,
  ⟨0x130030, 0x0, 1, 0, 0x0, 0xfffff000, 0x0, 0x0, 0x0, 0⟩,
  ⟨0x130034, 0x0, 1, 0, 0x0, 0xffffffff, 0x0, 0x0, 0x0, 0⟩,
  ⟨0x130038, 0x0, 1, 0, 0x0, 0x1f, 0x0, 0x0, 0x0, 0⟩,
  ⟨0x13003c, 0x0, 1, 0, 0x0, 0x0, 0x0, 0x0, 0x0, 0⟩,
  ⟨0x130040, 0x0, 1, 0, 0xffffffff, 0x0, 0x0, 0x0, 0x0, 0⟩,
  ⟨0x130044, 0x0, 1, 0, 0x7f, 0x0, 0x0, 0x0, 0x0, 0⟩,
  ⟨0x130048, 0x0, 1, 0, 0x0, 0x0, 0x0, 0x0, 0x0, 0⟩,
  ⟨0x13004c, 0x0, 1, 0, 0xfffff000, 0x0, 0x0, 0x0, 0x0, 0⟩,
  ⟨0x130050, 0x0, 1, 0, 0xffffffff, 0x0, 0x0, 0x0, 0x0, 0⟩,
  ⟨0x130054, 0x0, 1, 0, 0x1, 0x0, 0x0, 0x7000000, 0x0, 0⟩,
  ⟨0x130058, 0x0, 1, 0, 0xffffffff, 0x0, 0x0, 0x0, 0x0, 0⟩,
  ⟨0x13005c, 0x0, 1, 0, 0x0, 0x0, 0x0, 0x0, 0x0, 0⟩,
  ⟨0x130060, 0x0, 1, 0, 0x0, 0x0, 0x0, 0x0, 0x0, 0⟩,
  ⟨0x130064, 0x0, 1, 0, 0x0, 0x0, 0x0, 0x0, 0x0, 0⟩,
  ⟨0x130068, 0x0, 1, 0, 0x0, 0x0, 0x0, 0x0, 0x0, 0⟩,
  ⟨0x13006c, 0x0, 1, 0, 0xffffffff, 0x0, 0x0, 0x0, 0x0, 0⟩,
  ⟨0x130070, 0x0, 1, 0, 0x0, 0x0, 0x0, 0x0, 0x0, 0⟩,
  ⟨0x130074, 0x0, 1, 0, 0x0, 0x0, 0x0, 0x0, 0x0, 0⟩,
  ⟨0x130078, 0x0, 1, 0, 0x0, 0x0, 0x0, 0x0, 0x3000300, 0⟩,
  ⟨0x13007c, 0x0, 1, 0, 0x0, 0x0, 0x0, 0xffff, 0x0, 0⟩,
  ⟨0x130080, 0x0, 1, 0, 0x0, 0xc000ffff, 0x0, 0x0, 0x0, 0⟩,
  ⟨0x130084, 0x0, 1, 0, 0x0, 0xffffffff, 0x0, 0x0, 0x0, 0⟩,
  ⟨0x130088, 0x0, 1, 0, 0x0, 0xffffffff, 0x0, 0x0, 0x10000040, 0⟩,
  ⟨0x13008c, 0x0, 1, 0, 0x0, 0x0, 0x0, 0x0, 0x0, 0⟩,
  ⟨0x130090, 0x0, 1, 0, 0x0, 0x0, 0x0, 0x0, 0x0, 0⟩,
  ⟨0x130094, 0x0, 1, 0, 0x0, 0x0, 0x0, 0x0, 0x0, 0⟩]

/-- The rows of the WX_DBG registers. -/
def rowsDbg : List RegRow := [
  ⟨0x140000, 0x0, 1, 0, 0x0, 0x1, 0x0, 0x0, 0x0, 0⟩,
  ⟨0x140004, 0x0, 1, 0, 0x30000, 0x0, 0x0, 0x3000000, 0x0, 0⟩,
  ⟨0x140008, 0x0, 1, 0, 0xffffffff, 0x0, 0x0, 0x0, 0x0, 0⟩,
  ⟨0x14000c, 0x0, 1, 0, 0xffffffff, 0x0, 0x0, 0x0, 0x0, 0⟩,
  ⟨0x140010, 0x0, 1, 0, 0xffffffff, 0x0, 0x0, 0x0, 0x0, 0⟩,
  ⟨0x140014, 0x0, 1, 0, 0xffffffff, 0x0, 0x0, 0x0, 0x0, 0⟩,
  ⟨0x140018, 0x0, 1, 0, 0x0, 0x0, 0x0, 0x0, 0x0, 0⟩,
  ⟨0x14001c, 0x0, 1, 0, 0x0, 0x0, 0x0, 0x0, 0x0, 0⟩]

/-- The rows of the WX_GLB registers. -/
def rowsGlb : List RegRow := [
  ⟨0x1000, 0x0, 1, 0, 0x0, 0x0, 0x0, 0x1, 0x0, 0⟩,
  ⟨0x1004, 0x0, 1, 0, 0x0, 0x0, 0x0, 0x0, 0x0, 0⟩,
  ⟨0x1008, 0x0, 1, 0, 0x0, 0x0, 0x0, 0x0, 0x8, 0⟩,
  ⟨0x100c, 0x0, 1, 0, 0x0, 0x0, 0x0, 0x0, 0x0, 0⟩,
  ⟨0x1010, 0x0, 1, 0, 0x0, 0xffffffff, 0x0, 0x0, 0x400040, 0⟩,
  ⟨0x1014, 0x0, 1, 0, 0x0, 0x7ff, 0x0, 0x0, 0x233, 0⟩,
  ⟨0x1018, 0x0, 1, 0, 0x0, 0x0, 0x0, 0x0, 0x0, 0⟩,
  ⟨0x101c, 0x0, 1, 0, 0x0, 0x0, 0x0, 0x0, 0x0, 0⟩,
  ⟨0x1020, 0x0, 1, 0, 0x0, 0x0, 0x0, 0x0, 0x0, 0⟩,
  ⟨0x1024, 0x0, 1, 0, 0x0, 0x0, 0x0, 0x0, 0x0, 0⟩,
  ⟨0x1028, 0x0, 1, 0, 0x0, 0x0, 0x0, 0x0, 0x0, 0⟩,
  ⟨0x102c, 0x0, 1, 0, 0x0, 0x0, 0x0, 0x0, 0x0, 0⟩,
  ⟨0x1030, 0x0, 1, 0, 0x0, 0x0, 0x0, 0x0, 0x0, 0⟩,
  ⟨0x1034, 0x0, 1, 0, 0x0, 0x0, 0xf, 0x0, 0x0, 0⟩,
  ⟨0x1038, 0x0, 1, 0, 0x0, 0xf, 0x0, 0x0, 0xb, 0⟩,
  ⟨0x103c, 0x0, 1, 0, 0xff, 0x0, 0x0, 0x0, 0x0, 0⟩,
  ⟨0x0, 0x0, 1, 0, 0x0, 0x0, 0x0, 0x0, 0x4a570401, 0⟩,
  ⟨0x4, 0x0, 1, 0, 0x0, 0x0, 0x0, 0x0, 0x3000300, 0⟩,
  ⟨0x10, 0x0, 1, 0, 0x0, 0x0, 0x0, 0x0, 0x20102004, 0⟩,
  ⟨0x14, 0x0, 1, 0, 0x0, 0x0, 0x0, 0x0, 0x88802080, 0⟩,
  ⟨0x18, 0x0, 1, 0, 0x0, 0x0, 0x0, 0x0, 0x24204080, 0⟩,
  ⟨0x1c, 0x0, 1, 0, 0x0, 0x0, 0x0, 0x0, 0x44400800, 0⟩,
  ⟨0x20, 0x0, 1, 0, 0x0, 0x0, 0x0, 0x0, 0x20000, 0⟩,
  ⟨0x24, 0x0, 1, 0, 0x0, 0x0, 0x0, 0x0, 0x1002002, 0⟩,
  ⟨0x28, 0x0, 1, 0, 0x0, 0x0, 0x0, 0x0, 0x2000080c, 0⟩,
  ⟨0x2c, 0x0, 1, 0, 0x0, 0x0, 0x0, 0x0, 0x181c1007, 0⟩,
  ⟨0x30, 0x0, 1, 0, 0x0, 0x0, 0x0, 0x0, 0x14010010, 0⟩,
  ⟨0x34, 0x0, 1, 0, 0x0, 0x0, 0x0, 0x0, 0x40016408, 0⟩,
  ⟨0x38, 0x0, 1, 0, 0x0, 0x0, 0x0, 0x0, 0x80400200, 0⟩,
  ⟨0x3c, 0x0, 1, 0, 0x0, 0x0, 0x0, 0x0, 0x10080464, 0⟩,
  ⟨0x40, 0x0, 1, 0, 0x0, 0x0, 0x0, 0x0, 0x8100400, 0⟩,
  ⟨0x44, 0x0, 1, 0, 0x0, 0xffffffff, 0x0, 0x0, 0x0, 0⟩]

/-- The rows whose region of R566 holds the address. -/
def unitRows (a : Nat) : List RegRow :=
  match a / 0x10000 with
  | 0x00 => rowsGlb
  | 0x01 => rowsBeat
  | 0x02 => rowsPart
  | 0x04 => rowsSched
  | 0x05 => rowsSync
  | 0x06 => rowsAdm
  | 0x08 => rowsPage
  | 0x09 => rowsWeir
  | 0x0A => rowsLat
  | 0x0B => rowsLpl
  | 0x0C => rowsSmp
  | 0x0D => rowsSpec
  | 0x0E => rowsRng
  | 0x0F => rowsSpout
  | 0x10 => rowsWlc
  | 0x11 => rowsInt
  | 0x12 => rowsPwr
  | 0x13 => rowsMgmt
  | 0x14 => rowsDbg
  | _ => []

/-- The partition that a row's address belongs to (0 for an engine-wide register). -/
def RegRow.part (r : RegRow) (a : Nat) : Nat :=
  if r.pstride = 0 then 0 else (a - r.base) / r.pstride

/-- Whether the address is one of the row's registers (R566, R568 with all 32 partitions present). -/
def RegRow.covers (r : RegRow) (a : Nat) : Bool :=
  let p := r.part a
  let d := a - (r.base + r.pstride * p)
  decide (r.base ≤ a) && decide (p < 32) &&
    (if r.count = 1 then decide (d = 0) else decide (d % r.step = 0) && decide (d / r.step < r.count))

/-- The register row at an address of the control window, if one is there (R569). -/
def regRow (a : Nat) : Option RegRow := (unitRows a).find? fun r => r.covers a

/-- WX_PART_DISP_LO and WX_PART_DISP_HI reset to channels 2p and 2p + 1 (R74). -/
def dispReset (p : Nat) (high : Bool) : Nat :=
  if high then (if p < 16 then 0 else 3 * 4 ^ (p - 16)) else (if p < 16 then 3 * 4 ^ p else 0)

/-- The cold-reset word of an address (R578); 0 where no register is. -/
def resetWord (a : Nat) : BitVec 32 :=
  match regRow a with
  | none => 0
  | some r =>
    let p := r.part a
    if r.base = Reg.partDispLo 0 then BitVec.ofNat 32 (dispReset p false)
    else if r.base = Reg.partDispHi 0 then BitVec.ofNat 32 (dispReset p true)
    else BitVec.ofNat 32 (r.rst + r.rstP * p)

end Sys2Proof.Machine
end

