-- ==== Sys2Proof/Machine/State.lean ====
section
/-! DEFINITION. The state of the block: everything the spec gives the machine, as plain data, and the state after reset. Registers of the control window live in one map keyed by their address (R566) with their cold-reset words as what an unlisted address reads as (R578); what the registers do not show lives in the structures below. -/

namespace Sys2Proof.Machine

open Sys2Proof

/-- Why the block stops. No meaning raises one: every effect the spec gives is taken (NOTES.md, Stops). -/
inductive Fault where
  /-- Raised by no meaning: kept so that the type is closed and inhabited. Safe. -/
  | none
  deriving DecidableEq, Repr

/-- Why the block refuses a command. -/
inductive Refusal where
  /-- A command that has no meaning in this model yet; raised by its arm of exec only. Safe. -/
  | notModelled (mnemonic : String)
  deriving DecidableEq, Repr

/-- The states of the beat unit (R37). -/
inductive BeatSt where
  | idle | acquire | locked | free | expired | master
  deriving DecidableEq, Repr

/-- The modes of the beat unit (R44, R48). -/
inductive BeatMode where
  | off | follower | master
  deriving DecidableEq, Repr

/-- A received on-time edge whose frame has not completed (R29): the interval in reference cycles since the last
edge, whether the interval began at a valid edge, and whether the follower started a beat on it. -/
structure Edge where
  interval : Nat
  fromValid : Bool
  started : Bool
  deriving DecidableEq, Repr

/-- The beat unit (R25 to R46). `time` is the beat time in ticks, 256 to the beat. -/
structure BeatUnit where
  time : Nat
  /-- The beat time at which the present beat was entered: its tick 0, or the time that a jump reached (R26); and the number of
  the beat before it. -/
  entered : Nat
  before : Nat
  st : BeatSt
  /-- The mode change that waits for the next local edge (R44). -/
  waiting : Option BeatMode
  /-- The last 16 intervals inside the band, newest first (R33). -/
  intervals : List Nat
  /-- The last mean inside the supported range, in 1/256 reference cycle; 0 for none (R36). -/
  okMean : Nat
  /-- Consecutive outliers (R33). -/
  outRun : Nat
  edge : Option Edge
  /-- Whether the last edge was a valid one, so that an interval may begin at it (R32). -/
  prevValid : Bool
  /-- The beat number of the last valid frame and how many consecutive ones there were (R38). -/
  acqBeat : Nat
  acqRun : Nat
  acqIntervals : List Nat
  /-- Consecutive beats started on edges whose frames then failed (R32). -/
  badRun : Nat
  /-- The stand-still of R42. -/
  still : Bool
  /-- FREE marking that lasts until the first beat taken from the master (R42). -/
  freeMark : Bool
  /-- In MASTER before its first edge (R43, R44). -/
  masterFirst : Bool
  /-- A frame has been accepted since cold reset, so that WX_BEAT_MASTER_ID names a master (R31). -/
  idSeen : Bool
  deriving DecidableEq, Repr

/-- A vector handle (R63, R69). -/
structure VHandle where
  space : Byte
  fmt : Byte
  base : Dword
  count : Word
  deriving DecidableEq, Repr

/-- The handle of space NONE (R80). -/
def VHandle.unbound : VHandle := ⟨0, 0, 0, 0⟩

/-- An entry of a context's virtual semaphore table (R69, R128). -/
structure SemEnt where
  valid : Bool
  priv : Bool
  off : BitVec 16
  deriving DecidableEq, Repr

/-- The invalid entry (R80). -/
def SemEnt.invalid : SemEnt := ⟨false, false, 0⟩

/-- The states of a context (R64). -/
inductive CtxSt where
  | free | ready | running | waiting | delayed | stopped | faulted | saved
  deriving DecidableEq, Repr

/-- What stops a context at its next instruction boundary (R65, R60). -/
inductive StopReq where
  | stop | save | reset | partReset
  deriving DecidableEq, Repr

/-- The instruction that a context has outstanding (R94, R172). (DESIGN CHOICE, assumption log 30) -/
inductive Pend where
  /-- A memory-port transaction (LDD, STD). -/
  | mem
  /-- A semaphore operation that travels to its cell. -/
  | cell
  /-- A LEDG whose ledger's cycle other operations share (R213). -/
  | ledger
  /-- A plane operation that waits for room in the plane queue (R327). -/
  | plane
  /-- BISSUE waiting for credits. -/
  | issue
  /-- A vector instruction that waits until its rows are present (R83), or for its page lists. -/
  | rows (i : Instr)
  deriving DecidableEq, Repr

/-- What a withdrawn wait or delay leaves for a later save or restore (R65, R69). -/
inductive Remain where
  | none
  | wait (ticks : Nat)
  | delay (wake : Nat)
  deriving DecidableEq, Repr

/-- A context (R63). -/
structure Ctx where
  st : CtxSt
  s : KMap Dword
  p : BitVec 8
  v : KMap VHandle
  elen : Word
  fault : Dword
  pc : Dword
  semtab : KMap SemEnt
  scratch : KMap Byte
  pend : Option Pend
  stopReq : Option StopReq
  remain : Remain
  /-- The state in which SAVE found the context (R69, R70). -/
  saveSt : CtxSt
  deriving DecidableEq, Repr

/-- A FREE context with its state cleared (R64, R80). (DESIGN CHOICE, assumption log 1) -/
def Ctx.cleared : Ctx :=
  ⟨.free, [], 0, [], 0, 0, 0, [], [], none, none, .none, .free⟩

/-- The kinds of wait on a cell (R173, R177). -/
inductive WKind where
  | take | peek | bar
  deriving DecidableEq, Repr

/-- A wait in a cell's queue (R172 to R178). -/
structure Wait where
  part : Nat
  ctx : Nat
  kind : WKind
  /-- The count wanted, or the participants P of SBAR. -/
  n : Nat
  deadline : Nat
  /-- A timeout of 0 (R174). -/
  once : Bool
  dst : BitVec 5
  vid : BitVec 12
  /-- Counted in an arrival that has been forwarded to the home engine (R180, R182). -/
  fwd : Bool
  deriving DecidableEq, Repr

/-- A physical semaphore cell (R168) and its wait queue in arrival order. -/
structure Cell where
  count : Word
  sat : Bool
  queue : List Wait
  deriving DecidableEq, Repr

/-- A cell without a wait: its SBAR arrival goes with it where `sub` says so, unless it has been forwarded, stopping at 0 (R178). -/
def Cell.without (x : Cell) (w : Wait) (sub : Bool) : Cell :=
  { x with
    queue := x.queue.filter fun v => decide (v ≠ w)
    count := if sub = true ∧ w.kind = .bar ∧ w.fwd = false ∧ x.count ≠ 0 then x.count - 1 else x.count }

/-- A cell after reset. -/
def Cell.zero : Cell := ⟨0, false, []⟩

/-- An operation that reaches a cell (R172, R175). -/
inductive CellOp where
  | sadd (part ctx : Nat) (dst : BitVec 5) (amount : Word)
  | ssub (part ctx : Nat) (dst : BitVec 5) (amount : Word)
  | wait (w : Wait) (timeout : Nat)
  | add (amount : Word)
  /-- A manual write from a source (R195): SET with a value, or CLEAR_SAT without. -/
  | manual (src : Nat) (value : Option Word)
  /-- The realignment of a partition's entries that name the cell (R194). -/
  | realign (part : Nat)
  /-- A write of WX_SYNC_SAT_CLR, and a count that a restore or a reset puts into the cell, with the flag where it goes too: these
  wait for a held cell (R479). -/
  | satClr
  | put (count : Word) (sat : Option Bool)
  /-- A RELEASE for a member entry whose local cell this is, and the ARRIVE that completes the round of a home entry (R180). -/
  | release (part entry body : Nat)
  | arrive (part entry src vote : Nat)
  deriving DecidableEq, Repr

/-- An operation that travels to its cell. -/
structure Travel where
  id : Nat
  cell : Nat
  op : CellOp
  deriving DecidableEq, Repr

/-- The action of a delay-list entry (R157). -/
inductive DlAct where
  | item (item : Dword) (level : Nat)
  | timer (cell : Nat) (amount : Word) (token : Dword)
  | wake (ctx : Nat) (slack : Option Dword) (dst : BitVec 5)
  deriving DecidableEq, Repr

/-- A delay-list entry: its key, its 32-bit insertion count (R159), its list and its action. A held ITEM stays at
the head of its list (R156). -/
structure DlEnt where
  key : Nat
  seq : Word
  list : Nat
  held : Bool
  act : DlAct
  deriving DecidableEq, Repr

/-- A record that Spout holds for a ring (R411): its bytes but PHASE and CRC, the step that waits for it, its place in its
batch and the batch's size, the spill slot that holds it (R425), the beat time at which it was handed over, and whether it
has counted in DRAIN_LATE (R427). `meas` names the request that a token record measures (R292). -/
structure QRec where
  bytes : List Byte
  meas : Option Nat
  step : Option Nat
  batch : Option (Nat × Nat)
  spill : Option Nat
  since : Nat
  late : Bool
  deriving DecidableEq, Repr

/-- A record ring (R415, R416): the index after the last record that counts as written, the next index to issue, the
indices between them whose responses are in, and the records that wait, oldest first. -/
structure Ring where
  tail : Nat
  next : Nat
  acked : List Nat
  queue : List QRec
  deriving DecidableEq, Repr

/-- An empty ring. -/
def Ring.empty : Ring := ⟨0, 0, [], []⟩

/-- A privileged token ring (R421 to R424): the partition and the handle that hold it, and whether its request has left
the table. -/
structure TokenRing where
  held : Bool
  part : Nat
  handle : Nat
  left : Bool
  ring : Ring
  deriving DecidableEq, Repr

/-- A free ring of the pool. -/
def TokenRing.free : TokenRing := ⟨false, 0, 0, false, Ring.empty⟩

/-- A grammar id (R369, R370): 0 not resident, 1 resident, 2 being unloaded; its partitions and its image. -/
structure Gram where
  st : Nat
  parts : Word
  addr : Nat
  deriving DecidableEq, Repr

/-- An id with no grammar. -/
def Gram.none : Gram := ⟨0, 0, 0⟩

/-- A memory-port transaction whose response is outstanding, and what its response completes (R463, R581). -/
inductive TxnKind where
  | load (part ctx : Nat) (size : Nat) (sgn : Bool) (dst : BitVec 5)
  | store (part ctx : Nat) (data : List Byte)
  /-- A Spout record issued to its ring (none for the completion ring) under an index. -/
  | record (part : Nat) (ring : Option Nat) (idx : Nat) (r : QRec)
  /-- A DATA packet's payload for the transfer of the key. -/
  | data (part : Nat) (key : Nat) (payload : List Byte)
  deriving DecidableEq, Repr

/-- An outstanding memory-port transaction. (DESIGN CHOICE, assumption log 101) -/
structure Txn where
  id : Nat
  part : Nat
  addr : Nat
  port : Nat
  kind : TxnKind
  deriving DecidableEq, Repr

/-- A range of host memory in which the host's protection unit refuses accesses (R102, R581): those of one partition, or
those with PART_VALID 0 (none), for reads or writes; or from which reads come back with bad parity (R469). It is the host's,
not the engine's. (DESIGN CHOICE, assumption log 21) -/
structure Deny where
  lo : Nat
  hi : Nat
  part : Option Nat
  onRead : Bool
  onWrite : Bool
  /-- Reads of the range return data whose parity fails (R469). -/
  onParity : Bool := false
  deriving DecidableEq, Repr

/-- What the block drives on its ports, oldest first: descriptors (R540), remote messages (R552), hidden-state packets
(R546), timecode frames (R43) and read data of its target ports (R556, R557). (DESIGN CHOICE, assumption logs 22, 101) -/
inductive Out where
  | kdl (chan : Nat) (bytes : List Byte)
  | rm (port : Nat) (kind : Nat) (m : RmMsg)
  | hs (port vc : Nat) (bytes : List Byte)
  | frame (f : BitVec 96)
  | i2c (data : Word)
  | jtag (bits : BitVec 160)
  deriving DecidableEq, Repr

/-- The answer of the last control-window access (R534): OKAY or SLVERR, and read data. -/
structure Resp where
  okay : Bool
  data : Word
  deriving DecidableEq, Repr

/-- A log entry (R510) before its SEQ is given its place in the ring. -/
structure LogEnt where
  seq : Nat
  boot : Nat
  time : Dword
  type : Nat
  src : Nat
  keep : Bool
  part : Option Nat
  payload : List Byte
  deriving DecidableEq, Repr

/-- The states of a flash slot (R516). -/
inductive SlotSt where
  | empty | incomplete | staged | confirmed
  deriving DecidableEq, Repr

/-- A flash slot: its boot-header fields (R516) and the image it holds (R517). -/
structure FlashSlot where
  st : SlotSt
  gen : Nat
  image : List Byte
  deriving DecidableEq, Repr

/-- A copy of the boot header (R516): each slot's state, generation and BUILD_ID, the boot count, the minimum SVN, and the write
position of the log region in entries. -/
structure BootHdr where
  stA : SlotSt
  genA : Nat
  buildA : Nat
  stB : SlotSt
  genB : Nat
  buildB : Nat
  bootCount : Nat
  minSvn : Nat
  logPos : Nat
  deriving DecidableEq, Repr

/-- The SPI NOR flash (R515), which survives every reset: the slots and what the boot header says of them, the log region and
its write position, the two copies of the boot header (none where the CRC is wrong) with the one written last, and the slots
whose reads and writes err. (DESIGN CHOICE, assumption log 81) -/
structure Flash where
  slotA : FlashSlot
  slotB : FlashSlot
  minSvn : Nat
  bootCount : Nat
  log : List LogEnt
  logPos : Nat := 0
  hdr0 : Option BootHdr := none
  hdr1 : Option BootHdr := none
  hdrLast : Nat := 0
  bad : List Nat := []
  deriving DecidableEq, Repr

/-- The roles of a management core (R504). -/
inductive Role where
  | booting | active | standby | failed
  deriving DecidableEq, Repr

/-- A management core: its role, its consecutive failed boots, the slot it booted or boots (R506, R520), and the CONTRACT of
the image it runs (R523). -/
structure MCore where
  role : Role
  fails : Nat
  slot : Nat
  level : Nat
  deriving DecidableEq, Repr

/-- A management core after a cold reset: BOOTING (R562). -/
def MCore.boot : MCore := ⟨.booting, 0, 0, 0⟩

/-- An update command in progress (R518): its code, its slot, the ERR with which it completes, whether a planned takeover waits
for the standby's kick (R520), and the image that STAGE writes. -/
structure UpdCmd where
  op : Nat
  slot : Nat
  err : Nat
  waitKick : Bool
  image : List Byte
  deriving DecidableEq, Repr

/-- Negotiation (R524, R525): the round being counted at the home and its lowest level; one more than the beat in which an ARRIVE
has last left; and the pending level and EFFECTIVE. -/
structure Nego where
  round : Nat
  lowest : Nat
  sent : Nat
  pend : Option (Nat × Nat)
  deriving DecidableEq, Repr

/-- The stages of a droop detector (R493). -/
inductive DroopSt where
  | idle | hold | release
  deriving DecidableEq, Repr

/-- A droop detector: its stage, its s and its trip count (R493). -/
structure Droop where
  st : DroopSt
  s : Nat
  trips : Word
  deriving DecidableEq, Repr

/-- The units whose clocks are domains (R490). -/
inductive DomUnit where
  | tileGroup | policyCore | admission | weir | basin | scrubber | sync | rill | spout | memPair | chanGroup | hsPort | rmPort
  | hostControl | management | beat | jtag
  deriving DecidableEq, Repr

/-- The sources of the clock domains (R490). -/
inductive ClkSource where
  | pll | integrator | beatRefclk
  deriving DecidableEq, Repr

/-- The activity counters of a clock domain (R501). -/
structure Activity where
  busy : Word
  total : Word
  stretch : Word
  deriving DecidableEq, Repr

/-- A physical dispatch channel (R538 to R544). -/
structure Chan where
  up : Bool
  credits : Nat
  limit : Nat
  /-- Consecutive discarded upstream messages (R544). -/
  badRun : Nat
  failed : Bool
  deriving DecidableEq, Repr

/-- A channel after reset (R539). -/
def Chan.down : Chan := ⟨false, 0, 0, 0, false⟩

/-- An open transfer (R184): bytes written, packets in flight, the attached signal and SIGF. -/
structure Xfer where
  key : Nat
  part : Nat
  total : Nat
  done : Nat
  sigf : Bool
  sigDone : Bool
  /-- The attached signal: cell offset and amount, until it is applied. -/
  attached : Option (Nat × Word)
  complete : Bool
  deriving DecidableEq, Repr

/-- A parked standalone signal (R186, R190). -/
structure Parked where
  id : Nat
  key : Nat
  src : Nat
  part : Nat
  off : Nat
  amount : Word
  at_ : Nat
  port : Nat
  deriving DecidableEq, Repr

/-- A cluster-barrier entry's hidden state (R180, R181): the recorded P, whether the local completion of the round
has been counted, and the round data of the home. The state and ARRIVED fields stand in WX_SYNC_XB_STATUS. -/
structure XbEnt where
  p : Nat
  localIn : Bool
  /-- The home's round data (R446): NONFINITE votes, the lowest engine that voted so, and its layer. -/
  nfCount : Nat
  nfEngine : Nat
  nfLayer : Nat
  deriving DecidableEq, Repr

/-- A cluster-barrier entry with no round in progress. -/
def XbEnt.idle : XbEnt := ⟨0, false, 0, 0, 0⟩

/-- A realignment entry's BASE, S and T (R193). -/
structure Realign where
  armed : Bool
  base : Word
  steps : Nat
  taken : Nat
  deriving DecidableEq, Repr

/-- An entry that is not armed. -/
def Realign.off : Realign := ⟨false, 0, 0, 0⟩

/-- What a LEDG does (R120). -/
inductive LedgKind where
  | rd | chg | try_ | crd
  deriving DecidableEq, Repr

/-- A LEDG of a context that shares a cycle of its ledger (R213): the amount, and where the result goes. (DESIGN CHOICE, assumption log 121) -/
structure LedgOp where
  ledger : Nat
  part : Nat
  ctx : Nat
  dst : Nat
  kind : LedgKind
  amount : Nat
  deriving DecidableEq, Repr

/-- A ledger (R209): its weights, refill, bounds and balance in credits. -/
structure Ledger where
  wPrefill : Nat
  wGen : Nat
  refill : Nat
  cap : Nat
  floor : Nat
  bal : Int
  deriving DecidableEq, Repr

/-- A latency alert of a request (R298, R299): its kind, its due time, and whether it has fallen due and waits. -/
structure Alert where
  kind : Nat
  due : Nat
  fallen : Bool
  deriving DecidableEq, Repr

/-- A node of a request's candidate tree (R379): its token, its parent (0x7F for the decode row) and its depth. -/
structure TreeNode where
  token : Nat
  parent : Nat
  depth : Nat
  deriving DecidableEq, Repr

/-- Which events of a request are meant (R17): cancellation, deadline, fault, version, WVPIN, pause. -/
structure Events where
  cancel : Bool
  due : Bool
  fault : Bool
  ver : Bool
  /-- A WVPIN that awaits its boundary: a version, or none for UNPIN. -/
  pin : Option (Option Nat)
  pause : Bool
  deriving DecidableEq, Repr

/-- No event. -/
def Events.none : Events := ⟨false, false, false, false, Option.none, false⟩

/-- What the engine keeps of a live request beside its table entry (R221): its events that await a boundary (R20),
its place in admission order (R311), its age (R272), its step, its alert and its measurement (R292 to R298). -/
structure Req where
  live : Bool
  order : Nat
  cancel : Bool
  /-- The deadline has not yet raised its event (R302), and the event awaits its boundary. -/
  deadlineArmed : Bool
  deadlineEv : Bool
  pauseEv : Bool
  /-- A request fault pending: the status of row 4 of R20. -/
  faultEv : Option Nat
  /-- A terminal record formed in the step: the status of row 2 of R20. -/
  termEv : Option Nat
  age : Nat
  alert : Option Alert
  /-- The in-flight step that holds the request (R15), and whether the open batch does. -/
  inStep : Option Nat
  inBatch : Bool
  /-- The events accepted before the batch or step that holds the request, which take effect at the partition's next boundary
  (R17, R18). -/
  early : Events
  /-- A pause fell since the last measured moment (R296). -/
  pausedSince : Bool
  /-- Token records measured in the current step (R295): count and first token time. -/
  measured : Nat
  firstAt : Nat
  lastAt : Nat
  /-- A step with measured records has reached its boundary (R295). -/
  tokSeen : Bool
  /-- A version event awaits its boundary (R439); the version that WVPIN holds; a WVPIN that awaits its boundary
  (R442): a version, or none for UNPIN. -/
  verEv : Bool
  pinned : Option Nat
  pinEv : Option (Option Nat)
  /-- The page list (R235): its page numbers, and its blocks, the directory first. -/
  pages : List Nat
  blocks : List Nat
  /-- The learned prefix's VTOKENS (R237), 0 without one. -/
  vtok : Nat
  /-- The copy source held (R242), the copy directive not yet carried (R243): source, destination and slots, and the
  step that carries it. -/
  copySrc : Option Nat
  copyDir : Option (Nat × Nat × Nat)
  copyStep : Option Nat
  /-- The nodes of the prefix tree matched or inserted for the request, from level 1 down to the deepest (R248). -/
  path : List Nat
  /-- Whether a run of the request has been composed (FIRST of R283), the rebuild length RB of REPREFILL (R440), and the
  last token delivered (R283). -/
  started : Bool
  rb : Option Nat
  lastTok : Nat
  /-- Speculation (R379, R383, R390): the candidate tree, the accepted nodes to commit, and the head lists of the last
  anchor row. -/
  tree : List TreeNode
  commit : List Nat
  lists : KMap (List Nat)
  /-- The stack of the grammar configuration, bottom first (R363). -/
  gstack : List Nat
  /-- The penalty set (R360), whether the prompt has been taken into it, and PROMPT of the extension block last read. -/
  pen : List Nat
  penDone : Bool
  penPrompt : Option Bool
  deriving DecidableEq, Repr

/-- A slot with no live request. -/
def Req.none : Req :=
  { live := false, order := 0, cancel := false, deadlineArmed := false, deadlineEv := false, pauseEv := false,
    faultEv := Option.none, termEv := Option.none, age := 0, alert := Option.none, inStep := Option.none, early := Events.none,
    inBatch := false, pausedSince := false, measured := 0, firstAt := 0, lastAt := 0, tokSeen := false
    , verEv := false, pinned := Option.none, pinEv := Option.none
    , pages := [], blocks := [], vtok := 0, copySrc := Option.none, copyDir := Option.none, copyStep := Option.none, path := []
    , started := false, rb := Option.none, lastTok := 0, tree := [], commit := [], lists := []
    , gstack := []
    , pen := [], penDone := false, penPrompt := Option.none
  }

/-- A weight-version slot (R432 to R435): STATE, VERSION, the LAYERS and CELL captured at ANNOUNCE, and its places in
the orders of announcement and commit. -/
structure VSlot where
  st : Nat
  version : Nat
  layers : Nat
  cell : Nat
  announced : Nat
  committed : Nat
  deriving DecidableEq, Repr

/-- An EMPTY slot. -/
def VSlot.empty : VSlot := ⟨0, 0, 0, 0, 0, 0⟩

/-- An UPDATE command that has left and has no answer: its index, the beat time at which it left, and whether ECHO_LIMIT
has passed (R452, R453). -/
structure Unans where
  idx : Nat
  sent : Nat
  late : Bool
  deriving DecidableEq, Repr

/-- A parameter group (R443, R449, R452): its fields, its state, the shards' mismatch counts, the shard of each RESYNC
outstanding, and the round's commands: owners, LR and target, how many there are and how many have left. -/
structure Group where
  cfg : Word
  base : Word
  shardLo : Word
  shardHi : Word
  shards : Word
  lr : Word
  step : Word
  st : Nat
  retries : Nat
  misses : KMap Nat
  resync : List Nat
  owners : List Nat
  lrSent : Word
  target : Nat
  next : Nat
  total : Nat
  unans : List Unans
  deriving DecidableEq, Repr

/-- A group after cold reset (R458). -/
def Group.fresh : Group := ⟨0, 0, 0, 0, 1, 0, 0, 0, 0, [], [], [], 0, 0, 0, 0, []⟩

/-- An applied round at the authority (R449, R452): whether it is open, its commands, how many were answered, whether
the first has left, its target version, and the groups that take part in it and have not taken part in a later one. -/
structure Round where
  isOpen : Bool
  queued : Nat
  answered : Nat
  begun : Bool
  target : Nat
  groups : List Nat
  deriving DecidableEq, Repr

/-- A page record (R230, R231): REFCNT, whether the prefix tree is one of the holders, and NEXT on the free list. -/
structure PageRec where
  ref : Nat
  tree : Bool
  next : Nat
  deriving DecidableEq, Repr

/-- The record of a page that nothing holds. -/
def PageRec.free : PageRec := ⟨0, false, 0xFFFFFF⟩

/-- A node of a prefix tree (R244, R245): its label tokens, its page if it is a page node, and its children in the
order of their keys. The links of R245 follow from these and from the eviction and free lists. -/
structure Node where
  used : Bool
  key : Nat
  parent : Nat
  page : Option Nat
  level1 : Bool
  root : Bool
  lastUse : Nat
  off : Nat
  label : List Nat
  kids : List Nat
  deriving DecidableEq, Repr

/-- A free node. -/
def Node.free : Node := ⟨false, 0, 0x0FFFFFFF, Option.none, false, false, 0, 0, [], []⟩

/-- A run of a request in a batch or step (R267, R283): phase 1 PREFILL, 2 DECODE, 3 LEARN; the first step row; the
logical channel; the granted candidate nodes and the nodes to commit (R380). -/
structure Run where
  slot : Nat
  handle : Nat
  phase : Nat
  model : Nat
  rows : Nat
  row0 : Nat
  chan : Nat
  pass : Nat
  version : Nat
  pos0 : Nat
  forced : Bool
  first : Bool
  last : Bool
  copy : Option (Nat × Nat × Nat)
  nodes : List TreeNode
  commit : List Nat
  src : Nat
  /-- The slot of the run's request, which stands when the request has left the table, and as the seal found them its directory
  block, VTOKENS and the learned-prefix pages of its list (R283). -/
  home : Nat
  dir : Nat
  vtok : Nat
  lp : Nat
  deriving DecidableEq, Repr

/-- A page list that its request no longer has and that a step in flight still names (R239): the request's slot, the pages and
the blocks. -/
structure OldList where
  slot : Nat
  pages : List Nat
  blocks : List Nat
  deriving DecidableEq, Repr

/-- The open batch (R133, R264, R272): its kind, its owner, each group's role (0 MIXED, 1 PREFILL, 2 DECODE), the limits
captured at BOPEN, the bucket of each group, the requests with a reserved row and the runs granted. -/
structure Batch where
  learning : Bool
  owner : Nat
  roles : List (Nat × Nat)
  tb : Nat
  chunk : Nat
  seg : Nat
  gcap : Nat
  mixLearn : Nat
  mixGen : Nat
  buckets : List (Nat × Nat)
  reserved : List Nat
  runs : List Run
  /-- ROW_CAP of each profile under `tb` (R265, R289). -/
  caps : List Nat
  deriving DecidableEq, Repr

/-- A group of a sealed step (R263, R286): its channel, role, runs and rows, whether it has reported completion, whether
STEP_OPEN has been sent on its channel (R541), and the ERRORs received for the step on it (R544). -/
structure StepGrp where
  chan : Nat
  role : Nat
  runs : Nat
  rows : Nat
  done : Bool
  opened : Bool
  errs : Nat
  deriving DecidableEq, Repr

/-- A descriptor that waits on a channel for its credit (R280): its partition, its step and its bytes. -/
structure KdlOut where
  part : Nat
  step : Nat
  bytes : List Byte
  deriving DecidableEq, Repr

/-- A head descriptor as read and checked (R322, R323), with its address. -/
structure HeadDesc where
  addr : Nat
  fmt : Nat
  write : Bool
  learn : Bool
  gfmt : Nat
  gacc : Bool
  profile : Nat
  version : Nat
  lstride : Nat
  vocab : Nat
  hidden : Nat
  waddr : Nat
  saddr : Nat
  laddr : Nat
  rkey : Dword
  aux : Nat
  deriving DecidableEq, Repr

/-- A bottleneck block (R375). -/
structure Bneck where
  fmt : Nat
  act : Nat
  rank : Nat
  down : Nat
  downScale : Nat
  up : Nat
  upScale : Nat
  deriving DecidableEq, Repr

/-- An operation in the plane (R327 to R331): its partition and step, its head (0 main, 1 to 8) or BACK, its descriptor, its
covered rows of each pass still to run, the passes completed, and, of its running pass, the units that are done, those being
re-executed with the logical tile that does it (R337), those of the current round (R331) and the units that the round started
with, in the order of their groups of tiles. `z` holds the logits of a unit's vocabulary rows for step row t at
key unit * 2^20 + t. -/
structure PlaneOp where
  id : Nat
  part : Nat
  step : Nat
  head : Nat
  back : Bool
  desc : HeadDesc
  bneck : Option Bneck
  passesDone : List Nat
  units : List Nat
  redo : List (Nat × Nat)
  round : List Nat
  seats : List Nat
  z : KMap (List Nat)
  deriving DecidableEq, Repr

/-- A record of a step that has been formed (R411): the request's slot, where it stands in its batch (R420), its
bytes but PHASE, whether it is terminal, whether it carries a token, its token, and whether Spout has it (R423). -/
structure FormedRec where
  slot : Nat
  row : Nat
  pos : Nat
  bytes : List Byte
  terminal : Bool
  hasToken : Bool
  token : Nat
  handed : Bool
  deriving DecidableEq, Repr

/-- A sealed step in flight (R13, R278). `proc` is set once its seal is processed (R279) and `issued` once BISSUE has
taken it (R136). The rows present in the stage stand in `hid`. (DEDUCED, assumption log 68) -/
structure Step where
  num : Nat
  learning : Bool
  runs : List Run
  groups : List StepGrp
  passes : Nat
  sealedAt : Nat
  proc : Bool
  issued : Bool
  /-- The context that waits in BISSUE, and whether the descriptors have been handed to the channels. -/
  issuer : Option Nat
  queued : Bool
  /-- WX_SMP MODE and LOGP as the seal found them (R347). -/
  program : Bool
  logp : Nat
  /-- The stage (R325): hidden rows by step row, and the passes whose reservation is granted and
  released. -/
  hid : KMap (List Byte)
  granted : List Nat
  released : List Nat
  /-- Whether the step's group has formed in the plane (R329), and the operations completed: head, profile, version,
  WRITE, and for the main head the place of its logits. -/
  grouped : Bool
  doneOps : List PlaneOp
  /-- Drafted tokens by row and head: key 16 * row + head (R377). -/
  drafts : KMap (List Nat)
  /-- LEARN rows (R339): log-sum-exp, target and advantage of each row. -/
  learn : KMap (Word × Option Nat × Word)
  /-- Requests whose learning block is unusable (R338). -/
  badLearn : List Nat
  /-- Requests whose learning block has been read (R338). -/
  learnRead : List Nat
  /-- Records formed (R411). -/
  recs : List FormedRec
  /-- The late check time (R303), once the step's last operation has completed. -/
  lateAt : Option Nat
  /-- The step batch has been handed to Spout (R420). -/
  batched : Bool
  /-- The sampler words of each run as the seal found them (R221, R371): slot to words 13, 14 and 15. -/
  params : KMap (Dword × Dword × Dword)
  /-- Rows already sampled (R347). -/
  sampled : List Nat
  /-- The anchor row of each slot, accepted nodes, and records staged by EMIT, by slot. -/
  anchors : KMap Nat
  accepted : KMap (List Nat)
  /-- Rows of the stage that an uncorrectable error has taken away (R473). -/
  ueRows : List Nat
  /-- The page lists that stay until the step's boundary (R239). -/
  lists : List OldList
  deriving DecidableEq, Repr

/-- The run of a slot in a step. -/
def Step.runOf (s : Step) (slot : Nat) : Option Run := s.runs.find? fun r => decide (r.slot = slot)
/-- Rows of the step. -/
def Step.rows (s : Step) : Nat := s.runs.foldl (fun n r => n + r.rows) 0

/-- A partition's state beside its registers. (DEDUCED, assumption log 20) -/
structure Partn where
  ctxs : KMap Ctx
  /-- The context that holds the issue slot (R150). -/
  slot : Option Nat
  /-- The last context dispatched at each level, plus one; 0 before the first (R150). -/
  lastAt : KMap Nat
  /-- The context that last held the slot (R165, SWITCHES). -/
  lastSlot : Option Nat
  /-- The items of the ready lists, by level (R154). -/
  items : KMap (List Dword)
  delays : List DlEnt
  dlSeq : Word
  /-- The core of the partition has failed and a spare loads its contexts (R477). -/
  coreDown : Bool
  /-- The context command in progress: operation, context, and the ERR it will complete with. -/
  cmd : Option (Nat × Nat × Nat)
  /-- The deadline of the partition reset in progress (R60), and whether its third phase has run. -/
  resetAt : Nat
  resetPhase3 : Bool
  realigns : KMap Realign
  /-- Whether a realignment point has fallen since the last step boundary (R194). -/
  raDue : Bool
  xbs : KMap XbEnt
  /-- Whether a tenant fault of kind MEM has written its record since the partition last entered RUNNING (R581). -/
  memFaulted : Bool
  /-- The drawdown LEVEL in force, the beat at which the partition last entered RUNNING, and that of its last recovery
  event (R307). -/
  drawLevel : Nat
  startAt : Option Nat
  recoverAt : Option Nat
  /-- Resumption of paused requests is under way (R311). -/
  resuming : Bool
  /-- Alerts held behind a full ready list, in due order: request slots (R301). -/
  alertHeld : List Nat
  /-- The partition's free slots (R220): those never used since ENABLE from a cursor on, then those returned. -/
  freeFrom : Nat
  freed : List Nat
  /-- Requests committed since the partition was enabled: the next admission order (R217, R311). -/
  commits : Nat
  /-- An admission record that waits for completion-ring room (R202), with the PAUSED record that follows it (R309) and
  the ring of that record. -/
  admRec : Option (List Byte × Option (Option Nat × List Byte))
  /-- The beat time since which it waits, and whether it has counted as late (R427). -/
  admSince : Nat
  admLate : Bool
  /-- One more than the beat at which paused requests last resumed, or at which drawdown ended (R311). -/
  resumeAt : Nat
  /-- The version slots (R432) and the next place in their orders. -/
  vslots : KMap VSlot
  vseq : Nat
  round : Round
  /-- Rounds still open when the latest was applied, newest first (R452). -/
  rounds : List Round
  /-- Basin (R233, R238, R249, R250): the next untouched page, node and list block, the free lists, and the eviction
  list from its head. -/
  pageCur : Nat
  freePages : List Nat
  nodeCur : Nat
  freeNodes : List Nat
  blockCur : Nat
  freeBlocks : List Nat
  lru : List Nat
  /-- Weir (R263 to R279): the open batch, the steps in flight oldest first, the next step number, the aged queue, the
  beat of the last role change, and the kind of the last step sealed since ENABLE (R454). -/
  batch : Option Batch
  steps : List Step
  nextStep : Nat
  aged : List Nat
  roleBeat : Nat
  lastKind : Option Bool
  /-- One more than the beat of the last role update (R276). -/
  roleAt : Nat
  /-- An event was accepted while no step was in flight, and a step has been sealed before the idle boundary it asks for (R18). -/
  idleDue : Bool
  /-- Spout (R415 to R425): the completion ring, STATE and EPOCH of its header, and the next spill slot. -/
  cq : Ring
  hdr : Nat
  epoch : Nat
  spillNext : Nat
  /-- The partition's policy core has failed and no spare was left (R482). -/
  coreLost : Bool
  /-- How often the sources of the next record that the partition forms fail their check (R414): the model's own. -/
  srcFails : Nat
  deriving DecidableEq, Repr

/-- A partition after reset. (DESIGN CHOICE, assumption log 1) -/
def Partn.fresh : Partn :=
  { ctxs := [], slot := none, lastAt := [], lastSlot := none, items := [], delays := [], dlSeq := 0,
    coreDown := false, cmd := none, resetAt := 0, resetPhase3 := false, realigns := [], raDue := false, xbs := [],
    memFaulted := false
    , drawLevel := 0, startAt := none, recoverAt := none, resuming := false, alertHeld := [], freeFrom := 0, freed := []
    , commits := 0, admRec := none, admSince := 0, admLate := false, resumeAt := 0
    , vslots := [], vseq := 1, round := ⟨false, 0, 0, false, 0, []⟩, rounds := []
    , pageCur := 0, freePages := [], nodeCur := 0, freeNodes := [], blockCur := 0, freeBlocks := [], lru := []
    , batch := none, steps := [], nextStep := 0, aged := [], roleBeat := 0, lastKind := none
    , roleAt := 0, idleDue := false
    , cq := Ring.empty, hdr := 0, epoch := 0, spillNext := 0
    , coreLost := false, srcFails := 0
  }

/-- The engine: everything but the beat unit, the flash and the queue. -/
structure Eng where
  /-- The registers of the control window and the doorbell pages, by address; an unlisted one reads its cold-reset
  word. -/
  regs : KMap Word
  /-- Host memory: an unlisted byte reads 0 (assumption log 2). -/
  mem : List Host.Cell
  deny : List Deny
  txns : List Txn
  out : List Out
  /-- The next id of a transaction, travelling operation or parked signal. -/
  nextId : Nat
  /-- The counter that the free values are drawn at (the model's own; no statement rests on it). -/
  free : Nat
  resp : Resp
  latch : KMap Word
  parts : KMap Partn
  cells : KMap Cell
  travel : List Travel
  /-- Operations that reach their cell in the cycle in which the next command acts on it (R175): the cell and the operation. -/
  joined : List (Nat × CellOp)
  /-- The LEDG instructions that wait for the next cycle of their ledger, with which they share it (R213). -/
  ledJoined : List LedgOp
  /-- Slices whose operations are held during a remap (R479). -/
  sliceHold : List Nat
  /-- Slices and partitions' cores that failed while another of their kind is being replaced (R487). -/
  sliceWait : List Nat
  coreWait : List Nat
  /-- Slices lost with no spare (R482). -/
  sliceLost : List Nat
  /-- The physical core of each core position and the physical slice of each slice that a spare has replaced (R474). -/
  coreMap : KMap Nat
  sliceMap : KMap Nat
  xfers : List Xfer
  parked : List Parked
  /-- Signals with the times of their arrival, and DATA packets, that wait at the remote message ports (R189), oldest first. -/
  sigIn : List (RmMsg × Nat)
  dataIn : List RmMsg
  chans : KMap Chan
  /-- The physical channel of each logical channel; an unlisted one is its own number (R474). -/
  chanMap : KMap Nat
  /-- Logical channels lost with no spare (R482). -/
  chanLost : List Nat
  /-- Outbound flit credits of the remote message ports (key 4 * port + class) and of the hidden-state ports
  (key 2 * port + VC). -/
  rmCredit : KMap Nat
  hsCredit : KMap Nat
  /-- The port that the next remote message tries first, and the next packet of a failed hidden-state port (R480). -/
  rmTurn : Nat
  hsTurn : Nat
  /-- Messages and packets held for credits, oldest first. -/
  rmHeld : List (Nat × RmMsg)
  hsHeld : List (Nat × Nat × List Byte)
  i2cPtr : Nat
  /-- The TAP: its instruction register and the data register as last captured or updated (R557). -/
  jtagIr : Byte
  jtagDr : BitVec 160
  /-- A warm reset runs: phases 1 to 4 of R561. -/
  warm : Bool
  mcores : KMap MCore
  log : List LogEnt
  logHeld : List LogEnt
  upd : Option UpdCmd
  nego : Nego
  levelSet : Option (Nat × Nat)
  /-- Builds in the two microcode banks (R517): the CONTRACT level and BUILD_ID, none for an empty bank. -/
  banks : KMap (Option (Nat × Nat))
  bankSwitch : List Nat
  sens : KMap (BitVec 16)
  /-- A sample has been taken since the cold reset (R509). -/
  sampled : Bool
  droops : KMap Droop
  /-- The activity counters of a domain as the last sample found them (R501). -/
  activity : KMap Activity
  /-- Loans of gated cores in 0.01 W, by core position (R497). -/
  loans : KMap Nat
  /-- Spared rows by bank (R472). -/
  rowsSpared : KMap Nat
  /-- The ledgers that differ from the untouched one, by block-wide index, and whether any refill has been made since
  cold reset (R212, R214): an untouched ledger then stands at its CAP. -/
  ledgers : KMap (Option Ledger)
  refilled : Bool
  balStaged : Word
  /-- The request table (R221): word w of slot n at key 24 n + w. -/
  rqt : KMap Dword
  /-- The generation of each slot (R220). -/
  gens : KMap (BitVec 10)
  reqs : KMap Req
  /-- The parameter groups (R443). -/
  groups : KMap Group
  /-- Page records (R230) and prefix-tree nodes (R245), each also written through to host memory. -/
  pages : KMap PageRec
  nodes : KMap Node
  /-- Learned prefixes (R257): 0 not resident, 1 resident, 2 being unloaded; the pages each holds; the command in
  progress: OP, ID and the ERR with which it completes. -/
  lps : KMap Nat
  lpPages : KMap (List Nat)
  lpCmd : Option (Nat × Nat × Nat)
  /-- Seals waiting for processing, in the order of acceptance (R279): partition and step number. -/
  seals : List (Nat × Nat)
  /-- Descriptors that wait for credits, by logical channel (R280). -/
  kdlq : KMap (List KdlOut)
  /-- The plane queue (R327) and the running pass (R328): its operation and pass. -/
  planeq : List PlaneOp
  planeCur : Option (Nat × Nat)
  /-- The running pass of an abandoned step, up to the end of its round (R333): its operation, its rows and the units
  outstanding. -/
  planeStop : Option (PlaneOp × Nat × List Nat)
  /-- Failed tiles without a spare, which leave the active ones at the end of the round (R344). -/
  tileGone : List Nat
  /-- Answers owed to ABANDON descriptors: logical channel, partition and step (R543). -/
  abOwed : List (Nat × Nat × Nat)
  /-- The pool of privileged token rings (R421). -/
  trings : KMap TokenRing
  /-- Grammar residence (R369, R370), and the command in progress: its operation, id, ERR and entries checked. -/
  grams : KMap Gram
  gramCmd : Option (Nat × Nat × Nat × Nat × Nat)
  /-- The jump matrices are being rebuilt (R485), and the bit requests that wait for them: port, request, and K1 and K2, none
  for one that is rejected. -/
  romWait : Bool
  bitq : List (Nat × List Byte × Option (Dword × Dword))
  /-- Plane operations that wait for room in the plane queue (R327): partition, context and operation. -/
  planeWait : List (Nat × Nat × PlaneOp)
  /-- The failed tiles whose spares have not taken over, oldest first (R475, R487): the logical number of each and the unit that
  it computes, and the physical tile of each logical one that a spare has replaced (R474). -/
  tileDown : List (Nat × Nat)
  tileMap : KMap Nat
  /-- Passes that wait for a stage reservation, in the order of their first rows (R325): partition, step, pass; and the
  rows that stay in their port's buffer meanwhile (R548), oldest first. -/
  stageq : List (Nat × Nat × Nat)
  hrowHeld : List HRowPkt
  /-- Rows that failed their check on a hidden-state port and have not come whole there since (R547): port, partition, step,
  row, and the failures. -/
  hsBad : List (Nat × Nat × Nat × Nat × Nat)
  /-- The plane budget that the last controller period took, in 0.1 W (R502). -/
  budget : Nat
  /-- RESTART has been written and no core has become ACTIVE since: the core that was ACTIVE, plus one; 0 for none (R507,
  R514). -/
  restarted : Option Nat
  /-- LEND that the last controller period took, in 0.01 W (R502). -/
  lend : Nat
  /-- The partition that Sluice served last (R203). -/
  admLast : Nat
  /-- A pass has run in the plane since reset, so that its cycle counters may stand above 0 (R345). -/
  planeRan : Bool
  /-- The scrubber (R471, R472): the beat time at which its last pass ended, and the rows with corrected errors and those
  spared since. -/
  scrubAt : Option Nat
  scrubErrs : List (Nat × Nat)
  /-- The words that the scrub pass in progress has read as last shown (R471, R522). -/
  scrubPos : Nat
  /-- Words of the request table that the code cannot correct and that nothing has rewritten (R473, R531). -/
  rqtBad : List Nat
  deriving DecidableEq, Repr

/-- The engine after a cold reset (R560: everything but flash). (DESIGN CHOICE, assumption logs 1, 90) -/
def Eng.cold : Eng :=
  { regs := [], mem := [], deny := [], txns := [], out := [], nextId := 0, free := 0, resp := ⟨true, 0⟩,
    latch := [], parts := [], cells := [], travel := [], joined := [], ledJoined := [], sliceHold := [], sliceWait := [], coreWait := [], sliceLost := [], coreMap := [], sliceMap := [], xfers := [], parked := [], sigIn := [], dataIn := [], chans := [],
    chanMap := [], chanLost := [], rmCredit := [], hsCredit := [], rmTurn := 0, hsTurn := 0, rmHeld := [], hsHeld := [], i2cPtr := 0,
    jtagIr := 0x01, jtagDr := 0, warm := false, mcores := [], log := [], logHeld := [], upd := none,
    nego := ⟨0, 0, 0, none⟩, levelSet := none, banks := [], bankSwitch := [], sens := [], sampled := false, droops := [],
    activity := [], loans := [], rowsSpared := []
    , ledgers := [], refilled := false, balStaged := 0, rqt := [], gens := [], reqs := []
    , groups := []
    , pages := [], nodes := [], lps := [], lpPages := [], lpCmd := none
    , seals := [], kdlq := [], planeq := [], planeCur := none, planeStop := none, tileGone := []
    , abOwed := []
    , trings := [], grams := [], gramCmd := none
    , romWait := false, bitq := [], planeWait := [], tileDown := [], tileMap := [], stageq := [], hrowHeld := [], hsBad := []
    , budget := 1850, restarted := none, lend := 60, planeRan := false, admLast := 31, scrubAt := none, scrubErrs := [], scrubPos := 0, rqtBad := []
  }

/-- The beat unit after a cold reset: IDLE at beat time 0 (R37, R45). (DESIGN CHOICE, assumption log 1) -/
def BeatUnit.cold : BeatUnit :=
  { time := 0, entered := 0, before := 0, st := .idle, waiting := none, intervals := [], okMean := 0, outRun := 0, edge := none,
    prevValid := false, acqBeat := 0, acqRun := 0, acqIntervals := [], badRun := 0, still := false,
    freeMark := false, masterFirst := false, idSeen := false }

/-- Flash as delivered: both slots EMPTY (assumption log 3). -/
def Flash.blank : Flash :=
  { slotA := ⟨.empty, 0, []⟩, slotB := ⟨.empty, 0, []⟩, minSvn := 0, bootCount := 0, log := []
    hdr0 := some ⟨.empty, 0, 0, .empty, 0, 0, 0, 0, 0⟩ }

/-- The state of the block. `pending` is the queue of commands, first in, first out. (DESIGN CHOICE, assumption log 98) -/
structure State where
  pending : List Instr
  beat : BeatUnit
  eng : Eng
  flash : Flash
  deriving DecidableEq, Repr

/-- The block right after reset (R560, R578). (DESIGN CHOICE, assumption logs 1, 2, 91) -/
def State.reset : State := ⟨[], BeatUnit.cold, Eng.cold, Flash.blank⟩

end Sys2Proof.Machine
end

