-- ==== Sys2Proof/Machine/Ops.lean ====
section
/-! DEFINITION. The named operations over registers, host memory, records, the event log, contexts and the issue slot, each written once and shared by the meanings. -/

namespace Sys2Proof.Machine

open Sys2Proof

/-! ## The state's two halves -/

/-- Change the engine, reading the beat unit. (DESIGN CHOICE, assumption log 5) -/
def State.onEng (s : State) (f : BeatUnit → Eng → Eng) : State := { s with eng := f s.beat s.eng }

/-- Apply `f` where a condition holds. -/
def Eng.when (e : Eng) (c : Bool) (f : Eng → Eng) : Eng := if c then f e else e

/-! ## Registers -/

/-- The word stored at an address of the control window (R578: a cold-reset word where nothing is stored). -/
def rdIn (m : KMap Word) (a : Nat) : Word :=
  match m.find? fun e => decide (e.1 = a) with
  | some e => e.2
  | none => resetWord a

/-- The stored word of a register. -/
def Eng.rd (e : Eng) (a : Nat) : Word := rdIn e.regs a

/-- Store a register word, in canonical form. -/
def Eng.wr (e : Eng) (a : Nat) (v : Word) : Eng :=
  { e with regs := if v = resetWord a then kdel e.regs a else kins a v (kdel e.regs a) }

/-- A field of a register. -/
def Eng.fld (e : Eng) (a hi lo : Nat) : Nat := bitsOf (e.rd a).toNat hi lo

/-- One bit of a register. -/
def Eng.bit (e : Eng) (a i : Nat) : Bool := (e.rd a).toNat.testBit i

/-- An input of the Dispatch Link, hidden-state or remote message ports, which the engine ignores while wx_ready_o is low (R533,
R559). (DESIGN CHOICE, assumption log 5) -/
def State.onPort (s : State) (f : BeatUnit → Eng → Eng) : State :=
  s.onEng fun b e => if e.bit Reg.glbStatus 31 then f b e else e

/-- Set a field of a register. -/
def Eng.setF (e : Eng) (a hi lo n : Nat) : Eng := e.wr a (BitVec.ofNat 32 (putBits (e.rd a).toNat hi lo n))

/-- Set an event bit (R9: a bit that hardware sets ends set). -/
def Eng.ev (e : Eng) (a i : Nat) : Eng := e.setF a i i 1

/-- Count in a field that saturates. -/
def Eng.bump (e : Eng) (a hi lo : Nat) (n : Nat := 1) : Eng :=
  e.setF a hi lo (min (e.fld a hi lo + n) (2 ^ (hi + 1 - lo) - 1))

/-- Count in a field that wraps. -/
def Eng.bumpWrap (e : Eng) (a hi lo : Nat) (n : Nat := 1) : Eng :=
  e.setF a hi lo ((e.fld a hi lo + n) % 2 ^ (hi + 1 - lo))

/-- A 64-bit value held in a LO and a HI register. -/
def Eng.pair (e : Eng) (lo hi : Nat) : Nat := (e.rd lo).toNat + (e.rd hi).toNat * 2 ^ 32

/-- Store a 64-bit value in a LO and a HI register. -/
def Eng.setPair (e : Eng) (lo hi v : Nat) : Eng :=
  (e.wr lo (BitVec.ofNat 32 v)).wr hi (BitVec.ofNat 32 (v / 2 ^ 32))

/-- A doorbell-page register's address (R54's page table): page base plus offset. -/
def door (p off : Nat) : Nat := 0x200000 + 0x10000 * p + off

/-! ## Host memory -/

/-- The canonical form of host memory: addresses below 2^64 strictly rising, and no listed byte 0, which is what an unlisted
address reads as (assumption log 2). -/
def Memory.wf (m : List Host.Cell) : Bool := kwf (0 : Byte) m && m.all fun c => decide (c.1 < 2 ^ 64)

/-- A byte of host memory. (DESIGN CHOICE, assumption log 2) -/
def Eng.byte (e : Eng) (a : Nat) : Byte := kget 0 e.mem (a % 2 ^ 64)

/-- `n` bytes of host memory, in address order. -/
def Eng.bytes (e : Eng) (a n : Nat) : List Byte := (List.range n).map fun i => e.byte (a + i)

/-- A little-endian number in host memory (R5). -/
def Eng.num (e : Eng) (a n : Nat) : Nat := ofLe (e.bytes a n)

/-- The memory after writing bytes from an address on. (DESIGN CHOICE, assumption log 2) -/
def memStore : List Host.Cell → Nat → List Byte → List Host.Cell
  | m, _, [] => m
  | m, a, b :: r => memStore (kset 0 m (a % 2 ^ 64) b) (a + 1) r

/-- Write bytes to host memory. -/
def Eng.store (e : Eng) (a : Nat) (d : List Byte) : Eng := { e with mem := memStore e.mem a d }

/-- Write a little-endian number to host memory (R5). -/
def Eng.storeNum (e : Eng) (a n v : Nat) : Eng := e.store a (leBytes n v)

/-- Whether an access is answered with an error: by the host's protection unit (R102, R581), or a read whose parity fails
while AXI_PARITY is 1 (R469). `part` is none for accesses with PART_VALID 0 (R536). (DESIGN CHOICE, assumption log 21) -/
def Eng.refused (e : Eng) (part : Option Nat) (write : Bool) (a n : Nat) : Bool :=
  e.deny.any fun d => decide (d.part = part) && (if write then d.onWrite else d.onRead || (d.onParity && e.bit Reg.intCtrl 1)) &&
    decide (a < d.hi) && decide (d.lo < a + n)

/-! ## CRC-32C (R205) -/

/-- One bit step of the reflected CRC-32C register. -/
def crcBit (c : BitVec 32) : BitVec 32 :=
  if c.getLsbD 0 then (c >>> 1) ^^^ 0x82F63B78#32 else c >>> 1

/-- Eight bit steps after taking in one byte. -/
def crcByte (c : BitVec 32) (b : Byte) : BitVec 32 :=
  crcBit (crcBit (crcBit (crcBit (crcBit (crcBit (crcBit (crcBit (c ^^^ b.setWidth 32))))))))

/-- CRC-32C of bytes: initial value and final exclusive-or all ones, reflected (R205). (DESIGN CHOICE, assumption log 94) -/
def crc32c (l : List Byte) : BitVec 32 := l.foldl crcByte 0xFFFFFFFF#32 ^^^ 0xFFFFFFFF#32

/-- A record with its CRC-32C appended in its last four bytes. (DESIGN CHOICE, assumption log 94) -/
def withCrc (l : List Byte) : List Byte := l ++ leBytes 4 (crc32c l).toNat

/-- Whether the last four bytes of a record hold the CRC of the bytes before them. (DESIGN CHOICE, assumption log 94) -/
def crcGood (l : List Byte) : Bool :=
  decide (fieldAt l (l.length - 4) 4 = (crc32c (l.take (l.length - 4))).toNat)

/-! ## Beat time -/

/-- Whether timestamps carry the FREE mark (R37, R42). -/
def BeatUnit.marksFree (b : BeatUnit) : Bool :=
  match b.st with
  | .acquire | .free | .expired => true
  | _ => b.freeMark

/-- Whether timestamps carry the EXPIRED mark (R37). -/
def BeatUnit.marksExpired (b : BeatUnit) : Bool := decide (b.st = .expired)

/-- The timestamp word of R46. -/
def BeatUnit.stamp (b : BeatUnit) : Nat :=
  b.time % 2 ^ 56 + (if b.marksFree then 2 ^ 56 else 0) + (if b.marksExpired then 2 ^ 57 else 0)

/-- The beat number. -/
def BeatUnit.beat (b : BeatUnit) : Nat := b.time / 256

/-- Whether beat time stands where the present beat was entered: its tick 0, or the time that a jump reached (R26). -/
def BeatUnit.newBeat (b : BeatUnit) : Bool := decide (b.time = b.entered)

/-- Whether a boundary of period `k` lies after beat `before` and at or before beat `now` (R26). -/
def periodPassed (k before now : Nat) : Bool := decide (before / k < now / k)

/-- Whether beat time is being kept, as R39 and R55 ask. -/
def BeatUnit.running (b : BeatUnit) : Bool :=
  match b.st with
  | .locked | .free | .expired | .master => true
  | _ => false

/-! ## Partitions and contexts -/

/-- A partition. -/
def Eng.part (e : Eng) (p : Nat) : Partn := kget Partn.fresh e.parts p

/-- Change a partition. -/
def Eng.onPart (e : Eng) (p : Nat) (f : Partn → Partn) : Eng := { e with parts := kmod Partn.fresh e.parts p f }

/-- A context. -/
def Partn.ctx (q : Partn) (c : Nat) : Ctx := kget Ctx.cleared q.ctxs c

/-- Change a context of a partition. -/
def Partn.onCtx (q : Partn) (c : Nat) (f : Ctx → Ctx) : Partn := { q with ctxs := kmod Ctx.cleared q.ctxs c f }

/-- A context. -/
def Eng.ctx (e : Eng) (p c : Nat) : Ctx := (e.part p).ctx c

/-- Change a context. -/
def Eng.onCtx (e : Eng) (p c : Nat) (f : Ctx → Ctx) : Eng := e.onPart p fun q => q.onCtx c f

/-- The partition state codes of R54. -/
abbrev psDisabled : Nat := 0
abbrev psRunning : Nat := 1
abbrev psResetting : Nat := 2
abbrev psHalted : Nat := 3

/-- The STATE field of WX_PART_STATUS (R54). -/
def Eng.pstate (e : Eng) (p : Nat) : Nat := e.fld (Reg.partStatus p) 1 0

/-- Whether a partition is RUNNING. -/
def Eng.running (e : Eng) (p : Nat) : Bool := decide (e.pstate p = psRunning)

/-- A partition in use (R52): not DISABLED, or with ENABLE pending. -/
def Eng.inUse (e : Eng) (p : Nat) : Bool := decide (e.pstate p ≠ psDisabled) || e.bit (Reg.partStatus p) 2

/-- DISABLED with no ENABLE pending: the state in which share registers may be written (R51, R55). -/
def Eng.idlePart (e : Eng) (p : Nat) : Bool := !e.inUse p

/-- The first semaphore cell of a partition and how many it has (R50). -/
def Eng.semBase (e : Eng) (p : Nat) : Nat := e.fld (Reg.partSem p) 7 0 * 256
def Eng.semSize (e : Eng) (p : Nat) : Nat := e.fld (Reg.partSem p) 24 16 * 256
/-- The first ledger of a partition and how many it has. -/
def Eng.ledBase (e : Eng) (p : Nat) : Nat := e.fld (Reg.partLedger p) 7 0 * 32
def Eng.ledSize (e : Eng) (p : Nat) : Nat := e.fld (Reg.partLedger p) 24 16 * 32
/-- The first request-table slot of a partition and how many it has. -/
def Eng.rqtBase (e : Eng) (p : Nat) : Nat := e.fld (Reg.partRqt p) 6 0 * 1024
def Eng.rqtSize (e : Eng) (p : Nat) : Nat := e.fld (Reg.partRqt p) 23 16 * 1024
/-- The dispatch mask of a partition (R50), without the channels lost with no spare (R482). -/
def Eng.dispMask (e : Eng) (p : Nat) : Nat := e.pair (Reg.partDispLo p) (Reg.partDispHi p)
/-- The logical channels of a partition's mask that are in service, in increasing order. -/
def Eng.dispChans (e : Eng) (p : Nat) : List Nat :=
  (List.range 64).filter fun c => (e.dispMask p).testBit c && !e.chanLost.contains c
/-- The physical unit behind a logical number: the spare that has taken it, or the unit of that number (R474). -/
def physOf (m : KMap Nat) (n : Nat) : Nat :=
  match m.find? fun x => decide (x.1 = n) with
  | some x => x.2
  | none => n
/-- A logical number moves to another physical unit. -/
def remapTo (m : KMap Nat) (n ph : Nat) : KMap Nat := kins n ph (kdel m n)
/-- The physical channel behind a logical channel (R474). -/
def Eng.phys (e : Eng) (c : Nat) : Nat := physOf e.chanMap c
/-- A physical channel. -/
def Eng.chan (e : Eng) (c : Nat) : Chan := kget Chan.down e.chans c

/-- The partition in use whose semaphore range holds a physical cell (R169). -/
def Eng.cellOwner (e : Eng) (cell : Nat) : Option Nat :=
  (List.range 32).find? fun p => e.inUse p && decide (e.semBase p ≤ cell) && decide (cell < e.semBase p + e.semSize p)

/-- A number lies in the range of another partition in use: no operation of this partition touches what stands there (R58). A
partition in use meets no other (R52); the ranges of a DISABLED one are not checked. -/
def Eng.elsewhere (e : Eng) (p : Nat) (lo size : Nat → Nat) (x : Nat) : Bool :=
  (List.range 32).any fun q => decide (q ≠ p) && e.inUse q && decide (lo q ≤ x) && decide (x < lo q + size q)

/-- A cell of another partition in use. -/
def Eng.cellElsewhere (e : Eng) (p cell : Nat) : Bool := e.elsewhere p e.semBase e.semSize cell

/-- Set an event bit in WX_PART_EVENT. -/
def Eng.partEv (e : Eng) (p i : Nat) : Eng := e.ev (Reg.partEvent p) i

/-- CFG_ERR of WX_PART_EVENT. -/
def Eng.cfgErr (e : Eng) (p : Nat) : Eng := e.partEv p 1

/-! ## Scalar registers -/

/-- A scalar register: s0 reads 0 (R75). -/
def Ctx.sreg (c : Ctx) (r : Nat) : Dword := if r = 0 then 0 else kget 0 c.s r
/-- Write a scalar register: a write to s0 is discarded (R75). -/
def Ctx.setS (c : Ctx) (r : Nat) (v : Dword) : Ctx := if r = 0 then c else { c with s := kset 0 c.s r v }
/-- A predicate: p0 reads 1 (R75). -/
def Ctx.pred (c : Ctx) (r : Nat) : Bool := if r = 0 then true else c.p.getLsbD r
/-- Write a predicate: a write to p0 is discarded (R75). -/
def Ctx.setP (c : Ctx) (r : Nat) (v : Bool) : Ctx :=
  if r = 0 then c else { c with p := if v then c.p ||| (1#8 <<< r) else c.p &&& ~~~(1#8 <<< r) }
/-- A vector handle. -/
def Ctx.vh (c : Ctx) (r : Nat) : VHandle := kget VHandle.unbound c.v r
/-- Write a vector handle. -/
def Ctx.setV (c : Ctx) (r : Nat) (h : VHandle) : Ctx := { c with v := kset VHandle.unbound c.v r h }

/-! ## Cells -/

/-- A physical cell. -/
def Eng.cell (e : Eng) (n : Nat) : Cell := kget Cell.zero e.cells n
/-- Change a physical cell. -/
def Eng.onCell (e : Eng) (n : Nat) (f : Cell → Cell) : Eng := { e with cells := kmod Cell.zero e.cells n f }

/-! ## The event log (R510 to R512) -/

/-- Whether an entry of the type carries KEEP (R511). -/
def logKeeps (type : Nat) : Bool := !(decide (type = 0x20) || decide (type = 0x21))

/-- The 64 bytes of a log entry (R510). -/
def LogEnt.bytes (l : LogEnt) (engine : Nat) : List Byte :=
  withCrc (leBytes 4 l.seq ++ leBytes 4 l.boot ++ leBytes 8 l.time.toNat ++ leBytes 2 l.type ++
    [BitVec.ofNat 8 (l.src + if l.keep then 128 else 0),
     match l.part with
     | some p => BitVec.ofNat 8 p
     | none => 0x80#8] ++ leBytes 2 engine ++ [0, 0] ++ (l.payload ++ List.replicate 36 0).take 36)

/-- An entry that flash holds: its SEQ lies before WX_MGMT_LOG_MIRRORED (R508, R511). -/
def Eng.mirrored (e : Eng) (seq : Nat) : Bool :=
  let d := (e.fld Reg.mgmtLogMirrored 31 0 + 2 ^ 32 - seq) % 2 ^ 32
  decide (0 < d) && decide (d < 2 ^ 31)

/-- The entries that occupy a slot: neither mirrored nor written to the host log ring (R511). -/
def Eng.logOcc (e : Eng) : Nat := (e.log.filter fun l => !e.mirrored l.seq).length

/-- Put an entry into the ring, giving it the next SEQ (R511). -/
def Eng.logPut (e : Eng) (l : LogEnt) : Eng :=
  let seq := e.fld Reg.mgmtLogSeq 31 0
  let e := { e with log := e.log ++ [{ l with seq := seq }] }
  let e := e.bumpWrap Reg.mgmtLogSeq 31 0
  e.setF Reg.mgmtLogOcc 30 16 (max (e.fld Reg.mgmtLogOcc 30 16) e.logOcc)

/-- Capacity of the log ring. -/
abbrev logSlots : Nat := 16384

/-- Make a log entry in the ring (R512): a non-KEEP entry that finds no free slot is dropped and counted, a KEEP entry waits, and
behind it the later KEEP entries of its source. -/
def Eng.logRaw (b : BeatUnit) (type src : Nat) (part : Option Nat) (payload : List Byte) (e : Eng) : Eng :=
  let l : LogEnt := ⟨0, e.fld Reg.mgmtBootCount 31 0, BitVec.ofNat 64 b.stamp, type, src, logKeeps type, part, payload⟩
  if l.keep && e.logHeld.any fun x => decide (x.src = src) then { (e.ev Reg.mgmtEvent 4) with logHeld := e.logHeld ++ [l] }
  else if e.logOcc < logSlots then e.logPut l
  else if l.keep then { (e.ev Reg.mgmtEvent 4) with logHeld := e.logHeld ++ [l] }
  else (e.bump Reg.mgmtLogLost 31 0).ev Reg.mgmtEvent 3

/-! ## Fault records (R483 to R486) -/

/-- Bytes padded with zeros to a length. -/
def padTo (n : Nat) (l : List Byte) : List Byte := (l ++ List.replicate n 0).take n

/-- Whether a ring with 32-bit indices has room (R415). -/
def ringRoom (log2 head tail : Nat) : Bool := decide ((tail + 2 ^ 32 - head) % 2 ^ 32 < 2 ^ log2)

/-- The 64 bytes of a fault record (R483). -/
def faultBytes (b : BeatUnit) (eng : Bool) (kind part ctx seq pc fault : Nat) (detail : List Byte) : List Byte :=
  withCrc ([if eng then 1#8 else 0#8, BitVec.ofNat 8 kind, BitVec.ofNat 8 part, BitVec.ofNat 8 ctx] ++
    leBytes 4 seq ++ leBytes 8 b.stamp ++ leBytes 8 pc ++ leBytes 8 fault ++ padTo 28 detail)

/-- Write a tenant fault record to the partition's fault ring, with CTX_FAULT where it is attributed to a context and HALTED where
it is not (R486): a full ring, an error response or closed memory ports
(R533) lose it. (DEDUCED, assumption log 52) -/
def Eng.tenantRec (b : BeatUnit) (p : Nat) (kind ctx pc fault : Nat) (detail : List Byte) (e : Eng) : Eng :=
  let tail := e.fld (Reg.intFltTail p) 31 0
  let log2 := e.fld (Reg.intFltCfg p) 4 0
  let a := e.pair (Reg.intFltBaseLo p) (Reg.intFltBaseHi p) + tail % 2 ^ log2 * 64
  if !e.bit Reg.glbStatus 31 || !ringRoom log2 (e.fld (Reg.intFltHead p) 31 0) tail || e.refused (some p) true a 64 then
    e.bump (Reg.intFltLost p) 31 0
  else ((e.store a (faultBytes b false kind p ctx tail pc fault detail)).bumpWrap (Reg.intFltTail p) 31 0).partEv p (if 128 ≤ ctx then 4 else 3)

/-- The unit kinds of an engine fault's DETAIL: 0 for none, then the kinds of R482 that are units. -/
abbrev ukTile : Nat := 1
abbrev ukCore : Nat := 2
abbrev ukChannel : Nat := 3
abbrev ukSlice : Nat := 4
abbrev ukMemPort : Nat := 5
abbrev ukHsPort : Nat := 6
abbrev ukRmPort : Nat := 7

/-- DETAIL of an engine fault (R483). -/
def engDetail (unit phys logical struct addr synd left : Nat) : List Byte :=
  [BitVec.ofNat 8 (Config.unitCode unit), 0] ++ leBytes 2 phys ++ leBytes 2 logical ++ leBytes 2 (Config.structId struct) ++ leBytes 8 addr ++
    leBytes 4 synd ++ leBytes 4 left

/-- The structure of the request table, whose words Strings reaches (R527, R567). (DESIGN CHOICE, assumption log 23) -/
abbrev structRqt : Nat := 3

/-- DETAIL of the record of an uncorrectable error (R483): the structure, the word address where the finding names the word, and
the syndrome, which no rule gives. (DESIGN CHOICE, assumption log 118) -/
def Eng.ueDetail (e : Eng) (struct : Nat) (word : Option Nat := none) : List Byte :=
  let n := e.fld Reg.intEfrTail 31 0
  engDetail 0 0 0 struct (word.getD (Config.faultWord struct n).toNat) (Config.syndrome struct n).toNat 0

/-- An engine fault (R485, R486): its record in the engine fault ring, an ENGINE_FAULT log entry, EFAULT. (DEDUCED,
assumption log 52) -/
def Eng.engFaultRaw (b : BeatUnit) (kind : Nat) (part : Option Nat) (detail : List Byte) (e : Eng) : Eng :=
  let tail := e.fld Reg.intEfrTail 31 0
  let log2 := e.fld Reg.intEfrCfg 4 0
  let a := e.pair Reg.intEfrBaseLo Reg.intEfrBaseHi + tail % 2 ^ log2 * 64
  let pb := match part with
    | some p => p
    | none => 0x80
  let rec_ := faultBytes b true kind pb 0 tail 0 (kind * 2 ^ 56) detail
  let e := if !e.bit Reg.glbStatus 31 || !ringRoom log2 (e.fld Reg.intEfrHead 31 0) tail || e.refused none true a 64 then
      e.bump Reg.intEfrLost 31 0
    else (e.store a rec_).bumpWrap Reg.intEfrTail 31 0
  let e := e.logRaw b 0x0001 0 part (rec_.take 4 ++ bytesAt rec_ 0x20 28)
  e.ev Reg.intEvent 0

/-- Write one entry to the host log ring if it has room (R511); a refused write counts as made and raises MEM_ERR (R581), whose
own entry is written with a later one. (DEDUCED, assumption log 52) -/
def Eng.hlogOne (b : BeatUnit) (e : Eng) : Eng :=
  let log2 := e.fld Reg.mgmtHlogCfg 4 0
  let tail := e.fld Reg.mgmtHlogTail 31 0
  match e.log with
  | [] => e
  | l :: r =>
    if log2 = 0 ∨ ringRoom log2 (e.fld Reg.mgmtHlogHead 31 0) tail = false ∨ e.bit Reg.glbStatus 31 = false then e
    else
      let a := e.pair Reg.mgmtHlogBaseLo Reg.mgmtHlogBaseHi + tail % 2 ^ log2 * 64
      let e := ({ e with log := r } : Eng).bumpWrap Reg.mgmtHlogTail 31 0
      if e.refused none true a 64 then e.engFaultRaw b 0x8C none (engDetail 0 0 0 0 a 0 0)
      else e.store a (l.bytes (e.fld Reg.syncEngineId 15 0))

/-- Write the entries that wait to the host log ring, in SEQ order (R511). -/
def Eng.hlogPump (b : BeatUnit) (e : Eng) : Eng := e.log.foldl (fun e _ => e.hlogOne b) e

/-- Make a log entry (R510 to R512). -/
def Eng.logAdd (b : BeatUnit) (type src : Nat) (part : Option Nat) (payload : List Byte) (e : Eng) : Eng :=
  (e.logRaw b type src part payload).hlogPump b

/-- A Strings write is logged and counted (R514, R528, R531): the partition that it concerns, the space, the address, and the value
before and after. -/
def Eng.strLog (b : BeatUnit) (src : Nat) (part : Option Nat) (space addr old new : Nat) (e : Eng) : Eng :=
  let e := e.logAdd b 0x0007 src part (leBytes 4 space ++ leBytes 8 addr ++ leBytes 8 old ++ leBytes 8 new)
  (e.bump Reg.dbgWrites 31 0).setF Reg.dbgStatus 1 0 src

/-- Raise an engine fault (R485, R486). -/
def Eng.engFault (b : BeatUnit) (kind : Nat) (part : Option Nat) (detail : List Byte) (e : Eng) : Eng :=
  (e.engFaultRaw b kind part detail).hlogPump b

/-- The record of a tenant fault of kind MEM (R581): only the first since the partition last entered RUNNING writes one. -/
def Eng.memRec (b : BeatUnit) (p addr : Nat) (write : Bool) (e : Eng) : Eng :=
  if e.pstate p = psResetting ∨ (e.part p).memFaulted = true then e
  else (e.tenantRec b p 0x22 0 0 (0x22 * 2 ^ 56) (leBytes 8 addr ++ [if write then 1#8 else 0#8])).onPart p
    fun q => { q with memFaulted := true }

/-- A token ring of the pool (R421). -/
def Eng.tring (e : Eng) (n : Nat) : TokenRing := kget TokenRing.free e.trings n

/-- The token rings that a partition holds. -/
def Eng.heldRings (e : Eng) (p : Nat) : List Nat :=
  (e.trings.filter fun x => x.2.held && decide (x.2.part = p)).map fun x => x.1

/-- The address of a ring's header: the completion ring's (none), or a token ring's (R417, R422). -/
def Eng.headerAddr (e : Eng) (p : Nat) : Option Nat → Nat
  | none => e.pair (Reg.spoutCqBaseLo p) (Reg.spoutCqBaseHi p)
  | some n => e.pair (Reg.spoutTrBaseLo p) (Reg.spoutTrBaseHi p) + 64 * n

/-- The bytes of a ring's header (R417, R422): STATE, EPOCH, TAIL, and a token ring's owner. -/
def Eng.headerBytes (e : Eng) (p : Nat) : Option Nat → List Byte
  | none => padTo 64 (leBytes 4 (e.part p).hdr ++ leBytes 4 (e.part p).epoch ++ leBytes 4 (e.part p).cq.tail)
  | some n => padTo 64 (leBytes 4 (e.part p).hdr ++ leBytes 4 (e.part p).epoch ++ leBytes 4 (e.tring n).ring.tail ++
      leBytes 4 (e.tring n).handle)

/-- Write a ring's header as one 64-byte write (R417); an error leaves its record (R416). -/
def Eng.storeHeader (b : BeatUnit) (p : Nat) (r : Option Nat) (e : Eng) : Eng :=
  if e.refused (some p) true (e.headerAddr p r) 64 then e.memRec b p (e.headerAddr p r) true
  else e.store (e.headerAddr p r) (e.headerBytes p r)

/-- The codes of STATE in a header (R417). -/
abbrev hdAbsent : Nat := 0
abbrev hdOnline : Nat := 1
abbrev hdHalted : Nat := 2
abbrev hdResetting : Nat := 3

/-- Set STATE and write it into the header of every ring of the partition (R418). -/
def Eng.storeHeaders (b : BeatUnit) (p st : Nat) (e : Eng) : Eng :=
  let e := (e.onPart p fun q => { q with hdr := st }).storeHeader b p none
  (e.heldRings p).foldl (fun e n => e.storeHeader b p (some n)) e

/-- The partition in use whose range of a resource holds number `n` (R50). -/
def Eng.rangeOwner (e : Eng) (base size : Nat → Nat) (n : Nat) : Option Nat :=
  (List.range 32).find? fun p => e.inUse p && decide (base p ≤ n) && decide (n < base p + size p)

/-- A partition enters HALTED (R57): its contexts no longer hold the issue slot, and its ring headers say so (R418).
(DEDUCED, assumption log 72) -/
def Eng.halt (b : BeatUnit) (p : Nat) (e : Eng) : Eng :=
  if e.pstate p ≠ psRunning then e
  else (((e.setF (Reg.partStatus p) 1 0 psHalted).partEv p 3).onPart p fun q => { q with slot := none }).storeHeaders b p hdHalted

/-- A tenant fault that cannot be attributed to a context (R57, R484): suppressed while RESETTING (R62). -/
def Eng.tenantFault (b : BeatUnit) (p kind : Nat) (detail : List Byte) (e : Eng) : Eng :=
  if e.pstate p = psResetting then e
  else (e.tenantRec b p kind 0 0 (kind * 2 ^ 56) detail).halt b p

/-- A tenant fault of kind MEM for a transaction of the partition (R581). -/
def Eng.memFault (b : BeatUnit) (p addr : Nat) (write : Bool) (e : Eng) : Eng := (e.memRec b p addr write).halt b p

/-- Write STATE into every ring header of a partition (R418); an error halts it (R416). -/
def Eng.setHeader (b : BeatUnit) (p st : Nat) (e : Eng) : Eng :=
  let bad := e.refused (some p) true (e.headerAddr p none) 64 ||
    (e.heldRings p).any fun n => e.refused (some p) true (e.headerAddr p (some n)) 64
  let e := e.storeHeaders b p st
  if bad then e.halt b p else e

/-- A write that the engine makes for a partition (R536): an error response is a tenant fault of kind MEM, and the
write counts as made (R581). (DESIGN CHOICE, assumption log 26) -/
def Eng.partStore (b : BeatUnit) (p a : Nat) (d : List Byte) (e : Eng) : Eng :=
  if e.refused (some p) true a d.length then e.memFault b p a true else e.store a d

/-- A byte read for a partition: unspecified, a free value, where the read draws an error (R581). (DESIGN CHOICE, assumption
log 93) -/
def Eng.pbyte (e : Eng) (p a : Nat) : Byte :=
  if e.refused (some p) false (a % 2 ^ 64) 1 then (Config.freeWord (e.free + a)).setWidth 8 else e.byte a

/-- Bytes and a number read for a partition. -/
def Eng.pbytes (e : Eng) (p a n : Nat) : List Byte := (List.range n).map fun i => e.pbyte p (a + i)
def Eng.pnum (e : Eng) (p a n : Nat) : Nat := ofLe (e.pbytes p a n)

/-- A read that the engine makes for a partition has drawn an error (R581). (DESIGN CHOICE, assumption logs 26, 29) -/
def Eng.partRead (b : BeatUnit) (p a n : Nat) (e : Eng) : Eng :=
  if e.refused (some p) false a n then e.memFault b p a false else e

/-- A write with PART_VALID 0 (R536, R581): an error raises MEM_ERR and the write counts as made. (DESIGN CHOICE, assumption
log 28) -/
def Eng.sysStore (b : BeatUnit) (a : Nat) (d : List Byte) (e : Eng) : Eng :=
  if e.refused none true a d.length then e.engFault b 0x8C none (engDetail 0 0 0 0 a 0 0) else e.store a d

/-! ## Sending on the ports -/

/-- The memory port of an address (assumption log 7): 4 KiB interleaved over the ports, with the range of a failed port
spread evenly over the others (R480). -/
def Eng.memPort (e : Eng) (a : Nat) : Nat :=
  let q := a / 4096 % 16
  let work := (List.range 16).filter fun k => !e.bit Reg.glbPortFailed (16 + k)
  if work.contains q then q else work.getD (a / 65536 % work.length) q

/-- Issue a memory-port transaction. (DESIGN CHOICE, assumption log 26) -/
def Eng.issueTxn (p a : Nat) (k : TxnKind) (e : Eng) : Eng :=
  { e with nextId := e.nextId + 1, txns := e.txns ++ [⟨e.nextId, p, a, e.memPort a, k⟩] }

/-- A remote message is handed to the remote message port that its destination engine selects; it leaves when the
class has credit for its flits (R550, R551). (DESIGN CHOICE, assumption log 25) -/
def Eng.rmSend (kind : Nat) (m : RmMsg) (e : Eng) : Eng := { e with rmHeld := e.rmHeld ++ [(kind, m)] }

/-- Flits of a remote message (R551). -/
def rmFlits (m : RmMsg) : Nat := 1 + ceilDiv m.payload.length 32

/-- A port's failed bit in WX_GLB_PORT_FAILED (R565). -/
def Eng.rmFailed (e : Eng) (port : Nat) : Bool := e.bit Reg.glbPortFailed (4 + port)
def Eng.hsFailed (e : Eng) (port : Nat) : Bool := e.bit Reg.glbPortFailed (8 + port)

/-- The working remote message port with the credits that the message needs, in turn (R480). (DESIGN CHOICE, assumption log 25) -/
def Eng.rmPortFor (e : Eng) (cls n : Nat) : Option Nat :=
  ((List.range 4).map fun k => (e.rmTurn + k) % 4).find? fun q => !e.rmFailed q && decide (n ≤ kget 0 e.rmCredit (4 * q + cls))

/-- Send the held messages that have credits, in order within each class (R462: a class never blocks another). (DESIGN
CHOICE, assumption logs 22, 25) -/
def Eng.rmPump (e : Eng) : Eng :=
  e.rmHeld.foldl (init := { e with rmHeld := [] }) fun e x =>
    let cls := x.1 / 64
    if e.rmHeld.any fun y => decide (y.1 / 64 = cls) then { e with rmHeld := e.rmHeld ++ [x] }
    else match e.rmPortFor cls (rmFlits x.2) with
      | some q => { e with
          rmCredit := kmod 0 e.rmCredit (4 * q + cls) (· - rmFlits x.2)
          rmTurn := (q + 1) % 4
          out := e.out ++ [.rm q x.1 { x.2 with port := Fin.ofNat 4 q }] }
      | none => { e with rmHeld := e.rmHeld ++ [x] }

/-- An outbound message with no payload from this engine (R551). -/
def Eng.rmHeader (e : Eng) (flags dst part tag off body : Nat) : RmMsg :=
  { port := 0, flags := BitVec.ofNat 8 flags, src := BitVec.ofNat 16 (e.fld Reg.syncEngineId 15 0)
    dst := BitVec.ofNat 16 dst, part := Fin.ofNat 32 part, tag := BitVec.ofNat 24 tag, bytes := 0
    offset := BitVec.ofNat 16 off, body := BitVec.ofNat 128 body, payload := [] }

/-- A hidden-state packet is handed to outbound VC `vc` (R545). (DESIGN CHOICE, assumption log 25) -/
def Eng.hsSend (port vc : Nat) (bytes : List Byte) (e : Eng) : Eng := { e with hsHeld := e.hsHeld ++ [(port, vc, bytes)] }

/-- Send the held hidden-state packets that have credits: a VC 0 GRAD leaves on the lowest-numbered working port whose
credits allow (R549; marked by port 8), any other on its own port, or on the others in turn once that one has failed (R480).
(DESIGN CHOICE, assumption log 25) -/
def Eng.hsPump (e : Eng) : Eng :=
  e.hsHeld.foldl (init := { e with hsHeld := [] }) fun e x =>
    let n := ceilDiv x.2.2.length 64
    let ok := fun q => !e.hsFailed q && decide (n ≤ kget 0 e.hsCredit (2 * q + x.2.1))
    let held := e.hsHeld.any fun y => decide (y.1 = x.1) && decide (y.2.1 = x.2.1)
    let port := if held then none
      else if x.1 = 8 then (List.range 8).find? ok
      else if ok x.1 then some x.1
      else if e.hsFailed x.1 then ((List.range 8).map fun k => (e.hsTurn + k) % 8).find? ok else none
    match port with
    | some q => { e with
        hsCredit := kmod 0 e.hsCredit (2 * q + x.2.1) (· - n)
        hsTurn := if x.1 < 8 && e.hsFailed x.1 then (q + 1) % 8 else e.hsTurn
        out := e.out ++ [.hs q x.2.1 x.2.2] }
    | none => { e with hsHeld := e.hsHeld ++ [x] }

/-! ## The issue slot (R149 to R153) -/

/-- The priority of a context (R149). -/
def Eng.prio (e : Eng) (p c : Nat) : Nat := e.fld (Reg.schedPrio p (c / 4)) (8 * (c % 4) + 4) (8 * (c % 4))

/-- A context can issue (R150): READY, or RUNNING with no instruction outstanding. -/
def Ctx.canIssue (c : Ctx) : Bool := decide (c.st = .ready) || (decide (c.st = .running) && c.pend.isNone)

/-- The first context after the last one dispatched at the level, wrapping (R150), among those that can issue. -/
def Eng.pick (e : Eng) (p level : Nat) : Option Nat :=
  let last := kget 0 (e.part p).lastAt level
  ((List.range 16).map fun i => (last + i) % 16).find? fun c => (e.ctx p c).canIssue && decide (e.prio p c = level)

/-- The most urgent level with a context that can issue, and the context Cascade takes there. -/
def Eng.bestCtx (e : Eng) (p : Nat) : Option (Nat × Nat) :=
  (List.range 32).findSome? fun l => (e.pick p l).map fun c => (l, c)

/-- The core position gated its clock (R192): its loan is withdrawn as it ungates (R498). -/
def Eng.gated (e : Eng) (p : Nat) : Bool := e.bit Reg.pwrGated p

/-- The loans in 0.01 W. -/
def Eng.lentSum (e : Eng) : Nat := (e.loans.map fun x => x.2).foldl (· + ·) 0

/-- Beff in 0.01 W before thermal scaling (R496), with the budget that the last controller period took (R502). -/
def Eng.beffRaw (e : Eng) : Nat := e.budget * 10 + e.lentSum

/-- T in whole °C, 0 for a temperature below zero (R499, R509). (DESIGN CHOICE, assumption log 83) -/
def Eng.hottest (e : Eng) : Nat := let t := e.fld Reg.pwrTherm 31 24; if 128 ≤ t then 0 else t

/-- The factor of R499, as a numerator and a denominator. (DESIGN CHOICE, assumption log 83) -/
def Eng.thermal (e : Eng) : Nat × Nat :=
  let t := e.hottest
  let th := e.fld Reg.pwrTherm 23 16
  let cr := e.fld Reg.pwrTherm 15 8
  if t ≤ th then (1, 1) else if t < cr then (cr - t, cr - th) else (0, 1)

/-- ⌊n × Beff / d⌋ for Beff in 0.01 W with the scaling of R499: nothing is rounded before the quotient. (DESIGN CHOICE,
assumption log 83) -/
def Eng.perBeff (e : Eng) (n d : Nat) : Nat := n * e.beffRaw * e.thermal.1 / (d * e.thermal.2)

/-- Write the duty and BEFF fields of WX_PWR_STATUS and WX_PWR_LENT. -/
def Eng.showPower (e : Eng) (d : Nat) : Eng :=
  ((e.setF Reg.pwrStatus 20 16 d).setF Reg.pwrStatus 15 0 (e.perBeff 1 10)).setF Reg.pwrLent 15 0 (e.lentSum / 10)

/-- The duty `d` after a withdrawal of loans from `old`, the engine before it (R498). The factor of R499 is the same before
and after and cancels. -/
def Eng.dutyAfter (e old : Eng) (d : Nat) : Nat :=
  max (if old.beffRaw = 0 ∨ old.thermal.1 = 0 then d else d * e.beffRaw / old.beffRaw) (e.fld Reg.pwrCtrl 4 0)

/-- A core ungates and withdraws its loan at once (R498). -/
def Eng.ungate (e : Eng) (p : Nat) : Eng :=
  if e.gated p then
    let u : Eng := { (e.setF Reg.pwrGated p p 0) with loans := kset 0 e.loans p 0 }
    u.showPower (u.dutyAfter e (e.fld Reg.pwrStatus 20 16))
  else e

/-- What happens in one cycle, in which several cores may wake: the duty is taken once over all the loans that it withdraws
(R498). -/
def Eng.oneCycle (f : Eng → Eng) (e : Eng) : Eng :=
  let t := f e
  if t.rd Reg.pwrGated = e.rd Reg.pwrGated then t else t.showPower (t.dutyAfter e (e.fld Reg.pwrStatus 20 16))

/-- Give the free issue slot under R150 while the partition is RUNNING; a handover counts in SWITCHES. (DEDUCED, assumption
log 20) -/
def Eng.dispatch (p : Nat) (e : Eng) : Eng :=
  if !e.running p || (e.part p).slot.isSome || (e.part p).coreDown || (e.part p).coreLost then e
  else match e.bestCtx p with
    | none => e
    | some (l, c) =>
      let e := e.ungate p
      let e := if (e.part p).lastSlot = some c ∨ (e.part p).lastSlot = none then e
        else e.bumpWrap (Reg.schedSwitches p) 31 0
      (e.onCtx p c fun x => { x with st := .running }).onPart p fun q =>
        { q with slot := some c, lastSlot := some c, lastAt := kset 0 q.lastAt l (c + 1) }

/-- A context gives up the issue slot if it holds it. -/
def Eng.vacate (p c : Nat) (e : Eng) : Eng :=
  if (e.part p).slot = some c then e.onPart p fun q => { q with slot := none } else e

/-- The issuing context gives up the slot and Cascade chooses again (R150, R151). -/
def Eng.release (p c : Nat) (e : Eng) : Eng := (e.vacate p c).dispatch p

/-- Another context can issue at one of the levels below `n`. -/
def Eng.rivalBelow (e : Eng) (p c n : Nat) : Bool :=
  (List.range 16).any fun d => decide (d ≠ c) && (e.ctx p d).canIssue && decide (e.prio p d < n)

/-- A handover at an instruction boundary: the issuing context returns to READY (R151). -/
def Eng.switchOut (p c : Nat) (e : Eng) : Eng :=
  ((e.onCtx p c fun x => { x with st := .ready }).onPart p fun q => { q with slot := none }).dispatch p

/-- The slot taken from the issuing context for PREEMPT or QUANTUM (R151): PREEMPTS counts the handover (R165), which is none
where R150 gives the slot to the same context again. -/
def Eng.preempt (p c : Nat) (e : Eng) : Eng :=
  let t := e.switchOut p c
  if (t.part p).slot = some c then t else t.bumpWrap (Reg.schedPreempts p) 31 0

/-! ## Items on ready lists (R154 to R156) -/

/-- Items of a ready list. -/
def Partn.itemsAt (q : Partn) (l : Nat) : List Dword := kget [] q.items l
/-- Whether a ready list holds 256 items (R154). -/
def Eng.listFull (e : Eng) (p l : Nat) : Bool := decide (256 ≤ ((e.part p).itemsAt l).length)
/-- Put an item on a ready list. -/
def Eng.putItem (p l : Nat) (v : Dword) (e : Eng) : Eng :=
  e.onPart p fun q => { q with items := kmod [] q.items l (· ++ [v]) }

/-- Post an alert that has fallen due (R299 to R301): on its ready list, or held in due order behind a full one; a HALTED
partition discards it. -/
def Eng.postAlert (p slot : Nat) (e : Eng) : Eng :=
  match (kget Req.none e.reqs slot).alert with
  | none => e
  | some a =>
    let clear := fun (e : Eng) => { e with reqs := kmod Req.none e.reqs slot fun r => { r with alert := none } }
    let level := e.fld (Reg.latCtrl p) 20 16
    if e.pstate p = psHalted then clear e
    else if (e.part p).alertHeld = [] ∧ e.listFull p level = false then
      ((clear e).putItem p level (BitVec.ofNat 64 (bitsOf (kget 0 e.rqt (24 * slot)).toNat 63 32 + a.kind * 2 ^ 32))).bumpWrap (Reg.latAlerts p) 31 0
    else
      let due : Nat → Nat := fun s => match (kget Req.none e.reqs s).alert with
        | some a => a.due
        | none => 0
      (e.onPart p fun q => { q with alertHeld := insertBy (fun x y => decide (due x < due y)) slot q.alertHeld }).ev (Reg.latEvent p) 5

/-- An alert that fell due while its request was composed is posted when the request returns to WAITING (R299). -/
def Eng.alertReturn (p slot : Nat) (e : Eng) : Eng :=
  match (kget Req.none e.reqs slot).alert with
  | some a => if a.fallen && !(e.part p).alertHeld.contains slot then e.postAlert p slot else e
  | none => e

/-! ## The open batch -/

/-- Discard the open batch of a partition (R288): its requests return to WAITING; pages stay with them. (DEDUCED, assumption log
43; DEDUCED, assumption log 76; DEDUCED, assumption log 105) -/
def Eng.discardBatch (p : Nat) (e : Eng) : Eng :=
  match (e.part p).batch with
  | none => e
  | some bt =>
    let back := fun (e : Eng) (r : Run) =>
      let w := (kget 0 e.rqt (24 * r.slot)).toNat
      { e with
        rqt := if bitsOf w 31 24 = 2 then kset 0 e.rqt (24 * r.slot) (BitVec.ofNat 64 (putBits w 31 24 1)) else e.rqt
        reqs := kmod Req.none e.reqs r.slot fun x => { x with inBatch := false } }
    let e := (bt.runs.foldl back e).onPart p fun q => { q with batch := none }
    bt.runs.foldl (fun e r => e.alertReturn p r.slot) e

/-- Whether a context owns the open batch. -/
def Eng.ownsBatch (e : Eng) (p c : Nat) : Bool :=
  match (e.part p).batch with
  | some bt => decide (bt.owner = c)
  | none => false

/-! ## Faults of a context (R56, R96, R97) -/

/-- The fault register's word (R96). (DESIGN CHOICE, assumption log 118) -/
def faultWord (kind operand detail : Nat) : Dword :=
  BitVec.ofNat 64 (kind * 2 ^ 56 + operand * 2 ^ 52 + detail % 2 ^ 48)

/-- A context faults (R56), Cascade's next choice apart: fault is written, the context stops FAULTED at the faulting instruction, a
record is written and CTX_FAULT set; suppressed in its record while RESETTING (R62). (DEDUCED, assumption log 76) -/
def Eng.faultOnly (b : BeatUnit) (p c kind operand detail : Nat) (recDetail : List Byte) (e : Eng) : Eng :=
  let f := faultWord kind operand detail
  let pc := (e.ctx p c).pc.toNat
  let e := if e.ownsBatch p c then e.discardBatch p else e
  let e := e.onCtx p c fun x => { x with fault := f, st := .faulted, pend := none, stopReq := if x.stopReq = some .save ∨ x.stopReq = some .reset then x.stopReq else none }
  let e := if e.pstate p = psResetting then e
    else (e.tenantRec b p kind (c + 128) pc f.toNat recDetail).partEv p 4
  e.vacate p c

/-- A context faults (R56), and Cascade chooses again. (DEDUCED, assumption log 76) -/
def Eng.ctxFault (b : BeatUnit) (p c kind operand detail : Nat) (recDetail : List Byte) (e : Eng) : Eng :=
  (e.faultOnly b p c kind operand detail recDetail).dispatch p

/-- Fresh id. (DESIGN CHOICE, assumption log 96) -/
def Eng.fresh (e : Eng) : Nat × Eng := (e.nextId, { e with nextId := e.nextId + 1 })

/-- One draw of the free-value counter. (DESIGN CHOICE, assumption logs 27, 93, 96) -/
def Eng.drawFree (e : Eng) : Nat × Eng := (e.free, { e with free := e.free + 1 })

/-- The agreed contract level (R523). -/
def Eng.agreed (e : Eng) : Nat := e.fld Reg.mgmtLevel 15 0

/-! ## The checks of a remote message (R188, R552, R553) -/

/-- A remote message naming a partition is rejected (R188). -/
def Eng.reject (p : Nat) (e : Eng) : Eng := (e.bump (Reg.syncRejCount p) 31 0).ev (Reg.syncEvent p) 5
/-- A remote message naming no existing entry is rejected (R182, R198). (DEDUCED, assumption log 38) -/
def Eng.rejectGlobal (e : Eng) : Eng := e.bump Reg.syncRejGlobal 31 0

/-- The fields that a message's type does not use are 0 (R552): of FLAGS and BODY the bits outside the masks, TAG and OFFSET
where they are not used, and BYTES where there is no payload. (DEDUCED, assumption log 38) -/
def rmClean (flags : BitVec 8) (tag off data : Bool) (body : BitVec 128) (m : RmMsg) : Bool :=
  decide (m.flags &&& ~~~flags = 0) && (tag || decide (m.tag = 0)) && (off || decide (m.offset = 0)) && (data || decide (m.bytes = 0)) &&
    decide (m.body &&& ~~~body = 0)

/-- SIGNAL (R552). (DEDUCED, assumption log 38) -/
def signalClean (m : RmMsg) : Bool := rmClean 0x04 (m.flags.getLsbD 2) true false 0xFFFFFFFF#128 m
/-- DATA: OFFSET and the attached amount are there where SIGA is 1 (R552). (DEDUCED, assumption log 38) -/
def dataClean (m : RmMsg) : Bool :=
  rmClean 0x23 true (m.flags.getLsbD 5) true (if m.flags.getLsbD 5 then BitVec.allOnes 128 else ~~~0xFFFFFFFF#128) m
/-- ARRIVE of a barrier, with the vote of a verdict entry (R450, R552). (DEDUCED, assumption log 38) -/
def arriveClean (m : RmMsg) (verdict : Bool) : Bool := rmClean 0 false true false (if verdict then 0x1FFF#128 else 0) m
/-- RELEASE of a barrier, with the verdict of a verdict entry (R450, R552). (DEDUCED, assumption log 38) -/
def releaseClean (m : RmMsg) (verdict : Bool) : Bool := rmClean 0x10 false true false (if verdict then ~~~0xFFFFFFFF#128 else 0) m
/-- ECHO: GROUP, LAYER, SHARD, RESYNC and STEP (R450). (DEDUCED, assumption log 38) -/
def echoClean (m : RmMsg) : Bool :=
  rmClean 0 false false false (0xFFFFFFFFC0010000FFFFFFFF00000000#128) m
/-- ARRIVE of a negotiation: SUPPORTED and ROUND (R526). (DEDUCED, assumption log 38) -/
def negArriveClean (m : RmMsg) : Bool := rmClean 0x08 false true false 0xFFFFFFFF0000FFFF#128 m
/-- RELEASE of a negotiation: AGREED, EFFECTIVE and ROUND (R526). (DEDUCED, assumption log 38) -/
def negReleaseClean (m : RmMsg) : Bool := rmClean 0x18 false true false (~~~0xFFFFFFFF#128) m

end Sys2Proof.Machine
end

