-- ==== Sys2Proof/Machine/Requests.lean ====
section
/-! DEFINITION. Ledgers, the request table's words and handles, request events and drawdown: the operations that admission, composition, boundaries and the beat unit share (spec/08, spec/11). -/

namespace Sys2Proof.Machine

open Sys2Proof

/-! ## Ledgers (R209 to R214) -/

/-- A ledger's settings after cold reset (R226). -/
def Ledger.fresh (refilled : Bool) : Ledger :=
  ⟨1, 1, 0xFFFFFFFF, 0xFFFFFFFF, 0, if refilled then 0xFFFFFFFF else 0⟩

/-- The ledger of a block-wide index. -/
def Eng.ledger (e : Eng) (i : Nat) : Ledger := (kget none e.ledgers i).getD (Ledger.fresh e.refilled)

/-- Store a ledger. -/
def Eng.setLedger (e : Eng) (i : Nat) (l : Ledger) : Eng :=
  { e with ledgers := kset none e.ledgers i (if l = Ledger.fresh e.refilled then none else some l) }

/-- The balance clamped to its bounds −FLOOR and CAP (R209). -/
def Ledger.clamp (l : Ledger) (b : Int) : Ledger := { l with bal := max (-(l.floor : Int)) (min (l.cap : Int) b) }

/-- A slot number beyond the table: no request. -/
abbrev deadSlot : Nat := 131072

/-- One refill of every ledger, clamped at CAP (R212). -/
def Eng.refill (e : Eng) : Eng :=
  { e with
    refilled := true
    ledgers := (e.ledgers.map fun x =>
      (x.1, x.2.bind fun l => let l' := l.clamp (l.bal + l.refill); if l' = Ledger.fresh true then none else some l')).filter
        fun x => x.2.isSome }

/-- An unconditional charge, clamped at −FLOOR (R210, R213); what could not be taken counts in FLOOR_CLIP (R315). -/
def Eng.charge (p i : Nat) (n : Nat) (e : Eng) : Eng :=
  let l := e.ledger i
  let want := l.bal - n
  let short := (-(l.floor : Int) - want).toNat
  let e := e.setLedger i (l.clamp want)
  if short = 0 then e else (e.bump (Reg.latFloorClip p) 31 0 short).ev (Reg.latEvent p) 6

/-- A credit, clamped at CAP. -/
def Eng.credit (i : Nat) (n : Nat) (e : Eng) : Eng :=
  let l := e.ledger i
  e.setLedger i (l.clamp (l.bal + n))

/-! ## The request table (R220, R221) -/

/-- A word of a table entry. -/
def Eng.rqw (e : Eng) (slot w : Nat) : Dword := kget 0 e.rqt (24 * slot + w)
/-- Write a word of a table entry. -/
def Eng.setRqw (e : Eng) (slot w : Nat) (v : Dword) : Eng := { e with rqt := kset 0 e.rqt (24 * slot + w) v }
/-- A field of a table word. -/
def Eng.rqf (e : Eng) (slot w hi lo : Nat) : Nat := bitsOf (e.rqw slot w).toNat hi lo
/-- Write a field of a table word. -/
def Eng.setRqf (e : Eng) (slot w hi lo v : Nat) : Eng :=
  e.setRqw slot w (BitVec.ofNat 64 (putBits (e.rqw slot w).toNat hi lo v))
/-- Count in a field of a table word, saturating. -/
def Eng.bumpRqf (e : Eng) (slot w hi lo : Nat) (n : Nat := 1) : Eng :=
  e.setRqf slot w hi lo (min (e.rqf slot w hi lo + n) (2 ^ (hi + 1 - lo) - 1))

/-- The STATE codes of word 0 (R221). -/
abbrev rsFree : Nat := 0
abbrev rsWaiting : Nat := 1
abbrev rsActive : Nat := 2
abbrev rsPaused : Nat := 3
abbrev rsReprefill : Nat := 4

def Eng.rstate (e : Eng) (slot : Nat) : Nat := e.rqf slot 0 31 24
def Eng.setRstate (e : Eng) (slot st : Nat) : Eng := e.setRqf slot 0 31 24 st
def Eng.rprio (e : Eng) (slot : Nat) : Nat := e.rqf slot 0 12 8
def Eng.rhandle (e : Eng) (slot : Nat) : Nat := e.rqf slot 0 63 32
def Eng.rmodel (e : Eng) (slot : Nat) : Nat := e.rqf slot 1 2 0
/-- DEADLINE of a request (R302). -/
def Eng.rdeadline (e : Eng) (slot : Nat) : Nat := e.rqf slot 6 55 0
def Eng.rversion (e : Eng) (slot : Nat) : Nat := e.rqf slot 1 63 48
def Eng.rpromptLen (e : Eng) (slot : Nat) : Nat := e.rqf slot 4 63 32
def Eng.rmaxNew (e : Eng) (slot : Nat) : Nat := e.rqf slot 4 31 0
def Eng.rprefilled (e : Eng) (slot : Nat) : Nat := e.rqf slot 5 63 32
def Eng.rgenerated (e : Eng) (slot : Nat) : Nat := e.rqf slot 5 31 0
/-- A LEARN request has MAX_NEW 0, and a GENERATE request has at least 1 (R204). -/
def Eng.rlearn (e : Eng) (slot : Nat) : Bool := decide (e.rmaxNew slot = 0)

/-- What the engine keeps of a request. -/
def Eng.req (e : Eng) (slot : Nat) : Req := kget Req.none e.reqs slot
/-- Change it. -/
def Eng.onReq (e : Eng) (slot : Nat) (f : Req → Req) : Eng := { e with reqs := kmod Req.none e.reqs slot f }

/-- A handle of R220: partition, slot and generation. -/
def mkHandle (p slot gen : Nat) : Nat := p * 2 ^ 27 + slot * 2 ^ 10 + gen

/-- The live slot that a handle names for a partition, if it names one (R118, R222). -/
def Eng.slotOf (e : Eng) (p h : Nat) : Option Nat :=
  let slot := bitsOf h 26 10
  if bitsOf h 31 27 = p ∧ e.rqtBase p ≤ slot ∧ slot < e.rqtBase p + e.rqtSize p ∧ (e.req slot).live = true ∧
    (kget 0 e.gens slot).toNat = bitsOf h 9 0 then some slot else none

/-- The in-flight step of a number. -/
def Eng.stepOf (e : Eng) (p num : Nat) : Option Step := (e.part p).steps.find? fun s => decide (s.num = num)

/-- Change the step of a number. -/
def Eng.onStep (p num : Nat) (f : Step → Step) (e : Eng) : Eng :=
  e.onPart p fun q => { q with steps := q.steps.map fun s => if s.num = num then f s else s }

/-- The live requests of a partition, in slot order: those in its range whose handles carry its number (R52, R220), so that a
DISABLED partition whose range meets that of another has none of the other's (R58). -/
def Eng.liveSlots (e : Eng) (p : Nat) : List Nat :=
  (e.reqs.filter fun x => x.2.live && decide (e.rqtBase p ≤ x.1) && decide (x.1 < e.rqtBase p + e.rqtSize p) &&
    decide (e.rhandle x.1 / 2 ^ 27 = p)).map fun x => x.1

/-- The live requests of a partition, in admission order (R311). -/
def Eng.liveByOrder (e : Eng) (p : Nat) : List Nat :=
  sortBy (fun a b => decide ((e.req a).order < (e.req b).order)) (e.liveSlots p)

/-! ## Drawdown (R307 to R313) -/

/-- Whether a partition is in drawdown. -/
def Eng.drawActive (e : Eng) (p : Nat) : Bool := e.bit (Reg.latDrawStatus p) 31

/-- Whether drawdown affects a request's priority (R307). -/
def Eng.drawHits (e : Eng) (p slot : Nat) : Bool := decide ((e.part p).drawLevel ≤ e.rprio slot)

/-- Drawdown begins: LEVEL takes effect and pause events are raised (R307, R308). -/
def Eng.drawBegin (p : Nat) (e : Eng) : Eng :=
  let e := (e.setF (Reg.latDrawStatus p) 31 31 1).ev (Reg.latEvent p) 3
  let e := e.onPart p fun q => { q with drawLevel := e.fld (Reg.latDrawCtrl p) 20 16, resuming := false }
  (e.liveSlots p).foldl (init := e) fun e s =>
    if e.drawHits p s ∧ e.rstate s ≠ rsPaused then e.onReq s fun r => { r with pauseEv := true } else e

/-- Drawdown ends: pending pause events are withdrawn, whichever boundary they wait for (R310), and resumption starts at the next tick 0 (R311). (DEDUCED, assumption log 120) -/
def Eng.drawEnd (b : BeatUnit) (p : Nat) (e : Eng) : Eng :=
  let e := (e.setF (Reg.latDrawStatus p) 31 31 0).ev (Reg.latEvent p) 4
  let e := (e.liveSlots p).foldl (init := e) fun e s => e.onReq s fun r => { r with pauseEv := false, early := { r.early with pause := false } }
  e.onPart p fun q => { q with resuming := true, resumeAt := b.beat + 1 }

/-- The bits of the drawdown sources in SOURCES (R317). -/
abbrev dsSw : Nat := 27
abbrev dsMgmt : Nat := 28
abbrev dsStart : Nat := 29
abbrev dsRecover : Nat := 30

/-- A drawdown source is active or not. -/
def Eng.setSource (p src : Nat) (on : Bool) (e : Eng) : Eng := e.setF (Reg.latDrawStatus p) src src (if on then 1 else 0)

/-- Drawdown begins with the first active source and ends with the last (R307, R311). (DEDUCED, assumption log 70) -/
def Eng.drawTurn (b : BeatUnit) (p : Nat) (e : Eng) : Eng :=
  let any := decide (e.fld (Reg.latDrawStatus p) 30 27 ≠ 0)
  if any && !e.drawActive p then e.drawBegin p
  else if !any && e.drawActive p then e.drawEnd b p else e

/-- A drawdown source becomes active or inactive. (DEDUCED, assumption log 70) -/
def Eng.drawSource (b : BeatUnit) (p src : Nat) (on : Bool) (e : Eng) : Eng := (e.setSource p src on).drawTurn b p

/-- START is active (R307). -/
def Eng.startLive (b : BeatUnit) (e : Eng) (p : Nat) : Bool :=
  match (e.part p).startAt with
  | none => false
  | some t => e.bit (Reg.latDrawCtrl p) 2 && decide (b.beat < t + e.fld (Reg.latDrawTime p) 15 0)

/-- RECOVER is active (R307). -/
def Eng.recoverLive (b : BeatUnit) (e : Eng) (p : Nat) : Bool :=
  match (e.part p).recoverAt with
  | none => false
  | some t => e.bit (Reg.latDrawCtrl p) 3 && decide (b.beat < t + e.fld (Reg.latDrawTime p) 31 16)

/-- The timed sources are what R307 makes of them now. (DEDUCED, assumption log 70) -/
def Eng.timedSources (b : BeatUnit) (p : Nat) (e : Eng) : Eng :=
  (e.setSource p dsStart (e.startLive b p)).setSource p dsRecover (e.recoverLive b p)

/-- A recovery event for a partition (R313): RECOVER runs from this event. (DEDUCED, assumption log 70) -/
def Eng.recover (b : BeatUnit) (p : Nat) (e : Eng) : Eng :=
  if !e.inUse p then e
  else
    let e := e.onPart p fun q => { q with recoverAt := some b.beat }
    e.drawSource b p dsRecover (e.recoverLive b p)

/-- A recovery event that affects every partition (R313). (DEDUCED, assumption log 70) -/
def Eng.recoverAll (b : BeatUnit) (e : Eng) : Eng := (List.range 32).foldl (fun e p => e.recover b p) e

end Sys2Proof.Machine
end

