-- ==== Sys2Proof/Machine/Beat.lean ====
section
/-! DEFINITION. Beat time (spec/02): the edges, frames, modes and reads of the beat unit. Every move of beat time goes through State.advance, which never lowers it (R25) and makes the refill of R212. -/

namespace Sys2Proof.Machine

open Sys2Proof

/-- Change the beat unit's own state; its time and the entry into its beat stay. -/
def State.onBeat (s : State) (f : BeatUnit → BeatUnit) : State :=
  { s with beat := { f s.beat with time := s.beat.time, entered := s.beat.entered, before := s.beat.before } }

/-- The realignment points that fall as the beat number rises (R26, R194). -/
def Eng.realignPoints (before now : Nat) (e : Eng) : Eng :=
  (List.range 32).foldl (init := e) fun e p =>
    e.when (periodPassed (e.fld (Reg.syncRealign p) 15 0) before now) fun e => e.onPart p fun q => { q with raDue := true }

/-- Move beat time forward to `t` (R25, R26); a rise of the beat number refills the ledgers once (R212) and passes realignment
points (R194). (DESIGN CHOICE, assumption log 4) -/
def State.advance (s : State) (t : Nat) : State :=
  { s with
    beat := { s.beat with
      time := max s.beat.time t
      entered := if s.beat.time / 256 < max s.beat.time t / 256 then max s.beat.time t else s.beat.entered
      before := if s.beat.time / 256 < max s.beat.time t / 256 then s.beat.time / 256 else s.beat.before }
    eng := if s.beat.time / 256 < max s.beat.time t / 256 then s.eng.refill.realignPoints (s.beat.time / 256) (max s.beat.time t / 256) else s.eng }

/-- PERIOD_FX of WX_BEAT_PERIOD. -/
def State.period (s : State) : Nat := s.eng.fld Reg.beatPeriod 31 0

/-- The supported range of the mean (R36). -/
def periodInRange (m : Nat) : Bool := decide (1280000 ≤ m) && decide (m ≤ 1280000000)

/-- The tick that DELAY_COMP carries into an edge, with `cycles` reference cycles after the edge, at the mean period
(R30, R34): the tick holds at 255. -/
def State.tickAfter (s : State) (cycles : Nat) : Nat :=
  if s.period = 0 then 0 else min 255 ((s.eng.fld Reg.beatDelayComp 15 0 + cycles) * 65536 / s.period)

/-- Reference cycles from the on-time edge, the mid-bit transition of bit 95, to the end of the frame at 50 Mbit/s
and 500 MHz: 95.5 bits of 10 cycles. (DEDUCED, assumption log 11) -/
abbrev frameCycles : Nat := 955

/-- Set a bit of WX_BEAT_EVENT (R48). -/
def State.beatEv (s : State) (i : Nat) : State := { s with eng := s.eng.ev Reg.beatEvent i }

/-- The CRC-16 of R579 over frame bits 87 down to 16. -/
def crc16Step (f : BitVec 96) (c : BitVec 16) (i : Nat) : BitVec 16 :=
  if c.getLsbD 15 != f.getLsbD i then (c <<< 1) ^^^ 0x1021#16 else c <<< 1

/-- The CRC field that a frame should carry (R579). (DESIGN CHOICE, assumption log 94) -/
def frameCrc (f : BitVec 96) : BitVec 16 :=
  ((List.range 72).map fun i => 87 - i).foldl (crc16Step f) 0xFFFF#16

/-- Whether a frame passes the checks of R29: SYNC, CRC and reserved bits. -/
def frameGood (f : BitVec 96) : Bool :=
  decide (bitsOf f.toNat 95 88 = 0xD5) && decide (bitsOf f.toNat 37 32 = 0) &&
    decide (bitsOf f.toNat 15 0 = (frameCrc f).toNat)

/-- The frame that a master sends (R28, R43). (DESIGN CHOICE, assumption log 22) -/
def masterFrame (beat id : Nat) : BitVec 96 :=
  let f := BitVec.ofNat 96 (0xD5 * 2 ^ 88 + beat % 2 ^ 48 * 2 ^ 40 + id * 2 ^ 16)
  f ||| BitVec.ofNat 96 (frameCrc f).toNat

/-- The mean of intervals, in 1/256 reference cycle, as WX_BEAT_PERIOD holds it (R33). -/
def meanOf (l : List Nat) : Nat := min (l.foldl (· + ·) 0 * 256 / l.length) (2 ^ 32 - 1)

/-- The mean is that of these intervals (R33); outside the supported range it sets RANGE, and the last mean inside it is kept
(R36). (DEDUCED, assumption log 11) -/
def State.takeMean (s : State) (l : List Nat) : State :=
  let s := s.onBeat fun b => { b with intervals := l, outRun := 0, okMean := if periodInRange (meanOf l) then meanOf l else b.okMean }
  let s := { s with eng := s.eng.setF Reg.beatPeriod 31 0 (meanOf l) }
  if periodInRange (meanOf l) then s else s.beatEv 7

/-- Take an interval between consecutive valid edges into the mean, or count it as an outlier (R33); with no mean held, any
interval starts one. (DEDUCED, assumption log 11) -/
def State.measure (s : State) (iv : Nat) : State :=
  let m := s.period
  let inBand := decide (s.beat.intervals = []) || decide (8 * (iv * 256 - m) ≤ m ∧ 8 * (m - iv * 256) ≤ m)
  if inBand then s.takeMean ((iv :: s.beat.intervals).take 16)
  else
    let s := { s with eng := (s.eng.bump Reg.beatErrCount 31 16).ev Reg.beatEvent 5 }
    if s.beat.outRun + 1 = 16 then s.onBeat fun b => { b with outRun := 0, intervals := [] }
    else s.onBeat fun b => { b with outRun := b.outRun + 1 }

/-- A mean has been measured and lies outside the supported range (R36). -/
def State.outOfRange (s : State) : Bool := decide (s.period ≠ 0) && !periodInRange s.period

/-- The period at which the engine's own beats follow one another in FREE and EXPIRED: WX_BEAT_PERIOD, or in its place, while
RANGE holds, the last mean inside the range (R36, R37). -/
def State.freePeriod (s : State) : Nat := if s.outOfRange then s.beat.okMean else s.period

/-- Accept a frame's master (R31). (DEDUCED, assumption log 11) -/
def State.acceptMaster (s : State) (id : Nat) : State :=
  let s := if s.beat.idSeen = false ∨ s.eng.fld Reg.beatMasterId 15 0 = id then s else s.beatEv 8
  let s := s.onBeat fun b => { b with idSeen := true }
  { s with eng := s.eng.setF Reg.beatMasterId 15 0 id }

/-- Enter MASTER (R43, R44); `first` when the first edge still takes its beat number from R43. (DESIGN CHOICE, assumption log 123) -/
def State.enterMaster (s : State) (first : Bool) : State :=
  let s := s.onBeat fun b => { b with st := .master, waiting := none, masterFirst := first, edge := none, still := false, freeMark := false, intervals := [], outRun := 0, prevValid := false }
  { s with eng := s.eng.setF Reg.beatPeriod 31 0 (s.eng.fld Reg.beatMasterPeriod 22 0 * 256) }

/-- Enter FREE, starting a window of free beats (R40, R32, R42, R44). The last valid edge stands, so that the interval to the
next one is measured (R33), and so does an edge whose frame is awaited: a mean out of range lets loss be declared meanwhile,
and the frame is still checked and measured (R36). (DESIGN CHOICE, assumption log 9) -/
def State.enterFree (s : State) : State :=
  let s := s.onBeat fun b => { b with st := .free, still := false, freeMark := false, masterFirst := false, badRun := 0, edge := b.edge.map fun d => { d with started := false } }
  { s with eng := s.eng.setF Reg.beatFreeCount 12 0 0 }

/-- A beat that the engine starts of its own in FREE or EXPIRED counts (R40); the 4,096th expires (R41). (DESIGN CHOICE,
assumption log 10) -/
def State.freeBeat (s : State) : State :=
  let n := min (s.eng.fld Reg.beatFreeCount 12 0 + 1) 4096
  let s := { s with eng := s.eng.setF Reg.beatFreeCount 12 0 n }
  if n = 4096 ∧ s.beat.st = .free then
    let s := (s.onBeat fun b => { b with st := .expired }).beatEv 2
    { s with eng := s.eng.engFault s.beat 0x8A none (engDetail 0 0 0 0 0 0 0) }
  else s

/-- In MASTER an edge starts beat `n` and sends its frame; a new CYCLES takes effect there (R43). While wx_ready_o is low beat time
counts on (R45) and wx_beat_o stays low (R533). -/
def State.masterBeat (s : State) (n : Nat) : State :=
  let s := (s.onBeat fun b => { b with masterFirst := false }).advance (n * 256)
  let e := s.eng.setF Reg.beatPeriod 31 0 (s.eng.fld Reg.beatMasterPeriod 22 0 * 256)
  if !e.bit Reg.glbStatus 31 then { s with eng := e } else
  { s with eng := { e with out := e.out ++ [Out.frame (masterFrame n (e.fld Reg.beatOwnId 15 0))] } }

/-- A beat that a follower starts takes a waiting change to MASTER (R44): the engine is the master from that edge on. (DESIGN
CHOICE, assumption log 9) -/
def State.becomeMaster (s : State) : State := (s.enterMaster false).masterBeat (s.beat.beat + 1)

/-- A frame that fails the checks of R29 or is rejected under R30 (R32): BAD_FRAME, the edge is not valid, and the
eighth failed beat in a row declares loss. (DEDUCED, assumption log 11) -/
def State.badFrame (s : State) (started : Bool) : State :=
  let s := { s with eng := (s.eng.bump Reg.beatErrCount 15 0).ev Reg.beatEvent 4 }
  let s := s.onBeat fun b => { b with edge := none, prevValid := false, acqRun := 0, badRun := if started then b.badRun + 1 else b.badRun }
  if started ∧ s.beat.st = .locked ∧ s.beat.badRun = 8 then (s.beatEv 0).enterFree else s

/-- ON_TIME_EDGE: the mid-bit transition of bit 95 arrives `interval` reference cycles after the last one. A LOCKED
follower starts the predicted beat at once (R29, R32); a stand-still (R42) and a mean out of range (R36) start none.
A waiting change to MASTER takes effect at that edge (R44). While wx_ready_o is low the engine ignores wx_beat_i (R533). (DEDUCED, assumption log 11) -/
def execOnTimeEdge (interval : Nat) (s : State) : Host.Outcome State Fault Refusal :=
  .next <|
    if !s.eng.bit Reg.glbStatus 31 then s else
    match s.beat.st with
    | .idle | .master => s
    | st =>
      let s := match s.beat.edge with
        | some d => s.badFrame d.started
        | none => s
      let starts := decide (st = .locked) && decide (s.beat.st = .locked) && !s.beat.still && !s.outOfRange
      if starts ∧ s.beat.waiting = some .master then s.becomeMaster
      else
        let fromValid := s.beat.prevValid
        let s := s.onBeat fun b => { b with edge := some ⟨interval, fromValid, starts⟩ }
        if starts then s.advance ((s.beat.beat + 1) * 256 + s.tickAfter 0) else s

/-- A valid edge is measured (R33): the interval counts when it began at a valid edge. -/
def State.validEdge (s : State) (d : Edge) : State :=
  let s := if d.fromValid then s.measure d.interval else s
  s.onBeat fun b => { b with edge := none, prevValid := true }

/-- A valid frame in ACQUIRE (R37, R38): beat time is set to its BEAT, and the third consecutive one without HOLDOVER
locks, its mean starting from the two intervals measured by then. (DEDUCED, assumption log 11) -/
def State.acquireFrame (s : State) (d : Edge) (m : Nat) (holdover : Bool) : State :=
  let run := if s.beat.acqRun ≠ 0 ∧ m = s.beat.acqBeat + 1 then s.beat.acqRun + 1 else 1
  let ivs := if run = 1 then [] else (d.interval :: s.beat.acqIntervals).take 2
  let s := s.onBeat fun b => { b with acqRun := run, acqBeat := m, acqIntervals := ivs, edge := none, prevValid := true }
  if run < 3 ∨ holdover then s.advance (m * 256)
  else
    let s := s.takeMean ivs
    if s.outOfRange then (s.onBeat fun b => { b with acqRun := 0 }).advance (m * 256)
    else (s.onBeat fun b => { b with st := .locked, badRun := 0, still := false, freeMark := false }).advance
      (m * 256 + s.tickAfter frameCycles)

/-- A valid frame in FREE or EXPIRED without HOLDOVER relocks (R42): by a jump, or by a stand-still. RECOVER (R313) runs from
the beat taken. A waiting change to MASTER goes on waiting. (DEDUCED, assumption logs 11, 70, 106) -/
def State.relockFrame (s : State) (m : Nat) : State :=
  let ahead := decide (s.beat.beat < m)
  let s := s.beatEv 1
  let s := { s with eng := s.eng.setF Reg.beatFreeCount 12 0 0 }
  let s := s.onBeat fun b => { b with st := .locked, still := !ahead, freeMark := !ahead, badRun := 0 }
  let s := if ahead then s.advance (m * 256 + s.tickAfter frameCycles) else s
  { s with eng := s.eng.recoverAll s.beat }

/-- A frame that passes R29 in LOCKED (R30, R42). A frame that ends a stand-still is no local edge for a waiting change to
MASTER, nor is one that relocks by a jump. (DEDUCED, assumption logs 11, 106) -/
def State.lockedFrame (s : State) (d : Edge) (m : Nat) (step : Bool) (id : Nat) : State :=
  if s.beat.still then
    let s := (s.validEdge d).acceptMaster id
    if s.beat.beat < m then
      (s.onBeat fun b => { b with still := false, freeMark := false }).advance (m * 256 + s.tickAfter frameCycles)
    else s
  else if m = s.beat.beat then
    ((s.validEdge d).onBeat fun b => { b with badRun := 0 }).acceptMaster id
  else if s.beat.beat < m ∧ step then
    let s := (((s.validEdge d).onBeat fun b => { b with badRun := 0 }).acceptMaster id).beatEv 3
    s.advance (m * 256 + s.tickAfter frameCycles)
  else s.badFrame d.started

/-- TIMECODE_FRAME: the frame that the awaited edge opened completes (R29 to R42, R579); ignored while wx_ready_o is low (R533). While the mean is out of range a
good frame is measured (R36) and in ACQUIRE sets beat time (R37); its master is not accepted. (DEDUCED, assumption log 11) -/
def execTimecodeFrame (frame : BitVec 96) (s : State) : Host.Outcome State Fault Refusal :=
  .next <|
    if !s.eng.bit Reg.glbStatus 31 then s else
    match s.beat.edge with
    | none => s
    | some d =>
      let m := bitsOf frame.toNat 87 40
      let holdover := frame.getLsbD 39
      let step := frame.getLsbD 38
      let id := bitsOf frame.toNat 31 16
      if !frameGood frame then s.badFrame d.started
      else if s.outOfRange then
        let t := (s.validEdge d).onBeat fun b => { b with acqRun := 0 }
        if s.beat.st = .acquire then t.advance (m * 256) else t
      else match s.beat.st with
        | .idle | .master => s.onBeat fun b => { b with edge := none }
        | .acquire => (s.acquireFrame d m holdover).acceptMaster id
        | .free | .expired =>
          let s := s.validEdge d
          if holdover ∨ s.outOfRange then s else (s.acceptMaster id).relockFrame m
        | .locked => s.lockedFrame d m step id

/-- BEAT_LOSS: no valid edge has arrived 32 tk after tick 255 (R40), or within 32 tk after that point of the
stand-still's tick (R42). The beat that the forward move starts is the window's first. (DESIGN CHOICE, assumption log 10) -/
def execBeatLoss (s : State) : Host.Outcome State Fault Refusal :=
  .next <|
    if s.beat.st = .locked ∧ s.beat.still ∧ (s.beat.edge = none ∨ s.outOfRange) then (s.beatEv 0).enterFree
    else if s.beat.st = .locked ∧ s.beat.still = false ∧ s.beat.time % 256 = 255 ∧ (s.beat.edge = none ∨ s.outOfRange) then
      (((s.beatEv 0).enterFree).advance ((s.beat.beat + 1) * 256 + 32)).freeBeat
    else s

/-- FREE_RUN_EDGE: in FREE or EXPIRED the engine starts a beat of its own and counts it (R40, R41); a waiting change to
MASTER takes effect at that edge (R44). (DESIGN CHOICE, assumption log 9) -/
def execFreeRunEdge (s : State) : Host.Outcome State Fault Refusal :=
  .next <|
    match s.beat.st with
    | .free | .expired =>
      if s.beat.waiting = some .master then s.becomeMaster
      else (s.advance ((s.beat.beat + 1) * 256)).freeBeat
    | _ => s

/-- MASTER_EDGE: in MASTER the engine starts a beat and sends its frame (R43); a waiting change to FOLLOWER takes effect at
that edge, which is then the first of a window of free beats (R44). (DESIGN CHOICE, assumption log 9; DEDUCED, assumption log
92) -/
def execMasterEdge (s : State) : Host.Outcome State Fault Refusal :=
  .next <|
    match s.beat.st with
    | .master =>
      if s.beat.waiting = some .follower then
        ((s.enterFree.onBeat fun b => { b with waiting := none }).advance ((s.beat.beat + 1) * 256)).freeBeat
      else
        let start := (s.eng.rd Reg.beatMasterStartLo).toNat + s.eng.fld Reg.beatMasterStartHi 15 0 * 2 ^ 32
        s.masterBeat (if s.beat.masterFirst ∧ s.beat.time ≤ start * 256 then start else s.beat.beat + 1)
    | _ => s

/-! ## Writes of MODE (R44) -/

/-- Store MODE. (DESIGN CHOICE, assumption log 9) -/
def State.setMode (s : State) (m : Nat) : State := { s with eng := s.eng.setF Reg.beatCtrl 1 0 m }

/-- A write of the mode in which the engine runs (R44): it withdraws a waiting change; with none waiting the table allows no
such write. (DESIGN CHOICE, assumption log 12) -/
def State.sameMode (s : State) (m : Nat) : State :=
  if s.beat.waiting = none then s.beatEv 6 else (s.setMode m).onBeat fun b => { b with waiting := none }

/-- A write of FOLLOWER to MODE (R44). (DESIGN CHOICE, assumption log 123) -/
def State.modeFollower (s : State) : State :=
  match s.beat.st with
  | .idle => (s.setMode 1).onBeat fun b => { b with st := .acquire, waiting := none, acqRun := 0, acqIntervals := [], intervals := [], outRun := 0, prevValid := false, edge := none }
  | .master => if s.beat.waiting = some .follower then s
      else (s.setMode 1).onBeat fun b => { b with waiting := some .follower }
  | _ => s.sameMode 1

/-- A write of MASTER to MODE (R44). -/
def State.modeMaster (s : State) : State :=
  match s.beat.st with
  | .idle | .acquire => (s.setMode 2).enterMaster true
  | .master => s.sameMode 2
  | _ => if s.beat.waiting = some .master then s
      else (s.setMode 2).onBeat fun b => { b with waiting := some .master }

/-- A write of OFF to MODE (R44): a waiting change is withdrawn; IDLE is entered only while every partition is DISABLED.
(DESIGN CHOICE, assumption log 12) -/
def State.modeOff (s : State) : State :=
  if (List.range 32).all fun p => decide (s.eng.pstate p = psDisabled) then
    (s.setMode 0).onBeat fun b => { b with st := .idle, waiting := none, edge := none, still := false, freeMark := false, masterFirst := false, prevValid := false }
  else
    let run := if s.beat.st = .idle then 0 else if s.beat.st = .master then 2 else 1
    ((s.setMode run).onBeat fun b => { b with waiting := none }).beatEv 6

/-- The STATE code of R37. -/
def BeatSt.code : BeatSt → Nat
  | .idle => 0 | .acquire => 1 | .locked => 2 | .free => 3 | .expired => 4 | .master => 5

/-- WX_BEAT_NOW_HI of a beat time (R48). -/
def BeatUnit.nowHi (b : BeatUnit) : Word := BitVec.ofNat 32 (b.stamp / 2 ^ 32)

/-- One tick of beat time with nothing commanded (assumption log 4): it moves only while beat time runs, and holds at
tick 255 until an edge (R34, R37, R42). -/
def State.tick (s : State) : State :=
  if s.beat.running ∧ s.beat.still = false ∧ s.beat.masterFirst = false ∧ s.beat.time % 256 ≠ 255 then
    s.advance (s.beat.time + 1)
  else s

end Sys2Proof.Machine
end

