-- ==== Sys2Proof/Machine/Basin.lean ====
section
/-! DEFINITION. The page manager (spec/09): page records and free lists, page lists, the prefix tree with its matches, insertions and evictions, and learned-prefix entries. -/

namespace Sys2Proof.Machine

open Sys2Proof

/-! ## Pages (R227 to R234) -/

/-- The page size P in tokens (R229). -/
def Eng.pageTok (e : Eng) (p : Nat) : Nat := 16 * 2 ^ e.fld (Reg.pageCfg p) 1 0
def Eng.pageLo (e : Eng) (p : Nat) : Nat := e.fld (Reg.pageRange p) 11 0 * 4096
def Eng.pageSpan (e : Eng) (p : Nat) : Nat := e.fld (Reg.pageRange p) 28 16 * 4096
def Eng.nodeLo (e : Eng) (p : Nat) : Nat := e.fld (Reg.pageNodes p) 11 0 * 65536
def Eng.nodeSpan (e : Eng) (p : Nat) : Nat := e.fld (Reg.pageNodes p) 28 16 * 65536
def Eng.listSpan (e : Eng) (p : Nat) : Nat := e.fld (Reg.pageListBlocks p) 23 0

/-- Whether a page lies in the learned range (R227). (DESIGN CHOICE, assumption log 40) -/
def Eng.learnedPage (e : Eng) (g : Nat) : Bool :=
  decide (e.fld Reg.pageLpRange 11 0 * 4096 ≤ g) &&
    decide (g < e.fld Reg.pageLpRange 11 0 * 4096 + e.fld Reg.pageLpRange 28 16 * 4096)

def Eng.page (e : Eng) (g : Nat) : PageRec := kget PageRec.free e.pages g

/-- The STATE code of a page record (R231). -/
def Eng.pageState (e : Eng) (g : Nat) : Nat :=
  let r := e.page g
  if e.learnedPage g then 3 else if r.ref = 0 then 0 else if r.tree ∧ r.ref = 1 then 2 else 1

/-- Change a page record, and write it through (R230). (DESIGN CHOICE, assumption log 28) -/
def Eng.setPage (b : BeatUnit) (g : Nat) (f : PageRec → PageRec) (e : Eng) : Eng :=
  let e := { e with pages := kmod PageRec.free e.pages g f }
  let r := e.page g
  e.sysStore b (e.pair Reg.pagePrtBaseLo Reg.pagePrtBaseHi + 8 * g)
    (leBytes 8 (r.next * 2 ^ 40 + e.pageState g * 2 ^ 38 + r.ref % 2 ^ 24 * 2 ^ 8))

/-- Add a holder to a page (R231). -/
def Eng.holdPage (b : BeatUnit) (g : Nat) (e : Eng) : Eng := e.setPage b g fun r => { r with ref := r.ref + 1 }

/-- A page joins the tail of its partition's free list (R233). -/
def Eng.joinFree (b : BeatUnit) (p g : Nat) (e : Eng) : Eng :=
  let e := match (e.part p).freePages.getLast? with
    | some t => e.setPage b t fun r => { r with next := g }
    | none => e
  (e.setPage b g fun r => { r with next := 0xFFFFFF, tree := false }).onPart p fun q => { q with freePages := q.freePages ++ [g] }

/-- Untouched and free pages of a partition. -/
def Eng.freeCount (e : Eng) (p : Nat) : Nat := e.pageSpan p - (e.part p).pageCur + (e.part p).freePages.length

/-- The CACHED pages of a partition (R231). -/
def Eng.cachedPages (e : Eng) (p : Nat) : List Nat :=
  (e.pages.filter fun x => decide (x.2.ref = 1) && x.2.tree && decide (e.pageLo p ≤ x.1) && decide (x.1 < e.pageLo p + e.pageSpan p)).map
    fun x => x.1

/-! ## Nodes (R244, R245) -/

def Eng.node (e : Eng) (n : Nat) : Node := kget Node.free e.nodes n

/-- The node index that means none. -/
abbrev noNode : Nat := 0x0FFFFFFF

/-- The element after `n` in a list of nodes. -/
def after : List Nat → Nat → Nat
  | a :: c :: r, n => if a = n then c else after (c :: r) n
  | _, _ => noNode

/-- The 128 bytes of a node (R245). -/
def Eng.nodeBytes (e : Eng) (p n : Nat) : List Byte :=
  let x := e.node n
  let q := e.part p
  let sib := if x.used then after (e.node x.parent).kids n else after q.freeNodes n
  let flags := (if x.page.isSome then 1 else 0) + (if q.lru.contains n then 2 else 0) + (if x.level1 then 4 else 0) +
    (if x.root then 8 else 0)
  let head := leBytes 8 x.key ++ leBytes 4 x.parent ++ leBytes 4 (x.kids.headD noNode) ++ leBytes 4 sib ++
    leBytes 4 (after q.lru.reverse n) ++ leBytes 4 (after q.lru n) ++ leBytes 3 (x.page.getD 0) ++ leBytes 1 flags ++
    leBytes 8 x.lastUse ++ leBytes 1 x.label.length ++ leBytes 1 x.off ++ [0, 0]
  let tail := leBytes 80 (x.label.foldr (fun t a => t % 2 ^ 20 + 2 ^ 20 * a) 0)
  head ++ leBytes 4 (crc32c (head ++ [0, 0, 0, 0] ++ tail)).toNat ++ tail

def Eng.nodeAddr (e : Eng) (n : Nat) : Nat := e.pair Reg.pageNodeBaseLo Reg.pageNodeBaseHi + 128 * n

/-- Write nodes through to host memory. -/
def Eng.showNodes (b : BeatUnit) (p : Nat) (ns : List Nat) (e : Eng) : Eng :=
  (ns.filter (· ≠ noNode)).foldl (fun e n => e.sysStore b (e.nodeAddr n) (e.nodeBytes p n)) e

/-- Change a node. (DESIGN CHOICE, assumption log 28) -/
def Eng.setNode (n : Nat) (f : Node → Node) (e : Eng) : Eng := { e with nodes := kmod Node.free e.nodes n f }

/-- Whether a node's bytes in memory carry a good CRC and can be read (R246). (DESIGN CHOICE, assumption log 28) -/
def Eng.nodeGood (e : Eng) (n : Nat) : Bool :=
  let l := e.bytes (e.nodeAddr n) 128
  !e.refused none false (e.nodeAddr n) 128 &&
    decide (fieldAt l 0x2C 4 = (crc32c (l.take 0x2C ++ [0, 0, 0, 0] ++ l.drop 0x30)).toNat)

/-- Read a node: from the node cache, or from memory with its check; which of the two is open (R245). (DESIGN CHOICE,
assumption log 39) -/
def Eng.visit (n : Nat) (e : Eng) : Bool × Eng :=
  let (k, e) := e.drawFree
  if Config.freePick k % 2 = 0 then (true, e.bumpWrap Reg.pageNcHits 31 0)
  else (e.nodeGood n, e.bumpWrap Reg.pageNcMisses 31 0)

/-- The nodes that a partition can allocate. -/
def Eng.nodesLeft (e : Eng) (p : Nat) : Nat := e.nodeSpan p - (e.part p).nodeCur + (e.part p).freeNodes.length

/-- Allocate a node (R249). -/
def Eng.allocNode (p : Nat) (e : Eng) : Option Nat × Eng :=
  let q := e.part p
  if q.nodeCur < e.nodeSpan p then
    (some (e.nodeLo p + q.nodeCur), e.onPart p fun q => { q with nodeCur := q.nodeCur + 1 })
  else match q.freeNodes with
    | n :: r => (some n, e.onPart p fun q => { q with freeNodes := r })
    | [] => (none, e)

/-- The nodes before and after a node on an eviction list (R245). -/
def neighbours (l : List Nat) (n : Nat) : List Nat := [after l.reverse n, after l n]

/-- Change the eviction list; a node whose place changes is written with the neighbours that it had and has (R245). -/
def Eng.setLru (b : BeatUnit) (p n : Nat) (f : List Nat → List Nat) (e : Eng) : Eng :=
  let l := (e.part p).lru
  let e := e.onPart p fun q => { q with lru := f q.lru }
  e.showNodes b p (n :: neighbours l n ++ neighbours (f l) n)

/-- Put a node on the eviction list (R250). -/
def Eng.lruAdd (b : BeatUnit) (p n : Nat) (head : Bool) (e : Eng) : Eng :=
  e.setLru b p n fun l => if head then n :: l.erase n else l.erase n ++ [n]

/-- Take a node off the eviction list. -/
def Eng.lruDrop (b : BeatUnit) (p n : Nat) (e : Eng) : Eng :=
  if (e.part p).lru.contains n then e.setLru b p n fun l => l.erase n else e

/-- Free a node (R249, R251): no request's walk goes on from it (R248). -/
def Eng.freeNode (b : BeatUnit) (p n : Nat) (e : Eng) : Eng :=
  let tail := (e.part p).freeNodes.getLast?
  let e := e.lruDrop b p n
  let e := (e.setNode n fun _ => Node.free).onPart p fun q => { q with freeNodes := q.freeNodes ++ [n] }
  { e with reqs := kmapAll Req.none e.reqs fun r => { r with path := r.path.erase n } }.showNodes b p (n :: tail.toList)

/-- Remove the tree as a holder of a page; a page with no holder left joins the free list (R231, R233). -/
def Eng.treeRelease (b : BeatUnit) (p g : Nat) (e : Eng) : Eng :=
  let e := e.setPage b g fun r => { r with ref := r.ref - 1, tree := false }
  if (e.page g).ref = 0 then e.joinFree b p g else e

/-- Unlink a node from its parent. -/
def Eng.unlink (b : BeatUnit) (p n : Nat) (e : Eng) : Eng :=
  let pr := (e.node n).parent
  let ks := (e.node pr).kids
  let e := e.setNode pr fun x => { x with kids := x.kids.erase n }
  e.showNodes b p (pr :: ks.erase n)

/-- Walk upward from a node that lost a child (R251): a childless node that is no page node is freed, and a page node
becomes evictable. -/
def Eng.climb (b : BeatUnit) (p : Nat) : Nat → Nat → Eng → Eng
  | 0, _, e => e
  | f + 1, n, e =>
    let x := e.node n
    if x.root || !x.used || decide (x.kids ≠ []) then e
    else match x.page with
      | some g => if (e.page g).ref = 1 then e.lruAdd b p n true else e
      | none => Eng.climb b p f x.parent ((e.unlink b p n).freeNode b p n)

/-- Evict a node (R251). -/
def Eng.evictNode (b : BeatUnit) (p n : Nat) (e : Eng) : Eng :=
  let x := e.node n
  let e := (e.unlink b p n).freeNode b p n
  let e := match x.page with
    | some g => e.treeRelease b p g
    | none => e
  (e.bumpWrap (Reg.pageEvictions p) 31 0).climb b p 70000 x.parent

/-- Evict the least recently used node, if one is evictable (R250, R252). -/
def Eng.evict (b : BeatUnit) (p : Nat) (e : Eng) : Option Eng := (e.part p).lru.head?.map fun n => e.evictNode b p n

/-- The nodes of a subtree, its top first. (DESIGN CHOICE, assumption log 40) -/
def Eng.subtree (e : Eng) : Nat → Nat → List Nat
  | 0, _ => []
  | f + 1, n => n :: ((e.node n).kids.map fun k => Eng.subtree e f k).flatten

/-- Unlink a node with its subtree, free the nodes in increasing index order and release the tree's references (R233, R246,
R249, R253). (DESIGN CHOICE, assumption log 40) -/
def Eng.dropTree (b : BeatUnit) (p n : Nat) (e : Eng) : Eng :=
  let pr := (e.node n).parent
  let ns := sortBy (fun a c => decide (a < c)) (e.subtree e.nodes.length n)
  let gs := sortBy (fun a c => decide (a < c)) (ns.filterMap fun k => (e.node k).page)
  let e := e.unlink b p n
  let e := ns.foldl (fun e k => e.freeNode b p k) e
  (gs.foldl (fun e g => e.treeRelease b p g) e).climb b p 70000 pr

/-- A node read with a bad CRC (R246). -/
def Eng.treeErr (b : BeatUnit) (p n : Nat) (e : Eng) : Eng := (e.dropTree b p n).ev (Reg.pageEvent p) 2

/-- Evict until `need` nodes can be allocated, or none is evictable (R249). -/
def Eng.makeNodes (b : BeatUnit) (p need : Nat) : Nat → Eng → Eng
  | 0, e => e
  | f + 1, e => if need ≤ e.nodesLeft p then e else match e.evict b p with
    | some e => Eng.makeNodes b p need f e
    | none => e

/-- The root of an enabled profile's tree, allocated where there is none (R244, R261); an allocation that falls
short evicts (R252). (DESIGN CHOICE, assumption log 40) -/
def Eng.rootOf (b : BeatUnit) (p m : Nat) (e : Eng) : Option Nat × Eng :=
  let r := e.fld (Reg.pageRoot p m) 27 0
  if r ≠ noNode then (some r, e)
  else match (e.makeNodes b p 1 70000).allocNode p with
    | (none, e) => (none, e.ev (Reg.pageEvent p) 1)
    | (some n, e) =>
      let e := (e.setNode n fun _ => { Node.free with used := true, root := true }).setF (Reg.pageRoot p m) 27 0 n
      (some n, e.showNodes b p [n])

/-- The trees of a partition in service: every enabled profile has its root (R244, R261). (DESIGN CHOICE, assumption log 40) -/
def Eng.plantRoots (b : BeatUnit) (p : Nat) (e : Eng) : Eng :=
  ((List.range 8).filter fun m => e.bit (Reg.admModelCfg p m) 31).foldl (fun e m => (e.rootOf b p m).2) e

/-- The level-1 nodes of a partition's trees. -/
def Eng.level1s (e : Eng) (p : Nat) : List Nat :=
  ((List.range 8).map fun m =>
    let r := e.fld (Reg.pageRoot p m) 27 0
    if r = noNode then [] else (e.node r).kids).flatten

/-- FLUSH: every level-1 node of the partition is unlinked (R253). -/
def Eng.flushTrees (b : BeatUnit) (p : Nat) (e : Eng) : Eng := (e.level1s p).foldl (fun e n => e.dropTree b p n) e

/-- A version leaves residence: its level-1 nodes are unlinked (R253). -/
def Eng.dropVersion (b : BeatUnit) (p v : Nat) (e : Eng) : Eng :=
  ((e.level1s p).filter fun n => decide ((e.node n).key % 65536 = v)).foldl (fun e n => e.dropTree b p n) e

/-- The tree of a profile goes when the profile is disabled. -/
def Eng.dropProfile (b : BeatUnit) (p m : Nat) (e : Eng) : Eng :=
  let r := e.fld (Reg.pageRoot p m) 27 0
  if r = noNode then e
  else
    let e := (e.node r).kids.foldl (fun e n => e.dropTree b p n) e
    (e.freeNode b p r).setF (Reg.pageRoot p m) 27 0 noNode

/-! ## Allocation and release of pages (R233, R240) -/

/-- Allocate a page for a request, evicting if the free pages have run out (R233, R252). -/
def Eng.allocPage (b : BeatUnit) (p : Nat) (e : Eng) : Option Nat × Eng :=
  let take := fun e : Eng =>
    let q := e.part p
    if q.pageCur < e.pageSpan p then
      let g := e.pageLo p + q.pageCur
      (some g, (e.onPart p fun q => { q with pageCur := q.pageCur + 1 }).setPage b g fun _ => ⟨1, false, 0xFFFFFF⟩)
    else match q.freePages with
      | g :: r => (some g, (e.onPart p fun q => { q with freePages := r }).setPage b g fun _ => ⟨1, false, 0xFFFFFF⟩)
      | [] => (none, e)
  match take e with
  | (some g, e) => (some g, e)
  | (none, e) => match e.evict b p with
    | some e => take e
    | none => (none, e)

/-- A request releases pages (R231, R233, R250): a page that only the tree then holds makes its node evictable. -/
def Eng.releasePages (b : BeatUnit) (p : Nat) (gs : List Nat) (e : Eng) : Eng :=
  let e := gs.foldl (init := e) fun e g =>
    let e := e.setPage b g fun r => { r with ref := r.ref - 1 }
    if (e.page g).ref = 1 ∧ (e.page g).tree then
      match e.nodes.find? fun x => decide (x.2.page = some g) with
      | some (n, x) => if x.kids = [] then e.lruAdd b p n false else e
      | none => e
    else e
  let freed := sortBy (fun a c => decide (a < c)) ((gs.filter fun g => decide ((e.page g).ref = 0) && !e.learnedPage g).eraseDups)
  freed.foldl (fun e g => e.joinFree b p g) e

/-- Allocate a list block (R238). -/
def Eng.allocBlock (p : Nat) (e : Eng) : Option Nat × Eng :=
  let q := e.part p
  if q.blockCur < e.listSpan p then (some q.blockCur, e.onPart p fun q => { q with blockCur := q.blockCur + 1 })
  else match q.freeBlocks with
    | n :: r => (some n, e.onPart p fun q => { q with freeBlocks := r })
    | [] => (none, e)

/-- List blocks that the partition can grant (R234). -/
def Eng.blocksLeft (e : Eng) (p : Nat) : Nat := e.listSpan p - (e.part p).blockCur + (e.part p).freeBlocks.length

/-- Write one entry of a list block. -/
def Eng.listPut (b : BeatUnit) (p blk i v : Nat) (e : Eng) : Eng :=
  e.partStore b p (e.pair (Reg.pageListBaseLo p) (Reg.pageListBaseHi p) + blk * 4096 + 4 * i) (leBytes 4 v)

/-- Write word 18 (R236). -/
def Eng.showList (slot lp shared : Nat) (e : Eng) : Eng :=
  let r := e.req slot
  e.setRqw slot 18 (BitVec.ofNat 64 (r.blocks.headD 0 * 2 ^ 40 + r.pages.length * 2 ^ 23 + lp * 2 ^ 17 + shared))

/-- LP and SHARED of word 18. -/
def Eng.rlp (e : Eng) (slot : Nat) : Nat := e.rqf slot 18 22 17
def Eng.rshared (e : Eng) (slot : Nat) : Nat := e.rqf slot 18 16 0

/-- Append an entry to a request's page list, taking a leaf where the list passes a multiple of 1,024 (R235, R238);
false when no list block is left. -/
def Eng.listAdd (b : BeatUnit) (p slot g extra : Nat) (e : Eng) : Bool × Eng :=
  let j := (e.req slot).pages.length
  let (ok, e) :=
    if (e.req slot).blocks.length ≤ 1 + j / 1024 then
      match e.allocBlock p with
      | (none, e) => (false, e)
      | (some k, e) =>
        let d := (e.req slot).blocks.headD 0
        (true, (e.onReq slot fun r => { r with blocks := r.blocks ++ [k] }).listPut b p d (j / 1024) (2 ^ 31 + k))
    else (true, e)
  if !ok then (false, e.ev (Reg.pageEvent p) 3)
  else
    let leaf := ((e.req slot).blocks)[1 + j / 1024]?.getD 0
    let lp := e.rlp slot
    let sh := e.rshared slot
    (true, ((e.onReq slot fun r => { r with pages := r.pages ++ [g] }).listPut b p leaf (j % 1024) (g + extra)).showList slot lp sh)

/-- Grow a request's list to `need` entries (R240): whether it reached them. -/
def Eng.grow (b : BeatUnit) (p slot need : Nat) : Nat → Eng → Bool × Eng
  | 0, e => (decide (need ≤ (e.req slot).pages.length), e)
  | f + 1, e =>
    if need ≤ (e.req slot).pages.length then (true, e)
    else if (e.req slot).blocks.length ≤ 1 + (e.req slot).pages.length / 1024 ∧ e.blocksLeft p = 0 then
      (false, e.ev (Reg.pageEvent p) 3)
    else match e.allocPage b p with
      | (none, e) => (false, e)
      | (some g, e) =>
        let (_, e) := e.listAdd b p slot g 0
        Eng.grow b p slot need f e

/-- Make pages cover the positions below `upto` (R237, R240): how many positions are covered. -/
def Eng.cover (b : BeatUnit) (p slot upto : Nat) (e : Eng) : Nat × Eng :=
  let need := e.rlp slot + ceilDiv upto (e.pageTok p)
  let (_, e) := e.grow b p slot need (need - (e.req slot).pages.length)
  (((e.req slot).pages.length - e.rlp slot) * e.pageTok p, e)

/-- Release the copy source (R243). -/
def Eng.dropCopy (b : BeatUnit) (p slot : Nat) (e : Eng) : Eng :=
  match (e.req slot).copySrc with
  | none => e
  | some g => (e.releasePages b p [g]).onReq slot fun r => { r with copySrc := none, copyDir := none, copyStep := none }

/-- Release the pages and blocks of a page list (R238). (DEDUCED, assumption log 120) -/
def Eng.dropList (b : BeatUnit) (p : Nat) (e : Eng) (l : OldList) : Eng :=
  (e.releasePages b p l.pages).onPart p fun q => { q with freeBlocks := q.freeBlocks ++ sortBy (fun a c => decide (a < c)) l.blocks }

/-- Release everything Basin holds for a request (R238, R241); a list that a step in flight names stays until that step's
boundary (R239). (DEDUCED, assumption log 120) -/
def Eng.dropPages (b : BeatUnit) (p slot : Nat) (e : Eng) : Eng :=
  let e := e.dropCopy b p slot
  let r := e.req slot
  let l : OldList := ⟨slot, r.pages, r.blocks⟩
  let e := match r.inStep with
    | some n => if (e.stepOf p n).isSome then e.onStep p n fun s => { s with lists := s.lists ++ [l] } else e.dropList b p l
    | none => e.dropList b p l
  e.onReq slot fun r => { r with pages := [], blocks := [] }

/-! ## The match (R247) -/

/-- Where a walk of the tree has come to: the nodes matched in full, the tokens matched, a node matched in part with
how many of its tokens, and a node whose read failed. -/
structure Walk where
  full : List Nat
  pos : Nat
  part : Option (Nat × Nat)
  bad : Option Nat
  deriving DecidableEq, Repr

/-- Visit children in KEY order up to the one that carries a key: the child, or the one whose read failed (R246, R247). -/
def Eng.findKid (key : Nat) : List Nat → Eng → Option Nat × Option Nat × Eng
  | [], e => (none, none, e)
  | k :: r, e =>
    let (ok, e) := e.visit k
    if !ok then (none, some k, e)
    else if (e.node k).key = key then (some k, none, e)
    else if key < (e.node k).key then (none, none, e)
    else Eng.findKid key r e

/-- How many tokens of a label match those from `pos` on, below `limit`. -/
def labelMatch (tok : Nat → Nat) (limit : Nat) : List Nat → Nat → Nat
  | [], _ => 0
  | t :: r, pos => if pos < limit ∧ tok pos = t then 1 + labelMatch tok limit r (pos + 1) else 0

/-- Walk down from a node (R247). -/
def Eng.walkTree (tok : Nat → Nat) (limit : Nat) : Nat → Nat → Walk → Eng → Walk × Eng
  | 0, _, w, e => (w, e)
  | f + 1, cur, w, e =>
    if limit ≤ w.pos then (w, e)
    else match Eng.findKid (tok w.pos) (e.node cur).kids e with
      | (_, some bad, e) => ({ w with bad := some bad }, e)
      | (none, none, e) => (w, e)
      | (some k, none, e) =>
        let n := labelMatch tok limit (e.node k).label w.pos
        if n = (e.node k).label.length then
          Eng.walkTree tok limit f k { w with full := w.full ++ [k], pos := w.pos + n } e
        else ({ w with pos := w.pos + n, part := some (k, n) }, e)

/-- The key of a level-1 node (R245). -/
def level1Key (version : Nat) (lp : Option Nat) : Nat :=
  version + match lp with
    | some id => 2 ^ 48 + id * 2 ^ 32
    | none => 0

/-- The level-1 node of a profile's tree under a key. -/
def Eng.level1 (e : Eng) (p m key : Nat) : Option Nat :=
  let r := e.fld (Reg.pageRoot p m) 27 0
  if r = noNode then none else (e.node r).kids.find? fun k => decide ((e.node k).key = key)

/-- A token of a prompt in host memory (R84: [19:0] of a 4-byte element), read for the partition (R536); where the read draws an
error its value is free (R581). -/
def Eng.token (e : Eng) (p a i : Nat) : Nat := e.pnum p (a + 4 * i) 4 % 2 ^ 20

/-- The tokens of a prompt from one on have been read: the first read that draws an error is a tenant fault (R581). -/
def Eng.readTokens (b : BeatUnit) (p a i n : Nat) (e : Eng) : Eng :=
  match (List.range n).find? fun k => e.refused (some p) false (a + 4 * (i + k)) 4 with
  | some k => e.memFault b p (a + 4 * (i + k)) false
  | none => e

/-- A match: M_tok, the pages of the page nodes matched in full, the copy source, the nodes passed, and those matched in full from
level 1 down. -/
structure Match where
  mtok : Nat
  shared : List Nat
  copy : Option Nat
  passed : List Nat
  path : List Nat
  deriving DecidableEq, Repr

/-- The first page node from a node that has been read, down through first children (R247); a child with a bad CRC goes with its
subtree (R246), and the search starts again at `top`. -/
def Eng.firstPage (b : BeatUnit) (p top : Nat) : Nat → Nat → Eng → Option Nat × Eng
  | 0, _, e => (none, e)
  | f + 1, n, e => match (e.node n).page, (e.node n).kids with
    | some g, _ => (some g, e)
    | none, [] => (none, e)
    | none, k :: _ =>
      let (ok, e) := e.visit k
      if ok then Eng.firstPage b p top f k e else Eng.firstPage b p top f top (e.treeErr b p k)

/-- Match a prompt (R246, R247), before any effect on LAST_USE. What a bad node hangs goes before a copy source is looked
for; with no page left to copy, M_tok is M. (DESIGN CHOICE, assumption log 40) -/
def Eng.matchPrompt (b : BeatUnit) (p m key addr len : Nat) (e : Eng) : Match × Eng :=
  match e.level1 p m key with
  | none => (⟨0, [], none, [], []⟩, e)
  | some l1 =>
    let (ok, e) := e.visit l1
    if !ok then (⟨0, [], none, [], []⟩, e.treeErr b p l1)
    else
      let (w, e) := e.walkTree (fun i => e.token p addr i) (len - 1) (len + 1) l1 ⟨[], 0, none, none⟩
      let e := e.readTokens b p addr 0 (min (w.pos + 1) (len - 1))
      let shared := w.full.filterMap fun n => (e.node n).page
      let stop := match w.part with
        | some (k, n) => if n = 0 then w.full.getLast? else some k
        | none => w.full.getLast?
      let e := match w.bad with
        | some k => e.treeErr b p k
        | none => e
      let m := shared.length * e.pageTok p
      let (copy, e) : Option Nat × Eng := match stop with
        | some n => if w.pos = m then (none, e) else e.firstPage b p n 70000 n
        | none => (none, e)
      let here := fun l : List Nat => l.filter fun n => (e.node n).used
      (⟨if copy.isSome then w.pos else m, shared, copy, here (l1 :: w.full ++ (match w.part with
        | some (k, n) => if n = 0 then [] else [k]
        | none => [])), here (l1 :: w.full)⟩, e)

/-- The marks that a match leaves (R247): LAST_USE, and the tail of the eviction list. -/
def Eng.touch (b : BeatUnit) (p : Nat) (ns : List Nat) (e : Eng) : Eng :=
  ns.foldl (init := e) fun e n =>
    let e := e.setNode n fun x => { x with lastUse := b.stamp }
    if (e.part p).lru.contains n then e.lruAdd b p n false else e.showNodes b p [n]

/-! ## Insertion (R248, R249) -/

/-- Put a child under a node in KEY order. -/
def Eng.adopt (b : BeatUnit) (p n k : Nat) (e : Eng) : Eng :=
  let e := e.setNode n fun x => { x with kids := insertBy (fun a c => decide ((e.node a).key < (e.node c).key)) k x.kids }
  (e.lruDrop b p n).showNodes b p (n :: (e.node n).kids)

/-- Cut a label into chunks of at most 32 tokens (R244). -/
def chunks : Nat → List Nat → List (List Nat)
  | 0, _ => []
  | _, [] => []
  | f + 1, l => l.take 32 :: chunks f (l.drop 32)

/-- The path of a request: the nodes matched or inserted for it, from level 1 down to the deepest (R248). -/
def Eng.setPath (e : Eng) (slot : Nat) (l : List Nat) : Eng := e.onReq slot fun r => { r with path := l }

/-- Add a chain of nodes for the remaining tokens of a page under a node, the last one carrying the page (R248); the
request's path runs along it. -/
def Eng.addChain (b : BeatUnit) (p slot g : Nat) : List (List Nat) → Nat → Nat → Eng → Eng
  | [], _, _, e => e
  | l :: r, off, under, e => match e.allocNode p with
    | (none, e) => e
    | (some n, e) =>
      let e := e.setNode n fun _ =>
        { Node.free with used := true, key := l.headD 0, parent := under, page := if r = [] then some g else none,
                         lastUse := b.stamp, off := off, label := l }
      let e := e.adopt b p under n
      Eng.addChain b p slot g r (off + l.length) n (e.setPath slot ((e.req slot).path ++ [n]))

/-- Split a node after `n` label tokens (R248): the upper part keeps the index and loses its page. -/
def Eng.splitNode (b : BeatUnit) (p k n : Nat) (e : Eng) : Eng :=
  match e.allocNode p with
  | (none, e) => e
  | (some m, e) =>
    let x := e.node k
    let lower := { x with key := (x.label.drop n).headD 0, parent := k, label := x.label.drop n, off := x.off + n, level1 := false }
    let onLru := (e.part p).lru.contains k
    let e := (e.setNode m fun _ => lower).setNode k fun x => { x with label := x.label.take n, page := none, kids := [m] }
    let e := x.kids.foldl (fun e c => e.setNode c fun y => { y with parent := m }) e
    let e := { e with reqs := kmapAll Req.none e.reqs fun r => { r with path := (r.path.map fun y => if y = k then [k, m] else [y]).flatten } }
    let e := if onLru then e.onPart p fun q => { q with lru := q.lru.map fun y => if y = k then m else y } else e
    e.showNodes b p (k :: m :: after (e.part p).lru m :: after (e.part p).lru.reverse m :: x.kids)

/-- The level-1 node under a key, made if it does not exist. (DESIGN CHOICE, assumption log 40) -/
def Eng.ensureLevel1 (b : BeatUnit) (p m key : Nat) (e : Eng) : Option Nat × Eng :=
  match e.level1 p m key with
  | some n => (some n, e)
  | none => match e.rootOf b p m with
    | (none, e) => (none, e)
    | (some r, e) => match e.allocNode p with
      | (none, e) => (none, e.ev (Reg.pageEvent p) 1)
      | (some n, e) =>
        let e := e.setNode n fun _ => { Node.free with used := true, key := key, parent := r, level1 := true, lastUse := b.stamp }
        (some n, e.adopt b p r n)

/-- Where an insertion walks from (R248): the request's path, or, where it has none, the level-1 node of its binding; and how many
tokens of the prompt the path holds. -/
def Eng.pathOf (e : Eng) (p slot : Nat) : List Nat × Nat :=
  let l := (e.req slot).path
  let lp := if e.rqf slot 1 15 15 = 1 then some (e.rqf slot 1 31 16) else none
  let l := if l = [] then (e.level1 p (e.rmodel slot) (level1Key (e.rversion slot) lp)).toList else l
  (l, (l.map fun n => (e.node n).label.length).foldl (· + ·) 0)

/-- Insert page `k` of a request's prompt, carried by page `g` (R248, R249), from the deepest node matched or inserted for
it. Where a node is bad, or the nodes that it needs are short and nodes are evicted, the walk is made again, for as long as
that helps (R246, R252). (DESIGN CHOICE, assumption log 40) -/
def Eng.insertPage (b : BeatUnit) (p slot k g : Nat) : Nat → Eng → Eng
  | 0, e => e.ev (Reg.pageEvent p) 1
  | f + 1, e =>
    let pt := e.pageTok p
    let m := e.rmodel slot
    let lp := if e.rqf slot 1 15 15 = 1 then some (e.rqf slot 1 31 16) else none
    let addr := (e.rqw slot 3).toNat
    let stop := (k + 1) * pt
    let (path, pos) := e.pathOf p slot
    let (w, e) : Walk × Eng := match path.getLast? with
      | none => (⟨[], 0, none, none⟩, e)
      | some n => e.walkTree (fun i => e.token p addr i) stop (stop + 1) n ⟨[], pos, none, none⟩
    match w.bad with
    | some n => Eng.insertPage b p slot k g f (e.treeErr b p n)
    | none =>
      let e := e.setPath slot (path ++ w.full)
      if w.pos = stop ∨ w.pos < k * pt then e
      else
        let rest := (List.range (stop - w.pos)).map fun i => e.token p addr (w.pos + i)
        let cs := chunks 3 rest
        let split := match w.part with
          | some (c, n) => if n = 0 then none else some (c, n)
          | none => none
        let tops := if path ≠ [] then 0 else if e.fld (Reg.pageRoot p m) 27 0 = noNode then 2 else 1
        let need := cs.length + split.toList.length + tops
        if e.nodesLeft p < need then
          if (e.part p).lru = [] then e.ev (Reg.pageEvent p) 1 else Eng.insertPage b p slot k g f (e.makeNodes b p need 70000)
        else
          let (top, e) : Option Nat × Eng := match (path ++ w.full).getLast? with
            | some n => (some n, e)
            | none => e.ensureLevel1 b p m (level1Key (e.rversion slot) lp)
          match top with
          | none => e
          | some n =>
            let e := if path = [] then e.setPath slot [n] else e
            let (under, e) := match split with
              | some (c, j) => let e := e.splitNode b p c j; (c, e.setPath slot ((e.req slot).path ++ [c]))
              | none => (n, e)
            let e := e.setPage b g fun r => { r with ref := r.ref + 1, tree := true }
            (e.addChain b p slot g cs (w.pos - k * pt) under).bumpWrap (Reg.pageInserts p) 31 0

/-- Insert the prompt pages that PREFILLED has newly passed (R248). (DESIGN CHOICE, assumption log 40) -/
def Eng.insertPages (b : BeatUnit) (p slot old : Nat) (e : Eng) : Eng :=
  let pt := e.pageTok p
  let hi := min (e.rprefilled slot) (e.rpromptLen slot) / pt
  let lo := old / pt
  (List.range (hi - lo)).foldl (init := e) fun e i =>
    match ((e.req slot).pages)[e.rlp slot + lo + i]? with
    | some g => (e.readTokens b p (e.rqw slot 3).toNat ((lo + i) * pt) pt).insertPage b p slot (lo + i) g 70000
    | none => e

/-! ## Learned prefixes (R255 to R258) -/

/-- The address of a learned-prefix table entry. -/
def Eng.lpAddr (e : Eng) (id : Nat) : Nat := e.pair Reg.pageLpTableLo Reg.pageLpTableHi + 256 * id

/-- Whether a learned-prefix id exists for a partition and a profile (R256, R581). -/
def Eng.lpExists (e : Eng) (p m id : Nat) : Bool :=
  let a := e.lpAddr id
  !e.refused none false a 256 && (e.byte a).getLsbD 0 && (e.num (a + 8) 4).testBit p && decide ((e.byte (a + 6)).toNat % 8 = m)

/-- Whether a learned prefix is resident for a request (check 1 of R215, R256). -/
def Eng.lpResident (e : Eng) (p version id : Nat) : Bool :=
  let a := e.lpAddr id
  decide (kget 0 e.lps id = 1) && decide (e.num (a + 4) 2 = version) && decide ((e.byte (a + 1)).toNat = e.fld (Reg.pageCfg p) 1 0)

/-- VTOKENS of a learned prefix. -/
def Eng.lpTokens (e : Eng) (id : Nat) : Nat := e.num (e.lpAddr id + 2) 2

/-- The checks of LOAD on an entry (R257), with the pages it names. -/
def Eng.lpCheck (e : Eng) (id : Nat) : Bool × List Nat :=
  let a := e.lpAddr id
  let l := e.bytes a 256
  let ps := fieldAt l 1 1
  let v := fieldAt l 2 2
  let n := ceilDiv v (16 * 2 ^ ps)
  let gs := (List.range n).map fun i => fieldAt l (0x10 + 4 * i) 4
  let ok := !e.refused none false a 256 && crcGood l && decide (fieldAt l 0 1 = 1) && decide (ps < 3) && decide (1 ≤ v) &&
    decide (v ≤ 512) && decide (fieldAt l 6 1 < 8) && decide (fieldAt l 7 1 = 0) && decide (fieldAt l 0x0C 4 = 0) &&
    decide (fieldAt l (0x10 + 4 * n) (128 - 4 * n) = 0) && decide (fieldAt l 0x90 108 = 0) && gs.all fun g => decide (g < 2 ^ 24) && e.learnedPage g
  (ok, gs)

end Sys2Proof.Machine
end

