-- ==== Sys2Proof/Machine/Operands.lean ====
section
/-! DEFINITION. The operand forms of the instruction word (R88 to R91, R109), the wrapper in which every instruction runs (fetch, encoding checks, guard, body), and the instruction boundary (R95, R151). -/

namespace Sys2Proof

/-- MOD [31:24] and IMM24 of EXT (R89's forms). -/
def Ins.mod (i : Ins) : Nat := Machine.bitsOf i.ext.toNat 31 24
def Ins.imm24 (i : Ins) : Nat := Machine.bitsOf i.ext.toNat 23 0
/-- IMM32 sign-extended to 64 bits (R89). -/
def Ins.imm (i : Ins) : Dword := i.ext.signExtend 64
def Ins.p (i : Ins) : Nat := i.part.val
def Ins.c (i : Ins) : Nat := i.ctx.val

end Sys2Proof

namespace Sys2Proof.Machine

open Sys2Proof

/-- The kinds of operand field (R89). -/
inductive OpKind where
  | s | p | v | unused
  deriving DecidableEq, Repr

/-- What the instruction tables give one instruction (R109): MAJOR, MINOR, the kinds of DST, SRCA and SRCB, and the
bits of EXT [31:0] that have a meaning. -/
structure Enc where
  major : Nat
  minor : Nat
  dst : OpKind
  srca : OpKind
  srcb : OpKind
  ext : Nat
  deriving DecidableEq, Repr

/-- Whether a 5-bit field obeys R89 for its kind. -/
def OpKind.good : OpKind → BitVec 5 → Bool
  | .s, _ => true
  | .p, f => decide (f.toNat < 8)
  | .v, f => decide (f.toNat < 16)
  | .unused, f => decide (f = 0)

/-- OPERAND of the ILLEGAL fault that the word raises, if it raises one (R89, R91, R96, R98). -/
def Enc.illegal (n : Enc) (i : Ins) : Option Nat :=
  if !n.dst.good i.dst then some 1
  else if !n.srca.good i.srca then some 2
  else if !n.srcb.good i.srcb then some 3
  else if i.ext.toNat &&& (0xFFFFFFFF ^^^ n.ext) ≠ 0 then some 5
  else none

/-- Take a wait of a context out of the cell that queues it, and the wait. -/
def Eng.takeWait (e : Eng) (p c : Nat) : Option (Nat × Wait) :=
  e.cells.findSome? fun x => (x.2.queue.find? fun w => decide (w.part = p) && decide (w.ctx = c)).map fun w => (x.1, w)

/-- Whether the slice of a cell holds its operations during a remap (R479, R487). -/
def Eng.cellHeld (e : Eng) (n : Nat) : Bool := e.sliceHold.contains (n / 2048) || e.sliceWait.contains (n / 2048)

/-- An operation leaves for its cell (R172), or waits there while the cell is held (R479). -/
def Eng.launch (n : Nat) (op : CellOp) (e : Eng) : Eng :=
  { e with nextId := e.nextId + 1, travel := e.travel ++ [Travel.mk e.nextId n op] }

/-- Put a count, and a flag if one is given, into a cell, once the cell is free (R479). -/
def Eng.putCell (n : Nat) (count : Word) (sat : Option Bool) (e : Eng) : Eng :=
  if e.cellHeld n then e.launch n (.put count sat) else e.onCell n fun x => { x with count := count, sat := sat.getD x.sat }

/-- Withdraw the wait or delay of a context (R65, R178): with STOP and SAVE, and with a partition reset, an SBAR arrival is
subtracted, stopping at 0; a context RESET leaves the cell as it is (R68), and a partition reset that of another partition (R58).
(DEDUCED, assumption log 15) -/
def Eng.withdraw (b : BeatUnit) (p c : Nat) (k : StopReq) (e : Eng) : Eng :=
  match (e.ctx p c).st with
  | .waiting => match e.takeWait p c with
    | none => e
    | some (n, w) =>
      let takes := match k with
        | .stop | .save => true
        | .reset => false
        | .partReset => !e.cellElsewhere p n
      let e := e.onCell n fun x => x.without w takes
      e.onCtx p c fun x => { x with remain := .wait (w.deadline - b.time) }
  | .delayed =>
    let mine := fun d : DlEnt => match d.act with
      | .wake k _ _ => decide (k = c)
      | _ => false
    let key := (((e.part p).delays.find? mine).map fun d => d.key).getD 0
    let e := e.onPart p fun q => { q with delays := q.delays.filter fun d => !mine d }
    e.onCtx p c fun x => { x with remain := .delay key }
  | _ => e

/-- The private cells of a context: partition-relative offsets (R69, R128). -/
def Ctx.privates (x : Ctx) : List Nat :=
  ((x.semtab.filter fun y => y.2.valid && y.2.priv).map fun y => y.2.off.toNat).eraseDups

/-- Set the private cells of a context to 0 (R65, R70); waits queued there stay, and so does the saturation flag unless a save has
taken it with it (R70, R170). A cell of another partition stays (R58). -/
def Eng.zeroPrivates (p c : Nat) (saved : Bool) (e : Eng) : Eng :=
  (((e.ctx p c).privates).filter fun o => decide (o < e.semSize p) && !e.cellElsewhere p (e.semBase p + o)).foldl (init := e) fun e o =>
    e.putCell (e.semBase p + o) 0 (if saved then some false else none)

/-- Stop a context at an instruction boundary, as a stop request asks (R60, R65, R70, R95). (DEDUCED, assumption log 76) -/
def Eng.stopCtx (b : BeatUnit) (p c : Nat) (k : StopReq) (e : Eng) : Eng :=
  let old := (e.ctx p c).st
  let e := e.withdraw b p c k
  let e := if k ≠ .stop ∧ e.ownsBatch p c then e.discardBatch p else e
  match k with
  | .reset => (e.zeroPrivates p c false).onCtx p c fun _ => Ctx.cleared
  | .save => e.onCtx p c fun x =>
      { x with st := .stopped, stopReq := none, pend := none, saveSt := if old = .running then .ready else old }
  | _ => e.onCtx p c fun x => { x with st := .stopped, stopReq := none, pend := none }

/-- Whether a context is inside an instruction that must complete before it stops (R95). -/
def Ctx.busyIns (x : Ctx) : Bool := decide (x.st = .running) && x.pend.isSome

/-- Whether a context cannot stop yet: it is inside an instruction (R95), or its wait is queued in a cell that is held (R479) or
whose next cycle has operations (R67). -/
def Eng.mustWait (e : Eng) (p c : Nat) : Bool :=
  (e.ctx p c).busyIns || decide ((e.ctx p c).st = .waiting) &&
    ((e.takeWait p c).map fun x => e.cellHeld x.1 || e.joined.any fun y => decide (y.1 = x.1)).getD false

/-- Ask a context to stop: at once at a boundary, otherwise at its next one (R65, R95). -/
def Eng.askStop (b : BeatUnit) (p c : Nat) (k : StopReq) (e : Eng) : Eng :=
  if e.mustWait p c then e.onCtx p c fun x => { x with stopReq := some k }
  else (e.stopCtx b p c k).release p c

/-- Whether the outstanding instruction of a context is one that gives up the issue slot (R94, R151): every one but a
semaphore operation that travels to its cell, which R94 does not list. (DEDUCED, assumption log 104) -/
def Ctx.gaveSlot (x : Ctx) : Bool := match x.pend with
  | none => false
  | some .cell => false
  | some .ledger => false
  | some _ => true

/-- An instruction boundary of a context (R95, R151): a pending stop takes effect, a context that left RUNNING or waits under
R94 gives up the slot, PREEMPT hands it to a more urgent context, and a free slot is given. (DEDUCED, assumption log 104) -/
def Eng.boundary (b : BeatUnit) (p c : Nat) (e : Eng) : Eng :=
  let x := e.ctx p c
  match x.stopReq, x.busyIns with
  | some k, false => (e.stopCtx b p c k).release p c
  | _, _ =>
    if x.st ≠ .running ∨ x.gaveSlot then e.release p c
    else if x.pend = none ∧ (e.part p).slot = some c ∧ e.bit (Reg.schedCtrl p) 0 ∧ e.rivalBelow p c (e.prio p c) then
      e.preempt p c
    else e.dispatch p

/-- An instruction's effect on its context, and the program counter advanced. -/
def Eng.complete (p c : Nat) (f : Ctx → Ctx) (e : Eng) : Eng :=
  e.onCtx p c fun x => let y := f x; { y with pc := y.pc + 8, pend := none }

/-- An instruction completes, and its boundary follows. -/
def Eng.finish (b : BeatUnit) (p c : Nat) (f : Ctx → Ctx) (e : Eng) : Eng := (e.complete p c f).boundary b p c

/-- An instruction starts to wait: the context stays RUNNING and gives up the slot if R94 lists it. (DEDUCED, assumption log
104) -/
def Eng.wait_ (b : BeatUnit) (p c : Nat) (k : Pend) (e : Eng) : Eng :=
  (e.onCtx p c fun x => { x with pend := some k }).boundary b p c

/-- Whether a context may execute the presented instruction: its partition is RUNNING and it holds the issue slot with
nothing outstanding, or this very instruction is the one that it has started and that waits for its rows (R83, R94, R95,
R150). (DESIGN CHOICE, assumption logs 5, 30) -/
def Eng.insReady (e : Eng) (i : Ins) (self : Instr) : Bool :=
  !(e.part i.p).coreDown && !(e.part i.p).coreLost && !e.warm && decide ((e.ctx i.p i.c).st = .running) &&
    ((e.running i.p && decide ((e.part i.p).slot = some i.c) && (e.ctx i.p i.c).pend.isNone) ||
      decide ((e.ctx i.p i.c).pend = some (.rows self)))

/-- Fault kinds that a context can raise (R97). -/
abbrev fkTrap : Nat := 0x01
abbrev fkIllegal : Nat := 0x02
abbrev fkFetch : Nat := 0x03
abbrev fkScratch : Nat := 0x04
abbrev fkMem : Nat := 0x05
abbrev fkHandle : Nat := 0x06
abbrev fkElen : Nat := 0x07
abbrev fkSem : Nat := 0x08
abbrev fkTimeout : Nat := 0x09
abbrev fkRequest : Nat := 0x0A
abbrev fkLedger : Nat := 0x0B
abbrev fkBatch : Nat := 0x0C
abbrev fkVersion : Nat := 0x0D

/-- The fetch of an instruction is refused: PC misaligned or the memory port's error response (R97, R102). (DESIGN CHOICE,
assumption log 13) -/
def Eng.fetchBad (e : Eng) (p c : Nat) : Bool :=
  let pc := (e.ctx p c).pc.toNat
  decide (pc % 8 ≠ 0) || e.refused (some p) false pc 8

/-- ILLEGAL (R97): DETAIL holds MAJOR and MINOR. -/
def Eng.illegal (b : BeatUnit) (i : Ins) (n : Enc) (operand : Nat) (e : Eng) : Eng :=
  e.ctxFault b i.p i.c fkIllegal operand (n.major * 256 + n.minor) []

/-- Whether R94 lists an instruction: a request-table access, a batch issue or a vector instruction. (Device-memory
accesses are listed too: LDD and STD start to wait in their bodies.) (DEDUCED, assumption log 104) -/
def Enc.waits (n : Enc) : Bool :=
  decide (0x18 ≤ n.major ∧ n.major ≤ 0x1A) || decide (0x2B ≤ n.major ∧ n.major ≤ 0x39)

/-- An instruction that R94 lists starts: its context gives up the issue slot to the others (R151). (DEDUCED, assumption log
104) -/
def Eng.giveSlot (p c : Nat) (e : Eng) : Eng := (e.onCtx p c fun x => { x with pend := some .issue }).release p c

/-- Run one instruction (R92, R93, R98): fetch, an unassigned MAJOR or MINOR (R90), the encoding checks and `more` (further
ILLEGAL checks of the word, 0 for an unassigned MINOR), the guard, then the body. An instruction presented to a context that
cannot execute it changes nothing (assumption log 5). (DESIGN CHOICE, assumption logs 13, 91) (DEDUCED, assumption log 104)
-/
def runIns (self : Instr) (n : Enc) (i : Ins) (more : Option Nat) (body : BeatUnit → Eng → Eng) (s : State) :
    Host.Outcome State Fault Refusal :=
  .next <| s.onEng fun b e =>
    if !e.insReady i self then e
    else if e.fetchBad i.p i.c then e.ctxFault b i.p i.c fkFetch 0 (e.ctx i.p i.c).pc.toNat []
    else match i.odd with
    | some (major, minor) =>
      if assigned major.toNat minor.toNat then e
      else e.ctxFault b i.p i.c fkIllegal 0 (major.toNat * 256 + minor.toNat) []
    | none =>
    if more = some 0 then e.illegal b i n 0
    else match n.illegal i with
      | some o => e.illegal b i n o
      | none => match more with
        | some o => e.illegal b i n o
        | none =>
          if (e.ctx i.p i.c).pred i.pred.toNat then
            body b ((if n.waits then e.giveSlot i.p i.c else e).onCtx i.p i.c fun x => { x with pend := none })
          else e.finish b i.p i.c id

/-- A fault of the executing context (R96). (DEDUCED, assumption log 16) -/
def Eng.raise (b : BeatUnit) (i : Ins) (kind operand detail : Nat) (e : Eng) : Eng :=
  e.ctxFault b i.p i.c kind operand detail []

/-- The context of an instruction. -/
def Eng.me (e : Eng) (i : Ins) : Ctx := e.ctx i.p i.c
def Eng.sa (e : Eng) (i : Ins) : Dword := (e.me i).sreg i.srca.toNat
def Eng.sb (e : Eng) (i : Ins) : Dword := (e.me i).sreg i.srcb.toNat
def Eng.sd (e : Eng) (i : Ins) : Dword := (e.me i).sreg i.dst.toNat

/-- Complete the instruction writing s[dst]. -/
def Eng.finS (b : BeatUnit) (i : Ins) (v : Dword) (e : Eng) : Eng := e.finish b i.p i.c fun x => x.setS i.dst.toNat v
/-- Complete the instruction with no result. -/
def Eng.fin (b : BeatUnit) (i : Ins) (e : Eng) : Eng := e.finish b i.p i.c id

/-! ## One cycle of a ledger (R213) -/

/-- The row of R213 in which a LEDG stands; LEDG.RD has none and changes nothing. (DESIGN CHOICE, assumption log 121) -/
def LedgKind.row : LedgKind → Nat
  | .crd => 1
  | .chg => 3
  | .try_ => 6
  | .rd => 7

/-- A balance as LEDG returns it: sign-extended to 64 bits (R209). -/
def balWord (l : Ledger) : Dword := BitVec.ofInt 64 l.bal

/-- One LEDG of a cycle: LEDG.TRY leaves its result, the others' is the balance after the cycle. -/
def ledgOne (x : List (LedgOp × Option Dword) × Eng) (o : LedgOp) : List (LedgOp × Option Dword) × Eng :=
  let e := x.2
  match o.kind with
  | .rd => (x.1 ++ [(o, none)], e)
  | .crd => (x.1 ++ [(o, none)], e.credit o.ledger o.amount)
  | .chg => (x.1 ++ [(o, none)], e.charge o.part o.ledger o.amount)
  | .try_ =>
    if (o.amount : Int) ≤ (e.ledger o.ledger).bal then (x.1 ++ [(o, some 1)], e.charge o.part o.ledger o.amount)
    else (x.1 ++ [(o, some 0)], e)

/-- The LEDG that share a ledger's cycle and stand before a row of R213 take effect: what they leave, and the engine. (DESIGN
CHOICE, assumption log 121) -/
def Eng.ledgFirst (n row : Nat) (e : Eng) : List (LedgOp × Option Dword) × Eng :=
  let mine := fun o : LedgOp => decide (o.ledger = n) && decide (o.kind.row < row)
  (sortBy (fun x y : LedgOp => decide (x.kind.row < y.kind.row)) (e.ledJoined.filter mine)).foldl ledgOne
    ([], { e with ledJoined := e.ledJoined.filter fun o => !mine o })

/-- The other LEDG of the cycle take effect, and all of them complete, with the balance after every row where they return one
(R213). (DESIGN CHOICE, assumption log 121) -/
def Eng.ledgRest (b : BeatUnit) (n : Nat) (done : List (LedgOp × Option Dword)) (e : Eng) : Eng :=
  let (l, e) := e.ledgFirst n 8
  let v := balWord (e.ledger n)
  (done ++ l).foldl (init := e) fun e y =>
    if (e.ctx y.1.part y.1.ctx).st = .running then e.finish b y.1.part y.1.ctx fun c => c.setS y.1.dst (y.2.getD v) else e

/-- One cycle of a ledger: an operation `f` of a row of R213 among the LEDG that share it. (DESIGN CHOICE, assumption log 121) -/
def Eng.ledgCycle (b : BeatUnit) (n row : Nat) (f : Eng → Eng) (e : Eng) : Eng :=
  let (l, e) := e.ledgFirst n row
  (f e).ledgRest b n l

end Sys2Proof.Machine
end

