-- ==== Sys2Proof/Machine/CtxMem.lean ====
section
/-! DEFINITION. The context memory instructions LDS, STS, LDD and STD (R101 to R103, R115, R116). -/

namespace Sys2Proof.Machine

open Sys2Proof

/-- SIZE in bytes (R115). -/
def memSize (minor : BitVec 8) : Nat := 2 ^ bitsOf minor.toNat 1 0
/-- SIGNED (R115). -/
def memSigned (minor : BitVec 8) : Bool := minor.getLsbD 2

/-- A MINOR that R115 does not assign: bits [7:4], a STORE bit that is not the instruction's, SIGNED on a store. -/
def memMinorBad (store : Bool) (minor : BitVec 8) : Option Nat :=
  if minor.toNat ≥ 16 ∨ minor.getLsbD 3 ≠ store ∨ (store ∧ memSigned minor) then some 0 else none

/-- The address of an M-form access, modulo 2^64 (R116). -/
def memAddr (e : Eng) (i : Ins) : Nat := (e.sa i + i.ext.signExtend 64).toNat

/-- The data a load writes: zero-extended, or sign-extended when SIGNED (R116). -/
def loadValue (size : Nat) (sgn : Bool) (v : Nat) : Dword :=
  if sgn then BitVec.ofInt 64 (signed (8 * size) v) else BitVec.ofNat 64 v

/-- Whether a scratch access is misaligned or reaches beyond the 8 KiB (R101). -/
def scratchBad (a n : Nat) : Bool := decide (a % n ≠ 0) || decide (8192 < a + n)

/-- A number in a context's scratch. -/
def Ctx.scr (x : Ctx) (a n : Nat) : Nat := ofLe ((List.range n).map fun k => kget 0 x.scratch (a + k))
/-- Write bytes to a context's scratch. -/
def Ctx.setScr (x : Ctx) (a : Nat) (d : List Byte) : Ctx := { x with scratch := memStore x.scratch a d }

/-- LDS: load from context scratch. (DEDUCED, assumption log 16) -/
def execLds (i : Ins) (minor : BitVec 8) (s : State) : Host.Outcome State Fault Refusal :=
  runIns (.lds i minor) ⟨0x14, minor.toNat, .s, .s, .unused, 0xFFFFFFFF⟩ i (memMinorBad false minor) (fun b e =>
    let a := memAddr e i
    let n := memSize minor
    if scratchBad a n then e.raise b i fkScratch 2 a
    else e.finS b i (loadValue n (memSigned minor) ((e.me i).scr a n))) s

/-- STS: store to context scratch. (DEDUCED, assumption log 16) -/
def execSts (i : Ins) (minor : BitVec 8) (s : State) : Host.Outcome State Fault Refusal :=
  runIns (.sts i minor) ⟨0x14, minor.toNat, .unused, .s, .s, 0xFFFFFFFF⟩ i (memMinorBad true minor) (fun b e =>
    let a := memAddr e i
    let n := memSize minor
    let d := leBytes n (e.sb i).toNat
    if scratchBad a n then e.raise b i fkScratch 2 a
    else e.finish b i.p i.c fun x => x.setScr a d) s

/-- LDD: load from host memory; it completes when its response arrives. (DEDUCED, assumption log 16) -/
def execLdd (i : Ins) (minor : BitVec 8) (s : State) : Host.Outcome State Fault Refusal :=
  runIns (.ldd i minor) ⟨0x15, minor.toNat, .s, .s, .unused, 0xFFFFFFFF⟩ i (memMinorBad false minor) (fun b e =>
    let a := memAddr e i
    let n := memSize minor
    if a % n ≠ 0 then e.raise b i fkMem 2 a
    else (e.issueTxn i.p a (.load i.p i.c n (memSigned minor) i.dst)).wait_ b i.p i.c .mem) s

/-- STD: store to host memory; it completes when its write response arrives. (DEDUCED, assumption log 16) -/
def execStd (i : Ins) (minor : BitVec 8) (s : State) : Host.Outcome State Fault Refusal :=
  runIns (.std i minor) ⟨0x15, minor.toNat, .unused, .s, .s, 0xFFFFFFFF⟩ i (memMinorBad true minor) (fun b e =>
    let a := memAddr e i
    let n := memSize minor
    if a % n ≠ 0 then e.raise b i fkMem 2 a
    else (e.issueTxn i.p a (.store i.p i.c (leBytes n (e.sb i).toNat))).wait_ b i.p i.c .mem) s

/-- The response of a context's load or store (R102, R116, R152): an error raises MEM and a refused store has not
been made. -/
def Eng.ctxMemDone (b : BeatUnit) (t : Txn) (ok : Bool) (e : Eng) : Eng :=
  match t.kind with
  | .load p c n sgn dst =>
    if ok then e.finish b p c fun x => x.setS dst.toNat (loadValue n sgn (e.num t.addr n))
    else e.ctxFault b p c fkMem 2 t.addr []
  | .store p c d =>
    if ok then (e.store t.addr d).finish b p c id else e.ctxFault b p c fkMem 2 t.addr []
  | _ => e

end Sys2Proof.Machine
end

