-- ==== Sys2Proof/Machine/Gate.lean ====
section
/-! DEFINITION. Who may write the control window and the doorbell pages (R562, R570, R572), and the answer of each access (R534). -/

namespace Sys2Proof.Machine

open Sys2Proof

/-- The window outside WX_GLB is open to the host: PHASE reads 0x7 and no warm reset runs (R562, R570). -/
def Eng.windowOpen (e : Eng) : Bool := decide (e.fld Reg.glbStatus 3 0 = 7) && !e.warm

/-- Some management core is ACTIVE (R504). -/
def Eng.hasActive (e : Eng) : Bool := (List.range 2).any fun c => decide ((kget MCore.boot e.mcores c).role = .active)

/-- What becomes of a write that a path brings (R562, R572). -/
inductive Gate where
  | pass | ignore | slverr
  deriving DecidableEq, Repr

/-- The gate of a path for a write at an address of the window (R527, R562, R572). JTAG has no path but Strings: a write of
its own passes only within a Strings operation, whose BUSY reads 1. -/
def Eng.gate (e : Eng) (path : Path) (addr : Nat) : Gate :=
  match path with
  | .i2c => .ignore
  | .jtag => if e.bit Reg.dbgCtrl 0 && e.bit Reg.dbgCmd 31 then .pass else .ignore
  | .mgmt => if e.hasActive then .pass else .ignore
  | .host => if decide (0x10000 ≤ addr) && !e.windowOpen then .slverr else .pass

/-- A write of the window: performed, ignored with OKAY, or refused with SLVERR (R534, R562, R571). -/
def ctlState (path : Path) (addr : Nat) (f : State → State) (s : State) : State :=
  match s.eng.gate path addr with
  | .pass => let t := f s; { t with eng := { t.eng with resp := ⟨true, 0⟩ } }
  | .ignore => { s with eng := { s.eng with resp := ⟨true, 0⟩ } }
  | .slverr => { s with eng := { s.eng with resp := ⟨false, 0⟩ } }

/-- A write of the window that concerns the engine. -/
def ctlWrite (path : Path) (addr : Nat) (f : BeatUnit → Eng → Eng) (s : State) : Host.Outcome State Fault Refusal :=
  .next (ctlState path addr (fun t => t.onEng f) s)

/-- A RESET or a context command of a partition: written by the host during a warm reset it is refused as every write is then
(R562), and sets CFG_ERR too (R564). (DEDUCED, assumption log 122) -/
def ctlPart (path : Path) (addr p : Nat) (f : BeatUnit → Eng → Eng) (s : State) : Host.Outcome State Fault Refusal :=
  if s.eng.gate path addr = .slverr ∧ s.eng.warm then
    let t := ctlState path addr id s
    .next { t with eng := t.eng.cfgErr p }
  else ctlWrite path addr f s

/-- A doorbell-page write is dropped and counted (R59). -/
def Eng.dbDrop (p : Nat) (e : Eng) : Eng := (e.bump (Reg.partDbDrop p) 31 0).partEv p 2

/-- A doorbell-page write of the host (R59, R572): refused before the window opens, dropped where R59 says so. -/
def doorWrite (p off : Nat) (states : List Nat) (f : BeatUnit → Eng → Eng) (s : State) : Host.Outcome State Fault Refusal :=
  ctlWrite .host (door p off) (fun b e => if states.contains (e.pstate p) then f b e else e.dbDrop p) s

end Sys2Proof.Machine
end

