-- ==== Sys2Proof/Machine/Latency.lean ====
section
/-! DEFINITION. The latency tracker (spec/11): measurements, latency alerts, deadline events and the drawdown commands. -/

namespace Sys2Proof.Machine

open Sys2Proof

/-! ## Measurements (R292 to R297) -/

/-- The beat time of a timestamp (R46). -/
def stampTime (v : Nat) : Nat := v % 2 ^ 56
/-- A timestamp carries FREE or EXPIRED. -/
def stampMarked (v : Nat) : Bool := decide (bitsOf v 57 56 ≠ 0)
/-- The ticks from one timestamp to another. -/
def stampDiff (late early : Nat) : Nat := (stampTime late + 2 ^ 56 - stampTime early) % 2 ^ 56

/-- Keep the larger of a register field and a measurement, saturating. -/
def Eng.worst (a hi lo n : Nat) (e : Eng) : Eng :=
  e.setF a hi lo (max (e.fld a hi lo) (min n (2 ^ (hi + 1 - lo) - 1)))

/-- The measured TTFT of a request at its first token record (R293, R294, R296). (DEDUCED, assumption log 69) -/
def Eng.measureFirst (b : BeatUnit) (p slot : Nat) (e : Eng) : Eng :=
  let t := stampDiff b.stamp (e.rqw slot 8).toNat
  let e := (e.setRqw slot 9 (BitVec.ofNat 64 b.stamp)).setRqf slot 21 23 0 (max 1 (min t (2 ^ 24 - 1)))
  let e := e.worst (Reg.latTtftWorst p) 23 0 t
  let e := if stampMarked b.stamp || stampMarked (e.rqw slot 8).toNat then e.setRqf slot 21 30 30 1 else e
  let e := if (e.req slot).pausedSince then e.bump (Reg.latExcused p) 31 0
    else if e.rqf slot 7 63 32 ≠ 0 ∧ e.rqf slot 7 63 32 < t then
      ((e.setRqf slot 21 31 31 1).bump (Reg.latTtftViols p) 31 0).ev (Reg.latEvent p) 0
    else e
  e.onReq slot fun r => { r with pausedSince := false }

/-- An alert is disarmed, held or not (R298, R301, R308). -/
def Eng.disarm (p slot : Nat) (e : Eng) : Eng :=
  if (e.req slot).alert = none then e
  else (e.onReq slot fun r => { r with alert := none }).onPart p fun q => { q with alertHeld := q.alertHeld.filter fun s => decide (s ≠ slot) }

/-- Spout writes a measured record of a request (R292): it disarms the alert it answers (R298). -/
def Eng.measure (b : BeatUnit) (p slot : Nat) (e : Eng) : Eng :=
  let first := decide (e.rqf slot 21 23 0 = 0)
  let e := if first then e.measureFirst b p slot else e
  let e := if first || decide ((e.req slot).measured = 0) then e.disarm p slot else e
  e.onReq slot fun r => { r with
    measured := r.measured + 1
    firstAt := if r.measured = 0 then b.stamp else r.firstAt
    lastAt := b.stamp }

/-- Arm an alert (R298). -/
def Eng.armAlert (p slot kind target start : Nat) (e : Eng) : Eng :=
  let warn := e.fld (Reg.latCtrl p) 31 24
  if warn = 0 ∨ target = 0 then e
  else e.onReq slot fun r => { r with alert := some ⟨kind, start + target * warn / 256, false⟩ }

/-- At a boundary, the gap that the step's measured records yield (R295, R296), LAST_TOKEN_TIME (R293), and the TBT alert
of a request that continues (R298). -/
def Eng.measureStep (p slot : Nat) (continues : Bool) (e : Eng) : Eng :=
  let r := e.req slot
  if r.measured = 0 then e
  else
    let n := r.measured
    let old := (e.rqw slot 10).toNat
    let gap := stampDiff r.firstAt old
    let tbt := e.rqf slot 7 31 0
    let e := if !r.tokSeen then e
      else
        let e := if stampMarked r.firstAt || stampMarked old then e.setRqf slot 21 30 30 1 else e
        if r.pausedSince then e.bump (Reg.latExcused p) 31 0
        else
          let w := ceilDiv gap n
          let e := (e.setRqf slot 21 47 32 (max (e.rqf slot 21 47 32) (min w 65535))).worst (Reg.latTbtWorst p) 15 0 w
          if tbt ≠ 0 ∧ n * tbt < gap then
            ((e.bumpRqf slot 21 63 48).bump (Reg.latTbtViols p) 31 0).ev (Reg.latEvent p) 1
          else e
    let e := (e.setRqw slot 10 (BitVec.ofNat 64 r.lastAt)).onReq slot fun r =>
      { r with measured := 0, tokSeen := true, pausedSince := if r.tokSeen then false else r.pausedSince }
    if continues then e.armAlert p slot 2 tbt (stampTime r.lastAt) else e

/-! ## Alerts (R299 to R301) -/

/-- The alert of a partition that falls due first, by due time and then by slot, among those that have fallen due and have
not been handled. -/
def Eng.dueAlert (b : BeatUnit) (p : Nat) (e : Eng) : Option (Nat × Alert) :=
  let l := (e.liveSlots p).filterMap fun s => (e.req s).alert.bind fun a =>
    if !a.fallen && decide (a.due ≤ b.time) then some (s, a) else none
  (sortBy (fun x y => decide (x.2.due < y.2.due)) l).head?

/-- ALERT_DUE: a latency alert falls due (R299, R301). -/
def execAlertDue (p : Fin 32) (s : State) : Host.Outcome State Fault Refusal :=
  .next <| s.onEng fun b e =>
    match e.dueAlert b p.val with
    | none => e
    | some (slot, a) =>
      let e := e.onReq slot fun r => { r with alert := some { a with fallen := true } }
      if e.pstate p.val = psHalted ∨ (e.rstate slot = rsWaiting ∧ (e.req slot).inBatch = false ∧ (e.req slot).inStep = none) then
        e.postAlert p.val slot
      else e

/-- Post held alerts in due order while the ready list has room (R301). -/
def Eng.postHeld (p : Nat) : List Nat → Eng → Eng
  | [], e => e
  | s :: r, e =>
    let e := e.onPart p fun q => { q with alertHeld := [] }
    if !(((e.req s).alert.map fun a => a.fallen).getD false) then Eng.postHeld p r (e.onPart p fun q => { q with alertHeld := r })
    else if e.pstate p = psHalted ∨ e.listFull p (e.fld (Reg.latCtrl p) 20 16) = false then
      Eng.postHeld p r ((e.postAlert p s).onPart p fun q => { q with alertHeld := r })
    else e.onPart p fun q => { q with alertHeld := s :: r }

/-- ALERT_POST_RETRY: held alerts are posted once their ready list has room (R301). -/
def execAlertPostRetry (p : Fin 32) (s : State) : Host.Outcome State Fault Refusal :=
  .next <| s.onEng fun _ e => e.postHeld p.val (e.part p.val).alertHeld

/-! ## Deadlines (R302) -/

/-- A request leaves the aged queue, and its reserved row of the open batch is free again (R305). -/
def Eng.unage (p slot : Nat) (e : Eng) : Eng :=
  e.onPart p fun q => { q with
    aged := q.aged.erase slot
    batch := q.batch.map fun bt => { bt with reserved := bt.reserved.erase slot } }

/-- DEADLINE_EVENT: a request's deadline arrives and its event is accepted (R302); under HARD Weir treats the request as retired
from then on (R305). -/
def execDeadlineEvent (p : Fin 32) (slot : BitVec 17) (s : State) : Host.Outcome State Fault Refusal :=
  .next <| s.onEng fun b e =>
    let n := slot.toNat
    if (e.liveSlots p.val).contains n && (e.req n).deadlineArmed && decide (e.rdeadline n ≤ b.time) then
      let e := e.onReq n fun r => { r with deadlineArmed := false, deadlineEv := true }
      if e.rqf n 6 63 63 = 1 then e.unage p.val n else e
    else e

/-! ## Drawdown (R307, R311, R318) -/

/-- The bits SW and MGMT of WX_LAT_DRAW_CTRL and their sources. -/
def Eng.putSw (p : Nat) (on : Bool) (e : Eng) : Eng := (e.setF (Reg.latDrawCtrl p) 0 0 (if on then 1 else 0)).setSource p dsSw on
def Eng.putMgmt (p : Nat) (on : Bool) (e : Eng) : Eng := (e.setF (Reg.latDrawCtrl p) 1 1 (if on then 1 else 0)).setSource p dsMgmt on

/-- Write SW of WX_LAT_DRAW_CTRL: it takes effect at once (R318). -/
def Eng.setSw (b : BeatUnit) (p : Nat) (on : Bool) (e : Eng) : Eng :=
  (e.putSw p on).drawTurn b p

/-- Write MGMT of WX_LAT_DRAW_CTRL. -/
def Eng.setMgmt (b : BeatUnit) (p : Nat) (on : Bool) (e : Eng) : Eng :=
  (e.putMgmt p on).drawTurn b p

/-- DRAW_SW: a write of SW (R307). -/
def execDrawSw (path : Path) (p : Fin 32) (on : Bool) (s : State) : Host.Outcome State Fault Refusal :=
  ctlWrite path (Reg.latDrawCtrl p.val) (fun b e => e.setSw b p.val on) s

/-- DRAW_MGMT: only Marionette writes MGMT; any other path's write is ignored (R307). -/
def execDrawMgmt (path : Path) (p : Fin 32) (on : Bool) (s : State) : Host.Outcome State Fault Refusal :=
  ctlWrite path (Reg.latDrawCtrl p.val) (fun b e => if path = .mgmt then e.setMgmt b p.val on else e) s

/-- DRAW_START_END: START_BEATS have passed (R307). -/
def execDrawStartEnd (p : Fin 32) (s : State) : Host.Outcome State Fault Refusal :=
  .next <| s.onEng fun b e =>
    if e.bit (Reg.latDrawStatus p.val) dsStart && !e.startLive b p.val then e.drawSource b p.val dsStart false else e

/-- DRAW_RECOVER_END: RECOVER_BEATS have passed since the last recovery event (R313). -/
def execDrawRecoverEnd (p : Fin 32) (s : State) : Host.Outcome State Fault Refusal :=
  .next <| s.onEng fun b e =>
    if e.bit (Reg.latDrawStatus p.val) dsRecover && !e.recoverLive b p.val then e.drawSource b p.val dsRecover false else e

/-- DRAW_RESUME: paused requests return to WAITING in admission order, at most PER_BEAT at the tick 0 of a
beat, or at the jump into it (R26, R311). -/
def execDrawResume (p : Fin 32) (s : State) : Host.Outcome State Fault Refusal :=
  .next <| s.onEng fun b e =>
    let p := p.val
    let q := e.part p
    if !q.resuming || e.drawActive p || !b.newBeat || decide (b.beat < q.resumeAt) then e
    else
      let paused := (e.liveByOrder p).filter fun s => decide (e.rstate s = rsPaused)
      let per := e.fld (Reg.latDrawResume p) 15 0
      let take := if per = 0 then paused else paused.take per
      let e := take.foldl (fun e s => e.setRstate s rsWaiting) e
      e.onPart p fun q => { q with resumeAt := b.beat + 1, resuming := decide (take.length < paused.length) }

end Sys2Proof.Machine
end

