-- ==== Sys2Proof/Machine/Spout.lean ====
section
/-! DEFINITION. Stream-out (spec/16): records, completion and token rings with their headers, the spill region, and the consumer indices. -/

namespace Sys2Proof.Machine

open Sys2Proof

/-! ## Records (R411 to R413) -/

/-- The FLAGS bits of a record (R413). -/
abbrev rfAdmit : Nat := 1
abbrev rfLate : Nat := 2
abbrev rfTerminal : Nat := 4
abbrev rfNoToken : Nat := 8

/-- The request status codes (R219). -/
abbrev stOk : Nat := 0x00
abbrev stLate : Nat := 0x01
abbrev stCancelled : Nat := 0x02
abbrev stDeadline : Nat := 0x03
abbrev stBudget : Nat := 0x04
abbrev stCapacity : Nat := 0x05
abbrev stVersion : Nat := 0x06
abbrev stGrammarDead : Nat := 0x07
abbrev stLength : Nat := 0x08
abbrev stStop : Nat := 0x09
abbrev stPaused : Nat := 0x0A
abbrev stDescriptor : Nat := 0x0B
abbrev stTenantFault : Nat := 0x0C
abbrev stEngineFault : Nat := 0x0D

/-- The first 28 bytes of a record, PHASE apart (R411): FREE and TIME are those of its forming. -/
def recBody (b : BeatUnit) (handle pos token logp version status flags aux : Nat) : List Byte :=
  leBytes 4 handle ++ leBytes 4 pos ++ leBytes 4 token ++ leBytes 4 logp ++ leBytes 2 version ++
    [BitVec.ofNat 8 status, BitVec.ofNat 8 (flags + if b.marksFree then 16 else 0)] ++ leBytes 4 aux ++ leBytes 4 b.time

/-- A record as it is written under a ring index: PHASE is the inverse of bit LOG2 of the index, and the CRC ends it. -/
def recFinal (idx log2 : Nat) (l : List Byte) : List Byte :=
  withCrc (l.take 0x13 ++ [l.getD 0x13 0 ||| (if idx.testBit log2 then 0 else 0x80#8)] ++ l.drop 0x14)

/-- Form a record of a partition, whose sources may fail their check (R414, R485): each failure is counted and the record
formed again, the second raises an engine fault, and at the third there is no record, which the answer says. (DESIGN CHOICE,
assumption log 118) -/
def Eng.formed (b : BeatUnit) (p : Nat) (e : Eng) : Bool × Eng :=
  let n := (e.part p).srcFails
  if n = 0 then (true, e)
  else
    let e := ((e.onPart p fun q => { q with srcFails := 0 }).bump Reg.spoutReforms 31 0 n).ev (Reg.spoutEvent p) 3
    (decide (n < 3), if n < 2 then e else e.engFault b 0x88 (some p) (engDetail 0 0 0 0 0 0 0))

/-- The next record that the partition forms is lost to a third failure. -/
def Eng.sourceLost (e : Eng) (p : Nat) : Bool := decide ((e.part p).srcFails = 3)

/-- What a third failure leaves of a record: the request retires at its next boundary with ENGINE_FAULT (R485). (DESIGN
CHOICE, assumption log 118) -/
def Eng.unformed (slot : Nat) (e : Eng) : Eng :=
  if (e.req slot).live then e.onReq slot fun r => { r with faultEv := some stEngineFault } else e

/-! ## Rings (R415 to R418, R422) -/

def Eng.onTring (n : Nat) (f : TokenRing → TokenRing) (e : Eng) : Eng := { e with trings := kmod TokenRing.free e.trings n f }

/-- A ring of a partition: its completion ring (none), or a token ring. -/
def Eng.ring (e : Eng) (p : Nat) : Option Nat → Ring
  | none => (e.part p).cq
  | some n => (e.tring n).ring

/-- Change a ring. -/
def Eng.onRing (p : Nat) (r : Option Nat) (f : Ring → Ring) (e : Eng) : Eng :=
  match r with
  | none => e.onPart p fun q => { q with cq := f q.cq }
  | some n => e.onTring n fun t => { t with ring := f t.ring }

/-- The doorbell-page offsets of CQ_HEAD, CQ_TAIL and TR_HEAD[n]. -/
abbrev doorCqHead : Nat := 0x10
abbrev doorCqTail : Nat := 0x14
abbrev doorTrHead (n : Nat) : Nat := 0x1000 + 4 * n

/-- The consumer index of a ring. -/
def Eng.ringHead (e : Eng) (p : Nat) : Option Nat → Nat
  | none => e.fld (door p doorCqHead) 31 0
  | some n => e.fld (door p (doorTrHead n)) 31 0

/-- The size exponent of a ring. -/
def Eng.ringLog2 (e : Eng) (p : Nat) : Option Nat → Nat
  | none => e.fld (Reg.spoutCqSize p) 4 0
  | some _ => e.fld (Reg.spoutTrCfg p) 3 0

def Eng.cqBase (e : Eng) (p : Nat) : Nat := e.pair (Reg.spoutCqBaseLo p) (Reg.spoutCqBaseHi p)
def Eng.trBase (e : Eng) (p : Nat) : Nat := e.pair (Reg.spoutTrBaseLo p) (Reg.spoutTrBaseHi p)

/-- The address of the record of an index. -/
def Eng.recAddr (e : Eng) (p : Nat) (r : Option Nat) (idx : Nat) : Nat :=
  let log2 := e.ringLog2 p r
  match r with
  | none => e.cqBase p + 64 + 32 * (idx % 2 ^ log2)
  | some n => e.trBase p + 0x4000 + n * 32 * 2 ^ log2 + 32 * (idx % 2 ^ log2)

/-- Write the header of a ring (R416): an error halts the partition. -/
def Eng.showHeader (b : BeatUnit) (p : Nat) (r : Option Nat) (e : Eng) : Eng :=
  let bad := e.refused (some p) true (e.headerAddr p r) 64
  let e := e.storeHeader b p r
  if bad then e.halt b p else e

/-- A ring has a free slot (R415). -/
def Eng.ringFree (e : Eng) (p : Nat) (r : Option Nat) : Bool :=
  ringRoom (e.ringLog2 p r) (e.ringHead p r) (e.ring p r).next

/-- Show how many records stand in spill (R429). (DEDUCED, assumption log 74) -/
def Eng.showSpill (p : Nat) (e : Eng) : Eng :=
  let count := fun (g : Ring) => (g.queue.filter fun x => x.spill.isSome).length
  let n := (e.heldRings p).foldl (fun k r => k + count (e.ring p (some r))) (count (e.ring p none))
  (e.setF (Reg.spoutSpillOcc p) 15 0 n).setF (Reg.spoutSpillOcc p) 31 16 (max n (e.fld (Reg.spoutSpillOcc p) 31 16))

/-- Advance a producer index past the records that count as written (R416), with the header's TAIL. -/
def advanceTail : Nat → Ring → Ring
  | 0, g => g
  | f + 1, g =>
    if g.acked.contains g.tail then advanceTail f { g with tail := (g.tail + 1) % 2 ^ 32, acked := g.acked.erase g.tail } else g

/-- Every record of a batch counts as written (R429): `u` is the place of the record of index `idx` in the batch, and the
batch's size. -/
def Ring.landed (g : Ring) (idx : Nat) (u : Nat × Nat) : Bool :=
  (List.range u.2).all fun k =>
    let i := (idx + 2 ^ 32 - u.1 + k) % 2 ^ 32
    g.acked.contains i || decide ((g.tail + 2 ^ 32 - 1 - i) % 2 ^ 32 < 2 ^ 31)

/-- A token ring returns to the pool (R424). -/
def Eng.freeTring (n : Nat) (e : Eng) : Eng :=
  let p := (e.tring n).part
  let e := { e with trings := kdel e.trings n }
  (e.setF (Reg.spoutPrivHeld p) 8 0 (e.fld (Reg.spoutPrivHeld p) 8 0 - 1)).setF Reg.spoutPrivFree 8 0 (e.fld Reg.spoutPrivFree 8 0 + 1)

/-- A ring whose request has left the table returns once its consumer has read it to the end (R424). -/
def Eng.tryFreeTring (n : Nat) (e : Eng) : Eng :=
  let t := e.tring n
  if t.held && t.left && decide (t.ring.queue = []) && decide (t.ring.next = t.ring.tail) &&
      decide (e.ringHead t.part (some n) = t.ring.tail) then e.freeTring n else e

/-- A record counts as written to its ring (R416). -/
def Eng.recWritten (b : BeatUnit) (p : Nat) (r : Option Nat) (idx : Nat) (x : QRec) (e : Eng) : Eng :=
  let old := (e.ring p r).tail
  let e := e.onRing p r fun g => advanceTail (g.acked.length + 1) { g with acked := g.acked ++ [idx] }
  let e := e.bumpWrap (Reg.spoutRecords p) 31 0
  let e := if x.batch.any fun u => (e.ring p r).landed idx u then e.ev (Reg.spoutEvent p) 0 else e
  let e := if (e.ring p r).tail = old then e
    else match r with
      | none => (e.setF (door p doorCqTail) 31 0 (e.ring p r).tail).showHeader b p r
      | some _ => e.showHeader b p r
  match r with
  | some n => e.tryFreeTring n
  | none => e

/-- Issue a record under the next index of its ring: Spout writes it, which is its token time (R292). -/
def Eng.issueRec (b : BeatUnit) (p : Nat) (r : Option Nat) (x : QRec) (e : Eng) : Eng :=
  let idx := (e.ring p r).next
  let a := e.recAddr p r idx
  let e := match x.meas with
    | some slot => e.measure b p slot
    | none => e
  (e.onRing p r fun g => { g with next := (g.next + 1) % 2 ^ 32 }).issueTxn p a (.record p r idx { x with spill := none })

/-- The address of a spill slot (R425). (DESIGN CHOICE, assumption log 47) -/
def Eng.spillAddr (e : Eng) (p k : Nat) : Nat := e.pair (Reg.spoutSpillBaseLo p) (Reg.spoutSpillBaseHi p) + 32 * k

/-- Hand a record to a ring (R423, R425): a step's record that finds the ring full goes to spill; a boundary record waits
outside spill. (DESIGN CHOICE, assumption log 47) -/
def Eng.putRec (b : BeatUnit) (p : Nat) (r : Option Nat) (x : QRec) (e : Eng) : Eng :=
  if (e.ring p r).queue = [] ∧ e.ringFree p r = true then e.issueRec b p r x
  else if x.step.isSome then
    let k := (e.part p).spillNext
    let e := (e.partStore b p (e.spillAddr p k) (withCrc x.bytes)).ev (Reg.spoutEvent p) 1
    let e := e.onPart p fun q => { q with spillNext := (k + 1) % 32768 }
    (e.onRing p r fun g => { g with queue := g.queue ++ [{ x with spill := some k }] }).showSpill p
  else e.onRing p r fun g => { g with queue := g.queue ++ [x] }

/-- Move waiting records to their ring while it has free slots (R425); with `unspilled`, only those outside spill. (DESIGN
CHOICE, assumption log 47) -/
def Eng.drain (b : BeatUnit) (p : Nat) (r : Option Nat) (unspilled : Bool) : Nat → Eng → Eng
  | 0, e => e
  | f + 1, e => match (e.ring p r).queue with
    | [] => e
    | x :: rest =>
      if !e.ringFree p r || (unspilled && x.spill.isSome) then e
      else
        let e := e.onRing p r fun g => { g with queue := rest }
        match x.spill with
        | none => Eng.drain b p r unspilled f (e.issueRec b p r x)
        | some k =>
          if e.refused (some p) false (e.spillAddr p k) 32 then
            let idx := (e.ring p r).next
            let e := (e.onRing p r fun g => { g with next := (g.next + 1) % 2 ^ 32 }).memFault b p (e.spillAddr p k) false
            Eng.drain b p r unspilled f (e.recWritten b p r idx x)
          else Eng.drain b p r unspilled f (e.issueRec b p r x)

/-- Drain a ring as far as it goes. -/
def Eng.drainRing (b : BeatUnit) (p : Nat) (r : Option Nat) (unspilled : Bool) (e : Eng) : Eng :=
  (e.drain b p r unspilled (e.ring p r).queue.length).showSpill p

/-- The response of a record's write (R416): an error is a tenant fault of kind MEM, and the record counts as written. -/
def Eng.recDone (b : BeatUnit) (t : Txn) (ok : Bool) (e : Eng) : Eng :=
  match t.kind with
  | .record p r idx x =>
    let e := if ok then e.store t.addr (recFinal idx (e.ringLog2 p r) x.bytes) else e.memFault b p t.addr true
    e.recWritten b p r idx x
  | _ => e

/-- The record waits for, or is being written to, a ring. -/
def Eng.recsOf (e : Eng) (p : Nat) (f : QRec → Bool) : Bool :=
  (e.txns.any fun t => match t.kind with
    | .record q _ _ x => decide (q = p) && f x
    | _ => false) ||
  (e.part p).cq.queue.any f || (e.heldRings p).any fun n => (e.ring p (some n)).queue.any f

/-- Every record that a step has handed over is written (R17). -/
def Eng.stepLanded (e : Eng) (p num : Nat) : Bool := !e.recsOf p fun x => decide (x.step = some num)

/-! ## Units of records (R420, R421) -/

/-- Take the lowest-numbered free token ring for a request (R421, R424). -/
def Eng.takeTring (b : BeatUnit) (p handle : Nat) (e : Eng) : Option Nat × Eng :=
  match (List.range 256).find? fun n => !(e.tring n).held with
  | none => (none, e)
  | some n =>
    let e := e.onTring n fun _ => ⟨true, p, handle, false, Ring.empty⟩
    let e := (e.setF (Reg.spoutPrivHeld p) 8 0 (e.fld (Reg.spoutPrivHeld p) 8 0 + 1)).setF Reg.spoutPrivFree 8 0 (e.fld Reg.spoutPrivFree 8 0 - 1)
    (some n, (e.wr (door p (doorTrHead n)) 0).showHeader b p (some n))

/-- A ring counts as free for a partition (R421). -/
def Eng.tringFree (e : Eng) (p : Nat) : Bool :=
  ((List.range 256).any fun n => !(e.tring n).held) && decide (e.fld (Reg.spoutPrivHeld p) 8 0 < e.fld (Reg.spoutTrCfg p) 24 16)

/-- The token ring that a request holds (word 19). -/
def Eng.rring (e : Eng) (slot : Nat) : Option Nat := if e.rqf slot 19 7 7 = 1 then some (e.rqf slot 19 15 8) else none

/-- A record as it is handed over. -/
def mkRec (b : BeatUnit) (bytes : List Byte) (meas step : Option Nat) (batch : Option (Nat × Nat)) : QRec :=
  ⟨bytes, meas, step, batch, none, b.time, false⟩

/-- Hand over a batch of records for the completion ring, in order, each with the request it measures (R420). -/
def Eng.putBatch (b : BeatUnit) (p : Nat) (step : Option Nat) (l : List (List Byte × Option Nat)) (e : Eng) : Eng :=
  l.zipIdx.foldl (fun e x => e.putRec b p none (mkRec b x.1.1 x.1.2 step (some (x.2, l.length)))) e

/-- Hand over the records that a boundary formed (R420, R423): each privileged one to its token ring, the others as one
batch. Each item is the token ring, if any, and the record. -/
def Eng.putBoundary (b : BeatUnit) (p : Nat) (l : List (Option Nat × List Byte)) (e : Eng) : Eng :=
  let e := l.foldl (init := e) fun e x => match x.1 with
    | some n => e.putRec b p (some n) (mkRec b x.2 none none none)
    | none => e
  e.putBatch b p none (l.filterMap fun x => if x.1.isNone then some (x.2, none) else none)

/-- Phase 3 of a partition reset: every record not yet written to its ring is discarded (R428). -/
def Eng.spoutDiscard (p : Nat) (e : Eng) : Eng :=
  let e := (e.onPart p fun q => { q with admRec := none }).onRing p none fun g => { g with queue := [] }
  ((e.heldRings p).foldl (fun e n => e.onRing p (some n) fun g => { g with queue := [] }) e).showSpill p

/-- Ring writes of a partition await their responses (R428). -/
def Eng.spoutBusy (e : Eng) (p : Nat) : Bool :=
  e.txns.any fun t => match t.kind with
    | .record q _ _ _ => decide (q = p)
    | _ => false

/-! ## Commands -/

/-- A consumer index moves forward, and not past the producer (R415). -/
def headMoves (head tail v : Nat) : Bool := decide ((v + 2 ^ 32 - head) % 2 ^ 32 ≤ (tail + 2 ^ 32 - head) % 2 ^ 32)

/-- CQ_HEAD: the consumer returns completion-ring slots (R59, R415). -/
def execCqHead (p : Fin 32) (v : Word) (s : State) : Host.Outcome State Fault Refusal :=
  doorWrite p.val doorCqHead [psRunning, psHalted, psResetting] (fun b e =>
    let p := p.val
    if headMoves (e.ringHead p none) (e.ring p none).tail v.toNat then (e.wr (door p doorCqHead) v).drainRing b p none true
    else e.dbDrop p) s

/-- TR_HEAD[n]: the consumer returns slots of a token ring (R422). -/
def execTrHead (p : Fin 32) (n : Fin 256) (v : Word) (s : State) : Host.Outcome State Fault Refusal :=
  doorWrite p.val (doorTrHead n.val) [psRunning, psHalted, psResetting] (fun b e =>
    let p := p.val
    let n := n.val
    if (e.tring n).held && decide ((e.tring n).part = p) && headMoves (e.ringHead p (some n)) (e.ring p (some n)).tail v.toNat then
      ((e.wr (door p (doorTrHead n)) v).drainRing b p (some n) true).tryFreeTring n
    else e.dbDrop p) s

/-- SPILL_DRAIN: spilled records move to their ring as slots free (R425). -/
def execSpillDrain (p : Fin 32) (ring : Option (Fin 256)) (s : State) : Host.Outcome State Fault Refusal :=
  .next <| s.onEng fun b e =>
    let r := ring.map fun n => n.val
    match r with
    | some n => if (e.tring n).held && decide ((e.tring n).part = p.val) then e.drainRing b p.val r false else e
    | none => e.drainRing b p.val none false

/-- A record that waits since a beat time has waited DRAIN beats and has not counted yet (R427). -/
def dueSince (b : BeatUnit) (bound since : Nat) (late : Bool) : Bool :=
  !late && decide (bound ≠ 0) && decide (since + 256 * bound ≤ b.time)

/-- A record has waited DRAIN beats and has not counted yet (R427). (DEDUCED, assumption log 75) -/
def drainDue (b : BeatUnit) (bound : Nat) (x : QRec) : Bool :=
  dueSince b bound x.since x.late

/-- DRAIN_LATE: the oldest unwritten record of a ring has waited DRAIN beats (R427). (DEDUCED, assumption log 75) -/
def execDrainLate (p : Fin 32) (ring : Option (Fin 256)) (s : State) : Host.Outcome State Fault Refusal :=
  .next <| s.onEng fun b e =>
    let p := p.val
    let r := ring.map fun n => n.val
    let g := e.ring p r
    let bound := e.fld (Reg.spoutDrain p) 15 0
    let hit := fun (e : Eng) => (e.bump (Reg.spoutDrainLate p) 31 0).ev (Reg.spoutEvent p) 2
    let oldest := e.txns.find? fun t => match t.kind with
      | .record q r' idx _ => decide (q = p) && decide (r' = r) && decide (idx = g.tail)
      | _ => false
    match oldest, g.queue with
    | some t, _ => match t.kind with
      | .record q r' idx x =>
        if drainDue b bound x then
          hit { e with txns := e.txns.map fun y => if y.id = t.id then { y with kind := .record q r' idx { x with late := true } } else y }
        else e
      | _ => e
    | none, x :: rest => if drainDue b bound x then hit (e.onRing p r fun g => { g with queue := { x with late := true } :: rest }) else e
    | none, [] =>
      let q := e.part p
      if r = none ∧ q.admRec.isSome = true ∧ dueSince b bound q.admSince q.admLate = true then
        hit (e.onPart p fun q => { q with admLate := true })
      else e

end Sys2Proof.Machine
end

