-- ==== Sys2Proof/Machine/Wlc.lean ====
section
/-! DEFINITION. Weight versions, the verdict and update commands (spec/17): the operations that cells, boundaries, messages and commands share. -/

namespace Sys2Proof.Machine

open Sys2Proof

/-! ## Phase records (R454, R455) -/

/-- Write a phase record when EN is 1. `engine` replaces WX_SYNC_ENGINE_ID where R454 names another. -/
def Eng.phase (b : BeatUnit) (p kind : Nat) (version detail : Nat) (reason : Nat := 0) (engine : Option Nat := none)
    (e : Eng) : Eng :=
  if !e.bit (Reg.wlcPhaseCfg p) 31 then e
  else
    let idx := e.fld (Reg.wlcPhaseIdx p) 31 0
    let a := e.pair (Reg.wlcPhaseBaseLo p) (Reg.wlcPhaseBaseHi p) + idx % 2 ^ e.fld (Reg.wlcPhaseCfg p) 4 0 * 32
    let eid := engine.getD (e.fld Reg.syncEngineId 15 0)
    (e.partStore b p a (withCrc ([BitVec.ofNat 8 kind, BitVec.ofNat 8 p, BitVec.ofNat 8 reason, 0] ++
      leBytes 4 (e.fld (Reg.wlcRound p) 31 0) ++ leBytes 8 b.stamp ++ leBytes 2 eid ++ leBytes 2 version ++
      leBytes 4 detail ++ leBytes 4 idx))).bumpWrap (Reg.wlcPhaseIdx p) 31 0

/-! ## Version slots (R432 to R436) -/

/-- The STATE codes of R432. -/
abbrev vsEmpty : Nat := 0
abbrev vsLoading : Nat := 1
abbrev vsResident : Nat := 2
abbrev vsDraining : Nat := 3

def Partn.vslot (q : Partn) (n : Nat) : VSlot := kget VSlot.empty q.vslots n
def Eng.vslot (e : Eng) (p n : Nat) : VSlot := (e.part p).vslot n
def Eng.setVslot (p n : Nat) (v : VSlot) (e : Eng) : Eng :=
  e.onPart p fun q => { q with vslots := kset VSlot.empty q.vslots n v }

/-- The slots in a state, in the order of a key. -/
def Partn.vslotsIn (q : Partn) (st : Nat) (key : VSlot → Nat) : List Nat :=
  sortBy (fun a b => decide (key (q.vslot a) < key (q.vslot b))) ((List.range 4).filter fun n => decide ((q.vslot n).st = st))

/-- The slot of the newest resident version (R433). -/
def Partn.newestSlot (q : Partn) : Option Nat := (q.vslotsIn vsResident VSlot.committed).getLast?
/-- The newest resident version. -/
def Eng.newest (e : Eng) (p : Nat) : Option Nat := (e.part p).newestSlot.map fun n => (e.vslot p n).version
/-- Whether a version is resident in a partition (R432). -/
def Eng.resident (e : Eng) (p v : Nat) : Bool :=
  (List.range 4).any fun n => decide ((e.vslot p n).st = vsResident) && decide ((e.vslot p n).version = v)

/-- A request's effective policy (R438): 0 PIN, 1 ADVANCE, 2 REPREFILL. -/
def Eng.policy (e : Eng) (p slot : Nat) : Nat :=
  if (e.req slot).pinned.isSome then 0 else e.fld (Reg.wlcCtrl p) 1 0

/-- The first row of R439: a version has become newest. -/
def Eng.newestEvents (p : Nat) (e : Eng) : Eng :=
  (e.liveSlots p).foldl (init := e) fun e s =>
    if e.policy p s ≠ 0 ∧ e.newest p ≠ some (e.rversion s) ∧ (e.newest p).isSome then e.onReq s fun r => { r with verEv := true }
    else e

/-- The third row of R439: a version has left residence. -/
def Eng.leaveEvents (p v : Nat) (e : Eng) : Eng :=
  (e.liveSlots p).foldl (init := e) fun e s =>
    if e.rversion s = v ∨ (e.req s).pinned = some v then e.onReq s fun r => { r with verEv := true } else e

/-- A DRAINING slot is free of requests and of queued operations (R436). -/
def Eng.drained (e : Eng) (p v : Nat) : Bool :=
  ((e.liveSlots p).all fun s => decide (e.rversion s ≠ v) && decide ((e.req s).pinned ≠ some v)) &&
    e.planeq.all fun o => decide (o.part ≠ p) || decide (o.desc.version ≠ v)

/-- DRAINING slots empty once nothing holds their version (R436). -/
def Eng.drainVersions (p : Nat) (e : Eng) : Eng :=
  (List.range 4).foldl (init := e) fun e n =>
    if (e.vslot p n).st = vsDraining ∧ e.drained p (e.vslot p n).version = true then (e.setVslot p n VSlot.empty).ev (Reg.wlcEvent p) 1
    else e

/-- Commit the LOADING version of a slot (R435). (DEDUCED, assumption log 62) -/
def Eng.commit (b : BeatUnit) (p n : Nat) (e : Eng) : Eng :=
  let v := e.vslot p n
  let q := (e.part p).vseq
  let e := (e.setVslot p n { v with st := vsResident, committed := q }).onPart p fun x => { x with vseq := q + 1 }
  let e := e.ev (Reg.wlcEvent p) 0
  (e.phase b p 0x08 v.version v.layers).newestEvents p

/-- The commits that a cell's count allows, in the order of announcement (R435): the count left and the slots. (DEDUCED,
assumption log 62) -/
def Partn.commitList (q : Partn) (off : Nat) (count : Nat) : Nat × List Nat :=
  (q.vslotsIn vsLoading VSlot.announced).foldl (init := (count, [])) fun x n =>
    let v := q.vslot n
    if v.cell = off ∧ v.layers ≤ x.1 then (x.1 - v.layers, x.2 ++ [n]) else x

/-- LANDED of a slot (R435). (DEDUCED, assumption log 62) -/
def Eng.landed (e : Eng) (p n : Nat) : Nat :=
  let q := e.part p
  let v := q.vslot n
  let before := (q.vslotsIn vsLoading VSlot.announced).takeWhile (· ≠ n)
  let taken := (before.map fun k => if (q.vslot k).cell = v.cell then (q.vslot k).layers else 0).foldl (· + ·) 0
  if v.st = vsLoading then min v.layers ((e.cell (e.semBase p + v.cell)).count.toNat - taken)
  else if v.st = vsEmpty then 0 else v.layers

/-- A progress word (R522). -/
def progress (permille op pos : Nat) : Nat := permille * 2 ^ 54 + op * 2 ^ 48 + pos

/-- The fan-out progress word of the latest LOADING slot (R435, R457). -/
def Eng.fanProgress (e : Eng) (p : Nat) : Nat :=
  match ((e.part p).vslotsIn vsLoading VSlot.announced).getLast? with
  | none => 0
  | some n => progress (1000 * e.landed p n / (e.vslot p n).layers) 0x03 (e.landed p n)

/-! ## Groups and update commands (R443, R449 to R453) -/

def Eng.group (e : Eng) (g : Nat) : Group := kget Group.fresh e.groups g
def Eng.onGroup (e : Eng) (g : Nat) (f : Group → Group) : Eng := { e with groups := kmod Group.fresh e.groups g f }

def Group.armed (g : Group) : Bool := g.cfg.getLsbD 31
def Group.frozen (g : Group) : Bool := g.cfg.getLsbD 30
def Group.part (g : Group) : Nat := bitsOf g.cfg.toNat 28 24
def Group.layers (g : Group) : Nat := bitsOf g.cfg.toNat 12 0
def Group.nsh (g : Group) : Nat := bitsOf g.shards.toNat 10 0
/-- Commands withheld or unanswered. -/
def Group.outstanding (g : Group) : Nat := g.total - g.next + g.unans.length

/-- The STATE codes of WX_WLC_GRP_STATUS. -/
abbrev gsIdle : Nat := 0
abbrev gsIssuing : Nat := 1
abbrev gsSuspended : Nat := 2
abbrev gsFailed : Nat := 3

/-- The ARMED groups of a partition, in increasing id. -/
def Eng.armedGroups (e : Eng) (p : Nat) : List Nat :=
  (e.groups.filter fun x => x.2.armed && decide (x.2.part = p)).map fun x => x.1

/-- A round's end: UPDATE_DONE and its phase record (R452, R454). -/
def Eng.roundEnd (b : BeatUnit) (p : Nat) (r : Round) (e : Eng) : Eng :=
  (e.ev (Reg.wlcEvent p) 4).phase b p 0x06 r.target r.answered

/-- Every group of the round is IDLE (R452). -/
def Eng.roundOver (e : Eng) (r : Round) : Bool := r.isOpen && r.groups.all fun n => decide ((e.group n).st = gsIdle)

/-- The rounds of a partition that are over end, the earliest first (R452). (DESIGN CHOICE, assumption log 37) -/
def Eng.roundCheck (b : BeatUnit) (p : Nat) (e : Eng) : Eng :=
  let old := (e.part p).rounds
  let e := (old.reverse.filter e.roundOver).foldl (fun e r => e.roundEnd b p r) (e.onPart p fun q => { q with rounds := old.filter fun r => !e.roundOver r })
  let r := (e.part p).round
  if e.roundOver r then (e.roundEnd b p r).onPart p fun q => { q with round := { q.round with isOpen := false } } else e

/-- Change the round in which a group's commands stand. -/
def Partn.onRound (q : Partn) (n : Nat) (f : Round → Round) : Partn :=
  match q.rounds.findIdx? fun r => r.groups.contains n with
  | some k => { q with rounds := q.rounds.modify k f }
  | none => { q with round := f q.round }

/-- The round in which a group's commands stand. -/
def Partn.roundOf (q : Partn) (n : Nat) : Round := (q.rounds.find? fun r => r.groups.contains n).getD q.round

/-- A group returns to IDLE with nothing withheld or unanswered. -/
def Group.idle (g : Group) : Group :=
  { g with st := gsIdle, retries := 0, misses := [], resync := [], next := 0, total := 0, unans := [], owners := [] }

/-- The body of UPDATE, ECHO and RESYNC (R450). -/
def updBody (g layer shard target step lr : Nat) : Nat :=
  g * 2 ^ 116 + layer * 2 ^ 104 + shard * 2 ^ 94 + target * 2 ^ 64 + step * 2 ^ 32 + lr

/-- The next UPDATE to leave: the lowest ISSUING group with commands left to send (R449). -/
def Eng.updNext (e : Eng) : Option Nat :=
  (e.groups.find? fun x => decide (x.2.st = gsIssuing) && decide (x.2.next < x.2.total)).map fun x => x.1

/-- Send one UPDATE if the REQUEST class has a credit and nothing of it is held. -/
def Eng.updSend (b : BeatUnit) (e : Eng) : Eng :=
  match e.updNext with
  | none => e
  | some n =>
    if (e.rmHeld.any fun x => decide (x.1 / 64 = 0)) || (e.rmPortFor 0 1).isNone then e
    else
      let g := e.group n
      let p := g.part
      let shard := g.next % g.nsh
      let own := g.owners.getD shard 0
      let layer := g.base.toNat + g.next / g.nsh
      let m := e.rmHeader 0 (own % 65536) (bitsOf own 20 16) 0 0
        (updBody n layer shard g.target g.step.toNat g.lrSent.toNat)
      let e := e.onGroup n fun g => { g with next := g.next + 1, unans := g.unans ++ [⟨g.next, b.time, false⟩] }
      let r := (e.part p).roundOf n
      let e := if r.isOpen && !r.begun then
          (e.phase b p 0x05 r.target r.queued).onPart p fun q => q.onRound n fun r => { r with begun := true }
        else e
      (e.rmSend 0x02 m).rmPump

/-- Send UPDATEs as far as credits allow. -/
def Eng.updPump (b : BeatUnit) : Nat → Eng → Eng
  | 0, e => e
  | k + 1, e => Eng.updPump b k (e.updSend b)

/-- Credits of the REQUEST class on the four ports, an upper bound on what may leave. -/
def Eng.requestCredits (e : Eng) : Nat := (List.range 4).foldl (fun n q => n + kget 0 e.rmCredit (4 * q)) 0

/-- Messages and commands leave as credits allow (R449, R462). -/
def Eng.rmFlow (b : BeatUnit) (e : Eng) : Eng :=
  let e := e.rmPump
  e.updPump b e.requestCredits

/-- A group takes part in an applied round (R444, R449). -/
def Eng.groupAdvance (p n target : Nat) (e : Eng) : Eng :=
  let e := e.onGroup n fun g => { g with step := g.step + 1 }
  let e := e.onPart p fun q => { q with round := { q.round with groups := q.round.groups ++ [n] } }
  let g := e.group n
  let a := g.shardLo.toNat + g.shardHi.toNat * 2 ^ 32
  let own := (List.range g.nsh).map fun i => e.num (a + 4 * i) 4
  if e.refused (some p) false a (4 * g.nsh) || (own.any fun w => decide (w / 2 ^ 21 ≠ 0)) then
    (e.onGroup n fun g => { g with st := gsFailed }).ev (Reg.wlcEvent p) 8
  else
    let k := g.layers * g.nsh
    let e := e.onGroup n fun g =>
      { g.idle with
        st := if k = 0 then gsIdle else gsIssuing
        owners := own
        lrSent := g.lr
        target := target
        total := k }
    e.onPart p fun q => { q with round := { q.round with queued := q.round.queued + k } }

/-- The groups of an applied round (R449); one that is still open, for a group disarmed since, stays open beside it. Its first UPDATE leaves, or with no command it is done, once the home has applied
the RELEASE (R447, R454). (DESIGN CHOICE, assumption log 37) -/
def Eng.applyRound (p target : Nat) (e : Eng) : Eng :=
  let e := e.onPart p fun q => { q with
    rounds := (((if q.round.isOpen then [q.round] else []) ++ q.rounds).map fun r =>
      { r with groups := r.groups.filter fun n => decide ((e.group n).st ≠ gsIdle) })
    round := ⟨true, 0, 0, false, target, []⟩ }
  let e := (e.armedGroups p).foldl (init := e) fun e n =>
    let g := e.group n
    if g.frozen then (e.bump (Reg.wlcFrozenSupp p) 31 0 (g.layers * g.nsh)).ev (Reg.wlcEvent p) 6
    else e.groupAdvance p n target
  e.bumpWrap (Reg.wlcApplies p) 31 0

/-! ## The verdict (R445 to R448) -/

/-- Record a non-finite report (R445): the lowest layer is kept. -/
def Eng.nfReport (p layer : Nat) (e : Eng) : Eng :=
  let r := Reg.wlcNfStatus p
  if e.bit r 31 ∧ e.fld r 11 0 ≤ layer then e else (e.setF r 11 0 layer).setF r 31 31 1

/-- Whether entry `n` is the partition's verdict entry. -/
def Eng.isVerdict (e : Eng) (p n : Nat) : Bool :=
  e.bit (Reg.wlcVerdictCfg p) 31 && decide (e.fld (Reg.wlcVerdictCfg p) 25 24 = n)

/-- Take the vote (R445): the VOTE and LAYER fields, the report cleared, its phase record. -/
def Eng.takeVote (b : BeatUnit) (p : Nat) (e : Eng) : Nat × Eng :=
  let r := Reg.wlcNfStatus p
  let vote := if e.bit r 31 then 4096 + e.fld r 11 0 else 0
  (vote, (e.wr r 0).phase b p 0x03 0 vote)

/-- Count a vote at the home (R446): a NONFINITE vote is logged. -/
def Eng.countVote (b : BeatUnit) (p n engine vote : Nat) (e : Eng) : Eng :=
  if vote / 4096 % 2 = 0 then e
  else
    let layer := vote % 4096
    let e := e.logAdd b 0x0004 0 (some p) (leBytes 2 engine ++ leBytes 2 layer)
    e.onPart p fun q =>
      { q with xbs := kmod XbEnt.idle q.xbs n fun x =>
          if x.nfCount = 0 ∨ engine < x.nfEngine then { x with nfCount := x.nfCount + 1, nfEngine := engine, nfLayer := layer }
          else { x with nfCount := x.nfCount + 1 } }

/-- The reason with which the home decides a round (R446). -/
def Eng.verdictReason (e : Eng) (p nf : Nat) : Nat :=
  let gs := (e.armedGroups p).map fun n => e.group n
  if nf ≠ 0 then 1
  else if gs.any fun g => decide (g.outstanding ≠ 0) || decide (g.resync ≠ []) || decide (g.st = gsSuspended) || decide (g.st = gsFailed) then 2
  else if e.bit (Reg.wlcCtrl p) 2 && gs.any Group.frozen then 3
  else 0

/-- The home decides the round (R446, R449): the body of its RELEASE, and the decision's effects. -/
def Eng.decideRound (b : BeatUnit) (p n : Nat) (e : Eng) : Nat × Eng :=
  let x := kget XbEnt.idle (e.part p).xbs n
  let reason := e.verdictReason p x.nfCount
  let target := e.fld (Reg.wlcVnext p) 15 0
  let round := (e.fld (Reg.wlcRound p) 31 0 + 1) % 2 ^ 32
  let body := reason * 2 ^ 124 + min x.nfCount 65535 * 2 ^ 108 + x.nfLayer * 2 ^ 96 + x.nfEngine * 2 ^ 80 +
    (if reason = 0 then target * 2 ^ 64 else 0) + round * 2 ^ 32
  let e := e.onPart p fun q => { q with xbs := kmod XbEnt.idle q.xbs n fun x => { x with nfCount := 0, nfEngine := 0, nfLayer := 0 } }
  let e := if reason = 3 then
      let g := ((e.armedGroups p).find? fun g => (e.group g).frozen).getD 0
      e.tenantFault b p 0x21 (leBytes 2 g)
    else e
  let e := if reason = 0 then
      (e.setF (Reg.wlcVnext p) 15 0 (if target = 0xFFFE then 0 else target + 1)).applyRound p target
    else e
  (body, e)

/-- Apply a verdict RELEASE (R447, R448) that releases `k` waits: the amount to add to the GO cell, and the rest. -/
def Eng.applyVerdict (b : BeatUnit) (p k body : Nat) (e : Eng) : Nat × Eng :=
  let reason := bitsOf body 127 124
  let count := bitsOf body 123 108
  let layer := bitsOf body 107 96
  let eng := bitsOf body 95 80
  let e := e.bumpWrap (Reg.wlcRound p) 31 0
  let e := e.wr (Reg.wlcLastVerdict p) (BitVec.ofNat 32 (reason * 2 ^ 28 + layer * 2 ^ 16 + eng))
  let e := e.phase b p 0x04 (bitsOf body 79 64) (layer * 65536 + count) reason (some eng)
  if reason = 0 then (k, e)
  else
    let e := ((e.bump (Reg.wlcSkips p) 31 0).ev (Reg.wlcEvent p) 3).logAdd b 0x0005 0 (some p)
      (leBytes 4 (bitsOf body 63 32) ++ [BitVec.ofNat 8 reason, 0] ++ leBytes 2 count ++ leBytes 2 eng ++ leBytes 2 layer)
    (0, e)

/-! ## Echoes (R452, R453) -/

/-- Send RESYNC to a shard's owner (R452). (DESIGN CHOICE, assumption log 37) -/
def Eng.sendResync (n shard : Nat) (e : Eng) : Eng :=
  let g := e.group n
  let own := g.owners.getD shard 0
  e.rmSend 0x03 (e.rmHeader 0 (own % 65536) (bitsOf own 20 16) 0 0 (updBody n 0 shard 0 g.step.toNat 0))

/-- An ECHO that differs from STEP (R452). (DESIGN CHOICE, assumption log 37) -/
def Eng.skewed (b : BeatUnit) (n shard got : Nat) (isResync : Bool) (e : Eng) : Eng :=
  let g := e.group n
  let p := g.part
  let own := g.owners.getD shard 0 % 65536
  let misses := if isResync then kget 0 g.misses shard + 1 else kget 0 g.misses shard
  let e := (e.bump (Reg.wlcSkews p) 31 0).ev (Reg.wlcEvent p) 5
  let e := e.logAdd b 0x0006 0 (some p)
    (leBytes 2 n ++ leBytes 2 shard ++ leBytes 2 own ++ [0, 0] ++ leBytes 4 g.step.toNat ++ leBytes 4 got)
  let e := e.phase b p 0x09 g.target (n * 2 ^ 20 + shard * 2 ^ 10) 0 (some own)
  if misses = 3 then
    (e.onGroup n fun g => { g with st := gsFailed, retries := 3, misses := kset 0 g.misses shard 3 }).ev (Reg.wlcEvent p) 8
  else
    (e.onGroup n fun g => { g with st := gsSuspended, retries := misses, misses := kset 0 g.misses shard misses, resync := g.resync ++ [shard] }).sendResync n shard

/-- The group returns to IDLE once every command is answered and none is withheld (R452). (DESIGN CHOICE, assumption log 37) -/
def Eng.groupDone (b : BeatUnit) (n : Nat) (e : Eng) : Eng :=
  let g := e.group n
  if g.st = gsIssuing ∧ g.outstanding = 0 ∧ g.resync = [] then (e.onGroup n Group.idle).roundCheck b g.part else e

/-- An ECHO reaches the authority (R452, R453). (DESIGN CHOICE, assumption log 37) -/
def Eng.takeEcho (b : BeatUnit) (body : Nat) (e : Eng) : Eng :=
  let n := bitsOf body 127 116
  let shard := bitsOf body 103 94
  let got := bitsOf body 63 32
  let g := e.group n
  let p := g.part
  let live := decide (g.st = gsIssuing) || decide (g.st = gsSuspended)
  let stale := e.bump Reg.wlcStaleEcho 31 0
  if !live then stale
  else if body.testBit 80 then
    if shard ∉ g.resync then stale
    else if got = g.step.toNat then
      ((e.onGroup n fun g => { g with st := gsIssuing, retries := 0, misses := kset 0 g.misses shard 0, resync := g.resync.erase shard }).groupDone b n).rmFlow b
    else (e.skewed b n shard got true).rmFlow b
  else
    let layer := bitsOf body 115 104
    let idx := (layer - g.base.toNat) * g.nsh + shard
    if layer < g.base.toNat ∨ g.nsh ≤ shard ∨ (g.unans.all fun u => decide (u.idx ≠ idx)) then stale
    else
      let e := e.onGroup n fun g => { g with unans := g.unans.filter fun u => decide (u.idx ≠ idx) }
      let e := e.onPart p fun q => q.onRound n fun r => { r with answered := r.answered + 1 }
      if got = g.step.toNat then (e.groupDone b n).rmFlow b else (e.skewed b n shard got false).rmFlow b

end Sys2Proof.Machine
end

