-- ==== Sys2Proof/Machine/Grammar.lean ====
section
/-! DEFINITION. The Music Box (spec/13, R361 to R370): grammar images, configurations and masks, the grammar state of a request, and the grammar commands. -/

namespace Sys2Proof.Machine

open Sys2Proof

/-! ## Images (R361, R362) -/

def Eng.gram (e : Eng) (id : Nat) : Gram := kget Gram.none e.grams id

/-- The header fields of an image: VOCAB, STATES, START, ENTRIES, and the addresses of its two tables. -/
structure GramHdr where
  syms : Nat
  vocab : Nat
  states : Nat
  start : Nat
  entries : Nat
  stateAt : Nat
  entryAt : Nat
  bytes : Nat
  deriving DecidableEq, Repr

/-- Read a header. -/
def Eng.gramHdr (e : Eng) (a : Nat) : GramHdr :=
  let l := e.bytes a 64
  { syms := fieldAt l 6 2, vocab := fieldAt l 8 4 % 2 ^ 21, states := fieldAt l 0xC 4 % 2 ^ 23, start := fieldAt l 0x10 4,
    entries := fieldAt l 0x14 4, stateAt := a + fieldAt l 0x18 8, entryAt := a + fieldAt l 0x20 8, bytes := fieldAt l 0x28 8 }

/-- A transition entry (R362). -/
structure GramEnt where
  op : Nat
  top : Nat
  hi : Nat
  lo : Nat
  sym : Nat
  next : Nat
  deriving DecidableEq, Repr

/-- The entry whose two words are given. -/
def gramEnt (w0 w1 : Nat) : GramEnt :=
  ⟨bitsOf w0 57 56, bitsOf w0 55 40, bitsOf w0 39 20, bitsOf w0 19 0, bitsOf w1 47 32, bitsOf w1 22 0⟩

/-- FINAL of a state. -/
def Eng.gramFinal (e : Eng) (h : GramHdr) (st : Nat) : Bool := (e.num (h.stateAt + 8 * st) 8).testBit 0

/-- The entries of a state, in order. -/
def Eng.gramEntries (e : Eng) (h : GramHdr) (st : Nat) : List GramEnt :=
  let r := e.num (h.stateAt + 8 * st) 8
  (List.range (bitsOf r 31 16)).map fun i =>
    let a := h.entryAt + 16 * (bitsOf r 63 32 + i)
    gramEnt (e.num a 8) (e.num (a + 8) 8)

/-! ## Configurations and masks (R363, R364) -/

/-- An entry is admissible under a stack, bottom first. -/
def GramEnt.admissible (x : GramEnt) (stack : List Nat) : Bool :=
  (decide (x.top = 0xFFFF) || decide (stack.getLast? = some x.top) || (decide (x.top = 0xFFFE) && decide (stack = []))) &&
    (match x.op with
    | 1 => decide (stack.length < 64)
    | 0 => true
    | _ => decide (stack ≠ []))

/-- The stack after an entry's OP. -/
def GramEnt.apply (x : GramEnt) (stack : List Nat) : List Nat :=
  match x.op with
  | 1 => stack ++ [x.sym]
  | 2 => stack.dropLast
  | 3 => stack.dropLast ++ [x.sym]
  | _ => stack

/-- The mask admits a token. -/
def gramAdmits (vocab : Nat) (es : List GramEnt) (stack : List Nat) (t : Nat) : Bool :=
  decide (t < vocab) && es.any fun x => x.admissible stack && decide (x.lo ≤ t) && decide (t ≤ x.hi)

/-- The transition on a token: the first admissible entry that covers it. -/
def gramStep (es : List GramEnt) (stack : List Nat) (t : Nat) : Option (Nat × List Nat) :=
  (es.find? fun x => x.admissible stack && decide (x.lo ≤ t) && decide (t ≤ x.hi)).map fun x => (x.next, x.apply stack)

/-- The mask of a state and stack admits some token. -/
def gramAlive (vocab : Nat) (es : List GramEnt) (stack : List Nat) : Bool :=
  es.any fun x => x.admissible stack && decide (x.lo ≤ x.hi) && decide (x.lo < vocab)

/-! ## A request's grammar (R365, R366) -/

/-- The grammar id of a request whose GRAMMAR is VALID. -/
def Eng.rgram (e : Eng) (slot : Nat) : Option Nat :=
  if e.rqf slot 19 63 63 = 1 then some (e.rqf slot 19 57 48) else none

/-- Its image's header. -/
def Eng.rgramHdr (e : Eng) (slot : Nat) : GramHdr := e.gramHdr (e.gram ((e.rgram slot).getD 0)).addr

/-- Its state. -/
def Eng.rgramState (e : Eng) (slot : Nat) : Nat := e.rqf slot 19 37 16

/-- Write the grammar state into word 19 and the stack into the mask area (R365, R366). -/
def Eng.setGram (b : BeatUnit) (p slot st : Nat) (stack : List Nat) (e : Eng) : Eng :=
  let e := ((e.setRqf slot 19 47 41 stack.length).setRqf slot 19 37 16 st).onReq slot fun r => { r with gstack := stack }
  if e.fld (Reg.smpMaskStride p) 15 0 = 0 then e
  else e.partStore b p (e.pair (Reg.smpMaskBaseLo p) (Reg.smpMaskBaseHi p) +
      (slot - e.rqtBase p) * e.fld (Reg.smpMaskStride p) 15 0 * 4096) ((stack.map fun x => leBytes 2 x).flatten)

/-- The mask area of a request. -/
def Eng.maskAddr (e : Eng) (p slot : Nat) : Nat :=
  e.pair (Reg.smpMaskBaseLo p) (Reg.smpMaskBaseHi p) + (slot - e.rqtBase p) * e.fld (Reg.smpMaskStride p) 15 0 * 4096

/-- The mask region cannot hold a row of V tokens (R365). -/
def Eng.maskSmall (e : Eng) (p v : Nat) : Bool := decide (e.fld (Reg.smpMaskStride p) 15 0 * 4096 < 256 + ceilDiv v 8)

/-- A grammar-cache access; whether it misses is open (R374). (DESIGN CHOICE, assumption log 39) -/
def Eng.gramCache (e : Eng) : Eng :=
  let (k, e) := e.drawFree
  if Config.freePick k % 2 = 0 then e else e.bumpWrap Reg.smpMbMisses 31 0

/-- A read of an image that draws an error raises MEM_ERR (R581). (DESIGN CHOICE, assumption log 39) -/
def Eng.gramRead (b : BeatUnit) (slot : Nat) (e : Eng) : Eng :=
  let h := e.rgramHdr slot
  let a := (e.gram ((e.rgram slot).getD 0)).addr
  if e.refused none false a h.bytes then e.engFault b 0x8C none (engDetail 0 0 0 0 a 0 0) else e

/-- Build the mask of a request's configuration in its mask area (R364, R365): as many bytes as the grammar's VOCAB takes and
the area holds. No head is known yet; its V is seen to when its operation is queued. (DEDUCED, assumption log 116) -/
def Eng.buildMask (b : BeatUnit) (p slot : Nat) (e : Eng) : Eng :=
  match e.rgram slot with
  | none => e
  | some _ =>
    let h := e.rgramHdr slot
    let room := e.fld (Reg.smpMaskStride p) 15 0 * 4096 - 256
    if room = 0 then e
    else
      let e := (e.gramRead b slot).gramCache
      let es := e.gramEntries h (e.rgramState slot)
      let stack := (e.req slot).gstack
      let byte := fun k => ofLe [((List.range 8).foldl (fun (v : Byte) i =>
        if gramAdmits h.vocab es stack (8 * k + i) then v ||| (1#8 <<< i) else v) 0)]
      let mask := (List.range (min room (ceilDiv h.vocab 8))).map fun k => BitVec.ofNat 8 (byte k)
      (e.bumpWrap Reg.smpMbBuilds 31 0).partStore b p (e.maskAddr p slot + 256) mask

/-- The mask of a request takes ⌈V / 8⌉ bytes for a head of V tokens (R365): those beyond the grammar's VOCAB admit nothing
(R364). (DEDUCED, assumption log 116) -/
def Eng.padMask (b : BeatUnit) (p slot v : Nat) (e : Eng) : Eng :=
  let n := ceilDiv (e.rgramHdr slot).vocab 8
  if (e.rgram slot).isNone || e.maskSmall p v || decide (ceilDiv v 8 ≤ n) then e
  else e.partStore b p (e.maskAddr p slot + 256 + n) (List.replicate (ceilDiv v 8 - n) 0)

/-- The mask bit of a token, read from the mask area; a token at or beyond the grammar's VOCAB is not admitted (R364). -/
def Eng.maskBit (e : Eng) (p slot t : Nat) : Bool :=
  decide (t < (e.rgramHdr slot).vocab) && (e.pbyte p (e.maskAddr p slot + 256 + t / 8)).getLsbD (t % 8)

/-! ## Commands (R369, R370) -/

/-- A state record or an entry that R369 refuses. -/
def gramRecBad (h : GramHdr) (r : Nat) : Bool :=
  decide (bitsOf r 15 1 ≠ 0) || decide (h.entries < bitsOf r 63 32 + bitsOf r 31 16)

/-- An entry that R369 refuses. -/
def gramEntBad (h : GramHdr) (w0 w1 : Nat) : Bool :=
  let x := gramEnt w0 w1
  decide (bitsOf w0 63 58 ≠ 0) || decide (bitsOf w1 63 48 ≠ 0) || decide (bitsOf w1 31 23 ≠ 0) ||
    decide (x.hi < x.lo) || decide (h.vocab ≤ x.hi) || decide (h.states ≤ x.next) ||
    !(decide (x.top = 0xFFFE) || decide (x.top = 0xFFFF) || decide (x.top < h.syms)) ||
    ((decide (x.op = 1) || decide (x.op = 3)) && decide (h.syms ≤ x.sym))

/-- The header check of LOAD (R361, R369): CRC, MAGIC, FORMAT, the ranges, the alignments and the reserved fields. -/
def gramHdrBad (l : List Byte) : Bool :=
  let f := fieldAt l
  !crcGood l || decide (f 0 4 ≠ 0x4B47524D) || decide (f 4 2 ≠ 1) || decide (65534 < f 6 2) ||
    decide (f 8 4 < 1) || decide (1048576 < f 8 4) || decide (f 0xC 4 < 1) || decide (4194304 < f 0xC 4) ||
    decide (f 0x18 8 % 8 ≠ 0) || decide (f 0x20 8 % 16 ≠ 0) || decide (f 0x30 8 ≠ 0)

/-- The ERR code with which LOAD of an image completes, the entries it has checked and those of the image (R369). -/
def Eng.gramCheck (e : Eng) (a : Nat) : Nat × Nat × Nat :=
  if e.refused none false a 64 then (5, 0, 0)
  else if gramHdrBad (e.bytes a 64) then (2, 0, 0)
  else
    let h := e.gramHdr a
    let total := h.entries
    if e.refused none false a h.bytes then (5, 0, total)
    else if (crc32c (e.bytes (a + 64) (h.bytes - 64))).toNat ≠ e.num (a + 0x38) 4 then (3, 0, total)
    else if (List.range h.states).any fun i => gramRecBad h (e.num (h.stateAt + 8 * i) 8) then (4, 0, total)
    else
      let bad := fun i => gramEntBad h (e.num (h.entryAt + 16 * i) 8) (e.num (h.entryAt + 16 * i + 8) 8)
      match (List.range h.entries).find? bad with
      | some i => (4, i, total)
      | none => (0, total, total)

/-- Show the number of resident grammars, and the progress word of a LOAD (R369). -/
def Eng.showGram (load : Bool) (permille pos : Nat) (e : Eng) : Eng :=
  let e := if load then e.setPair Reg.smpGramProgLo Reg.smpGramProgHi (progress permille 0x06 pos) else e
  e.setF Reg.smpGramResident 10 0 (e.grams.filter fun x => decide (x.2.st = 1)).length

/-- Write WX_SMP_GRAM_CMD: ignored while BUSY, but for a command to the id whose UNLOAD waits, which is answered with ERR 0x6
(R369, R371). (DEDUCED, assumption log 117) -/
def gramWrite (path : Path) (op : Nat) (id : BitVec 10) (s : State) : Host.Outcome State Fault Refusal :=
  ctlWrite path Reg.smpGramCmd (fun _ e =>
    if e.bit Reg.smpGramCmd 31 then (if (e.gram id.toNat).st = 2 then e.setF Reg.smpGramCmd 30 28 6 else e)
    else
      let g := e.gram id.toNat
      let a := e.pair Reg.smpGramAddrLo Reg.smpGramAddrHi
      let (err, n, total) := if g.st = 2 then (6, 0, 0)
        else if (op = 1 ∧ g.st = 1) ∨ (op = 2 ∧ g.st = 0) then (1, 0, 0)
        else if op = 1 then e.gramCheck a else (0, 0, 0)
      let e := (e.setF Reg.smpGramCmd 31 31 1).setF Reg.smpGramCmd 9 0 id.toNat
      let e := if op = 2 ∧ err = 0 then { e with grams := kmod Gram.none e.grams id.toNat fun g => { g with st := 2 } } else e
      let e := if op = 1 ∧ err = 0 then { e with grams := kset Gram.none e.grams id.toNat ⟨0, e.rd Reg.smpGramParts, a⟩ } else e
      { e with gramCmd := some (op, id.toNat, err, n, total) }.showGram (op = 1) 0 0) s

/-- GRAM_LOAD (R369). -/
def execGramLoad (path : Path) (id : BitVec 10) (s : State) : Host.Outcome State Fault Refusal := gramWrite path 1 id s

/-- GRAM_UNLOAD (R369): residence is cleared at once. -/
def execGramUnload (path : Path) (id : BitVec 10) (s : State) : Host.Outcome State Fault Refusal := gramWrite path 2 id s

/-- A live request names a grammar id. -/
def Eng.gramInUse (e : Eng) (id : Nat) : Bool := e.reqs.any fun x => x.2.live && decide (e.rgram x.1 = some id)

/-- GRAM_CMD_DONE: the command in progress completes with its ERR code; UNLOAD waits until no live request names the id
(R369). -/
def execGramCmdDone (s : State) : Host.Outcome State Fault Refusal :=
  .next <| s.onEng fun _ e =>
    match e.gramCmd with
    | none => e
    | some (op, id, err, n, total) =>
      if op = 2 ∧ err = 0 ∧ e.gramInUse id then e
      else
        let e := { e with gramCmd := none }
        let e := (e.setF Reg.smpGramCmd 31 31 0).setF Reg.smpGramCmd 30 28 err
        if op = 1 then
          let e := if err = 0 then { e with grams := kmod Gram.none e.grams id fun g => { g with st := 1 } } else e
          e.showGram true (if err = 0 then 1000 else 1000 * n / max 1 total) n
        else
          let e := if err = 0 then { e with grams := kset Gram.none e.grams id Gram.none } else e
          e.showGram false 0 0

/-- A grammar id is resident for a partition (R370). -/
def Eng.gramResident (e : Eng) (p id : Nat) : Bool := decide ((e.gram id).st = 1) && (e.gram id).parts.getLsbD p

end Sys2Proof.Machine
end

