-- ==== Sys2Proof/Machine/Weir.lean ====
section
/-! DEFINITION. The batch composer (spec/10): room, placement and grants, the open batch, seals, ageing, dispatch descriptors and role balance, with the instructions BOPEN, BADDQ, BSEAL and BISSUE. -/

namespace Sys2Proof.Machine

open Sys2Proof

/-! ## Requests as Weir sees them -/

/-- B of R216: the bytes of one hidden row of a profile. -/
def Eng.rowBytes (e : Eng) (p m : Nat) : Nat :=
  let h := 128 * e.fld (Reg.admModelCfg p m) 8 0
  match e.fld (Reg.admModelCfg p m) 30 28 with
  | 2 => 2 * h
  | 3 => h + h / 32
  | 4 => h + h / 32
  | _ => h

/-- PROMPT_LEN, or RB while a rebuild runs (R440). -/
def Eng.rlen (e : Eng) (slot : Nat) : Nat := (e.req slot).rb.getD (e.rpromptLen slot)

/-- The phases of a request. -/
abbrev phPrefill : Nat := 1
abbrev phDecode : Nat := 2
abbrev phLearn : Nat := 3

/-- The phase in which a request is offered. -/
def Eng.rphase (e : Eng) (slot : Nat) : Nat :=
  if e.rlearn slot then phLearn else if e.rprefilled slot < e.rlen slot then phPrefill else phDecode

/-- The candidate tree of a request, built at its last boundary (R379). -/
def Eng.rtree (e : Eng) (slot : Nat) : List TreeNode := (e.req slot).tree

/-- The natural size of a request's run (R267). -/
def Eng.natural (e : Eng) (slot chunk seg : Nat) : Nat :=
  match e.rphase slot with
  | 3 => min seg (e.rpromptLen slot - e.rprefilled slot)
  | 1 => min chunk (e.rlen slot - e.rprefilled slot)
  | _ => 1 + (e.rtree slot).length

/-- The step's kind allows rows of a phase (R265). -/
def Batch.allows (bt : Batch) (ph : Nat) : Bool :=
  if bt.learning then decide (ph = phLearn) || decide (0 < bt.mixGen)
  else decide (ph ≠ phLearn) || decide (0 < bt.mixLearn)

/-- A HARD request whose deadline event has been accepted counts as retired (R305). -/
def Eng.hardDue (e : Eng) (slot : Nat) : Bool := (e.req slot).deadlineEv && decide (e.rqf slot 6 63 63 = 1)

/-- The deadline event of a request has been accepted by now (R17, R302). (DEDUCED, assumption log 66) -/
def Eng.deadlineHit (b : BeatUnit) (e : Eng) (slot : Nat) : Bool :=
  (e.req slot).deadlineEv || ((e.req slot).deadlineArmed && decide (e.rdeadline slot ≤ b.time))

/-- The events that a request has waiting for a boundary (R17). -/
def Eng.eventsOf (b : BeatUnit) (e : Eng) (slot : Nat) : Events :=
  let r := e.req slot
  ⟨r.cancel, e.deadlineHit b slot, r.faultEv.isSome, r.verEv || r.early.ver, if r.pinEv.isSome then r.pinEv else r.early.pin, r.pauseEv⟩

/-- Eligible, apart from the step's kind (R271, R305): WAITING, not cancelled and not paused. (DEDUCED, assumption log 105) -/
def Eng.eligible (e : Eng) (slot : Nat) : Bool :=
  !e.hardDue slot && decide (e.rstate slot = rsWaiting) && !(e.req slot).cancel && (e.req slot).inStep.isNone && !(e.req slot).inBatch

/-! ## Room (R265, R267, R272) -/

/-- What takes room: rows of a profile in a phase. -/
structure Load where
  model : Nat
  phase : Nat
  rows : Nat
  deriving DecidableEq, Repr

/-- The rows of loads that satisfy a condition. -/
def loadRows (f : Load → Bool) (l : List Load) : Nat := (l.filter f).foldl (fun n x => n + x.rows) 0

/-- What the batch has granted and what it holds reserved for requests other than `slot`. -/
def Eng.loads (e : Eng) (bt : Batch) (slot : Nat) : List Load :=
  (bt.runs.map fun r => ⟨r.model, r.phase, r.rows⟩) ++
    ((bt.reserved.filter (· ≠ slot)).map fun s => ⟨e.rmodel s, e.rphase s, 1⟩)

/-- Rows of a group in the open batch. -/
def Batch.groupRows (bt : Batch) (c : Nat) : Nat :=
  (bt.runs.filter fun r => decide (r.chan = c)).foldl (fun n r => n + r.rows) 0

/-- Rows that the group limit still allows on a channel; none for no limit (WX_WEIR_GCAP). (DEDUCED, assumption log 42) -/
def Batch.groupRoom (bt : Batch) (c : Nat) : Option Nat := if bt.gcap = 0 then none else some (bt.gcap - bt.groupRows c)

/-- The least of a number and an optional limit. -/
def minOpt (n : Nat) : Option Nat → Nat
  | none => n
  | some k => min n k

/-- The rows that R265 still allows a request of a profile and phase, its own reservation set aside, group choice
apart. (DEDUCED, assumption log 42) -/
def Eng.limitRoom (e : Eng) (p : Nat) (bt : Batch) (slot m ph : Nat) : Nat :=
  let ls := e.loads bt slot
  let all := loadRows (fun _ => true) ls
  let mine := loadRows (fun x => decide (x.model = m)) ls
  let bytes := ls.foldl (fun n x => n + x.rows * e.rowBytes p x.model) 0
  let learnRows := loadRows (fun x => decide (x.phase = phLearn)) ls
  let mix := if bt.learning then if ph = phLearn then none else some (bt.mixGen - (all - learnRows))
    else if ph = phLearn then some (bt.mixLearn - learnRows) else none
  let groups := if bt.gcap = 0 then none else some (bt.gcap * bt.roles.length - all)
  minOpt (minOpt (min (bt.tb - all) (min (bt.caps.getD m 0 - mine)
    ((33554432 - bytes) / e.rowBytes p m))) mix) groups

/-- The roles that a phase prefers (R268): 0 MIXED, 1 PREFILL, 2 DECODE. -/
def prefers (ph role : Nat) : Bool := decide (role = 0) || decide (role = if ph = phDecode then 2 else 1)

/-- The groups that rules 1 and 2 of R268 leave to a phase. -/
def Batch.candidates (bt : Batch) (ph : Nat) : List Nat :=
  let room := bt.roles.filter fun x => bt.groupRoom x.1 ≠ some 0
  let pref := room.filter fun x => prefers ph x.2
  (if pref = [] then room else pref).map fun x => x.1

/-- The largest room of a group among candidates; none without a limit. (DEDUCED, assumption log 44) -/
def Batch.bestRoom (bt : Batch) (cs : List Nat) : Option Nat :=
  if bt.gcap = 0 then none else some (cs.foldl (fun n c => max n ((bt.groupRoom c).getD 0)) 0)

/-- The bucket of a LEARN run (R269). -/
def Eng.bucket (e : Eng) (p rows : Nat) : Nat :=
  ((List.range 8).find? fun i => decide (rows ≤ 2 ^ (e.fld (Reg.weirBucket p) (4 * i + 3) (4 * i) + 6))).getD 7

/-- The candidate with the fewest rows, and among equals the lowest channel (R268). -/
def Batch.fewest (bt : Batch) : List Nat → Option Nat
  | [] => none
  | c :: r => some (r.foldl (fun a x => if bt.groupRows x < bt.groupRows a then x else a) c)

/-- The group of a granted run and whether BUCKET_MIX is set (R268). (DEDUCED, assumption log 44) -/
def Batch.place (bt : Batch) (ph rows bucket : Nat) : Nat × Bool :=
  let cs := (bt.candidates ph).filter fun c => match bt.groupRoom c with
    | none => true
    | some k => decide (rows ≤ k)
  if bt.learning ∧ ph = phLearn then
    let same := cs.filter fun c => bt.buckets.contains (c, bucket)
    let fresh := cs.filter fun c => bt.buckets.all fun x => decide (x.1 ≠ c)
    if same ≠ [] then ((bt.fewest same).getD 0, false)
    else if fresh ≠ [] then ((bt.fewest fresh).getD 0, false)
    else ((bt.fewest cs).getD 0, true)
  else ((bt.fewest cs).getD 0, false)

/-- The rows of a run that pages cover below a position (R240): the rows of a DECODE run lie at POS0 and at the depth of
each node. -/
def coveredRows (ph pos0 rows upto : Nat) (nodes : List TreeNode) : Nat :=
  if ph = phDecode then
    if pos0 < upto then 1 + (nodes.takeWhile fun t => decide (pos0 + t.depth < upto)).length else 0
  else min rows (upto - pos0)

/-- Sequence position of a request's next run (R283). -/
def Eng.rpos0 (e : Eng) (slot : Nat) : Nat :=
  if e.rphase slot = phDecode then e.rpromptLen slot + e.rgenerated slot - 1 else e.rprefilled slot

/-- What a grant came to: rows (0 with a reason) and whether the tree was cut by room. -/
structure Grant where
  rows : Nat
  reason : Nat
  cut : Bool
  deriving DecidableEq, Repr

/-- Grant rows to a request under R267 and R240 and place its run (R268). What the request has waiting for a boundary does
not wait for that of the step (R17). A forced request that is PAUSED stays so. `w` is the rows asked, 0 for no cap. (DEDUCED,
assumption logs 44, 105) -/
def Eng.grant (b : BeatUnit) (p slot w : Nat) (forced : Bool) (bt : Batch) (e : Eng) : Grant × Batch × Eng :=
  let ph := e.rphase slot
  let m := e.rmodel slot
  let natural := e.natural slot bt.chunk bt.seg
  let room := minOpt (e.limitRoom p bt slot m ph) (bt.bestRoom (bt.candidates ph))
  let asked := if w = 0 then natural else min w natural
  let n := min asked room
  if n = 0 ∨ bt.candidates ph = [] then (⟨0, 0x01, false⟩, bt, e)
  else
    let nodes := if ph = phDecode then (e.rtree slot).take (n - 1) else []
    let pos0 := e.rpos0 slot
    let last := if ph = phDecode then pos0 + nodes.foldl (fun d t => max d t.depth) 0 else pos0 + n - 1
    let (upto, e) := e.cover b p slot (last + 1)
    let rows := coveredRows ph pos0 n upto nodes
    if rows = 0 then (⟨0, 0x06, false⟩, bt, e)
    else
      let bucket := e.bucket p rows
      let (c, mixed) := bt.place ph rows bucket
      let e := if mixed then e.ev (Reg.weirEvent p) 1 else e
      let run : Run :=
        { slot := slot, handle := e.rhandle slot, phase := ph, model := m, rows := rows, row0 := 0, chan := c, pass := 0,
          version := e.rversion slot, pos0 := pos0, forced := forced, first := !(e.req slot).started,
          last := ph ≠ phDecode && decide (e.rlen slot ≤ pos0 + rows), copy := none,
          nodes := nodes.take (rows - 1), commit := if ph = phDecode then (e.req slot).commit else [],
          src := if ph = phDecode then (e.req slot).lastTok else ((e.rqw slot 3).toNat + 4 * pos0) % 2 ^ 64
          home := slot, dir := 0, vtok := 0, lp := 0 }
      let bt := { bt with
        runs := bt.runs ++ [run]
        reserved := bt.reserved.erase slot
        buckets := if bt.learning && decide (ph = phLearn) && bt.buckets.all (fun x => decide (x.1 ≠ c)) then bt.buckets ++ [(c, bucket)] else bt.buckets }
      let cut := decide (ph = phDecode) && decide (room < asked)
      let e := if cut then e.ev (Reg.specEvent p) 2 else e
      let held := e.eventsOf b slot
      let e := if e.rstate slot = rsPaused then e else e.setRstate slot rsActive
      (⟨rows, 0, cut⟩, bt, e.onReq slot fun r => { r with inBatch := true, early := held, verEv := false, pinEv := none })

/-! ## BOPEN and BADDQ -/

/-- The prefill groups in force at BOPEN (R264). -/
def Eng.prefillGroups (e : Eng) (p : Nat) : Nat :=
  match e.fld (Reg.weirRole p) 31 30 with
  | 1 => e.fld (Reg.weirRoleStatus p) 14 8
  | 2 => min (e.fld (Reg.weirFixed p) 6 0) (e.dispChans p).length
  | _ => 0

/-- The role of each group, channels in increasing order (R264). -/
def Eng.groupRoles (e : Eng) (p : Nat) (learning : Bool) : List (Nat × Nat) :=
  let np := e.prefillGroups p
  let split := !learning && decide (e.fld (Reg.weirRole p) 31 30 ≠ 0)
  (e.dispChans p).zipIdx.map fun x => (x.1, if split then if x.2 < np then 1 else 2 else 0)

/-- Open a batch (R133, R264): the limits of R265 are captured (R289), and each request of the aged queue has a row reserved,
up to TB rows (R272). (DEDUCED, assumption log 42) -/
def Eng.bopen (p c : Nat) (learning : Bool) (e : Eng) : Eng :=
  let bt : Batch :=
    { learning := learning, owner := c, roles := e.groupRoles p learning, tb := e.fld (Reg.weirBudget p) 14 0,
      chunk := e.fld (Reg.weirChunk p) 14 0, seg := e.fld (Reg.weirSegment p) 14 0, gcap := e.fld (Reg.weirGcap p) 14 0,
      mixLearn := e.fld (Reg.weirMix p) 14 0, mixGen := e.fld (Reg.weirMix p) 30 16, buckets := [],
      reserved := (e.part p).aged.take (e.fld (Reg.weirBudget p) 14 0), runs := [],
      caps := (List.range 8).map fun m => e.fld (Reg.admRowCap p m) 17 0 }
  e.onPart p fun q => { q with batch := some bt }

/-- Raise BATCH with a state code (R137). (DEDUCED, assumption log 16) -/
def Eng.raiseBatch (b : BeatUnit) (i : Ins) (operand code : Nat) (e : Eng) : Eng := e.raise b i fkBatch operand code

/-- BOPEN of either kind. -/
def Eng.bopenIns (b : BeatUnit) (i : Ins) (learning : Bool) (e : Eng) : Eng :=
  if (e.part i.p).batch.isSome then e.raiseBatch b i 0 0x02 else (e.bopen i.p i.c learning).fin b i

/-- BOPEN generation (R133). -/
def execBopenGen (i : Ins) (s : State) : Host.Outcome State Fault Refusal :=
  runIns (.bopenGen i) ⟨0x28, 0x00, .unused, .unused, .unused, 0⟩ i none (fun b e => e.bopenIns b i false) s

/-- BOPEN learning (R133). -/
def execBopenLearn (i : Ins) (s : State) : Host.Outcome State Fault Refusal :=
  runIns (.bopenLearn i) ⟨0x28, 0x01, .unused, .unused, .unused, 0⟩ i none (fun b e => e.bopenIns b i true) s

/-- The open batch as its owner sees it, or the BATCH code that R137 gives. -/
def Eng.ownBatch (e : Eng) (i : Ins) : Batch ⊕ Nat :=
  match (e.part i.p).batch with
  | none => .inr 0x01
  | some bt => if bt.owner = i.c then .inl bt else .inr 0x03

/-- The reason for which BADDQ refuses a live request before the grant (R266). (DEDUCED, assumption log 46) -/
def Eng.refusal (e : Eng) (slot : Nat) : Option Nat :=
  let r := e.req slot
  if e.rstate slot = rsReprefill ∨ e.hardDue slot = true ∨ (e.rlearn slot ∧ e.rpromptLen slot ≤ e.rprefilled slot) then some 0x05
  else if r.cancel then some 0x03
  else if e.rstate slot = rsPaused then some 0x04
  else if r.inStep.isSome ∨ r.inBatch then some 0x02
  else none

/-- BADDQ: offer a request to the open batch (R134, R266). (DEDUCED, assumption log 46) -/
def execBaddq (i : Ins) (s : State) : Host.Outcome State Fault Refusal :=
  runIns (.baddq i) ⟨0x29, 0x00, .s, .s, .s, 0⟩ i none (fun b e =>
    let h := (e.sa i).toNat % 2 ^ 32
    match e.slotOf i.p h with
    | none => e.raise b i fkRequest 2 h
    | some slot =>
      match e.ownBatch i with
      | .inr code => e.raiseBatch b i 0 code
      | .inl bt =>
        match e.refusal slot with
        | some r => e.finS b i (BitVec.ofNat 64 (r * 2 ^ 32))
        | none =>
          let (g, bt, e) := e.grant b i.p slot (e.sb i).toNat false bt
          let e := e.onPart i.p fun q => { q with batch := some bt }
          let e := if g.reason = 0x01 then e.bump (Reg.weirRefused i.p) 15 0
            else if g.reason = 0x06 then
              ((e.bump (Reg.weirRefused i.p) 31 16).bump (Reg.pageShortCount i.p) 31 0).ev (Reg.pageEvent i.p) 0
            else e
          e.finS b i (BitVec.ofNat 64 (g.reason * 2 ^ 32 + g.rows))) s

/-! ## BSEAL (R270 to R275, R278) -/

/-- Force the reserved requests that the program has not added, in aged-queue order, whatever has come of them since but a
HARD deadline (R273, R305). (DEDUCED, assumption logs 42, 43) -/
def Eng.force (b : BeatUnit) (p : Nat) : List Nat → Batch → Eng → Batch × Eng
  | [], bt, e => (bt, e)
  | s :: r, bt, e =>
    if bt.reserved.contains s && !e.hardDue s && (e.req s).inStep.isNone && !(e.req s).inBatch then
      let (g, bt, e) := e.grant b p s 0 true bt
      let e := if g.reason = 0 then e.bumpWrap (Reg.weirForced p) 31 0
        else if g.reason = 0x06 then e.ev (Reg.weirEvent p) 3 else e
      Eng.force b p r bt e
    else Eng.force b p r bt e

/-- Number the rows in the order of the grants and assign the passes (R270, R278). -/
def layRuns (bytesOf : Nat → Nat) (two : Bool) : Nat → Nat → Bool → List Run → List Run
  | _, _, _, [] => []
  | row, used, second, r :: rest =>
    let used := used + r.rows * bytesOf r.model
    let second := second || (two && decide (16777216 < used))
    { r with row0 := row, pass := if second then 1 else 0 } :: layRuns bytesOf two (row + r.rows) used second rest

/-- Ages after a seal (R271, R272, R274): slots in increasing order. -/
def Eng.age (p : Nat) (bt : Batch) (ran : List Nat) (e : Eng) : Eng :=
  let force := max 1 (e.fld (Reg.weirAge p) 5 0)
  let slots := sortBy (fun a c => decide (a < c)) (e.liveSlots p)
  let e := e.onPart p fun q => { q with aged := q.aged.filter fun s => !ran.contains s }
  slots.foldl (init := e) fun e s =>
    if ran.contains s then e.onReq s fun r => { r with age := 0 }
    else if e.eligible s && bt.allows (e.rphase s) then
      let n := min 255 ((e.req s).age + 1)
      let e := e.onReq s fun r => { r with age := n }
      let e := if n = 64 then e.ev (Reg.weirEvent p) 4 else e
      if force ≤ n ∧ (e.part p).aged.contains s = false then e.onPart p fun q => { q with aged := q.aged ++ [s] } else e
    else e

/-- Bind a run to its step as it is sealed: the version (R289), the copy directive (R243), FIRST, the page list that its
descriptor names (R283), and the sampler words (R221). -/
def Eng.bindRun (p num : Nat) (r : Run) (e : Eng) : Run × Eng :=
  let q := e.req r.slot
  let run := { r with
    version := e.rversion r.slot, first := !q.started, copy := if q.started then none else q.copyDir
    dir := q.blocks.headD 0, vtok := q.vtok, lp := e.rlp r.slot }
  let e := if run.copy.isSome then e.bumpWrap (Reg.pageCopies p) 31 0 else e
  (run, e.onReq r.slot fun x => { x with
    inBatch := false, inStep := some num, started := true, measured := 0
    copyDir := if run.copy.isSome then none else x.copyDir
    copyStep := if run.copy.isSome then some num else x.copyStep })

/-- Bind every run. -/
def Eng.bindRuns (p num : Nat) : List Run → Eng → List Run × Eng
  | [], e => ([], e)
  | r :: rest, e =>
    let (r, e) := e.bindRun p num r
    let (rest, e) := Eng.bindRuns p num rest e
    (r :: rest, e)

/-- Show the seal backlog (R291). -/
def Eng.showBacklog (e : Eng) : Eng :=
  let n := e.seals.length
  (e.setF Reg.weirSealBacklog 15 0 n).setF Reg.weirSealBacklog 31 16 (max n (e.fld Reg.weirSealBacklog 31 16))

/-- The idle boundary that is due when a step is sealed with none in flight stays due (R18, R519): for an event of a request
that the step does not hold, for one that came before its batch, or for a switch of banks. -/
def Eng.keepIdle (b : BeatUnit) (p : Nat) (e : Eng) : Eng :=
  if (e.part p).steps ≠ [] then e
  else
    let due := fun s => if (e.req s).inStep.isNone && !(e.req s).inBatch then e.eventsOf b s else (e.req s).early
    let idle := e.bankSwitch.contains p || (e.liveSlots p).any fun s => decide (due s ≠ Events.none)
    e.onPart p fun q => { q with idleDue := idle }

/-- Seal a batch: its step number, its rows, passes and groups, the ages and the counters. (DEDUCED, assumption logs 43, 57)
-/
def Eng.seal (b : BeatUnit) (p : Nat) (bt : Batch) (e : Eng) : Nat × Eng :=
  let num := (e.part p).nextStep
  let e := e.keepIdle b p
  let bytes := bt.runs.foldl (fun n r => n + r.rows * e.rowBytes p r.model) 0
  let two := decide (16777216 < bytes)
  let (runs, e) := e.bindRuns p num (layRuns (e.rowBytes p) two 0 0 false bt.runs)
  let rows := runs.foldl (fun n r => n + r.rows) 0
  let grps := (bt.roles.map fun x =>
    let rs := runs.filter fun r => decide (r.chan = x.1)
    ({ chan := x.1, role := x.2, runs := rs.length, rows := rs.foldl (fun n r => n + r.rows) 0, done := false,
       opened := false, errs := 0 } : StepGrp)).filter fun g => decide (0 < g.runs)
  let st : Step :=
    { num := num, learning := bt.learning, runs := runs, groups := grps, passes := if two then 2 else 1, sealedAt := b.stamp,
      proc := false, issued := false, issuer := none, queued := false, program := e.bit (Reg.smpCtrl p) 0,
      logp := e.fld (Reg.smpCtrl p) 3 2, hid := [], granted := [], released := [], grouped := false,
      doneOps := [], drafts := [], learn := [], badLearn := [], learnRead := [], recs := [], lateAt := none, batched := false,
      lists := [], params := runs.foldl (fun m r => kset (0, 0, 0) m r.slot (e.rqw r.slot 13, e.rqw r.slot 14, e.rqw r.slot 15)) [],
      sampled := [], anchors := [], accepted := [], ueRows := [] }
  let e := e.age p bt (runs.map fun r => r.slot)
  let e := if two then e.ev (Reg.weirEvent p) 2 else e
  let e := runs.foldl (fun e r => e.bumpWrap (Reg.specDrafted p) 31 0 r.nodes.length) e
  let kind := (e.part p).lastKind
  let e := if !bt.learning && kind != some false then e.phase b p 0x01 0 num
    else if bt.learning && kind == some false then e.phase b p 0x02 0 num else e
  let e := ((e.bumpWrap (Reg.weirSealed p) 31 0).bumpWrap (Reg.weirRows p) 31 0 rows).setPair (Reg.weirLastStepLo p) (Reg.weirLastStepHi p) num
  let e := e.onPart p fun q =>
    { q with batch := none, steps := q.steps ++ [st], nextStep := (num + 1) % 2 ^ 48, lastKind := some bt.learning }
  (num, { e with seals := e.seals ++ [(p, num)] }.showBacklog)

/-- BSEAL: seal, defer or discard the open batch (R135, R275). (DEDUCED, assumption log 43) -/
def execBseal (i : Ins) (s : State) : Host.Outcome State Fault Refusal :=
  runIns (.bseal i) ⟨0x2A, 0x00, .s, .unused, .unused, 0⟩ i none (fun b e =>
    match e.ownBatch i with
    | .inr code => e.raiseBatch b i 0 code
    | .inl bt =>
      if 2 ≤ (e.part i.p).steps.length then e.finS b i (BitVec.ofNat 64 (2 ^ 56))
      else
        let reserved := bt.reserved
        let (bt, e) := e.force b i.p (e.part i.p).aged bt
        if bt.runs = [] ∧ (e.part i.p).aged = [] ∧ reserved = [] then (e.discardBatch i.p).finS b i (BitVec.ofNat 64 (2 * 2 ^ 56))
        else
          let (num, e) := e.seal b i.p bt
          e.finS b i (BitVec.ofNat 64 num)) s

/-! ## Dispatch descriptors (R280 to R284) -/

/-- A descriptor: common header, body and CRC (R281). -/
def descriptor (type p chan num seq : Nat) (body : List Byte) : List Byte :=
  withCrc (([BitVec.ofNat 8 type, BitVec.ofNat 8 p, BitVec.ofNat 8 chan, 0] ++ leBytes 6 num ++ leBytes 2 seq) ++ padTo 48 body)

/-- The body of STEP_OPEN (R282). -/
def Step.openBody (st : Step) (g : StepGrp) : List Byte :=
  [if st.learning then 1 else 0, BitVec.ofNat 8 g.role, BitVec.ofNat 8 st.passes, 0] ++ leBytes 4 g.runs ++
    leBytes 4 g.rows ++ leBytes 4 st.rows ++ leBytes 4 0 ++ leBytes 8 st.sealedAt

/-- A run carries TREE (R380). -/
def Run.tree (r : Run) : Bool := decide (r.phase = phDecode) && (decide (r.nodes ≠ []) || decide (r.commit ≠ []))

/-- The address of a request's candidate block (R380). -/
def Eng.candAddr (e : Eng) (p slot : Nat) : Nat :=
  e.pair (Reg.specCandBaseLo p) (Reg.specCandBaseHi p) + (slot - e.rqtBase p) * 1024

/-- The body of RUN (R283). -/
def Eng.runBody (e : Eng) (p : Nat) (r : Run) : List Byte :=
  let bit := fun (c : Bool) (n : Nat) => if c then 2 ^ n else 0
  let flags := bit (decide (r.phase = phPrefill) && r.last) 0 + bit r.last 1 + bit r.first 2 + bit r.copy.isSome 3 +
    bit r.forced 4 + bit (decide (r.pass = 1)) 5 + bit r.tree 6
  let aux := match r.copy with
    | some (src, dst, n) => src % 2 ^ 24 + dst % 2 ^ 24 * 2 ^ 24 + n % 2 ^ 7 * 2 ^ 48
    | none => if r.tree then e.candAddr p r.home else 0
  [BitVec.ofNat 8 r.phase, BitVec.ofNat 8 flags, BitVec.ofNat 8 r.model, BitVec.ofNat 8 r.lp] ++
    leBytes 4 r.handle ++ leBytes 4 r.row0 ++ leBytes 2 r.rows ++ leBytes 2 r.version ++ leBytes 4 r.pos0 ++
    leBytes 4 r.dir ++ leBytes 2 r.vtok ++ [0, 0] ++ leBytes 8 r.src ++ leBytes 8 aux

/-- The descriptors of a step on one channel: STEP_OPEN, the RUNs in row order, STEP_CLOSE (R280). (DEDUCED, assumption log 50) -/
def Eng.stepDescs (e : Eng) (p : Nat) (st : Step) (g : StepGrp) : List (List Byte) :=
  let rs := st.runs.filter fun r => decide (r.chan = g.chan)
  [descriptor 1 p g.chan st.num 0 (st.openBody g)] ++
    (rs.zipIdx.map fun x => descriptor 2 p g.chan st.num (x.2 + 1) (e.runBody p x.1)) ++
    [descriptor 3 p g.chan st.num (rs.length + 1) (leBytes 4 g.runs ++ leBytes 4 g.rows)]





/-- Change the group of a channel in a step. -/
def Step.onGrp (c : Nat) (f : StepGrp → StepGrp) (s : Step) : Step :=
  { s with groups := s.groups.map fun g => if g.chan = c then f g else g }

/-- Hand a step's descriptors to a channel (R280). -/
def Eng.queueGroup (p : Nat) (st : Step) (g : StepGrp) (e : Eng) : Eng :=
  { e with kdlq := kmod [] e.kdlq g.chan fun l => l ++ (e.stepDescs p st g).map fun d => KdlOut.mk p st.num d }

/-- Send what a channel's credits allow (R539): the last credit is kept for ABANDON. -/
def Eng.kdlSend (c : Nat) : List KdlOut → Eng → List KdlOut × Eng
  | [], e => ([], e)
  | d :: r, e =>
    let ph := e.phys c
    let k := e.chan ph
    let type := (d.bytes.headD 0).toNat
    if k.up && !k.failed && (decide (2 ≤ k.credits) || (decide (type = 4) && decide (1 ≤ k.credits))) then
      let e := { e with chans := kmod Chan.down e.chans ph (fun k => { k with credits := k.credits - 1 }), out := e.out ++ [.kdl ph d.bytes] }
      let e := if type = 1 then e.onStep d.part d.step (fun s => s.onGrp c fun g => { g with opened := true }) else e
      Eng.kdlSend c r e
    else (d :: r, e)

/-- A step's descriptors have all been accepted. -/
def Eng.allSent (e : Eng) (p num : Nat) : Bool :=
  e.kdlq.all fun x => x.2.all fun d => !(decide (d.part = p) && decide (d.step = num))

/-- BISSUE completes with the last descriptor (R136). -/
def Eng.issueDone (b : BeatUnit) (e : Eng) : Eng :=
  (List.range 32).foldl (init := e) fun e p =>
    (e.part p).steps.foldl (init := e) fun e s =>
      match s.issuer with
      | some c =>
        if s.queued && e.allSent p s.num then
          let e := e.onStep p s.num fun s => { s with issuer := none }
          if (e.ctx p c).pend = some .issue then e.finish b p c id else e
        else e
      | none => e

/-- Send on every channel, in increasing order, and complete what waits for it. (DESIGN CHOICE, assumption log 22) -/
def Eng.kdlPump (b : BeatUnit) (e : Eng) : Eng :=
  ((List.range 64).foldl (init := e) fun e c =>
    match kget [] e.kdlq c with
    | [] => e
    | l => let (r, e) := Eng.kdlSend c l e; { e with kdlq := kset [] e.kdlq c r }).issueDone b

/-- A step that is issued and processed hands its descriptors to its channels (R136, R279). (DEDUCED, assumption log 50) -/
def Eng.issueStep (b : BeatUnit) (p num : Nat) (e : Eng) : Eng :=
  match e.stepOf p num with
  | none => e
  | some st =>
    if st.issued && st.proc && !st.queued then
      ((st.groups.foldl (fun e g => e.queueGroup p st g) e).onStep p num fun s => { s with queued := true }).kdlPump b
    else e

/-- BISSUE: send a sealed step's dispatch descriptors (R136). -/
def execBissue (i : Ins) (s : State) : Host.Outcome State Fault Refusal :=
  runIns (.bissue i) ⟨0x2B, 0x00, .unused, .s, .unused, 0⟩ i none (fun b e =>
    let num := (e.sa i).toNat
    match e.stepOf i.p num with
    | none => e.raiseBatch b i 2 0x04
    | some st =>
      if st.issued then e.raiseBatch b i 2 0x05
      else
        let e := e.onStep i.p num fun s => { s with issued := true, issuer := some i.c }
        ((e.onCtx i.p i.c fun x => { x with pend := some .issue }).issueStep b i.p num).boundary b i.p i.c) s

/-! ## Role balance (R276, R277) -/

/-- NP after an update, before its bounds (R277). (DEDUCED, assumption log 45) -/
def stepNp (f g np hyst lo hi : Nat) (dwelt : Bool) : Nat :=
  let t : Int := f * g
  let h : Int := hyst * 256
  let n : Int := np * 65536
  if !dwelt then np
  else if t ≥ n + 32768 + h ∧ np < hi then np + 1
  else if t ≤ n - 32768 - h ∧ lo < np then np - 1
  else np

/-- ROLE_UPDATE: the prefill share and NP at tick 0 of a beat, or at the jump into it (R26), in SPLIT mode (R276, R277).
(DEDUCED, assumption log 45) -/
def execRoleUpdate (p : Fin 32) (s : State) : Host.Outcome State Fault Refusal :=
  .next <| s.onEng fun b e =>
    let p := p.val
    if decide (e.pstate p = psDisabled) || !b.newBeat || decide (e.fld (Reg.weirRole p) 31 30 ≠ 1) ||
        decide (b.beat < (e.part p).roleAt) then e
    else
      let chunk := e.fld (Reg.weirChunk p) 14 0
      let el := (e.liveSlots p).filter fun s => e.eligible s
      let lp := (el.filter fun s => decide (e.rphase s = phPrefill)).foldl (fun n s => n + e.natural s chunk 0) 0
      let ld := (el.filter fun s => decide (e.rphase s = phDecode)).foldl (fun n s => n + e.natural s chunk 0) 0
      let g := (e.dispChans p).length
      let r := e.rd (Reg.weirRole p) |>.toNat
      let old := e.fld (Reg.weirRoleStatus p) 31 16
      let f := if lp + ld = 0 then old
        else (((old : Int) + (((65536 * lp / (lp + ld) : Nat) : Int) - old).fdiv 8).toNat) % 65536
      let np := e.fld (Reg.weirRoleStatus p) 14 8
      let lo := bitsOf r 6 0
      let hi := g - bitsOf r 14 8
      let dwelt := decide ((e.part p).roleBeat + max 16 (e.fld (Reg.weirDwell p) 15 0) ≤ b.beat)
      let np' := if np < lo ∨ hi < np then min (max np lo) hi else stepNp f g np (bitsOf r 23 16) lo hi dwelt
      let e := (e.setF (Reg.weirRoleStatus p) 31 16 f).setF (Reg.weirRoleStatus p) 14 8 np'
      let e := if np' = np then e else e.ev (Reg.weirEvent p) 0
      e.onPart p fun q => { q with roleAt := b.beat + 1, roleBeat := if np' = np then q.roleBeat else b.beat }

/-- ENABLE and a partition reset restart the role balance (R277). (DEDUCED, assumption log 45) -/
def Eng.roleRestart (b : BeatUnit) (p : Nat) (e : Eng) : Eng :=
  let e := (e.setF (Reg.weirRoleStatus p) 31 16 0).setF (Reg.weirRoleStatus p) 14 8 (e.fld (Reg.weirRole p) 6 0)
  e.onPart p fun q => { q with roleBeat := b.beat }

end Sys2Proof.Machine
end

