-- ==== Sys2Proof/Machine/Admission.lean ====
section
/-! DEFINITION. Admission (spec/08): the submission ring, the descriptor's checks, the capacity planner and commit, cancellation, the ledger window, the plans, and Basin's learned-prefix and flush commands (spec/09). -/

namespace Sys2Proof.Machine

open Sys2Proof

/-! ## The submission ring (R199 to R203) -/

abbrev doorSqTail : Nat := 0x0
abbrev doorSqHead : Nat := 0x4
abbrev doorCancel : Nat := 0x8

/-- SQ_TAIL: announce descriptors (R199). -/
def execSqTail (p : Fin 32) (v : Word) (s : State) : Host.Outcome State Fault Refusal :=
  doorWrite p.val doorSqTail [psRunning] (fun _ e =>
    let p := p.val
    let head := e.fld (door p doorSqHead) 31 0
    let now := (e.fld (door p doorSqTail) 31 0 + 2 ^ 32 - head) % 2 ^ 32
    let new := (v.toNat + 2 ^ 32 - head) % 2 ^ 32
    if 2 ^ e.fld (Reg.admSqSize p) 4 0 < new then (e.dbDrop p).ev (Reg.admEvent p) 2
    else if new < now then e.dbDrop p
    else e.wr (door p doorSqTail) v) s

/-- CANCEL: a handle written to the doorbell page (R222). -/
def execCancel (p : Fin 32) (h : Word) (s : State) : Host.Outcome State Fault Refusal :=
  doorWrite p.val doorCancel [psRunning] (fun _ e =>
    let p := p.val
    if bitsOf h.toNat 31 27 ≠ p then e.dbDrop p
    else match e.slotOf p h.toNat with
      | none => (e.bump (Reg.admStaleCount p) 31 0).ev (Reg.admEvent p) 1
      | some n =>
        if (e.req n).cancel then e
        else (e.bumpWrap (Reg.admCancelCount p) 31 0).onReq n fun r => { r with cancel := true }) s

/-! ## Validation (R204, R208) -/

/-- The version that VERSION_REQ selects, if it is resident (R208, R217). (DEDUCED, assumption log 64) -/
def Eng.versionFor (e : Eng) (p v : Nat) : Option Nat :=
  if v = 0xFFFF then e.newest p else if e.resident p v then some v else none

/-- SPEC obeys the profile (R208). -/
def Eng.specGood (e : Eng) (p m spec : Nat) : Bool :=
  let heads := bitsOf spec 3 0
  let nodes := bitsOf spec 10 4
  decide (heads ≤ e.fld (Reg.admModelCfg p m) 27 24) && decide (nodes ≤ 64) && (decide (heads ≠ 0) || decide (nodes = 0))

/-- The checks of R208 in order: the offset each reports, whether it fails, and its status. -/
def Eng.descChecks (b : BeatUnit) (p : Nat) (l : List Byte) (e : Eng) : List (Nat × Bool × Nat) :=
  let f := fieldAt l
  let res := fun (o lo : Nat) => (o, decide (2 ^ lo ≤ f o 1), stDescriptor)
  let learn := decide (f 0 1 = 2)
  let m := f 3 1 % 8
  let d := f 0x20 7
  [(0x00, !(decide (f 0 1 = 1) || learn), stDescriptor), res 0x01 5, res 0x02 2,
   (0x03, !e.bit (Reg.admModelCfg p m) 31, stDescriptor), res 0x03 3,
   (0x04, decide (e.ledSize p ≤ f 4 2), stDescriptor),
   (0x06, (e.versionFor p (f 6 2)).isNone, stVersion),
   (0x10, decide (f 0x10 8 = 0) || decide (f 0x10 8 % 4 ≠ 0), stDescriptor),
   (0x18, decide (f 0x18 4 = 0), stDescriptor),
   (0x1C, if learn then decide (f 0x1C 4 ≠ 0) else decide (f 0x1C 4 = 0), stDescriptor),
   (0x1C, decide (e.fld (Reg.admModelCtx p m) 20 0 < f 0x18 4 + f 0x1C 4), stLength),
   (0x20, decide (d ≠ 0) && decide (d ≤ b.time % 2 ^ 56), stDeadline), res 0x27 0,
   res 0x4A 5, res 0x4B 0,
   (0x54, decide (bitsOf (f 0x54 2) 15 15 = 1) && !e.gramResident p (bitsOf (f 0x54 2) 9 0), stDescriptor),
   (0x55, decide (bitsOf (f 0x54 2) 14 10 ≠ 0), stDescriptor), res 0x56 0, res 0x57 0,
   (0x58, decide (bitsOf (f 0x58 4) 16 16 = 1) && !e.lpExists p m (f 0x58 2), stDescriptor), res 0x5A 1, res 0x5B 0,
   res 0x5E 5, res 0x5F 0,
   (0x60, decide (f 0x60 8 % 64 ≠ 0), stDescriptor),
   (0x68, if learn then decide (f 0x68 8 = 0) || decide (f 0x68 8 % 64 ≠ 0) else decide (f 0x68 8 ≠ 0), stDescriptor),
   (0x70, !e.specGood p m (f 0x70 4), stDescriptor), res 0x71 3, res 0x72 0, res 0x73 0,
   res 0x74 0, res 0x75 0, res 0x76 0, res 0x77 0, res 0x78 0, res 0x79 0, res 0x7A 0, res 0x7B 0]

/-! ## The capacity planner (R215, R216) -/

/-- The live requests of a profile. -/
def Eng.liveOf (e : Eng) (p m : Nat) : List Nat := (e.liveSlots p).filter fun s => decide (e.rmodel s = m)

/-- ROW_CAP of a profile under a step token budget (R216). -/
def Eng.rowCap (e : Eng) (p m tb : Nat) : Nat :=
  if e.bit (Reg.admModelCfg p m) 31 then min tb (2 * (16777216 / e.rowBytes p m)) else 0

/-- Plan a profile (R216). -/
def Eng.planModel (p m : Nat) (e : Eng) : Eng :=
  if !e.bit (Reg.admModelCfg p m) 31 then (e.wr (Reg.admPlan p m) 0).wr (Reg.admRowCap p m) 0
  else
    let s := 16777216 / e.rowBytes p m
    let tb := e.fld (Reg.weirBudget p) 14 0
    let live := e.fld (Reg.admModelLive p m) 17 0
    let full := if live = 0 then e.rqtSize p else live
    let (plan, conc) := if tb ≤ s then (0, full) else if tb ≤ 2 * s then (1, min s full) else (2, min s full)
    ((e.setF (Reg.admPlan p m) 31 30 plan).setF (Reg.admPlan p m) 17 0 conc).setF (Reg.admRowCap p m) 17 0 (e.rowCap p m tb)

/-- The row cap of a profile that has just been written, in the partition's open batch: a profile's change reaches it at once, a
new budget not before the next BOPEN (R216, R265, R289). -/
def Eng.recap (p m : Nat) (e : Eng) : Eng :=
  e.onPart p fun q => { q with batch := q.batch.map fun bt => { bt with caps := bt.caps.set m (e.rowCap p m bt.tb) } }

/-- The slot at the head of a partition's free list (R217, R220), with the engine after it is taken. -/
def Eng.takeSlot (p : Nat) (e : Eng) : Option Nat × Eng :=
  let q := e.part p
  if q.freeFrom < e.rqtSize p then (some (e.rqtBase p + q.freeFrom), e.onPart p fun q => { q with freeFrom := q.freeFrom + 1 })
  else match q.freed with
    | n :: r => (some n, e.onPart p fun q => { q with freed := r })
    | [] => (none, e)

/-- What the planner has worked out for a descriptor: the match, the version, the pages and blocks it needs. -/
structure Plan where
  version : Nat
  lp : Option Nat
  hit : Match
  total : Nat
  deriving DecidableEq, Repr

/-- The pages of a learned prefix. -/
def Eng.lpPagesOf (e : Eng) (lp : Option Nat) : List Nat :=
  match lp with
  | some id => kget [] e.lpPages id
  | none => []

/-- The planner's checks (R215): the plan, or the DETAIL of the first that fails. (DEDUCED, assumption logs 64, 105) -/
def Eng.planDesc (b : BeatUnit) (p : Nat) (l : List Byte) (e : Eng) : (Plan ⊕ Nat) × Eng :=
  let f := fieldAt l
  let m := f 3 1 % 8
  let v := (e.versionFor p (f 6 2)).getD 0
  let lp := if bitsOf (f 0x58 4) 16 16 = 1 then some (f 0x58 2) else none
  let lpBad := match lp with
    | some id => !e.lpResident p v id
    | none => false
  if lpBad then (.inr 0x01, e)
  else
    let (hit, e) := e.matchPrompt b p m (level1Key v lp) (f 0x10 8) (f 0x18 4)
    let e := e.touch b p hit.passed
    let pt := e.pageTok p
    let g := min (e.fld (Reg.admReserve p) 23 0) (f 0x1C 4)
    let own := ceilDiv (f 0x18 4 + g) pt
    let need := own - hit.shared.length
    let kept := hit.shared ++ hit.copy.toList
    let grant := e.freeCount p + ((e.cachedPages p).filter fun x => !kept.contains x).length
    let entries := (e.lpPagesOf lp).length + own
    if e.blocksLeft p < 1 + max 1 (ceilDiv entries 1024) then (.inr 0x02, e.ev (Reg.pageEvent p) 3)
    else if grant < need then (.inr 0x02, e)
    else if e.rqtSize p ≤ (e.part p).freeFrom ∧ (e.part p).freed = [] then (.inr 0x03, e)
    else if e.fld (Reg.admPlan p m) 17 0 < (e.liveOf p m).length + 1 then (.inr 0x04, e)
    else if (f 2 1).testBit 0 ∧ e.tringFree p = false then (.inr 0x05, e)
    else (.inl ⟨v, lp, hit, own⟩, e)

/-! ## Commit (R217, R242, R258) -/

/-- A request takes a reference on a page of the tree: the page is no longer CACHED, and its node no longer evictable. -/
def Eng.holdTree (b : BeatUnit) (p g : Nat) (e : Eng) : Eng :=
  let e := e.holdPage b g
  match e.nodes.find? fun x => decide (x.2.page = some g) with
  | some (n, _) => e.lruDrop b p n
  | none => e

/-- Take the directory of a request's page list and append the learned prefix's pages (R238, R258). -/
def Eng.startList (b : BeatUnit) (p slot : Nat) (lp : Option Nat) (e : Eng) : Eng :=
  let (d, e) := e.allocBlock p
  let e := e.onReq slot fun r => { r with blocks := d.toList, pages := [], vtok := (lp.map fun id => e.lpTokens id).getD 0 }
  let gs := e.lpPagesOf lp
  let fill := (lp.map fun id => e.lpTokens id % e.pageTok p).getD 0
  let e := gs.foldl (fun e g => e.holdPage b g) e
  let e := gs.zipIdx.foldl (init := e) fun e x =>
    (e.listAdd b p slot x.1 (2 ^ 31 + if x.2 + 1 = gs.length then fill * 2 ^ 24 else 0)).2
  e.showList slot gs.length 0

/-- The penalty area of a request (R360). -/
def Eng.penAddr (e : Eng) (p slot : Nat) : Nat :=
  e.pair (Reg.smpPenBaseLo p) (Reg.smpPenBaseHi p) + (slot - e.rqtBase p) * 16384
/-- The partition keeps penalty sets (R360). -/
def Eng.penOn (e : Eng) (p : Nat) : Bool := decide (e.pair (Reg.smpPenBaseLo p) (Reg.smpPenBaseHi p) ≠ 0)

/-- Write the request-table entry of a descriptor (R204, R221). -/
def Eng.writeEntry (b : BeatUnit) (slot h version : Nat) (lp : Option Nat) (mtok raise_ : Nat) (l : List Byte) (e : Eng) : Eng :=
  let f := fieldAt l
  let word := fun (e : Eng) (x : Nat × Nat) => e.setRqw slot x.1 (BitVec.ofNat 64 x.2)
  let w1 := version * 2 ^ 48 + f 4 2 * 2 ^ 32 + f 3 1 % 8 + match lp with
    | some id => id * 2 ^ 16 + 2 ^ 15
    | none => 0
  [(0, h * 2 ^ 32 + rsWaiting * 2 ^ 24 + f 1 1 * 2 ^ 8 + f 2 1), (1, w1), (2, f 8 8), (3, f 0x10 8),
   (4, f 0x18 4 * 2 ^ 32 + f 0x1C 4), (5, mtok * 2 ^ 32), (6, (if (f 2 1).testBit 1 then 2 ^ 63 else 0) + f 0x20 7),
   (7, f 0x28 4 * 2 ^ 32 + f 0x2C 4), (8, b.stamp), (9, 0), (10, 0), (11, f 0x30 8), (12, f 0x38 8),
   (13, f 0x40 4 * 2 ^ 32 + f 0x44 4), (14, f 0x48 4 * 2 ^ 32 + f 0x4C 4), (15, f 0x50 4 * 2 ^ 32 + f 0x5C 4),
   (16, f 0x60 8), (17, f 0x68 8), (18, 0), (19, f 0x54 2 * 2 ^ 48),
   (20, f 0x70 4 % 2 ^ 11 * 2 ^ 53 + f 0x70 4 % 16 * 2 ^ 49 + raise_ * 2 ^ 33), (21, 0), (22, 0), (23, 0)].foldl word e

/-- Commit a request: its slot and the engine with its entry, its pages, its ring and what it starts with (R217). -/
def Eng.commitReq (b : BeatUnit) (p : Nat) (l : List Byte) (plan : Plan) (e : Eng) : Nat × Eng :=
  let f := fieldAt l
  let learn := decide (f 0 1 = 2)
  let (s, e) := e.takeSlot p
  let slot := s.getD 0
  let h := mkHandle p slot (kget 0 e.gens slot).toNat
  let e := e.writeEntry b slot h plan.version plan.lp plan.hit.mtok (e.fld (Reg.specAdapt p) 31 16) l
  let e := e.onReq slot fun _ => { Req.none with live := true, path := plan.hit.path, order := (e.part p).commits, deadlineArmed := decide (f 0x20 7 ≠ 0) }
  let e := e.onPart p fun q => { q with commits := q.commits + 1 }
  let e := plan.hit.shared.foldl (fun e g => e.holdTree b p g) e
  let e := plan.hit.copy.toList.foldl (fun e g => e.holdTree b p g) e
  let e := e.startList b p slot plan.lp
  let lpn := e.rlp slot
  let e := plan.hit.shared.foldl (fun e g => (e.listAdd b p slot g 0).2) e
  let e := e.showList slot lpn plan.hit.shared.length
  let (_, e) := e.grow b p slot (lpn + plan.total) (plan.total - plan.hit.shared.length)
  let dst := ((e.req slot).pages)[lpn + plan.hit.shared.length]?.getD 0
  let e := match plan.hit.copy with
    | some g => e.onReq slot fun r => { r with copySrc := some g, copyDir := some (g, dst, plan.hit.mtok % e.pageTok p) }
    | none => e
  let e := e.bumpWrap (Reg.pageMatched p) 31 0 plan.hit.mtok
  let e : Eng := if (f 2 1).testBit 0 then
      let (n, e) := e.takeTring b p h
      match n with
      | some n => (e.setRqf slot 19 15 8 n).setRqf slot 19 7 7 1
      | none => e
    else e
  let e : Eng := match e.rgram slot with
    | some _ => e.setGram b p slot (e.rgramHdr slot).start []
    | none => e
  let e := if e.penOn p && !learn then e.partStore b p (e.penAddr p slot) (leBytes 4 0) else e
  let e : Eng := if (e.newest p ≠ some plan.version) ∧ (e.policy p slot ≠ 0) then e.onReq slot fun r => { r with verEv := true } else e
  let e := if learn then e else e.armAlert p slot 1 (f 0x28 4) (stampTime b.stamp)
  (slot, e)

/-- A record without a token at a boundary or at commit (R411, R412): the position that the next token would take. -/
def Eng.plainRec (b : BeatUnit) (slot status flags : Nat) (e : Eng) : List Byte :=
  recBody b (e.rhandle slot) (e.rpromptLen slot + e.rgenerated slot) 0xFFFFF 0 (e.rversion slot) status (flags + rfNoToken) 0

/-- A pause takes a request (R308): PAUSED, PAUSES counted, its alert disarmed. -/
def Eng.pauseReq (p slot : Nat) (e : Eng) : Eng :=
  ((((e.setRstate slot rsPaused).setRqf slot 0 23 16 stPaused).bumpRqf slot 21 28 24).disarm p slot).onReq slot fun r =>
    { r with pauseEv := false, pausedSince := true }

/-! ## The admission sequence (R206, R207, R210, R211, R218) -/

/-- An admission record waits for Spout (R202, R427). -/
def Eng.waitRec (b : BeatUnit) (p : Nat) (l : Option (List Byte × Option (Option Nat × List Byte))) (e : Eng) : Eng :=
  e.onPart p fun q => { q with admRec := l, admSince := b.time, admLate := false }

/-- Reject a descriptor: its record waits for Spout (R218). -/
def Eng.rejectDesc (b : BeatUnit) (p idx status detail version : Nat) (e : Eng) : Eng :=
  let (ok, e) := e.formed b p
  let l := recBody b 0 idx detail 0 version status (rfAdmit + rfTerminal) 0
  let e := e.waitRec b p (if ok then some (l, none) else none)
  ((e.bumpWrap (Reg.admRejected p) 31 0).wr (Reg.admLastReject p) (BitVec.ofNat 32 (status * 2 ^ 24 + detail % 2 ^ 20))).ev (Reg.admEvent p) 0

/-- A request whose commit halted its partition leaves the table again: its pages, blocks, ring, slot and generation (R219,
R220). -/
def Eng.uncommit (b : BeatUnit) (p slot : Nat) (e : Eng) : Eng :=
  let ring := e.rring slot
  let e := e.dropPages b p slot
  let e := match ring with
    | some n => e.freeTring n
    | none => e
  ({ e with
      reqs := kdel e.reqs slot
      gens := kmod 0 e.gens slot (· + 1)
      rqt := e.rqt.filter fun x => decide (x.1 / 24 ≠ slot) } : Eng).onPart p fun q => { q with freed := q.freed ++ [slot] }

/-- What an admission charges: the ledger and the amount (R210). -/
structure Charge where
  ledger : Nat
  cost : Nat
  deriving DecidableEq, Repr

/-- Reject a descriptor that was charged: the charge is refunded (R211). -/
def Eng.refundDesc (b : BeatUnit) (p idx status detail version : Nat) (c : Charge) (e : Eng) : Eng :=
  (e.ledgCycle b c.ledger 1 fun e => e.credit c.ledger c.cost).rejectDesc b p idx status detail version

/-- An uncorrectable ECC error in the descriptor (R207), before the rejection that it causes. -/
def Eng.descLost (b : BeatUnit) (p : Nat) (e : Eng) : Eng :=
  ((e.bump Reg.admEccCount 31 16).ev (Reg.admEvent p) 3).engFault b 0x86 (some p) (e.ueDetail 0)

/-- Admit a descriptor that the planner accepts: the commit and its record; a commit that halts the partition ends in the
rejection of R219. -/
def Eng.admitDesc (b : BeatUnit) (p idx : Nat) (l : List Byte) (plan : Plan) (c : Charge) (e : Eng) : Eng :=
  let (slot, e) := e.commitReq b p l plan
  if !e.running p then (e.uncommit b p slot).refundDesc b p idx stTenantFault 0 (fieldAt l 6 2) c
  else
  let aux := match e.rring slot with
    | some n => n + 256
    | none => 0
  let rec_ := recBody b (e.rhandle slot) idx 0 0 plan.version stOk rfAdmit aux
  let (ok, e) := (e.bumpWrap (Reg.admAdmitted p) 31 0).formed b p
  if !ok then e.unformed slot
  else if e.drawActive p ∧ e.drawHits p slot then
    let e := e.pauseReq p slot
    e.waitRec b p (some (rec_, some (e.rring slot, e.plainRec b slot stPaused 0)))
  else e.waitRec b p (some (rec_, none))

/-- Steps 2 to 6 of R206 for a descriptor under ECC; `ue` is the step at which an uncorrectable error is found, if one is
(R207). (DEDUCED, assumption log 64) -/
def Eng.receive (b : BeatUnit) (p idx : Nat) (l : List Byte) (ue : Option Nat) (e : Eng) : Eng :=
  let f := fieldAt l
  let v := f 6 2
  let lost := fun e : Eng => (e.descLost b p).rejectDesc b p idx stEngineFault 0x01 v
  if ue = some 2 then lost e
  else if !crcGood l then e.rejectDesc b p idx stDescriptor 0x7C v
  else if ue = some 3 then lost e
  else match (e.descChecks b p l).find? fun c => c.2.1 with
    | some (o, _, st) => e.rejectDesc b p idx st o v
    | none =>
      let ledger := e.ledBase p + f 4 2
      let cost := f 0x18 4 * (e.ledger ledger).wPrefill
      let desc := l
      if ue = some 4 then lost e
      else
      let (l, e) := e.ledgFirst ledger 5
      if (e.ledger ledger).bal < cost then
        let why := if (e.ledger ledger).cap < cost then 0x02 else 0x01
        (e.ledgRest b ledger l).rejectDesc b p idx stBudget why v
      else
        let e := (e.setLedger ledger { e.ledger ledger with bal := (e.ledger ledger).bal - cost }).ledgRest b ledger l
        let late := fun e : Eng => (e.descLost b p).refundDesc b p idx stEngineFault 0x01 v ⟨ledger, cost⟩
        if ue = some 5 then late e
        else
        let (plan, e) := e.planDesc b p desc
        if !e.running p then e.refundDesc b p idx stTenantFault 0 v ⟨ledger, cost⟩
        else match plan, e with
        | .inr d, e => e.refundDesc b p idx stCapacity d v ⟨ledger, cost⟩
        | .inl plan, e => if ue = some 6 then late e else e.admitDesc b p idx desc plan ⟨ledger, cost⟩

/-- Sluice could take a descriptor of the partition now (R202, R203). (DESIGN CHOICE, assumption log 115) -/
def Eng.admWaits (e : Eng) (p : Nat) : Bool :=
  e.running p && !e.warm && decide (e.fld (door p doorSqTail) 31 0 ≠ e.fld (door p doorSqHead) 31 0) && (e.part p).admRec.isNone

/-- The partition whose turn it is: the first after the last one served that has a descriptor waiting (R203). (DESIGN CHOICE,
assumption log 115) -/
def Eng.admTurn (e : Eng) : Option Nat := ((List.range 32).map fun i => (e.admLast + 1 + i) % 32).find? fun p => e.admWaits p

/-- ADMIT_DESCRIPTOR: the next descriptor of the partition whose turn it is, read whole (R201 to R203, R206, R207). (DESIGN
CHOICE, assumption log 115) -/
def execAdmitDescriptor (p : Fin 32) (ecc : Ecc) (s : State) : Host.Outcome State Fault Refusal :=
  .next <| s.onEng fun b e =>
    let p := p.val
    let head := e.fld (door p doorSqHead) 31 0
    if e.admTurn ≠ some p then e
    else
      let e := { e with admLast := p }
      let log2 := e.fld (Reg.admSqSize p) 4 0
      let a := e.pair (Reg.admSqBaseLo p) (Reg.admSqBaseHi p) + 128 * (head % 2 ^ log2)
      if e.refused (some p) false a 128 then (e.ev (Reg.admEvent p) 4).tenantFault b p 0x20 (leBytes 4 head)
      else
        let l := e.bytes a 128
        let e := e.setF (door p doorSqHead) 31 0 ((head + 1) % 2 ^ 32)
        match ecc with
        | .clean => e.receive b p head l none
        | .corrected => (e.bump Reg.admEccCount 15 0).receive b p head l none
        | .uncorrectable n => e.receive b p head l (some (n.val + 2))

/-- ADMISSION_RECORD_HANDOFF: the waiting admission record enters the completion ring once it has a free slot and no
earlier record waits (R202), and the PAUSED record of R309 follows it. -/
def execAdmissionRecordHandoff (p : Fin 32) (s : State) : Host.Outcome State Fault Refusal :=
  .next <| s.onEng fun b e =>
    let p := p.val
    match (e.part p).admRec with
    | none => e
    | some (l, paused) =>
      if (e.ring p none).queue ≠ [] ∨ e.ringFree p none = false then e
      else
        let e := (e.onPart p fun q => { q with admRec := none }).putRec b p none
          { mkRec b l none none none with since := (e.part p).admSince, late := (e.part p).admLate }
        match paused with
        | some (r, l) => e.putRec b p r (mkRec b l none none none)
        | none => e

/-! ## The ledger window (R209, R226) -/

/-- The ledger that WX_ADM_LEDGER_SEL names. -/
def Eng.ledSel (e : Eng) : Nat := e.fld Reg.admLedgerSel 12 0

/-- LEDGER_BAL_STAGE: stage the low word; no balance changes (R226). -/
def execLedgerBalStage (path : Path) (v : Word) (s : State) : Host.Outcome State Fault Refusal :=
  ctlWrite path Reg.admLedgerBalLo (fun _ e => { e with balStaged := v }) s

/-- LEDGER_BAL_COMMIT: commit the 40-bit balance, clamped to the bounds (R213, R226). -/
def execLedgerBalCommit (path : Path) (v : Word) (s : State) : Host.Outcome State Fault Refusal :=
  ctlWrite path Reg.admLedgerBalHi (fun b e => e.ledgCycle b e.ledSel 4 fun e =>
    e.setLedger e.ledSel ((e.ledger e.ledSel).clamp (signed 40 (v.toNat % 256 * 2 ^ 32 + e.balStaged.toNat)))) s

/-- LEDGER_BOUND_WRITE: CAP or FLOOR changes and the balance is clamped to the new bounds (R209). -/
def execLedgerBoundWrite (path : Path) (floor : Bool) (v : Word) (s : State) : Host.Outcome State Fault Refusal :=
  ctlWrite path (if floor then Reg.admLedgerFloor else Reg.admLedgerCap) (fun _ e =>
    let l := e.ledger e.ledSel
    let l := if floor then { l with floor := v.toNat } else { l with cap := v.toNat }
    e.setLedger e.ledSel (l.clamp l.bal)) s

/-! ## Profiles and budget (R216, R225, R290) -/

/-- Write WX_WEIR_BUDGET: a value outside 1 to 16,384 is ignored and sets CFG_ERR; every plan follows (R216, R290). -/
def Eng.writeBudget (p : Nat) (v : Nat) (e : Eng) : Eng :=
  if v % 2 ^ 15 = 0 ∨ 16384 < v % 2 ^ 15 then e.cfgErr p
  else (List.range 8).foldl (fun e m => e.planModel p m) (e.setF (Reg.weirBudget p) 14 0 v)

/-- Write a register of a model profile (R225): `k` is 0 for CFG, 1 for CTX, 2 for LIVE. An HUNITS above 256, beyond the
range of R224 and the maximum of R23, is refused as an HUNITS of 0 is. (DESIGN CHOICE, assumption log 115) -/
def Eng.writeModel (b : BeatUnit) (p m k : Nat) (v : Nat) (e : Eng) : Eng :=
  let badEn := decide (k = 0) && v.testBit 31 && (decide (5 ≤ bitsOf v 30 28) || decide (bitsOf v 8 0 = 0) || decide (256 < bitsOf v 8 0))
  if e.liveOf p m ≠ [] ∨ badEn = true then e.cfgErr p
  else
    let e := match k with
      | 0 =>
        let e := if e.bit (Reg.admModelCfg p m) 31 && !v.testBit 31 then e.dropProfile b p m else e
        let e := e.wr (Reg.admModelCfg p m) (BitVec.ofNat 32 (v &&& 0xFF0001FF))
        if e.pstate p = psRunning ∨ e.pstate p = psHalted then e.plantRoots b p else e
      | 1 => e.setF (Reg.admModelCtx p m) 20 0 v
      | _ => e.setF (Reg.admModelLive p m) 17 0 v
    (e.planModel p m).recap p m

/-- MODEL_CFG_WRITE: `reg` is 0 for WX_WEIR_BUDGET, and otherwise the offset of a profile register in the partition's
WX_ADM block, 0x40 + 16m for CFG, 4 more for CTX and 8 more for LIVE; no other offset has an effect here. -/
def execModelCfgWrite (path : Path) (p : Fin 32) (reg : BitVec 8) (v : Word) (s : State) : Host.Outcome State Fault Refusal :=
  let r := reg.toNat
  let addr := if r = 0 then Reg.weirBudget p.val else 0x60000 + 0x100 * p.val + r
  ctlWrite path addr (fun b e =>
    if r = 0 then e.writeBudget p.val v.toNat
    else if 0x40 ≤ r ∧ r < 0xC0 ∧ r % 4 = 0 ∧ r % 16 ≠ 12 then e.writeModel b p.val ((r - 0x40) / 16) (r % 16 / 4) v.toNat
    else e) s

/-! ## Basin's commands (R252, R253, R257) -/

/-- Show the number of resident learned prefixes. -/
def Eng.showLps (e : Eng) : Eng := e.setF Reg.pageLpResident 16 0 (e.lps.filter fun x => decide (x.2 = 1)).length

/-- Write WX_PAGE_LP_CMD: ignored while BUSY (R262), else accepted, with the ERR of R257 shown when BUSY falls. -/
def lpWrite (path : Path) (op : Nat) (id : BitVec 16) (s : State) : Host.Outcome State Fault Refusal :=
  ctlWrite path Reg.pageLpCmd (fun _ e =>
    if e.bit Reg.pageLpCmd 31 then e
    else
      let n := id.toNat
      let st := kget 0 e.lps n
      let (ok, gs) := e.lpCheck n
      let err := if st = 2 then 3 else if (op = 1 ∧ st = 1) ∨ (op = 2 ∧ st = 0) then 1 else if op = 1 ∧ ok = false then 2 else 0
      let e := (e.setF Reg.pageLpCmd 31 31 1).setF Reg.pageLpCmd 15 0 n
      let e := if err ≠ 0 then e
        else if op = 1 then { e with lpPages := kset [] e.lpPages n gs }
        else { e with lps := kset 0 e.lps n 2 }.showLps
      { e with lpCmd := some (op, n, err) }) s

/-- LP_LOAD (R257). -/
def execLpLoad (path : Path) (id : BitVec 16) (s : State) : Host.Outcome State Fault Refusal := lpWrite path 1 id s

/-- LP_UNLOAD: the residence mark is cleared at once (R257). -/
def execLpUnload (path : Path) (id : BitVec 16) (s : State) : Host.Outcome State Fault Refusal := lpWrite path 2 id s

/-- LP_CMD_DONE: the command in progress completes; UNLOAD waits until only the table refers to its pages (R257). -/
def execLpCmdDone (s : State) : Host.Outcome State Fault Refusal :=
  .next <| s.onEng fun b e =>
    match e.lpCmd with
    | none => e
    | some (op, id, err) =>
      let gs := kget [] e.lpPages id
      if op = 2 ∧ err = 0 ∧ gs.any (fun g => decide ((e.page g).ref ≠ 1)) = true then e
      else
        let e := { e with lpCmd := none }
        let e := (e.setF Reg.pageLpCmd 31 31 0).setF Reg.pageLpCmd 30 28 err
        if err ≠ 0 then e
        else if op = 1 then
          let e := gs.foldl (fun e g => Eng.holdPage b g e) e
          { e with lps := kset 0 e.lps id 1 }.showLps
        else
          let e := gs.foldl (fun e g => e.setPage b g fun r => { r with ref := r.ref - 1 }) e
          { e with lps := kset 0 e.lps id 0, lpPages := kset [] e.lpPages id [] }.showLps

/-- FLUSH of WX_PAGE_CTRL (R253). -/
def execFlush (path : Path) (p : Fin 32) (s : State) : Host.Outcome State Fault Refusal :=
  ctlWrite path (Reg.pageCtrl p.val) (fun b e => e.flushTrees b p.val) s

/-- BACKGROUND_EVICT: below the watermark, one node is evicted (R252). -/
def execBackgroundEvict (p : Fin 32) (s : State) : Host.Outcome State Fault Refusal :=
  .next <| s.onEng fun b e =>
    if e.freeCount p.val < e.fld (Reg.pageWatermark p.val) 23 0 then (e.evict b p.val).getD e else e

end Sys2Proof.Machine
end

