-- ==== Sys2Proof/Machine/Fail.lean ====
section
/-! DEFINITION. Spares and failed ports (R474, R480 to R482): what the failure of a unit does whatever its kind. -/

namespace Sys2Proof.Machine

open Sys2Proof

/-- Spares left of a kind: its field of WX_INT_SPARES starts at bit `lo`. -/
def Eng.sparesLeft (e : Eng) (lo : Nat) : Nat := e.fld Reg.intSpares (lo + 7) lo

/-- The places of the kinds in WX_INT_SPARES (R489). -/
abbrev spTiles : Nat := 24
abbrev spCores : Nat := 16
abbrev spChannels : Nat := 8
abbrev spSlices : Nat := 0

/-- The physical number of the spare that is taken next: spares follow the `active` units and are taken in increasing physical
number, `built` of them in all (R474). -/
def Eng.nextSpare (e : Eng) (lo active built : Nat) : Nat := active + (built - e.sparesLeft lo)

/-- A spare is taken: one fewer is left, and REMAP is set (R481). -/
def Eng.useSpare (lo : Nat) (e : Eng) : Eng := (e.setF Reg.intSpares (lo + 7) lo (e.sparesLeft lo - 1)).ev Reg.intEvent 4

/-- A failure found no spare of its kind (R482, R485). -/
def Eng.sparesOut (b : BeatUnit) (unit phys logical : Nat) (part : Option Nat) (e : Eng) : Eng :=
  e.engFault b 0x8B part (engDetail unit phys logical 0 0 0 0)

/-- A port is marked failed, with its engine fault (R480). -/
def Eng.markPort (b : BeatUnit) (unit n bit kind : Nat) (e : Eng) : Eng :=
  ((e.ev Reg.glbPortFailed bit).ev Reg.intEvent 4).engFault b kind none (engDetail unit n n 0 0 0 0)

/-- A port fails (R480, R481): its bit of WX_GLB_PORT_FAILED, REMAP, its engine fault, and RECOVER of every partition.
(DESIGN CHOICE, assumption log 102) (DESIGN CHOICE, assumption log 119) -/
def Eng.failPort (b : BeatUnit) (unit n bit kind : Nat) (e : Eng) : Eng :=
  if e.bit Reg.glbPortFailed bit then e else (e.markPort b unit n bit kind).recoverAll b

/-- A hidden-state port fails. -/
def Eng.failHs (b : BeatUnit) (n : Nat) (e : Eng) : Eng := e.failPort b ukHsPort n (8 + n) 0x84

/-! ## Semaphore slices (R473, R479, R482) -/

/-- A semaphore cell whose word is lost (R473). -/
def Eng.cellLost (b : BeatUnit) (n : Nat) (e : Eng) : Eng :=
  let e := (e.onCell n fun c => { c with count := 0, sat := true }).bump Reg.intUeCount 31 0
  (e.ev Reg.intEvent 2).engFault b 0x86 (e.cellOwner n) (e.ueDetail 1)

/-- The partitions in use that own cells of a slice. -/
def Eng.sliceOwners (e : Eng) (slice : Nat) : List Nat :=
  (List.range 32).filter fun p => e.inUse p && decide (e.semBase p < 2048 * (slice + 1)) && decide (2048 * slice < e.semBase p + e.semSize p)

/-- The cells of a slice in the order of their records: by the partition that owns them, those of none last (R486). (DESIGN
CHOICE, assumption log 36) -/
def Eng.sliceCells (e : Eng) (slice : Nat) : List Nat :=
  let cells := (List.range 2048).map fun i => 2048 * slice + i
  ((List.range 32).map fun p => cells.filter fun n => decide (e.cellOwner n = some p)).flatten ++
    cells.filter fun n => decide (e.cellOwner n = none)

/-- A failed slice takes its spare, which copies it while its operations are held (R479); with no spare left every cell of it
is lost and the partitions that own them halt (R482). (DESIGN CHOICE, assumption logs 36, 102) -/
def Eng.sliceTake (b : BeatUnit) (slice : Nat) (e : Eng) : Eng :=
  let left := e.sparesLeft spSlices
  let ph := physOf e.sliceMap slice
  let e := e.engFault b 0x83 none (engDetail ukSlice ph slice 0 0 0 (left - 1))
  if left ≠ 0 then
    let e : Eng := ({ e with sliceHold := e.sliceHold ++ [slice], sliceMap := remapTo e.sliceMap slice (e.nextSpare spSlices 32 2) } : Eng).useSpare spSlices
    (e.sliceOwners slice).foldl (fun e p => e.recover b p) e
  else
    let e : Eng := { e with sliceLost := e.sliceLost ++ [slice] }
    let e := (e.sliceCells slice).foldl (fun e n => e.cellLost b n) e
    let e := e.sparesOut b ukSlice ph slice none
    (e.sliceOwners slice).foldl (fun e p => e.halt b p) e

/-- A semaphore slice fails (R479); while another is being replaced it waits, its operations held (R487). (DESIGN CHOICE,
assumption log 102) -/
def Eng.sliceFail (b : BeatUnit) (slice : Nat) (e : Eng) : Eng :=
  if e.sliceHold = [] then e.sliceTake b slice else { e with sliceWait := e.sliceWait ++ [slice] }

/-- The slices that failed while another was being replaced, in order, up to one that a spare takes (R482, R487). (DESIGN CHOICE, assumption log 102) -/
def Eng.sliceNext (b : BeatUnit) : Nat → Eng → Eng
  | 0, e => e
  | k + 1, e => match e.sliceWait with
    | [] => e
    | n :: r =>
      let e := ({ e with sliceWait := r } : Eng).sliceTake b n
      if e.sliceHold = [] then Eng.sliceNext b k e else e

/-! ## Roles of the management cores (R504) and the contract level (R523) -/

/-- A management core. -/
def Eng.core (e : Eng) (c : Nat) : MCore := kget MCore.boot e.mcores c

/-- The codes of the roles (R530). -/
def Role.code : Role → Nat
  | .booting => 0
  | .active => 1
  | .standby => 2
  | .failed => 3

/-- Change a core; WX_MGMT_STATUS shows the roles. -/
def Eng.onCore (e : Eng) (c : Nat) (f : MCore → MCore) : Eng :=
  let e := { e with mcores := kmod MCore.boot e.mcores c f }
  e.setF Reg.mgmtStatus (25 + 2 * c) (24 + 2 * c) (e.core c).role.code

/-- The ACTIVE core. -/
def Eng.activeCore (e : Eng) : Option Nat := (List.range 2).find? fun c => decide ((e.core c).role = .active)

/-- HW_MAX of discovery (R523, R576). (PRESUMED, assumption log 8) -/
def Eng.hwMax (e : Eng) : Nat := e.fld Reg.glbContract 31 16

/-- SUPPORTED (R523): the lowest of the hardware maximum, the ACTIVE core's image, and the builds in the banks in use. -/
def Eng.supported (e : Eng) : Nat :=
  let core := match e.activeCore with
    | some c => min e.hwMax (e.core c).level
    | none => e.hwMax
  (List.range 32).foldl (init := core) fun n p => match kget none e.banks (e.fld Reg.mgmtUcodeBank p p) with
    | some x => min n x.1
    | none => n

/-- Show SUPPORTED. -/
def Eng.showLevel (e : Eng) : Eng := e.setF Reg.mgmtLevel 31 16 e.supported

/-! ## Microcode banks (R519) -/

/-- A pending bank switch of a partition takes place (R519), and SUPPORTED follows (R523): `num` is the step number of the boundary. (DESIGN CHOICE,
assumption log 51) -/
def Eng.switchBank (b : BeatUnit) (p num : Nat) (e : Eng) : Eng :=
  if !e.bankSwitch.contains p then e
  else
    let bank := 1 - e.fld Reg.mgmtUcodeBank p p
    let e : Eng := ({ e with bankSwitch := e.bankSwitch.filter fun q => decide (q ≠ p) } : Eng).setF Reg.mgmtUcodeBank p p bank
    (e.logAdd b 0x0012 0 (some p) (leBytes 4 bank ++ leBytes 8 num)).showLevel

/-- A bank switch where no step's boundary takes it: the step number that its log entry names is not stated, a free value.
(DESIGN CHOICE, assumption log 51) -/
def Eng.switchIdle (b : BeatUnit) (p : Nat) (e : Eng) : Eng :=
  if !e.bankSwitch.contains p then e
  else
    let (k, e) := e.drawFree
    e.switchBank b p ((Config.freeWord k).toNat % 2 ^ 48)

end Sys2Proof.Machine
end

