-- ==== Sys2Proof/Machine/Float.lean ====
section
/-! DEFINITION. Floating-point arithmetic of the block (R86, R87, R107, R113, R580): exact values, one rounding to nearest even, canonical NaN, correctly rounded exp and log, and the narrower element formats of R84. A binary32 value is its bits as a number below 2^32. -/

namespace Sys2Proof.Machine

open Sys2Proof

/-- Round m × 2^e (m above 0) to nearest even with mb fraction bits and least normal exponent emin, as the
magnitude code of the format, not bounded above. (PRESUMED, assumption log 73) -/
def roundMag (mb : Nat) (emin : Int) (m : Nat) (e : Int) : Nat :=
  let top : Int := Nat.log2 m + e
  let q := max (top - mb) (emin - mb)
  let sh := q - e
  let mant :=
    if sh ≤ 0 then m * 2 ^ (-sh).toNat
    else
      let d := 2 ^ sh.toNat
      let r := m % d
      let f := m / d
      if d < 2 * r ∨ (2 * r = d ∧ f % 2 = 1) then f + 1 else f
  (q - (emin - mb)).toNat * 2 ^ mb + mant

/-- The value of a magnitude code: mantissa and exponent. -/
def unMag (mb : Nat) (emin : Int) (c : Nat) : Nat × Int :=
  let ex := c / 2 ^ mb
  let fr := c % 2 ^ mb
  if ex = 0 then (fr, emin - mb) else (2 ^ mb + fr, (ex : Int) - 1 + emin - mb)

/-- A floating-point datum: NaN, an infinity, or a finite value (−1)^neg × m × 2^e. -/
inductive Fl where
  | nan
  | inf (neg : Bool)
  | fin (neg : Bool) (m : Nat) (e : Int)
  deriving DecidableEq, Repr

/-- The canonical quiet NaN (R86). -/
abbrev qnan : Nat := 0x7FC00000

/-- Read a binary32. -/
def unF32 (b : Nat) : Fl :=
  let neg := b.testBit 31
  let c := b % 2 ^ 31
  if c > 0x7F800000 then .nan
  else if c = 0x7F800000 then .inf neg
  else let u := unMag 23 (-126) c; .fin neg u.1 u.2

/-- Round an exact value to binary32 (R86). -/
def toF32 : Fl → Nat
  | .nan => qnan
  | .inf n => if n then 0xFF800000 else 0x7F800000
  | .fin n m e =>
    let c := if m = 0 then 0 else min (roundMag 23 (-126) m e) 0x7F800000
    if n then 2 ^ 31 + c else c

/-- An exact integer times a power of two, with the sign that an exact zero takes. -/
def flOf (i : Int) (e : Int) (zeroNeg : Bool) : Fl :=
  if i = 0 then .fin zeroNeg 0 0 else .fin (decide (i < 0)) i.natAbs e

/-- The signed mantissa of a finite value at a common exponent. -/
def scaled (n : Bool) (m : Nat) (e lo : Int) : Int :=
  let v : Int := m * 2 ^ (e - lo).toNat
  if n then -v else v

/-- Exact sum. -/
def flAdd : Fl → Fl → Fl
  | .nan, _ => .nan
  | _, .nan => .nan
  | .inf a, .inf b => if a = b then .inf a else .nan
  | .inf a, _ => .inf a
  | _, .inf b => .inf b
  | .fin a m e, .fin b n f =>
    let lo := min e f
    flOf (scaled a m e lo + scaled b n f lo) lo (a && b)

def flNeg : Fl → Fl
  | .nan => .nan
  | .inf n => .inf (!n)
  | .fin n m e => .fin (!n) m e

/-- Exact product. -/
def flMul : Fl → Fl → Fl
  | .nan, _ => .nan
  | _, .nan => .nan
  | .inf a, .inf b => .inf (a != b)
  | .inf a, .fin b m _ => if m = 0 then .nan else .inf (a != b)
  | .fin a m _, .inf b => if m = 0 then .nan else .inf (a != b)
  | .fin a m e, .fin b n f => .fin (a != b) (m * n) (e + f)

/-- Quotient, exact or with the remainder kept as a sticky bit below 64 quotient bits. -/
def flDiv : Fl → Fl → Fl
  | .nan, _ => .nan
  | _, .nan => .nan
  | .inf _, .inf _ => .nan
  | .inf a, .fin b _ _ => .inf (a != b)
  | .fin a _ _, .inf b => .fin (a != b) 0 0
  | .fin a m e, .fin b n f =>
    if n = 0 then (if m = 0 then .nan else .inf (a != b))
    else if m = 0 then .fin (a != b) 0 0
    else
      let k := 64 + Nat.log2 n
      let q := m * 2 ^ k / n
      let st := if m * 2 ^ k % n = 0 then 0 else 1
      .fin (a != b) (2 * q + st) (e - f - k - 1)

def fadd (a b : Nat) : Nat := toF32 (flAdd (unF32 a) (unF32 b))
def fsub (a b : Nat) : Nat := toF32 (flAdd (unF32 a) (flNeg (unF32 b)))
def fmul (a b : Nat) : Nat := toF32 (flMul (unF32 a) (unF32 b))
def fdiv (a b : Nat) : Nat := toF32 (flDiv (unF32 a) (unF32 b))

/-- Strict order of R107: NaN ranks below −∞, equal values are not less. -/
def flLt : Fl → Fl → Bool
  | .nan, .nan => false
  | .nan, _ => true
  | _, .nan => false
  | .inf a, .inf b => a && !b
  | .inf a, .fin _ _ _ => a
  | .fin _ _ _, .inf b => !b
  | .fin a m e, .fin b n f =>
    let lo := min e f
    decide (scaled a m e lo < scaled b n f lo)

def fLt (a b : Nat) : Bool := flLt (unF32 a) (unF32 b)
def fEq (a b : Nat) : Bool := !fLt a b && !fLt b a
/-- A NaN result is canonical (R86). -/
def fcanon (a : Nat) : Nat := if unF32 a = .nan then qnan else a
/-- Maximum and minimum of R107: on equal values the left operand wins. -/
def fmax (a b : Nat) : Nat := fcanon (if fLt a b then b else a)
def fmin (a b : Nat) : Nat := fcanon (if fLt b a then b else a)

/-- Minus infinity, plus infinity, one. -/
abbrev fNegInf : Nat := 0xFF800000
abbrev fInf : Nat := 0x7F800000
abbrev fOne : Nat := 0x3F800000

/-- FCVTI: a signed integer to binary32 (R113). -/
def f32OfInt (i : Int) : Nat := toF32 (flOf i 0 false)

/-- The integer part, rounding toward zero. -/
def flTrunc (n : Bool) (m : Nat) (e : Int) : Int :=
  let v : Nat := if e < 0 then m / 2 ^ (-e).toNat else m * 2 ^ e.toNat
  if n then -(v : Int) else v

/-- FTRUNC: binary32 to a signed 64-bit integer, saturating, NaN to 0 (R113). -/
def f32ToInt64 (a : Nat) : Int :=
  match unF32 a with
  | .nan => 0
  | .inf n => if n then -(2 ^ 63) else 2 ^ 63 - 1
  | .fin n m e => max (-(2 ^ 63)) (min (2 ^ 63 - 1) (flTrunc n m e))

/-! ## exp and log, correctly rounded (R86) -/

/-- Fraction bits of the fixed-point evaluation: far more than any binary32 argument needs to round correctly. -/
abbrev fxP : Nat := 200
/-- ln 2 in that fixed point. -/
abbrev fxLn2 : Int := 1113844574712631719546256151097547306333272293549090750737802

/-- A finite value in fixed point. -/
def toFx (n : Bool) (m : Nat) (e : Int) : Int :=
  let k := e + fxP
  let v : Nat := if k < 0 then m / 2 ^ (-k).toNat else m * 2 ^ k.toNat
  if n then -(v : Int) else v

/-- The Taylor sum of exp for a reduced argument: terms from the n-th on. -/
def expSum (r : Int) : Nat → Nat → Int → Int
  | 0, _, _ => 0
  | fuel + 1, n, term => term + expSum r fuel (n + 1) (term * r / 2 ^ fxP / (n + 1))

/-- exp of a finite value. -/
def expFx (x : Int) : Fl :=
  let k := (2 * x + fxLn2) / (2 * fxLn2)
  .fin false (expSum (x - k * fxLn2) 56 0 (2 ^ fxP)).natAbs (k - fxP)

def fexp (a : Nat) : Nat :=
  match unF32 a with
  | .nan => qnan
  | .inf n => if n then 0 else fInf
  | .fin n m e =>
    if m = 0 then fOne
    else if 90 ≤ flTrunc false m e then (if n then (if 105 ≤ flTrunc false m e then 0 else toF32 (expFx (toFx n m e))) else fInf)
    else toF32 (expFx (toFx n m e))

/-- The series of atanh z / z in z²: terms from the n-th on. -/
def atanhSum (z2 : Int) : Nat → Nat → Int → Int
  | 0, _, _ => 0
  | fuel + 1, n, pow => pow / (2 * n + 1) + atanhSum z2 fuel (n + 1) (pow * z2 / 2 ^ fxP)

/-- log of m × 2^e for m above 0. -/
def logFx (m : Nat) (e : Int) : Int :=
  let t := Nat.log2 m
  let up := decide (2 ^ (2 * t + 1) < m * m)
  let k : Int := t + e + if up then 1 else 0
  let den : Nat := 2 ^ (if up then t + 1 else t)
  let z : Int := ((m : Int) - den) * 2 ^ fxP / ((m : Int) + den)
  let z2 := z * z / 2 ^ fxP
  k * fxLn2 + 2 * (z * atanhSum z2 48 0 (2 ^ fxP) / 2 ^ fxP)

def flog (a : Nat) : Nat :=
  match unF32 a with
  | .nan => qnan
  | .inf n => if n then qnan else fInf
  | .fin n m e =>
    if m = 0 then fNegInf
    else if n then qnan
    else if a = fOne then 0
    else toF32 (flOf (logFx m e) (-(fxP : Int)) false)

/-! ## Element formats (R84, R87) -/

/-- A floating element format: fraction bits, least normal exponent, greatest finite code, sign position, the codes
of infinity and NaN where it has them. (PRESUMED, assumption log 73) -/
structure EFmt where
  mb : Nat
  emin : Int
  maxCode : Nat
  sign : Nat
  infCode : Option Nat
  nanCode : Option Nat
  deriving DecidableEq, Repr

def fmtBf16 : EFmt := ⟨7, -126, 0x7F7F, 15, some 0x7F80, some 0x7FC0⟩
def fmtE4M3 : EFmt := ⟨3, -6, 0x7E, 7, none, some 0x7F⟩
def fmtE5M2 : EFmt := ⟨2, -14, 0x7B, 7, some 0x7C, some 0x7E⟩
def fmtE3M2 : EFmt := ⟨2, -2, 0x1F, 5, none, none⟩
def fmtE2M3 : EFmt := ⟨3, 0, 0x1F, 5, none, none⟩
def fmtE2M1 : EFmt := ⟨1, 0, 0x07, 3, none, none⟩

/-- The exact value of an element code. -/
def EFmt.read (f : EFmt) (c : Nat) : Fl :=
  let neg := c.testBit f.sign
  let m := c % 2 ^ f.sign
  if m ≤ f.maxCode then let u := unMag f.mb f.emin m; .fin neg u.1 u.2
  else if f.infCode = some m then .inf neg
  else .nan

/-- Convert to an element code, rounding to nearest even; overflow saturates, infinities and NaN go as R87 states. -/
def EFmt.write (f : EFmt) (x : Fl) : Nat :=
  let sgn := fun (n : Bool) (c : Nat) => if n then 2 ^ f.sign + c else c
  match x with
  | .nan => f.nanCode.getD 0
  | .inf n => sgn n (f.infCode.getD f.maxCode)
  | .fin n m e => sgn n (if m = 0 then 0 else min (roundMag f.mb f.emin m e) f.maxCode)

/-- Convert with stochastic rounding (R403): with f the exact discarded fraction, the magnitude goes up when the random
number of `bits` bits lies below ⌊f × 2^bits + 1/2⌋. -/
def EFmt.writeSr (f : EFmt) (bits rnd : Nat) (x : Fl) : Nat :=
  match x with
  | .fin n m e =>
    let sgn := fun (c : Nat) => if n then 2 ^ f.sign + c else c
    if m = 0 then sgn 0
    else
      let top : Int := Nat.log2 m + e
      let q := max (top - f.mb) (f.emin - f.mb)
      let sh := q - e
      let base := (q - (f.emin - f.mb)).toNat * 2 ^ f.mb
      let c :=
        if sh ≤ 0 then base + m * 2 ^ (-sh).toNat
        else
          let d := 2 ^ sh.toNat
          base + m / d + (if m % d ≠ 0 ∧ rnd < (2 * (m % d) * 2 ^ bits + d) / (2 * d) then 1 else 0)
      sgn (min c f.maxCode)
  | x => f.write x

end Sys2Proof.Machine
end

