-- ==== Sys2Proof/Machine/Random.lean ====
section
/-! DEFINITION. Random numbers (spec/15): the generator, its words, noise and mask bits, and the random-bit service. -/

namespace Sys2Proof.Machine

open Sys2Proof

/-! ## The generator (R392 to R395) -/

/-- One step T of a state: a in the upper half and b in the lower (R392). -/
def rillStep (x : BitVec 128) : BitVec 128 :=
  let a := x.extractLsb' 64 64
  let b := x.extractLsb' 0 64
  let t := b ^^^ a
  (a.rotateLeft 24 ^^^ t ^^^ (t <<< 16)) ++ t.rotateLeft 37

/-- The word of a state (R393). -/
def rillOut (x : BitVec 128) : Word :=
  ((x.extractLsb' 64 64 * 0x8F3A5C1DB726E94B#64).rotateLeft 29).extractLsb' 32 32

/-- mix of R394. -/
def rillMix (z : BitVec 64) : BitVec 64 :=
  let z := (z ^^^ (z >>> 32)) * 0xD6E8FEB86659FD93#64
  let z := (z ^^^ (z >>> 32)) * 0xD6E8FEB86659FD93#64
  z ^^^ (z >>> 32)

/-- The origin state of a key pair (R394). -/
def rillOrigin (k1 k2 : BitVec 64) : BitVec 128 :=
  let a := rillMix (k1 ^^^ 0x5D3A91C47E28B60F#64)
  let b := rillMix (k2 ^^^ 0xA4C71E590B83F26D#64) ^^^ a
  if a = 0 ∧ b = 0 then 0x5D3A91C47E28B60F#64 ++ 0xA4C71E590B83F26D#64 else a ++ b

/-- A matrix over F2, by the images of the unit vectors, applied to a state. -/
def f2Apply (m : List (BitVec 128)) (x : BitVec 128) : BitVec 128 :=
  (m.zipIdx).foldl (fun acc c => if x.getLsbD c.2 then acc ^^^ c.1 else acc) 0

/-- The matrix of T (R398). -/
def rillMatrix : List (BitVec 128) := (List.range 128).map fun i => rillStep (1#128 <<< i)

/-- A jump: the matrix of T^(2^k) applied for each set bit k (R397, R398). -/
def rillJump : Nat → Nat → List (BitVec 128) → BitVec 128 → BitVec 128
  | 0, _, _, x => x
  | f + 1, j, m, x =>
    if j = 0 then x
    else rillJump f (j / 2) (m.map (f2Apply m)) (if j % 2 = 1 then f2Apply m x else x)

/-- The purpose codes (R395). -/
abbrev rpSample : Nat := 0
abbrev rpRound : Nat := 1
abbrev rpMask : Nat := 2

/-- The state of element `i` of a substream (R395). -/
def rillAt (k1 k2 : BitVec 64) (purpose pos i : Nat) : BitVec 128 :=
  rillJump 128 (purpose * 2 ^ 96 + pos * 2 ^ 40 + i) rillMatrix (rillOrigin k1 k2)

/-- The word of element `i` (R395). -/
def rillWord (k1 k2 : BitVec 64) (purpose pos i : Nat) : Word := rillOut (rillAt k1 k2 purpose pos i)

/-- `n` consecutive words from a state on, stepped one at a time (R397). -/
def rillRun : Nat → BitVec 128 → List Word
  | 0, _ => []
  | n + 1, x => rillOut x :: rillRun n (rillStep x)

/-- The words of elements `i` to `i + n - 1` (R395, R397). -/
def rillRow (k1 k2 : BitVec 64) (purpose pos i n : Nat) : List Word := rillRun n (rillAt k1 k2 purpose pos i)

/-! ## The random-bit service (R400 to R402) -/

/-- The key pair of a slot (R409). -/
def Eng.rngKey1 (e : Eng) (p n : Nat) : Dword := BitVec.ofNat 64 (e.pair (Reg.rngK1Lo p n) (Reg.rngK1Hi p n))
def Eng.rngKey2 (e : Eng) (p n : Nat) : Dword := BitVec.ofNat 64 (e.pair (Reg.rngK2Lo p n) (Reg.rngK2Hi p n))

/-- Bytes from mask bits, eight to a byte (R84). -/
def packBits : Nat → List Bool → List Byte
  | 0, _ => []
  | f + 1, l =>
    if l = [] then []
    else BitVec.ofNat 8 ((l.take 8).zipIdx.foldl (fun n x => if x.1 then n + 2 ^ x.2 else n) 0) :: packBits f (l.drop 8)

/-- Pad a payload to whole flits (R546). -/
def flitPad (l : List Byte) : List Byte := padTo (ceilDiv l.length 64 * 64) l

/-- A bit response: its header and payload, with the CRC over both (R402). -/
def bitResponse (req : List Byte) (status : Nat) (payload : List Byte) : List Byte :=
  let h := padTo 28 (bytesAt req 0x1A 2 ++ [BitVec.ofNat 8 status] ++ bytesAt req 0 1 ++ bytesAt req 0x18 2)
  padTo 64 (h ++ leBytes 4 (crc32c (h ++ payload)).toNat) ++ flitPad payload

/-- The mask bits of a request under its keys (R400). -/
def bitPayload (req : List Byte) (k1 k2 : Dword) : List Byte :=
  let thr := fieldAt req 4 4
  let n := fieldAt req 0x18 2 * 64
  packBits (n / 8) ((rillRow k1 k2 rpMask (fieldAt req 8 6) (fieldAt req 0x10 5) n).map fun w => decide (w.toNat < thr))

/-- Why a bit request is rejected, or none (R402). (DEDUCED, assumption log 34) -/
def Eng.bitBad (e : Eng) (req : List Byte) (crcOk : Bool) : Bool :=
  let f := fieldAt req
  let p := f 0 1
  !crcOk || !crcGood req || decide (32 ≤ p) || decide (8 ≤ f 1 1) || decide (f 3 1 ≠ 0) || decide (f 0x0E 2 ≠ 0) ||
    decide (f 0x15 3 ≠ 0) || decide (f 0x10 5 % 64 ≠ 0) || decide (f 0x18 2 = 0) || decide (16384 < f 0x18 2) ||
    decide (f 2 1 ≠ rpMask) || !e.running (p % 32) || !e.bit (Reg.rngSlotEn (p % 32)) (f 1 1 % 8)

/-- Answer an accepted request (R402). (DEDUCED, assumption log 34) -/
def Eng.bitServe (port : Nat) (req : List Byte) (k1 k2 : Dword) (e : Eng) : Eng :=
  ((e.bumpWrap (Reg.rngSvcBits (fieldAt req 0 1)) 31 0 (fieldAt req 0x18 2)).hsSend port 1
    (bitResponse req 0 (bitPayload req k1 k2))).hsPump

/-- Reject a request (R402). (DEDUCED, assumption log 34) -/
def Eng.bitReject (port : Nat) (req : List Byte) (e : Eng) : Eng := (e.hsSend port 1 (bitResponse req 1 [])).hsPump

/-- BIT_REQUEST: a random-bit request of a hidden-state port is answered, or rejected (R402, R547); it waits while the
jump matrices are rebuilt (R485), and an answer waits for those of earlier requests of its port (R402). -/
def execBitRequest (port : Fin 8) (bytes : List Byte) (crcOk : Bool) (s : State) : Host.Outcome State Fault Refusal :=
  .next <| s.onPort fun _ e =>
    let req := padTo 32 bytes
    let p := fieldAt req 0 1
    let n := fieldAt req 1 1
    if e.hsFailed port.val then e
    else if e.bitBad req crcOk then
      let e := if p < 32 then (e.bump (Reg.rngSvcRej p) 31 0).ev (Reg.rngEvent p) 0 else e.bump Reg.rngSvcRejGlobal 31 0
      if e.bitq.any fun x => decide (x.1 = port.val) then { e with bitq := e.bitq ++ [(port.val, req, none)] }
      else e.bitReject port.val req
    else if e.romWait then { e with bitq := e.bitq ++ [(port.val, req, some (e.rngKey1 p n, e.rngKey2 p n))] }
    else e.bitServe port.val req (e.rngKey1 p n) (e.rngKey2 p n)

/-- ROM_REBUILD_DONE: the jump matrices stand in shadow RAM and jumps resume (R485). -/
def execRomRebuildDone (s : State) : Host.Outcome State Fault Refusal :=
  .next <| s.onEng fun _ e =>
    if !e.romWait then e
    else
      let answer := fun (e : Eng) (x : Nat × List Byte × Option (Dword × Dword)) => match x.2.2 with
        | some k => e.bitServe x.1 x.2.1 k.1 k.2
        | none => e.bitReject x.1 x.2.1
      e.bitq.foldl answer { e with romWait := false, bitq := [] }

/-- The probe's word (R410). (DESIGN CHOICE, assumption log 87) -/
def Eng.probeWord (e : Eng) : Word :=
  let pos := e.pair Reg.rngProbePosLo Reg.rngProbePosHi
  rillWord (BitVec.ofNat 64 (e.pair Reg.rngProbeK1Lo Reg.rngProbeK1Hi)) (BitVec.ofNat 64 (e.pair Reg.rngProbeK2Lo Reg.rngProbeK2Hi))
    (bitsOf pos 63 60) (bitsOf pos 47 0) (e.pair Reg.rngProbeIdxLo Reg.rngProbeIdxHi % 2 ^ 40)

end Sys2Proof.Machine
end

