-- ==== Sys2Proof/Machine/Rows.lean ====
section
/-! DEFINITION. The arithmetic of rows: canonical reductions (R106, R107, R580), the row operations of R141, R142 and R352, the noise of R399, and the element formats with MX blocks (R84, R87). A row is the list of its binary32 elements. -/

namespace Sys2Proof.Machine

open Sys2Proof

/-! ## Reductions (R106, R107) -/

/-- One level of a tree: node i combines nodes 2i and 2i + 1; a node with one child passes it on (R106). -/
def pairUp {α : Type} (f : α → α → α) : List α → List α
  | a :: b :: r => f a b :: pairUp f r
  | l => l

/-- A number of levels. -/
def levels {α : Type} (f : α → α → α) : Nat → List α → List α
  | 0, l => l
  | n + 1, l => levels f n (pairUp f l)

/-- Cut a list into blocks of n elements. -/
def blocks {α : Type} (n : Nat) : Nat → List α → List (List α)
  | 0, _ => []
  | k + 1, l => if l.isEmpty then [] else l.take n :: blocks n k (l.drop n)

/-- A reduction over the canonical tree: ten levels within blocks of 1,024, then the upper tree (R106). -/
def reduce {α : Type} (f : α → α → α) (l : List α) : Option α :=
  let bs := blocks 1024 (l.length / 1024 + 1) l
  (levels f (clog2 bs.length) (bs.filterMap fun x => (levels f 10 x).head?)).head?

/-- The reduction of values. -/
def reduceD (f : Nat → Nat → Nat) (l : List Nat) : Nat := (reduce f l).getD 0

/-- The combine of argmax: on equal values the lower index, which stands on the left (R107). -/
def argmaxOf (a b : Nat × Nat) : Nat × Nat := if fLt a.1 b.1 then b else a

/-- The value and index of the maximum. -/
def rowArgmax (l : List Nat) : Nat × Nat := (reduce argmaxOf l.zipIdx).getD (0, 0)

/-- The factor of an operand of log-sum-exp: exactly 1.0 where its m equals m (R107). -/
def lseFactor (own m : Nat) : Nat := if fEq own m then fOne else fexp (fsub own m)

/-- The combine of log-sum-exp on pairs (m, s) (R107). (DEDUCED, assumption log 60) -/
def lseOf (a b : Nat × Nat) : Nat × Nat :=
  let m := if fLt a.1 b.1 then b.1 else a.1
  (m, fadd (fmul a.2 (lseFactor a.1 m)) (fmul b.2 (lseFactor b.1 m)))

/-- The log-sum-exp of a row: m + log(s) at the root (R580). (DEDUCED, assumption log 60) -/
def rowLse (l : List Nat) : Nat :=
  let r := (reduce lseOf (l.map fun x => (x, fOne))).getD (fNegInf, fOne)
  fadd r.1 (flog r.2)

/-- a ranks before b in the top-k order: by value descending, then index ascending, NaN below −∞ (R107). (DEDUCED, assumption
log 59) -/
def ranksBefore (a b : Nat × Nat) : Bool := fLt b.1 a.1 || (fEq a.1 b.1 && decide (a.2 < b.2))

/-- The ranking of a row: values with their indices. -/
def ranking (l : List Nat) : List (Nat × Nat) := sortBy ranksBefore l.zipIdx

/-- Keep the elements at some indices; the others become −∞. -/
def rowKeep (idx : List Nat) (l : List Nat) : List Nat := l.zipIdx.map fun x => if idx.contains x.2 then x.1 else fNegInf

/-! ## Row operations (R141, R142, R352) -/

/-- VMASK. -/
def rowMask (m : Nat → Bool) (l : List Nat) : List Nat := l.zipIdx.map fun x => if m x.2 then x.1 else fNegInf
/-- VMAX with −∞ (R350): NaN becomes −∞. -/
def rowClean (l : List Nat) : List Nat := l.map fun x => fmax x fNegInf
/-- VPEN BIAS. (DEDUCED, assumption log 59) -/
def rowBias (bias : Nat → Nat) (l : List Nat) : List Nat := l.zipIdx.map fun x => fadd x.1 (bias x.2)
/-- The penalty of one element. -/
def penalize (r a x : Nat) : Nat := fsub (if fLt 0 x then fdiv x r else fmul x r) a
/-- VPEN PENALTY. -/
def rowPenalty (r a : Nat) (has : Nat → Bool) (l : List Nat) : List Nat :=
  l.zipIdx.map fun x => if has x.2 then penalize r a x.1 else x.1

/-- A binary32 that is positive and finite. -/
def fPosFin (t : Nat) : Bool := decide (0 < t % 2 ^ 32) && decide (t % 2 ^ 32 < fInf)
/-- A finite binary32. -/
def fFinite (t : Nat) : Bool := decide (t % 2 ^ 31 < fInf)
/-- At least 1.0, or NaN. -/
def fAtLeastOne (p : Nat) : Bool := decide (unF32 p = .nan) || !fLt p fOne

/-- VTEMP: division by a positive finite temperature, greedy decoding otherwise (R142). (DEDUCED, assumption log 53) -/
def rowTemp (t : Nat) (l : List Nat) : List Nat :=
  if fPosFin t then l.map fun x => fdiv x t
  else
    let k := (rowArgmax l).2
    l.zipIdx.map fun x => if x.2 = k then 0 else fNegInf

/-- VTOPK: the k best, where 0 < k < elen. -/
def rowTopk (k : Nat) (l : List Nat) : List Nat :=
  if 0 < k ∧ k < l.length then rowKeep (((ranking l).take k).map fun x => x.2) l else l

/-- The smallest count of visited elements at which the mass reaches p, from count `n` and mass `c` on (R352). -/
def massCount (p lse : Nat) : List (Nat × Nat) → Nat → Nat → Option Nat
  | [], _, _ => none
  | x :: r, n, c =>
    let c := fadd c (fexp (fsub x.1 lse))
    if !fLt c p && decide (unF32 c ≠ .nan) then some (n + 1) else massCount p lse r (n + 1) c

/-- VTOPP (R141, R352). -/
def rowTopp (p : Nat) (l : List Nat) : List Nat :=
  if fAtLeastOne p then l
  else
    let rk := ranking l
    let n := if fLt 0 p then (massCount p (rowLse l) rk 0 0).getD (l.filter fun x => fLt fNegInf x).length else 1
    rowKeep ((rk.take n).map fun x => x.2) l

/-- VLPROB: e(t) − lse. -/
def rowLprob (l : List Nat) (t : Nat) : Nat := fsub (l.getD t 0) (rowLse l)

/-- VGRAD ROW: adv × (exp(x − lse) − [i = t]). -/
def rowGrad (adv t : Nat) (l : List Nat) : List Nat :=
  let lse := rowLse l
  l.zipIdx.map fun x => fmul adv (fsub (fexp (fsub x.1 lse)) (if x.2 = t then fOne else 0))

/-- The Gumbel-shaped noise of a word (R399). -/
def gumbel (w : Word) : Nat :=
  let u := toF32 (.fin false (2 * (w.toNat / 512) + 1) (-24))
  let neg := fun x => x ^^^ 0x80000000
  neg (flog (neg (flog u)))

/-- The draw of VGMX: the index of the greatest noisy element, elements at −∞ excluded; none where all are (R141, R399). -/
def rowDraw (noise : List Nat) (l : List Nat) : Option Nat :=
  (reduce (fun a b : (Nat × Nat) => argmaxOf a b)
    (((l.zip noise).zipIdx.filter fun x => decide (x.1.1 ≠ fNegInf)).map fun x => (fadd x.1.1 x.1.2, x.2))).map fun x => x.2

/-! ## Element formats (R84, R87, R403) -/

/-- Bits of an element (R84). -/
def fmtBits : Nat → Nat
  | 1 => 32
  | 2 => 16
  | 3 => 8
  | 4 => 8
  | 5 => 8
  | 6 => 8
  | 7 => 6
  | 8 => 6
  | 9 => 4
  | 13 => 1
  | _ => 32

/-- The MX formats. -/
def fmtMx (f : Nat) : Bool := decide (5 ≤ f) && decide (f ≤ 9)
/-- The floating formats, codes 0x01 to 0x09. -/
def fmtFloat (f : Nat) : Bool := decide (1 ≤ f) && decide (f ≤ 9)

/-- The element format behind a code. -/
def elFmt : Nat → EFmt
  | 2 => fmtBf16
  | 3 => fmtE4M3
  | 5 => fmtE4M3
  | 4 => fmtE5M2
  | 6 => fmtE5M2
  | 7 => fmtE3M2
  | 8 => fmtE2M3
  | _ => fmtE2M1

/-- The value of an element code, with the shared scale of its block for an MX format (R321). -/
def elValue (f code scale : Nat) : Fl :=
  if f = 1 then unF32 code
  else if fmtMx f then
    if scale = 255 then .nan
    else match (elFmt f).read code with
      | .fin n m e => .fin n m (e + scale - 127)
      | x => x
  else (elFmt f).read code

/-- The exponent of the largest normal of an MX element format. (PRESUMED, assumption log 73) -/
def mxEmax : Nat → Int
  | 5 => 8
  | 6 => 15
  | 7 => 4
  | _ => 2

/-- The shared scale of a block: 0xFF with a NaN, 0 for zeros, else floor(log2 of the greatest finite magnitude) less the
greatest element exponent (R87). (PRESUMED, assumption log 73) (DESIGN CHOICE, assumption log 111) -/
def mxScale (f : Nat) (l : List Fl) : Nat :=
  if l.any fun x => decide (x = .nan) then 255
  else
    let tops := l.filterMap fun x => match x with
      | .fin _ m e => if m = 0 then none else some ((Nat.log2 m : Int) + e)
      | _ => none
    match tops with
    | [] => 0
    | t :: r => (max 0 (min 254 (r.foldl max t - mxEmax f + 127))).toNat

/-- A value as seen under a shared scale. (PRESUMED, assumption log 73) -/
def unscale (scale : Nat) : Fl → Fl
  | .fin n m e => .fin n m (e - (scale : Int) + 127)
  | x => x

/-- Convert a binary32 to an element code, with rounding bits for a stochastic rounding (R87, R403). Under the NaN scale
0xFF every code reads as NaN, and R87 names none. (DESIGN CHOICE, assumption log 111) -/
def elCode (f scale : Nat) (rnd : Option Word) (x : Nat) : Nat :=
  if f = 1 then x
  else
    let v := if fmtMx f then unscale scale (unF32 x) else unF32 x
    match rnd with
    | none => (elFmt f).write v
    | some w => let n := if f = 2 then 4 else 3; (elFmt f).writeSr n (w.toNat / 2 ^ (32 - n)) v

/-- The codes of a vector of binary32 values, and the shared scales of its blocks for an MX format. The scale of a last
block that the vector covers in part follows from the elements written. (DESIGN CHOICE, assumption log 111) -/
def encodeVec (f : Nat) (rnd : Nat → Option Word) (l : List Nat) : List Nat × List Nat :=
  if fmtMx f then
    let ss := (blocks 32 (l.length / 32 + 1) l).map fun x => mxScale f (x.map unF32)
    (l.zipIdx.map fun x => elCode f (ss.getD (x.2 / 32) 0) (rnd x.2) x.1, ss)
  else (l.zipIdx.map fun x => elCode f 0 (rnd x.2) x.1, [])

/-- The code of element i in bytes packed with the lower index in the lower bits (R324). (DESIGN CHOICE, assumption log 95) -/
def packedAt (bits i : Nat) (l : List Byte) : Nat :=
  fieldAt l (i * bits / 8) ((i * bits % 8 + bits + 7) / 8) / 2 ^ (i * bits % 8) % 2 ^ bits

/-- Bytes with elements from number 0 on replaced. -/
def packOver (bits : Nat) (codes : List Nat) (old : List Byte) : List Byte :=
  let v := codes.zipIdx.foldl (fun n x => putBits n (x.2 * bits + bits - 1) (x.2 * bits) x.1) (ofLe old)
  leBytes old.length v

end Sys2Proof.Machine
end

