-- ==== Sys2Proof/Machine/Sampling.lean ====
section
/-! DEFINITION. Sampling (spec/13, spec/14): the parameters and the extension block of a request, the chain, the outcome of a sample row, the tree walk, EMIT, and the records that a step hands to Spout. -/

namespace Sys2Proof.Machine

open Sys2Proof

/-! ## Parameters (R351) -/

/-- The sampler words 13, 14 and 15 of a request: as its step's seal found them, or as they stand (R351, R371). -/
def Eng.sampWords (e : Eng) (p slot : Nat) : Dword × Dword × Dword :=
  let now := (e.rqw slot 13, e.rqw slot 14, e.rqw slot 15)
  match (e.req slot).inStep with
  | none => now
  | some num => match e.stepOf p num with
    | none => now
    | some st => kget (0, 0, 0) st.params slot

/-- The effective sampler parameters (R351): the repetition r, the presence a and the stop token have their substitutes in
place; temperature, k and p are as given. -/
structure SampP where
  temp : Nat
  topP : Nat
  topK : Nat
  rep : Nat
  pres : Nat
  stop : Option Nat
  deriving DecidableEq, Repr

def Eng.sampP (e : Eng) (p slot : Nat) : SampP :=
  let w := e.sampWords p slot
  let r := bitsOf w.2.1.toNat 31 0
  let a := bitsOf w.2.2.toNat 63 32
  let s := bitsOf w.2.2.toNat 31 0
  { temp := bitsOf w.1.toNat 63 32, topP := bitsOf w.1.toNat 31 0, topK := bitsOf w.2.1.toNat 52 32,
    rep := if fPosFin r then r else fOne, pres := if fFinite a then a else 0,
    stop := if s.testBit 20 then some (s % 2 ^ 20) else none }

/-- Penalties are active (R350). -/
def SampP.penActive (x : SampP) : Bool := decide (x.rep ≠ fOne) || !fEq x.pres 0

/-! ## The extension block (R356 to R359) -/

/-- What the extension block and its lists give. -/
structure Aux where
  bias : List (Nat × Nat)
  allow : List Nat
  prompt : Bool
  stops : List Nat
  deriving DecidableEq, Repr

/-- A request with no extension block. -/
def Aux.none : Aux := ⟨[], [], false, []⟩

/-- A list strictly increases. -/
def rising : List Nat → Bool
  | a :: b :: r => decide (a < b) && rising (b :: r)
  | _ => true

/-- The extension block of a request with its lists, or the error code of R359 (0x01 to 0x06). (DEDUCED, assumption log 58) -/
def Eng.auxRead (e : Eng) (p slot : Nat) : Aux ⊕ Nat :=
  let a := (e.rqw slot 16).toNat
  if a = 0 then .inl Aux.none
  else if e.refused (some p) false a 64 then .inr 0x01
  else
    let l := e.bytes a 64
    let f := fieldAt l
    let nb := f 0x10 2
    let na := f 0x12 2
    let bl := (List.range nb).map fun i => (e.num (f 0 8 + 8 * i) 4, e.num (f 0 8 + 8 * i + 4) 4)
    let al := (List.range na).map fun i => e.num (f 8 8 + 4 * i) 4
    let ns := f 0x18 4
    let st := (List.range 8).map fun i => f (0x1C + 4 * i) 4
    if (nb ≠ 0 ∧ e.refused (some p) false (f 0 8) (8 * nb)) ∨ (na ≠ 0 ∧ e.refused (some p) false (f 8 8) (4 * na)) then .inr 0x01
    else if !crcGood l then .inr 0x02
    else if f 0x14 4 % 2 ^ 31 ≠ 0 ∨ 8 < ns ∨ 1024 < nb ∨ 4096 < na ∨ f 0 8 % 8 ≠ 0 ∨ f 8 8 % 4 ≠ 0 ∨
        (nb ≠ 0 ∧ f 0 8 = 0) ∨ (na ≠ 0 ∧ f 8 8 = 0) ∨ (st.any fun x => decide (2 ^ 20 ≤ x)) = true ∨
        ((st.drop ns).any fun x => decide (x ≠ 0)) = true ∨ (bl.any fun x => decide (2 ^ 20 ≤ x.1)) = true ∨
        (al.any fun x => decide (2 ^ 20 ≤ x)) = true then .inr 0x03
    else if !rising (bl.map fun x => x.1) then .inr 0x04
    else if bl.any fun x => !(fFinite x.2 || decide (x.2 = fNegInf)) then .inr 0x05
    else if !rising al then .inr 0x06
    else .inl ⟨bl, al, f 0x14 4 = 2 ^ 31, st.take ns⟩

/-- Record a failure of R359. -/
def Eng.auxErr (p slot code : Nat) (e : Eng) : Eng :=
  ((((e.setF (Reg.smpLastErr p) 7 0 code).wr (Reg.smpLastErrHandle p) (BitVec.ofNat 32 (e.rhandle slot))).bump (Reg.smpAuxErrs p) 31 0).ev
    (Reg.smpEvent p) 1)

/-- Check the block, the mask region against a vocabulary of `v`, for presence alone where none is known (0x07), and the penalty region (0x08):
the block, or none with the failure recorded (R359). (DEDUCED, assumption log 58) -/
def Eng.auxCheck (p slot : Nat) (v : Option Nat) (e : Eng) : Option Aux × Eng :=
  match e.auxRead p slot with
  | .inr code => (none, e.auxErr p slot code)
  | .inl x =>
    if (e.rgram slot).isSome && e.maskSmall p (v.getD 0) then (none, e.auxErr p slot 0x07)
    else if (e.sampP p slot).penActive && !e.penOn p then (none, e.auxErr p slot 0x08)
    else (some x, if (e.rqw slot 16).toNat = 0 then e else e.onReq slot fun r => { r with penPrompt := some x.prompt })

/-! ## The chain (R350, R353, R354) -/

/-- The noise of `n` elements for a request at a position (R353, R396, R399). -/
def Eng.noise (e : Eng) (slot pos n : Nat) : List Nat :=
  (rillRow (e.rqw slot 11) (e.rqw slot 12) rpSample pos 0 n).map gumbel

/-- The rows after step 3 and after step 4. (DEDUCED, assumption log 53) -/
def Eng.chain (e : Eng) (p slot : Nat) (x : Aux) (sp : SampP) (path : List Nat) (z : List Nat) : List Nat × List Nat :=
  let z := if (e.rgram slot).isSome then rowMask (e.maskBit p slot) z else z
  let z := if x.allow = [] then z else rowMask (fun i => x.allow.contains i) z
  let z := rowClean z
  let z := if x.bias = [] then z else rowBias (fun i => ((x.bias.find? fun b => decide (b.1 = i)).map fun b => b.2).getD 0) z
  let pen := (e.req slot).pen ++ path
  let z := if sp.penActive then rowPenalty sp.rep sp.pres (fun i => pen.contains i) z else z
  let t := rowTemp sp.temp z
  (t, rowTopp sp.topP (rowTopk sp.topK t))

/-- The log-probability that LOGP selects (R354). -/
def logpOf (logp : Nat) (raw temp samp : List Nat) (tok : Nat) : Nat :=
  rowLprob (match logp with
    | 0 => raw
    | 1 => temp
    | _ => samp) tok

/-! ## Outcome (R355) -/

/-- What R355 makes of a drawn or emitted token: the status, whether it is terminal, and the grammar's transition. -/
structure Verdict where
  status : Nat
  terminal : Bool
  move : Option (Nat × List Nat)
  deriving DecidableEq, Repr

/-- Rows 3 to 6 of R355 for a token that is the n-th token of the request. (DEDUCED, assumption log 53) -/
def Eng.judge (e : Eng) (p slot : Nat) (x : Aux) (sp : SampP) (tok n : Nat) : Verdict :=
  let h := e.rgramHdr slot
  let mv := (e.rgram slot).bind fun _ => gramStep (e.gramEntries h (e.rgramState slot)) (e.req slot).gstack tok
  let final := match mv with
    | some m => e.gramFinal h m.1
    | none => false
  let dead := match mv with
    | some m => !gramAlive h.vocab (e.gramEntries h m.1) m.2
    | none => false
  if sp.stop = some tok ∨ x.stops.contains tok = true ∨ final = true then ⟨stStop, true, mv⟩
  else if e.rmaxNew slot ≤ n ∨ e.fld (Reg.admModelCtx p (e.rmodel slot)) 20 0 ≤ e.rpromptLen slot + n then ⟨stLength, true, mv⟩
  else if dead then ⟨stGrammarDead, true, mv⟩
  else ⟨stOk, false, mv⟩

/-- Advance the grammar as a token's record is formed (R366). -/
def Eng.gramMove (b : BeatUnit) (p slot : Nat) (mv : Option (Nat × List Nat)) (e : Eng) : Eng :=
  match mv with
  | some m => ((e.gramRead b slot).gramCache).setGram b p slot m.1 m.2
  | none => e

/-! ## Records of a step (R411, R420, R423) -/

/-- Form a record in a step: without a token where `tok` is none. `row` orders the step batch in AUTO mode. (DEDUCED,
assumption log 61) -/
def Eng.formRec (b : BeatUnit) (p num slot row pos : Nat) (tok : Option Nat) (logp status : Nat) (terminal : Bool) (e : Eng) : Eng :=
  match e.stepOf p num with
  | none => e
  | some st =>
    let (ok, e) := e.formed b p
    if !ok then e.unformed slot else
    let ver := ((st.runOf slot).map fun r => r.version).getD (e.rversion slot)
    let flags := (if terminal then rfTerminal else 0) + (if tok.isNone then rfNoToken else 0)
    let bytes := recBody b (e.rhandle slot) pos (tok.getD 0xFFFFF) (if tok.isNone then 0 else logp) ver status flags (num % 2 ^ 32)
    let e := e.onStep p num fun s => { s with recs := s.recs ++ [FormedRec.mk slot row pos bytes terminal tok.isSome (tok.getD 0) false] }
    let e := (if terminal then e.onReq slot fun r => { r with termEv := some status } else e).setRqf slot 0 23 16 status
    if status = stStop then e.bumpWrap (Reg.smpStops p) 31 0
    else if status = stGrammarDead then (e.bump (Reg.smpDead p) 31 0).ev (Reg.smpEvent p) 0
    else e

/-- A record with LATE (R303, R413). -/
def lateRec (terminal : Bool) (l : List Byte) : List Byte :=
  let st := l.getD 0x12 0
  l.take 0x12 ++ [if !terminal && decide (st = 0) then 1 else st, l.getD 0x13 0 ||| 2] ++ l.drop 0x14

/-- Mark a record of a request against a late check time (R303), counting it. (DEDUCED, assumption log 68) -/
def Eng.markLate (p slot at_ : Nat) (terminal : Bool) (l : List Byte) (e : Eng) : List Byte × Eng :=
  if e.rdeadline slot ≠ 0 ∧ e.rdeadline slot ≤ at_ then
    let e := (e.bumpWrap (Reg.latLate p) 31 0).setRqf slot 21 29 29 1
    (lateRec terminal l, if e.rqf slot 0 23 16 = stOk ∧ terminal = false then e.setRqf slot 0 23 16 stLate else e)
  else (l, e)

/-- An operation of a step is queued, or waits for room in the plane queue. -/
def Eng.opsLeft (e : Eng) (p num : Nat) : Bool :=
  (e.planeq.any fun o => decide (o.part = p) && decide (o.step = num)) ||
    e.planeWait.any fun w => decide (w.1 = p) && decide (w.2.2.step = num)

/-- Every group of a step has reported completion (R286). -/
def Step.groupsDone (st : Step) : Bool := st.groups.all fun g => g.done

/-- Mark the formed records that satisfy a condition and have not been handed over; the step with them marked as handed. -/
def Eng.takeRecs (p at_ : Nat) (f : FormedRec → Bool) : List FormedRec → Eng → List (FormedRec × List Byte) × List FormedRec × Eng
  | [], e => ([], [], e)
  | r :: rest, e =>
    if !r.handed && f r then
      let (l, e) := e.markLate p r.slot at_ r.terminal r.bytes
      let (a, c, e) := Eng.takeRecs p at_ f rest e
      ((r, l) :: a, { r with handed := true } :: c, e)
    else
      let (a, c, e) := Eng.takeRecs p at_ f rest e
      (a, r :: c, e)

/-- What a record measures (R292): a token of a GENERATE request. -/
def Eng.meas (e : Eng) (r : FormedRec) : Option Nat :=
  if r.hasToken && decide (r.slot ≠ deadSlot) && !e.rlearn r.slot then some r.slot else none

/-- Hand a step's privileged records to their token rings as they are formed, in position order (R423). Where no operation of the
step is left, writing the first one fixes the late check time of a step that had none (R303); a record formed before the last
operation has completed is judged at the time it is written. (DEDUCED, assumption log 114) -/
def Eng.flushPriv (b : BeatUnit) (p num : Nat) (e : Eng) : Eng :=
  match e.stepOf p num with
  | none => e
  | some st =>
    let at_ := if e.opsLeft p num then b.time else st.lateAt.getD b.time
    let (priv, recs, e) := Eng.takeRecs p at_ (fun r => (e.rring r.slot).isSome) st.recs e
    if priv = [] then e
    else
      let late := if e.opsLeft p num then st.lateAt else some at_
      let e := e.onStep p num fun s => { s with recs := recs, lateAt := late }
      priv.foldl (fun e x => e.putRec b p (e.rring x.1.slot) (mkRec b x.2 (e.meas x.1) (some num) none)) e

/-- The step batch is ready (R420): no operation of the step is left and every group has reported completion. (DEDUCED, assumption log 114) -/
def Eng.batchReady (e : Eng) (p : Nat) (st : Step) : Bool := !e.opsLeft p st.num && st.groupsDone

/-- Hand the step batch over as one unit (R286, R303, R420). (DEDUCED, assumption log 114) -/
def Eng.flushBatch (b : BeatUnit) (p num : Nat) (e : Eng) : Eng :=
  match e.stepOf p num with
  | none => e
  | some st =>
    if !e.batchReady p st then e
    else
      let at_ := st.lateAt.getD b.time
      let (plain, recs, e) := Eng.takeRecs p at_ (fun _ => true) st.recs e
      if plain = [] then e else
      let plain := if st.program then plain else sortBy (fun x y => decide (x.1.row < y.1.row) || (decide (x.1.row = y.1.row) && decide (x.1.pos < y.1.pos))) plain
      let e := e.onStep p num fun s => { s with recs := recs, lateAt := some at_, batched := true }
      e.putBatch b p (some num) (plain.map fun x => (x.2, e.meas x.1))

/-- Hand over what a step has formed: privileged records at once, and its batch from the moment it is ready (R420, R423). A
record that an EMIT forms later follows at once. (DEDUCED, assumption log 114) -/
def Eng.flushRecs (b : BeatUnit) (p num : Nat) (e : Eng) : Eng := (e.flushPriv b p num).flushBatch b p num

/-- An operation of a step has completed: the last one gives the late check time (R303), and Spout writes what it now may
(R420, R423). -/
def Eng.opDone (b : BeatUnit) (p num : Nat) (e : Eng) : Eng :=
  if e.opsLeft p num then e.flushPriv b p num else (e.onStep p num fun s => { s with lateAt := some b.time }).flushRecs b p num

/-! ## AUTO mode (R346, R347, R384) -/

/-- The granted child of a node that carries a token: its index. `node` is none for the decode row. -/
def Run.child (r : Run) (node : Option Nat) (tok : Nat) : Option Nat :=
  (r.nodes.zipIdx.find? fun x => decide (x.1.parent = node.getD 0x7F) && decide (x.1.token = tok)).map fun x => x.2

/-- The step row of a node: R381. -/
def Run.nodeRow (r : Run) : Option Nat → Nat
  | none => if r.phase = phDecode then r.row0 else r.row0 + r.rows - 1
  | some j => r.row0 + 1 + j

/-- A run has a sample row: its first row for DECODE, its last for PREFILL with OUT (R346); none once its request has left
the table. -/
def Run.sampled (r : Run) : Bool := decide (r.slot ≠ deadSlot) && (decide (r.phase = phDecode) || (decide (r.phase = phPrefill) && r.last))

/-- The sample row of a run was covered by a main-head operation (R349): sampled in AUTO mode, left to the program in PROGRAM
mode. -/
def Step.sampledRow (s : Step) (r : Run) : Bool :=
  s.sampled.contains r.slot ||
    (s.program && !s.ueRows.contains (r.nodeRow none) && s.doneOps.any fun o =>
      decide (o.head = 0) && !o.back && decide (o.desc.profile = r.model) && decide (o.desc.version = r.version))

/-- The tokens that a request's records of a step carry. -/
def Step.tokensOf (s : Step) (slot : Nat) : List Nat :=
  (s.recs.filter fun r => decide (r.slot = slot) && r.hasToken).map fun r => r.token

/-- Walk the tree from a node on (R384): draw, form the record, move to the child that carries the token. SAMPLED counts the
sample row alone (R346, R373). (DEDUCED, assumption log 57) -/
def Eng.treeWalk (b : BeatUnit) (p num : Nat) (r : Run) (x : Aux) (sp : SampP) (logp : Nat) (z : Nat → List Nat) :
    Nat → Option Nat → List Nat → List Nat → Nat → Eng → Eng
  | 0, _, _, _, _, e => e
  | f + 1, node, path, acc, n, e =>
    let raw := z (r.nodeRow node)
    let pos := e.rpromptLen r.slot + e.rgenerated r.slot + n
    if raw = [] then e else
    let c := e.chain p r.slot x sp path raw
    let e := e.onStep p num fun s => { s with anchors := kins r.slot (r.nodeRow node) (kdel s.anchors r.slot), accepted := kset [] s.accepted r.slot acc }
    match if c.2.any (fLt fNegInf) then rowDraw (e.noise r.slot pos raw.length) c.2 else none with
    | none => e.formRec b p num r.slot r.row0 pos none 0 stGrammarDead true
    | some tok =>
      let e := if node = none then e.bumpWrap (Reg.smpSampled p) 31 0 else e
      let e := if fPosFin sp.temp then e else e.bumpWrap (Reg.smpGreedy p) 31 0
      let lost := e.sourceLost p
      let v := e.judge p r.slot x sp tok (e.rgenerated r.slot + n + 1)
      let e := e.formRec b p num r.slot r.row0 pos (some tok) (logpOf logp raw c.1 c.2 tok) v.status v.terminal
      if lost then e else
      let e := e.gramMove b p r.slot v.move
      if v.terminal then e
      else match r.child node tok with
        | none => e
        | some j => Eng.treeWalk b p num r x sp logp z f (some j) (path ++ [tok]) (acc ++ [j]) (n + 1) e

/-- Sample a run whose logits stand in `z` by step row (R347, R355). `v` is the head's VOCAB. (DEDUCED, assumption log 57) -/
def Eng.sampleRun (b : BeatUnit) (p : Nat) (st : Step) (v : Nat) (z : Nat → List Nat) (r : Run) (e : Eng) : Eng :=
  let e := e.onStep p st.num fun s => { s with sampled := s.sampled ++ [r.slot], anchors := kins r.slot (r.nodeRow none) (kdel s.anchors r.slot) }
  let (x, e) := e.auxCheck p r.slot (some v)
  match x with
  | none => e.formRec b p st.num r.slot r.row0 (e.rpromptLen r.slot + e.rgenerated r.slot) none 0 stTenantFault true
  | some x => e.treeWalk b p st.num r x (e.sampP p r.slot) st.logp z 65 none [] [] 0

/-! ## EMIT (R146, R348, R368, R385) -/

/-- The node to which the last emitted token belongs, and the nodes accepted on the way: none where the tokens left the
tree (R385). (DEDUCED, assumption log 61) -/
def Run.pathOf (r : Run) : Option Nat → List Nat → List Nat → Option (List Nat)
  | _, acc, [] => some acc
  | _, acc, [_] => some acc
  | node, acc, t :: rest => match r.child node t with
    | none => none
    | some j => Run.pathOf r (some j) (acc ++ [j]) rest

/-- VOCAB of the main-head operation of a run, if one is queued or complete. -/
def Eng.headVocab (e : Eng) (p : Nat) (st : Step) (r : Run) : Option Nat :=
  ((st.doneOps ++ e.planeq.filter fun o => decide (o.part = p) && decide (o.step = st.num)).find? fun o =>
    decide (o.head = 0) && !o.back && decide (o.desc.profile = r.model) && decide (o.desc.version = r.version)).map fun o => o.desc.vocab

/-- EMIT of either kind: `final` is the status that FINAL gives. (DEDUCED, assumption logs 58, 61) (DEDUCED, assumption log
114) -/
def Eng.emit (b : BeatUnit) (i : Ins) (final : Option Nat) (e : Eng) : Eng :=
  let h := (e.sa i).toNat % 2 ^ 32
  let w := (e.sb i).toNat
  let p := i.p
  match e.slotOf p h with
  | none => e.raise b i fkRequest 2 h
  | some slot => match (e.req slot).inStep with
    | none => e.raiseBatch b i 2 0x06
    | some num => match e.stepOf p num with
      | none => e.raiseBatch b i 2 0x06
      | some st => match st.runOf slot with
        | none => e.raiseBatch b i 2 0x06
        | some r =>
          let mine := st.recs.filter fun x => decide (x.slot = slot)
          let toks := st.tokensOf slot
          let pos := e.rpromptLen slot + e.rgenerated slot + toks.length
          if !st.program then e.raiseBatch b i 2 0x09
          else if mine.any fun x => x.terminal then (e.ev (Reg.smpEvent p) 4).fin b i
          else if 9 ≤ mine.length then e.raiseBatch b i 2 0x07
          else match r.pathOf none [] (toks ++ [0]) with
            | none => ((e.bump (Reg.specBreaks p) 31 0).ev (Reg.specEvent p) 3).fin b i
            | some acc =>
              let (x, e) := e.auxCheck p slot (e.headVocab p st r)
              match x with
              | none => e.raise b i fkRequest 2 h
              | some x =>
                let tok := bitsOf w 19 0
                let admitted := match e.rgram slot with
                  | none => true
                  | some _ => gramAdmits (e.rgramHdr slot).vocab (e.gramEntries (e.rgramHdr slot) (e.rgramState slot)) (e.req slot).gstack tok
                let e : Eng :=
                  if bitsOf w 31 20 ≠ 0 ∨ admitted = false then e.formRec b p num slot 0 pos none 0 stTenantFault true
                  else
                    let v := e.judge p slot x (e.sampP p slot) tok (e.rgenerated slot + toks.length + 1)
                    let st' := if v.terminal then v.status else final.getD stOk
                    let lost := e.sourceLost p
                    let e := e.formRec b p num slot 0 pos (some tok) (bitsOf w 63 32) st' (v.terminal || final.isSome)
                    if lost then e else
                    let e := e.gramMove b p slot v.move
                    e.onStep p num fun s => { s with
                      anchors := kins slot (r.nodeRow acc.getLast?) (kdel s.anchors slot), accepted := kset [] s.accepted slot acc }
                (e.flushRecs b p num).fin b i

/-- EMIT TOKEN (R146). -/
def execEmitToken (i : Ins) (s : State) : Host.Outcome State Fault Refusal :=
  runIns (.emitToken i) ⟨0x3C, 0x00, .unused, .s, .s, 0⟩ i none (fun b e => e.emit b i none) s

/-- EMIT FINAL (R146): MOD must name STOP, LENGTH or GRAMMAR_DEAD. -/
def execEmitFinal (i : Ins) (s : State) : Host.Outcome State Fault Refusal :=
  runIns (.emitFinal i) ⟨0x3C, 0x01, .unused, .s, .s, 0xFF000000⟩ i
    (if i.mod = stStop ∨ i.mod = stLength ∨ i.mod = stGrammarDead then none else some 5)
    (fun b e => e.emit b i (some i.mod)) s

end Sys2Proof.Machine
end

