-- ==== Sys2Proof/Machine/Stage.lean ====
section
/-! DEFINITION. The hidden-state stage and the rows of plane operations (spec/12): returned rows, covered rows and their ranks, hidden elements, and where logits stand and when they are present. -/

namespace Sys2Proof.Machine

open Sys2Proof

/-! ## Rows (R285, R330, R377) -/

/-- The step rows of a run for which the host returns a hidden row (R285). -/
def Run.returned (r : Run) : List Nat :=
  if r.phase = phPrefill then (if r.last then [r.row0 + r.rows - 1] else [])
  else (List.range r.rows).map fun k => r.row0 + k

/-- The width of a request (R389). -/
def Eng.rwidth (e : Eng) (slot : Nat) : Nat := e.rqf slot 20 52 49

/-- The runs that an operation covers (R330, R377). -/
def Eng.opRuns (e : Eng) (st : Step) (o : PlaneOp) : List Run :=
  st.runs.filter fun r => decide (r.model = o.desc.profile) && decide (r.version = o.desc.version) && decide (r.returned ≠ []) &&
    (if o.head = 0 then true
     else decide (r.phase ≠ phLearn) && decide (o.head ≤ e.rwidth r.slot))

/-- The covered rows of an operation, in step-row order. (DEDUCED, assumption log 55) -/
def Eng.opRows (e : Eng) (st : Step) (o : PlaneOp) : List Nat := ((e.opRuns st o).map Run.returned).flatten

/-- Its covered rows of one pass; a row that an uncorrectable error has taken away counts as covered by no operation (R473). -/
def Eng.passRows (e : Eng) (st : Step) (o : PlaneOp) (pass : Nat) : List Nat :=
  ((((e.opRuns st o).filter fun r => decide (r.pass = pass)).map Run.returned).flatten).filter fun t => !st.ueRows.contains t

/-- The passes in which an operation covers a row, or did before an error took it away. -/
def Eng.opPasses (e : Eng) (st : Step) (o : PlaneOp) : List Nat :=
  [0, 1].filter fun k => (e.opRuns st o).any fun r => decide (r.pass = k)

/-- The run that holds a step row. -/
def Step.runAt (s : Step) (row : Nat) : Option Run := s.runs.find? fun r => decide (r.row0 ≤ row) && decide (row < r.row0 + r.rows)

/-! ## Hidden rows -/

/-- H of a profile (R216). -/
def Eng.hdim (e : Eng) (p m : Nat) : Nat := 128 * e.fld (Reg.admModelCfg p m) 8 0

/-- The R84 code of a profile's HFMT (R224). -/
def Eng.hfmt (e : Eng) (p m : Nat) : Nat :=
  match e.fld (Reg.admModelCfg p m) 30 28 with
  | 0 => 3
  | 1 => 4
  | 2 => 2
  | 3 => 5
  | _ => 6

/-- Element k of a hidden row of H elements in a format. (DESIGN CHOICE, assumption log 24) -/
def hidElem (fmt h : Nat) (row : List Byte) (k : Nat) : Fl :=
  if fmt = 2 then elValue 2 (fieldAt row (2 * k) 2) 0
  else if fmtMx fmt then elValue fmt (row.getD (Config.hidElemAt h k) 0).toNat (row.getD (Config.hidScaleAt h (k / 32)) 0).toNat
  else elValue fmt (row.getD k 0).toNat 0

/-- The hidden row that the stage holds for a step row (R325), gone once its pass is released (R326). -/
def Step.hidRow (st : Step) (row : Nat) : Option (List Byte) :=
  match st.runAt row with
  | none => none
  | some r => if st.released.contains r.pass then none else (st.hid.find? fun x => decide (x.1 = row)).map fun x => x.2

/-! ## Logits in memory (R334, R335) -/

/-- U of R320. -/
def unitBlocks (fmt : Nat) : Nat := if fmt = 9 then 2 else 1

/-- The units of an operation (R331). -/
def PlaneOp.unitCount (o : PlaneOp) : Nat := ceilDiv (ceilDiv o.desc.vocab 128) (unitBlocks o.desc.fmt)

/-- The vocabulary rows of a unit. -/
def PlaneOp.unitRange (o : PlaneOp) (u : Nat) : Nat × Nat :=
  let w := 128 * unitBlocks o.desc.fmt
  (u * w, min o.desc.vocab ((u + 1) * w))

/-- The address of the logit of vocabulary element v for the row of a rank (R334). -/
def PlaneOp.logitAt (o : PlaneOp) (rank v : Nat) : Nat := (o.desc.laddr + rank * o.desc.lstride * 4096 + 4 * v) % 2 ^ 64

/-- The rank of a row among an operation's covered rows. (DEDUCED, assumption log 55) -/
def Eng.rankOf (e : Eng) (st : Step) (o : PlaneOp) (row : Nat) : Nat := (e.opRows st o).idxOf row

/-- The main-head operation with WRITE, completed or queued, that covers a row: the first (R335). -/
def Eng.logitOp (e : Eng) (p : Nat) (st : Step) (row : Nat) : Option PlaneOp :=
  (st.doneOps ++ e.planeq.filter fun o => decide (o.part = p) && decide (o.step = st.num)).find? fun o =>
    decide (o.head = 0) && !o.back && o.desc.write && (e.opRows st o).contains row && !st.ueRows.contains row

/-- The logits of a row at columns `c` to `c + n - 1` are present: every 1,024-element block of them is written (R335).
`running` says that the pass is the operation's running one. -/
def PlaneOp.present (o : PlaneOp) (running : Bool) (pass c n : Nat) : Bool :=
  o.passesDone.contains pass ||
    (running && (List.range (ceilDiv o.desc.vocab 128)).all fun rb =>
      decide (rb / 8 < c / 1024) || decide ((c + n - 1) / 1024 < rb / 8) || o.units.contains (rb / unitBlocks o.desc.fmt))

end Sys2Proof.Machine
end

