-- ==== Sys2Proof/Machine/Vector.lean ====
section
/-! DEFINITION. The vector instructions (R81 to R87, R138 to R142): handle checks, spaces, element access, and one definition per instruction over the row operations. -/

namespace Sys2Proof.Machine

open Sys2Proof

/-! ## Operands (R81 to R85) -/

/-- The space codes (R82). -/
abbrev spNone : Nat := 0
abbrev spScratch : Nat := 1
abbrev spDevice : Nat := 2
abbrev spHidden : Nat := 3
abbrev spLogit : Nat := 4

/-- The step tag, row and column of a HIDDEN or LOGIT handle (R82). -/
def VHandle.tag (h : VHandle) : Nat := bitsOf h.base.toNat 63 48
def VHandle.row (h : VHandle) : Nat := bitsOf h.base.toNat 47 20
def VHandle.col (h : VHandle) : Nat := bitsOf h.base.toNat 19 0
def VHandle.sp (h : VHandle) : Nat := h.space.toNat
def VHandle.f (h : VHandle) : Nat := h.fmt.toNat

/-- A vector operand: its handle number, the operand field of R96, whether the instruction reads and writes it, and
what it accepts there (R140). -/
structure VOp where
  num : Nat
  field : Nat
  rd : Bool
  wr : Bool
  ok : VHandle → Bool

/-- Any floating format (VALU, VCVT, VRED). (DESIGN CHOICE, assumption log 110) -/
def okFloat (h : VHandle) : Bool := fmtFloat h.f
/-- A row: FP32 in LOGIT, SCRATCH or DEVICE space. -/
def okRow (h : VHandle) : Bool := decide (h.f = 1) && decide (h.sp ≠ spHidden)
/-- A BIT vector. -/
def okBit (h : VHandle) : Bool := decide (h.f = 13)
/-- An FP32 vector. -/
def okFp32 (h : VHandle) : Bool := decide (h.f = 1)

/-- Operands in the fields DST, SRCA and SRCB. -/
def vDst (i : Ins) (rd : Bool) (ok : VHandle → Bool) : VOp := ⟨i.dst.toNat, 1, rd, true, ok⟩
def vSrcA (i : Ins) (ok : VHandle → Bool) : VOp := ⟨i.srca.toNat, 2, true, false, ok⟩
def vSrcB (i : Ins) (ok : VHandle → Bool) : VOp := ⟨i.srcb.toNat, 3, true, false, ok⟩

/-- The check of R81 fails. -/
def VOp.bad (o : VOp) (x : Ctx) : Bool :=
  let h := x.vh o.num
  decide (h.sp = spNone) || decide (h.count.toNat < x.elen.toNat) || !o.ok h || (o.wr && decide (h.sp = spHidden))

/-- Bytes of an element that must be naturally aligned. -/
def elemSize (f : Nat) : Nat := if fmtBits f < 8 then 1 else fmtBits f / 8

/-- Bytes that n elements take from their base. -/
def vecBytes (f n : Nat) : Nat := (n * fmtBits f + 7) / 8

/-- The in-flight step that a tag names (R83). -/
def Eng.tagStep (e : Eng) (p tag : Nat) : Option Step := (e.part p).steps.find? fun s => decide (s.num % 65536 = tag)

/-- A range check of R83 or R101 that an operand fails: fault kind and DETAIL. (DEDUCED, assumption log 16) -/
def Eng.vRange (e : Eng) (p n : Nat) (o : VOp) (h : VHandle) : Option (Nat × Nat) :=
  let a := h.base.toNat
  match h.sp with
  | 1 =>
    if a % elemSize h.f ≠ 0 then some (fkScratch, a)
    else if 8192 < a + vecBytes h.f n then some (fkScratch, a + (8192 - a) * 8 / fmtBits h.f * fmtBits h.f / 8)
    else none
  | 2 => if a % elemSize h.f ≠ 0 then some (fkMem, a) else none
  | sp => match e.tagStep p h.tag with
    | none => some (fkHandle, o.num)
    | some st => match st.runAt h.row with
      | none => some (fkHandle, o.num)
      | some r =>
        if sp = spHidden then
          if h.f ≠ e.hfmt p r.model ∨ e.hdim p r.model < h.col + n then some (fkHandle, o.num) else none
        else match e.logitOp p st h.row with
          | none => some (fkHandle, o.num)
          | some op => if op.desc.vocab < h.col + n then some (fkHandle, o.num) else none

/-- Where the elements of an operand lie: in scratch, in memory, or in a hidden row of a dimension from a column on. -/
inductive Loc where
  | scratch (a : Nat)
  | mem (a : Nat)
  | hid (row : List Byte) (h col : Nat)
  deriving DecidableEq, Repr

/-- Where an operand lies, once its rows are present (R83, R335). -/
def Eng.vLoc (e : Eng) (p n : Nat) (h : VHandle) : Option Loc :=
  let a := h.base.toNat
  match h.sp with
  | 1 => some (.scratch a)
  | 2 => some (.mem a)
  | sp => match e.tagStep p h.tag with
    | none => none
    | some st => match st.runAt h.row with
      | none => none
      | some r =>
        if sp = spHidden then
          (st.hidRow h.row).map fun d => .hid d (e.hdim p r.model) h.col
        else match e.logitOp p st h.row with
          | none => none
          | some op =>
            if op.present (decide (e.planeCur = some (op.id, r.pass))) r.pass h.col n then
              some (.mem (op.logitAt (e.rankOf st op h.row) h.col))
            else none

/-- Where the scale of a block stands. (DESIGN CHOICE, assumption log 24) -/
def scaleAt (h : VHandle) (l : Loc) (k : Nat) : Nat :=
  let a := Config.mxScaleAt h.f h.base.toNat h.count.toNat k
  match l with
  | .scratch _ => a % 8192
  | _ => a % 2 ^ 64

/-- The address of an element, or of a block's scale, of an operand in memory that the host refuses (R102). (DESIGN CHOICE,
assumption log 29) -/
def Eng.vRefused (e : Eng) (p n : Nat) (o : VOp) (h : VHandle) (l : Loc) : Option Nat :=
  let bad := fun size x => (o.rd && e.refused (some p) false x size) || (o.wr && e.refused (some p) true x size)
  match l with
  | .mem a =>
    match if bad (vecBytes h.f n) a then ((List.range n).map fun k => a + k * fmtBits h.f / 8).find? (bad (elemSize h.f)) else none with
    | some x => some x
    | none => if fmtMx h.f then ((List.range (ceilDiv n 32)).map (scaleAt h l)).find? (bad 1) else none
  | _ => none

/-! ## Elements -/

/-- Bytes of a place. -/
def Eng.locBytes (e : Eng) (x : Ctx) : Loc → Nat → Nat → List Byte
  | .scratch a, off, n => (List.range n).map fun k => kget 0 x.scratch (a + off + k)
  | .mem a, off, n => e.bytes (a + off) n
  | .hid r _ _, off, n => bytesAt r off n

/-- The scale of a block. (DESIGN CHOICE, assumption log 24) -/
def Eng.scaleOf (e : Eng) (x : Ctx) (h : VHandle) (l : Loc) (k : Nat) : Nat :=
  match l with
  | .scratch _ => (kget 0 x.scratch (scaleAt h l k)).toNat
  | _ => (e.byte (scaleAt h l k)).toNat

/-- The elements of an operand: binary32 values for a floating format, codes for the others. -/
def Eng.vRead (e : Eng) (x : Ctx) (h : VHandle) (l : Loc) (n : Nat) : List Nat :=
  match l with
  | .hid r hd col => (List.range n).map fun k => toF32 (hidElem h.f hd r (col + k))
  | l =>
    let d := e.locBytes x l 0 (vecBytes h.f n)
    (List.range n).map fun k =>
      let c := packedAt (fmtBits h.f) k d
      if h.f = 1 then c
      else if fmtMx h.f then toF32 (elValue h.f c (e.scaleOf x h l (k / 32)))
      else if fmtFloat h.f then toF32 (elValue h.f c 0)
      else c

/-- Write bytes to a place. -/
def Eng.locStore (p c : Nat) (l : Loc) (off : Nat) (d : List Byte) (e : Eng) : Eng :=
  match l with
  | .scratch a => e.onCtx p c fun x => x.setScr (a + off) d
  | .mem a => e.store (a + off) d
  | .hid _ _ _ => e

/-- Write binary32 values to an operand, converting (R87, R140, R403). -/
def Eng.vWrite (p c : Nat) (h : VHandle) (l : Loc) (rnd : Nat → Option Word) (v : List Nat) (e : Eng) : Eng :=
  let (codes, scales) := encodeVec h.f rnd v
  let old := e.locBytes (e.ctx p c) l 0 (vecBytes h.f v.length)
  let e := e.locStore p c l 0 (packOver (fmtBits h.f) codes old)
  scales.zipIdx.foldl (init := e) fun e s => match l with
    | .scratch _ => e.onCtx p c fun x => x.setScr (scaleAt h l s.2) [BitVec.ofNat 8 s.1]
    | _ => e.store (scaleAt h l s.2) [BitVec.ofNat 8 s.1]

/-! ## The instruction's frame (R81, R83, R98) -/

/-- The slot of the request that s[srcb] names. -/
def Eng.reqB (e : Eng) (i : Ins) : Option Nat := e.slotOf i.p ((e.sb i).toNat % 2 ^ 32)

/-- Run a vector instruction: the operand checks in the order DST, SRCA, SRCB, with the request of SRCB where `req` asks;
ELEN; the range checks, `range` last; the wait for rows, or for the jump matrices where `rom` asks; refused accesses;
then the body on the operands' places. (R98 does not place ELEN: DESIGN CHOICE, assumption log 109) -/
def Eng.vec (self : Instr) (i : Ins) (ops : List VOp) (req : Bool) (range : Eng → Option (Nat × Nat × Nat)) (rom : Bool)
    (body : BeatUnit → Eng → List Loc → Eng) (b : BeatUnit) (e : Eng) : Eng :=
  let x := e.me i
  let n := x.elen.toNat
  match ops.find? fun o => o.bad x with
  | some o => e.raise b i fkHandle o.field o.num
  | none =>
    if req && (e.reqB i).isNone then e.raise b i fkRequest 3 ((e.sb i).toNat % 2 ^ 32)
    else if n = 0 then e.raise b i fkElen 0 0
    else match ops.findSome? fun o => (e.vRange i.p n o (x.vh o.num)).map fun r => (o.field, r) with
      | some (f, k, d) => e.raise b i k f d
      | none => match range e with
        | some (k, f, d) => e.raise b i k f d
        | none =>
          let locs := ops.filterMap fun o => e.vLoc i.p n (x.vh o.num)
          if locs.length < ops.length ∨ (rom ∧ e.romWait = true) then e.wait_ b i.p i.c (.rows self)
          else match (ops.zip locs).findSome? fun z => (e.vRefused i.p n z.1 (x.vh z.1.num) z.2).map fun a => (z.1.field, a) with
            | some (f, a) => e.raise b i fkMem f a
            | none => body b e locs

/-- No range check beyond the operands'. -/
def noRange (_ : Eng) : Option (Nat × Nat × Nat) := none

/-- The values of the k-th operand. -/
def Eng.vArg (e : Eng) (i : Ins) (num : Nat) (l : List Loc) (k : Nat) : List Nat :=
  let x := e.me i
  e.vRead x (x.vh num) (l.getD k (.scratch 0)) x.elen.toNat

/-- Write the result to v[dst], whose place is the first, and complete. -/
def Eng.vFin (b : BeatUnit) (i : Ins) (l : List Loc) (rnd : Nat → Option Word) (v : List Nat) (e : Eng) : Eng :=
  (e.vWrite i.p i.c ((e.me i).vh i.dst.toNat) (l.getD 0 (.scratch 0)) rnd v).fin b i

/-! ## VBIND (R139) -/

/-- The field of R96 for which VBIND raises HANDLE (R84, R85). (DEDUCED, assumption log 16) A HIDDEN handle whose tag and
row name no step in flight has no hidden format to compare and is bound. (DESIGN CHOICE, assumption log 108) -/
def Eng.bindBad (e : Eng) (p : Nat) (h : VHandle) : Option Nat :=
  let unit := if h.sp = spScratch ∨ h.sp = spDevice then 4 * fmtBits h.f else 32
  let base := if h.sp = spScratch ∨ h.sp = spDevice then h.base.toNat else h.col
  if fmtMx h.f ∧ base % unit ≠ 0 then some 2
  else if fmtMx h.f ∧ h.count.toNat % 32 ≠ 0 then some 3
  else if h.sp = spLogit ∧ h.f ≠ 1 then some 5
  else if h.sp = spHidden then
    match (e.tagStep p h.tag).bind fun st => st.runAt h.row with
    | some r => if h.f ≠ e.hfmt p r.model then some 5 else none
    | none => none
  else none

/-- VBIND: set a vector handle (R139). -/
def execVbind (i : Ins) (s : State) : Host.Outcome State Fault Refusal :=
  runIns (.vbind i) ⟨0x2C, 0x00, .v, .s, .s, 0xFF0000FF⟩ i (if 4 < i.mod ∨ 0x0D < i.imm24 % 256 then some 5 else none) (fun b e =>
    let h : VHandle := ⟨BitVec.ofNat 8 i.mod, BitVec.ofNat 8 i.imm24, e.sa i, (e.sb i).setWidth 32⟩
    if i.mod = spNone then e.finish b i.p i.c fun x => x.setV i.dst.toNat VHandle.unbound
    else match e.bindBad i.p h with
      | some f => e.raise b i fkHandle f i.dst.toNat
      | none => e.finish b i.p i.c fun x => x.setV i.dst.toNat h) s

/-! ## VALU and VCVT (R140, R141) -/

/-- A VALU operation on two operands. -/
def Eng.valu (self : Instr) (i : Ins) (f : Nat → Nat → Nat) : BeatUnit → Eng → Eng :=
  Eng.vec self i [vDst i false okFloat, vSrcA i okFloat, vSrcB i okFloat] false noRange false fun b e l =>
    e.vFin b i l (fun _ => none) (List.zipWith f (e.vArg i i.srca.toNat l 1) (e.vArg i i.srcb.toNat l 2))

/-- VADD: elementwise sum. -/
def execVadd (i : Ins) (s : State) : Host.Outcome State Fault Refusal :=
  runIns (.vadd i) ⟨0x2D, 0x00, .v, .v, .v, 0⟩ i none (Eng.valu (.vadd i) i fadd) s

/-- VSUB: elementwise difference. -/
def execVsub (i : Ins) (s : State) : Host.Outcome State Fault Refusal :=
  runIns (.vsub i) ⟨0x2D, 0x01, .v, .v, .v, 0⟩ i none (Eng.valu (.vsub i) i fsub) s

/-- VMUL: elementwise product. -/
def execVmul (i : Ins) (s : State) : Host.Outcome State Fault Refusal :=
  runIns (.vmul i) ⟨0x2D, 0x02, .v, .v, .v, 0⟩ i none (Eng.valu (.vmul i) i fmul) s

/-- VMAX: elementwise maximum, ranked as in R107. -/
def execVmax (i : Ins) (s : State) : Host.Outcome State Fault Refusal :=
  runIns (.vmax i) ⟨0x2D, 0x03, .v, .v, .v, 0⟩ i none (Eng.valu (.vmax i) i fmax) s

/-- VMIN: elementwise minimum, ranked as in R107. -/
def execVmin (i : Ins) (s : State) : Host.Outcome State Fault Refusal :=
  runIns (.vmin i) ⟨0x2D, 0x04, .v, .v, .v, 0⟩ i none (Eng.valu (.vmin i) i fmin) s

/-- VCOPY: elementwise copy with conversion. -/
def execVcopy (i : Ins) (s : State) : Host.Outcome State Fault Refusal :=
  runIns (.vcopy i) ⟨0x2D, 0x05, .v, .v, .unused, 0⟩ i none (Eng.vec (.vcopy i) i [vDst i false okFloat, vSrcA i okFloat] false noRange false
    fun b e l => e.vFin b i l (fun _ => none) ((e.vArg i i.srca.toNat l 1).map fcanon)) s

/-- VCVT: conversion, with stochastic rounding where MOD [0] is 1 (R140, R396, R403). -/
def execVcvt (i : Ins) (s : State) : Host.Outcome State Fault Refusal :=
  runIns (.vcvt i) ⟨0x2E, 0x00, .v, .v, .s, 0x01000000⟩ i none
    (Eng.vec (.vcvt i) i [vDst i false okFloat, vSrcA i okFloat] false noRange (decide (i.mod = 1)) fun b e l =>
      let ws := if i.mod = 1 then rillRow (e.sb i) 0 rpRound 0 0 (e.me i).elen.toNat else []
      e.vFin b i l (fun k => ws[k]?) ((e.vArg i i.srca.toNat l 1).map fcanon)) s

/-! ## VRED (R106, R107) -/

/-- A reduction of v[srca], of any floating format in any space, to s[dst], the bits that R141 does not name 0. (DESIGN
CHOICE, assumption logs 107 and 110) -/
def Eng.vred (self : Instr) (i : Ins) (f : List Nat → Nat) : BeatUnit → Eng → Eng :=
  Eng.vec self i [vSrcA i okFloat] false noRange false fun b e l => e.finS b i (BitVec.ofNat 64 (f (e.vArg i i.srca.toNat l 0)))

/-- VRED SUM. -/
def execVredSum (i : Ins) (s : State) : Host.Outcome State Fault Refusal :=
  runIns (.vredSum i) ⟨0x2F, 0x00, .s, .v, .unused, 0⟩ i none (Eng.vred (.vredSum i) i fun l => fcanon (reduceD fadd l)) s

/-- VRED MAX. -/
def execVredMax (i : Ins) (s : State) : Host.Outcome State Fault Refusal :=
  runIns (.vredMax i) ⟨0x2F, 0x01, .s, .v, .unused, 0⟩ i none (Eng.vred (.vredMax i) i fun l => fcanon (reduceD fmax l)) s

/-- VRED MIN. -/
def execVredMin (i : Ins) (s : State) : Host.Outcome State Fault Refusal :=
  runIns (.vredMin i) ⟨0x2F, 0x02, .s, .v, .unused, 0⟩ i none (Eng.vred (.vredMin i) i fun l => fcanon (reduceD fmin l)) s

/-- VRED ARGMAX: the index in s[dst][51:32]. -/
def execVredArgmax (i : Ins) (s : State) : Host.Outcome State Fault Refusal :=
  runIns (.vredArgmax i) ⟨0x2F, 0x03, .s, .v, .unused, 0⟩ i none
    (Eng.vred (.vredArgmax i) i fun l => let r := rowArgmax l; fcanon r.1 + r.2 * 2 ^ 32) s

/-! ## Masks, penalties and truncation (R141, R142) -/

/-- An instruction that rewrites the row v[dst]. (DESIGN CHOICE, assumption log 30) -/
def Eng.rowIns (self : Instr) (i : Ins) (src : List VOp) (req : Bool) (f : Eng → List Loc → List Nat → List Nat) : BeatUnit → Eng → Eng :=
  Eng.vec self i (vDst i true okRow :: src) req noRange false fun b e l =>
    e.vFin b i l (fun _ => none) (f e l (e.vArg i i.dst.toNat l 0))

/-- VMASK BITS. -/
def execVmaskBits (i : Ins) (s : State) : Host.Outcome State Fault Refusal :=
  runIns (.vmaskBits i) ⟨0x31, 0x00, .v, .v, .unused, 0⟩ i none
    (Eng.rowIns (.vmaskBits i) i [vSrcA i okBit] false fun e l z =>
      let m := e.vArg i i.srca.toNat l 1
      rowMask (fun k => decide (m.getD k 0 = 1)) z) s

/-- The mask bits of a request with no grammar, which the spec does not state: free values. (DESIGN CHOICE, assumption log 29;
DESIGN CHOICE, assumption log 54) -/
def Eng.freeMask (n : Nat) (e : Eng) : (Nat → Bool) × Eng :=
  (fun k => decide (Config.freePick (e.free + k) % 2 = 1), { e with free := e.free + n })

/-- VMASK GRAMMAR: the mask in the request's mask area (R359, R365). (DESIGN CHOICE, assumption log 54) (DEDUCED, assumption log 124) -/
def execVmaskGrammar (i : Ins) (s : State) : Host.Outcome State Fault Refusal :=
  runIns (.vmaskGrammar i) ⟨0x31, 0x01, .v, .unused, .s, 0⟩ i none
    (Eng.vec (.vmaskGrammar i) i [vDst i true okRow] true noRange false fun b e l =>
      let slot := (e.reqB i).getD 0
      let n := (e.me i).elen.toNat
      let z := e.vArg i i.dst.toNat l 0
      match e.rgram slot with
      | none => let (m, e) := e.freeMask n; e.vFin b i l (fun _ => none) (rowMask m z)
      | some _ =>
        if e.maskSmall i.p n then (e.auxErr i.p slot 0x07).raise b i fkRequest 3 ((e.sb i).toNat % 2 ^ 32)
        else (e.vFin b i l (fun _ => none) (rowMask (e.maskBit i.p slot) z)).partRead b i.p (e.maskAddr i.p slot + 256) (ceilDiv n 8)) s

/-- VMASK ALLOW: the allowed list of the request (R357, R359). -/
def execVmaskAllow (i : Ins) (s : State) : Host.Outcome State Fault Refusal :=
  runIns (.vmaskAllow i) ⟨0x31, 0x02, .v, .unused, .s, 0⟩ i none
    (Eng.vec (.vmaskAllow i) i [vDst i true okRow] true noRange false fun b e l =>
      let slot := (e.reqB i).getD 0
      let z := e.vArg i i.dst.toNat l 0
      let (x, e) := e.auxCheck i.p slot (some (e.me i).elen.toNat)
      match x with
      | none => e.raise b i fkRequest 3 ((e.sb i).toNat % 2 ^ 32)
      | some x => e.vFin b i l (fun _ => none) (rowMask (fun k => x.allow.contains k) z)) s

/-- VPEN BIAS. -/
def execVpenBias (i : Ins) (s : State) : Host.Outcome State Fault Refusal :=
  runIns (.vpenBias i) ⟨0x32, 0x00, .v, .v, .unused, 0⟩ i none
    (Eng.rowIns (.vpenBias i) i [vSrcA i okFp32] false fun e l z =>
      let m := e.vArg i i.srca.toNat l 1
      rowBias (fun k => m.getD k 0) z) s

/-- VPEN PENALTY: with the request's effective repetition and presence (R351); active penalties of a partition without a
penalty region raise REQUEST (R359). -/
def execVpenPenalty (i : Ins) (s : State) : Host.Outcome State Fault Refusal :=
  runIns (.vpenPenalty i) ⟨0x32, 0x01, .v, .v, .s, 0⟩ i none
    (Eng.vec (.vpenPenalty i) i [vDst i true okRow, vSrcA i okBit] true noRange false fun b e l =>
      let slot := (e.reqB i).getD 0
      let sp := e.sampP i.p slot
      if sp.penActive && !e.penOn i.p then (e.auxErr i.p slot 0x08).raise b i fkRequest 3 ((e.sb i).toNat % 2 ^ 32)
      else
        let m := e.vArg i i.srca.toNat l 1
        e.vFin b i l (fun _ => none) (rowPenalty sp.rep sp.pres (fun k => decide (m.getD k 0 = 1)) (e.vArg i i.dst.toNat l 0))) s

/-- VTEMP (R142). -/
def execVtemp (i : Ins) (s : State) : Host.Outcome State Fault Refusal :=
  runIns (.vtemp i) ⟨0x33, 0x00, .v, .s, .unused, 0⟩ i none
    (Eng.rowIns (.vtemp i) i [] false fun e _ z => rowTemp (bitsOf (e.sa i).toNat 31 0) z) s

/-- VTOPK. -/
def execVtopk (i : Ins) (s : State) : Host.Outcome State Fault Refusal :=
  runIns (.vtopk i) ⟨0x34, 0x00, .v, .s, .unused, 0⟩ i none
    (Eng.rowIns (.vtopk i) i [] false fun e _ z => rowTopk (bitsOf (e.sa i).toNat 20 0) z) s

/-- VTOPP (R352). -/
def execVtopp (i : Ins) (s : State) : Host.Outcome State Fault Refusal :=
  runIns (.vtopp i) ⟨0x35, 0x00, .v, .s, .unused, 0⟩ i none
    (Eng.rowIns (.vtopp i) i [] false fun e _ z => rowTopp (bitsOf (e.sa i).toNat 31 0) z) s

/-! ## Draws and log-probabilities -/

/-- The position whose token the next draw of a request gives (R353): tokens staged in its step count. -/
def Eng.drawPos (e : Eng) (p slot : Nat) : Nat :=
  e.rpromptLen slot + e.rgenerated slot + match (e.req slot).inStep with
    | none => 0
    | some num => ((e.stepOf p num).map fun st => (st.tokensOf slot).length).getD 0

/-- VGMX: the index of the greatest noisy element (R141, R353). -/
def execVgmx (i : Ins) (s : State) : Host.Outcome State Fault Refusal :=
  runIns (.vgmx i) ⟨0x36, 0x00, .s, .v, .s, 0⟩ i none
    (Eng.vec (.vgmx i) i [vSrcA i okRow] true noRange true fun b e l =>
      let slot := (e.reqB i).getD 0
      let z := e.vArg i i.srca.toNat l 0
      e.finS b i (match rowDraw (e.noise slot (e.drawPos i.p slot) z.length) z with
        | some k => BitVec.ofNat 64 (k % 2 ^ 20)
        | none => 2 ^ 63)) s

/-- VLSE: the row's log-sum-exp (R580), the upper half of s[dst] 0. (DESIGN CHOICE, assumption log 107) -/
def execVlse (i : Ins) (s : State) : Host.Outcome State Fault Refusal :=
  runIns (.vlse i) ⟨0x37, 0x00, .s, .v, .unused, 0⟩ i none
    (Eng.vec (.vlse i) i [vSrcA i okRow] false noRange false fun b e l => e.finS b i (BitVec.ofNat 64 (rowLse (e.vArg i i.srca.toNat l 0)))) s

/-- VLPROB: a token's log-probability; a token at or beyond elen raises HANDLE (R141). The upper half of s[dst]
is 0. (DESIGN CHOICE, assumption log 107) -/
def execVlprob (i : Ins) (s : State) : Host.Outcome State Fault Refusal :=
  runIns (.vlprob i) ⟨0x38, 0x00, .s, .v, .s, 0⟩ i none
    (Eng.vec (.vlprob i) i [vSrcA i okRow] false
      (fun e => if (e.me i).elen.toNat ≤ bitsOf (e.sb i).toNat 19 0 then some (fkHandle, 2, i.srca.toNat) else none) false
      fun b e l => e.finS b i (BitVec.ofNat 64 (rowLprob (e.vArg i i.srca.toNat l 0) (bitsOf (e.sb i).toNat 19 0)))) s

/-- VGRAD ROW: the logit gradient of a row. (DEDUCED, assumption log 124) -/
def execVgradRow (i : Ins) (s : State) : Host.Outcome State Fault Refusal :=
  runIns (.vgradRow i) ⟨0x39, 0x00, .v, .s, .s, 0⟩ i none
    (Eng.rowIns (.vgradRow i) i [] false fun e _ z => rowGrad (bitsOf (e.sb i).toNat 31 0) (bitsOf (e.sa i).toNat 19 0) z) s

end Sys2Proof.Machine
end

