-- ==== Sys2Proof/Machine/Plane.lean ====
section
/-! DEFINITION. The logit plane (spec/12, spec/14): head descriptors, the stage and its reservations, the plane queue, passes and units, Jet heads, learning forwards and BACK, with VPROJ and VGRAD BACK. -/

namespace Sys2Proof.Machine

open Sys2Proof

/-! ## Head descriptors (R322, R323, R375) -/

/-- The fields of a head descriptor. -/
def headDesc (a : Nat) (l : List Byte) : HeadDesc :=
  let f := fieldAt l
  { addr := a, fmt := f 0 1, write := (f 1 1).testBit 0, learn := (f 1 1).testBit 1, gfmt := bitsOf (f 1 1) 3 2,
    gacc := (f 1 1).testBit 4, profile := f 2 1 % 8, version := f 4 2, lstride := f 6 2, vocab := f 8 4 % 2 ^ 21,
    hidden := f 0xC 4 % 2 ^ 16, waddr := f 0x10 8, saddr := f 0x18 8, laddr := f 0x20 8, rkey := BitVec.ofNat 64 (f 0x28 8),
    aux := f 0x30 8 }

/-- A check of R323 other than residence fails. (DEDUCED, assumption log 55) -/
def Eng.headBad (e : Eng) (p a : Nat) (back : Bool) (l : List Byte) : Bool :=
  let f := fieldAt l
  let d := headDesc a l
  let cfg := Reg.admModelCfg p d.profile
  !crcGood l || decide (32 ≤ f 1 1) || decide (8 ≤ f 2 1) || decide (f 3 1 ≠ 0) || decide (2 ^ 21 ≤ f 8 4) ||
    decide (2 ^ 16 ≤ f 0xC 4) || decide (f 0x38 4 ≠ 0) || decide (d.fmt < 2) || decide (9 < d.fmt) || decide (d.gfmt = 3) ||
    !e.bit cfg 31 || decide (d.hidden ≠ e.hdim p d.profile) || decide (32768 < d.hidden) || decide (d.vocab < 1) || decide (1048576 < d.vocab) ||
    decide (d.waddr % 4096 ≠ 0) || decide (d.laddr % 4096 ≠ 0) || (d.learn && !d.write) ||
    (d.write && decide (d.lstride * 4096 < 4 * d.vocab)) || (back && (decide (d.aux = 0) || decide (d.aux % 4096 ≠ 0)))

/-- The fields of a bottleneck block (R375). -/
def bneckOf (l : List Byte) : Bneck :=
  let f := fieldAt l
  ⟨f 0 1, f 1 1, f 2 2, f 8 8, f 0x10 8, f 0x18 8, f 0x20 8⟩

/-- A check of a bottleneck block fails. -/
def bneckBad (l : List Byte) : Bool :=
  let f := fieldAt l
  let k := bneckOf l
  !crcGood l || decide (f 4 4 ≠ 0) || decide (fieldAt l 0x28 20 ≠ 0) || decide (k.fmt < 2) || decide (9 < k.fmt) || decide (1 < k.act) ||
    decide (k.rank % 128 ≠ 0) || decide (k.rank < 128) || decide (4096 < k.rank) || decide (k.down % 4096 ≠ 0) || decide (k.up % 4096 ≠ 0)

/-! ## Registers of the plane (R345) -/

/-- Granules of a pass's reservation (R325). -/
def Eng.granules (e : Eng) (p : Nat) (st : Step) (pass : Nat) : Nat :=
  ceilDiv ((st.runs.filter fun r => decide (r.pass = pass)).foldl (fun n r => n + r.returned.length * e.rowBytes p r.model) 0) 65536

/-- Granules reserved now. -/
def Eng.stageUsed (e : Eng) : Nat :=
  e.parts.foldl (init := 0) fun n x => x.2.steps.foldl (init := n) fun n st =>
    st.granted.foldl (fun n k => n + e.granules x.1 st k) n

/-- Show BUSY, QUEUED, QUEUE_HIGH and the stage's granules. -/
def Eng.showPlane (e : Eng) : Eng :=
  let n := e.planeq.length
  let g := e.stageUsed
  let e := (e.setF Reg.lplStatus 31 31 (if e.planeCur.isSome || e.planeStop.isSome then 1 else 0)).setF Reg.lplStatus 30 24 n
  let e := e.setF Reg.lplQueueHigh 6 0 (max n (e.fld Reg.lplQueueHigh 6 0))
  (e.setF Reg.lplStage 8 0 g).setF Reg.lplStage 24 16 (max g (e.fld Reg.lplStage 24 16))

/-! ## The stage (R325, R326, R546 to R548) -/

/-- An HROW that R548 discards. -/
def Eng.hrowBad (e : Eng) (h : HRowPkt) : Bool :=
  let p := h.part.val
  match e.stepOf p h.step.toNat with
  | none => true
  | some st => match st.runAt h.row.toNat with
    | none => true
    | some r => !(r.returned.contains h.row.toNat) || decide (h.bytes.toNat ≠ e.rowBytes p r.model) ||
        (st.hid.any fun x => decide (x.1 = h.row.toNat)) ||
        st.released.contains r.pass

/-- Place a row without the padding of its last flit (R546), or leave it in its port's buffer until its pass holds a reservation,
and behind the rows that wait there (R325, R548). -/
def Eng.placeRow (h : HRowPkt) (e : Eng) : Eng :=
  let p := h.part.val
  let num := h.step.toNat
  if e.hrowHeld.any fun x => decide (x.port = h.port) then { e with hrowHeld := e.hrowHeld ++ [h] }
  else if e.hrowBad h then e.bump Reg.glbHsDrop 15 0
  else
    let pass := (((e.stepOf p num).bind fun st => st.runAt h.row.toNat).map fun r => r.pass).getD 0
    if ((e.stepOf p num).map fun st => st.granted.contains pass).getD false then
      e.onStep p num fun s => { s with hid := kins h.row.toNat (h.payload.take h.bytes.toNat) s.hid }
    else
      let e : Eng := if e.stageq.contains (p, num, pass) then e else { e with stageq := e.stageq ++ [(p, num, pass)] }
      { e with hrowHeld := e.hrowHeld ++ [h] }

/-- Grant waiting reservations in order while whole ones fit (R325). (DEDUCED, assumption log 55) -/
def Eng.stageGrant : Nat → Eng → Eng
  | 0, e => e
  | f + 1, e => match e.stageq with
    | [] => e
    | (p, num, pass) :: rest =>
      match e.stepOf p num with
      | none => Eng.stageGrant f { e with stageq := rest }
      | some st =>
        if e.stageUsed + e.granules p st pass ≤ 256 then
          Eng.stageGrant f ((({ e with stageq := rest } : Eng).onStep p num fun s => { s with granted := s.granted ++ [pass] }))
        else e

/-- Grant what fits, and take in the rows that waited for it, in order; those behind them may ask in turn. -/
def Eng.stageRound (e : Eng) : Eng :=
  let e := e.stageGrant e.stageq.length
  e.hrowHeld.foldl (fun e h => e.placeRow h) { e with hrowHeld := [] }

/-- Grant reservations and take in rows for as long as that helps (R325, R548). -/
def Eng.stageFlow (e : Eng) : Eng :=
  ((List.range (e.hrowHeld.length + 1)).foldl (fun e _ => e.stageRound) e).showPlane

/-- Release a pass's reservation (R326). -/
def Eng.releasePass (p num pass : Nat) (e : Eng) : Eng :=
  let e := e.onStep p num fun s => { s with granted := s.granted.erase pass, released := if s.released.contains pass then s.released else s.released ++ [pass] }
  ({ e with stageq := e.stageq.filter (· ≠ (p, num, pass)) } : Eng).stageFlow

/-- The packet carries the row of a partition, step and number. (DESIGN CHOICE, assumption log 33) -/
def hrowNames (h : HRowPkt) (x : Nat × Nat × Nat × Nat) : Bool :=
  decide (x.1 = h.part.val) && decide (x.2.1 = h.step.toNat) && decide (x.2.2.1 = h.row.toNat)

/-- A step has left: the failures counted for its rows go. (DESIGN CHOICE, assumption log 33) -/
def Eng.rowsLeft (p num : Nat) (e : Eng) : Eng :=
  { e with hsBad := e.hsBad.filter fun x => !(decide (x.2.1 = p) && decide (x.2.2.1 = num)) }

/-- A packet without payload that leaves on VC 0 (R546). -/
def hsHeader (type p num row n : Nat) : List Byte :=
  padTo 64 ([BitVec.ofNat 8 type, BitVec.ofNat 8 p, 0, 0] ++ leBytes 6 num ++ [0, 0] ++ leBytes 4 row ++ leBytes 4 n)

/-- A packet whose flits failed their check (R547): RETRY; after three failures of one row in a row on one port the port
fails. (DESIGN CHOICE, assumption log 33) -/
def Eng.hrowFailed (b : BeatUnit) (h : HRowPkt) (e : Eng) : Eng :=
  let q := h.port.val
  let p := h.part.val
  let num := h.step.toNat
  let t := h.row.toNat
  let n := ((e.hsBad.find? fun x => decide (x.1 = q) && hrowNames h x.2).map fun x => x.2.2.2.2).getD 0 + 1
  let rest := e.hsBad.filter fun x => !(decide (x.1 = q) && hrowNames h x.2)
  let e : Eng := { e with hsBad := if (e.stepOf p num).isSome then rest ++ [(q, p, num, t, n)] else rest }
  let e := ((e.hsSend q 0 (hsHeader 0x83 p num t 0)).bump Reg.glbHsDrop 31 16).hsPump
  if 3 ≤ n then e.failHs b q else e

/-- HROW: a hidden-row packet is placed, discarded or asked for again (R325, R547, R548). -/
def execHrow (h : HRowPkt) (s : State) : Host.Outcome State Fault Refusal :=
  .next <| s.onPort fun b e =>
    if e.hsFailed h.port.val then e
    else if !h.crcOk then e.hrowFailed b h
    else
      let e : Eng := { e with hsBad := e.hsBad.filter fun x => !(decide (x.1 = h.port.val) && hrowNames h x.2) }
      (e.placeRow h).stageFlow

/-- STAGE_GRANT: a waiting reservation is granted once room exists (R325). -/
def execStageGrant (s : State) : Host.Outcome State Fault Refusal := .next <| s.onEng fun _ e => e.stageFlow

/-! ## The queue (R327, R329, R330) -/

/-- An operation has completed (R330, R336). -/
def Eng.opComplete (b : BeatUnit) (o : PlaneOp) (e : Eng) : Eng :=
  let e : Eng := { e with planeq := e.planeq.filter fun x => decide (x.id ≠ o.id) }
  let e := e.onStep o.part o.step fun s => { s with doneOps := s.doneOps ++ [{ o with z := [], units := [], redo := [], round := [], seats := [] }] }
  ((e.drainVersions o.part).showPlane).opDone b o.part o.step

/-- Queue an operation; one that covers no row completes at once. (DEDUCED, assumption log 55) -/
def Eng.queueOp (b : BeatUnit) (o : PlaneOp) (e : Eng) : Eng :=
  let e := ({ e with planeq := e.planeq ++ [o] } : Eng).showPlane
  match e.stepOf o.part o.step with
  | none => e
  | some st =>
    let e := if o.head = 0 ∧ o.back = false then
        ((e.opRuns st o).filter fun r => r.sampled).foldl (fun e r => e.padMask b o.part r.slot o.desc.vocab) e
      else e
    if e.opPasses st o = [] then e.opComplete b o else e

/-- A forward projection of the main head with WRITE, of a profile and version, is queued or complete (R344). -/
def Eng.forwardOf (e : Eng) (p : Nat) (st : Step) (d : HeadDesc) : Option PlaneOp :=
  (st.doneOps ++ e.planeq.filter fun o => decide (o.part = p) && decide (o.step = st.num)).find? fun o =>
    decide (o.head = 0) && !o.back && o.desc.write && decide (o.desc.profile = d.profile) && decide (o.desc.version = d.version)

/-- Why VPROJ or VGRAD BACK does not queue: fault kind, operand and DETAIL (R137, R323, R329, R344, R375). (DEDUCED,
assumption logs 16, 55) -/
def Eng.opBad (e : Eng) (p num a head : Nat) (back : Bool) : Option (Nat × Nat × Nat) :=
  match e.stepOf p num with
  | none => some (fkBatch, 2, 0x04)
  | some st =>
    let l := e.bytes a 64
    let d := headDesc a l
    if st.passes = 2 ∧ st.grouped then some (fkBatch, 2, 0x08)
    else if a % 64 ≠ 0 ∨ e.refused (some p) false a 64 = true ∨ e.headBad p a back l = true ∨ (head ≠ 0 ∧ d.learn = true) then some (fkMem, 3, a)
    else if head ≠ 0 ∧ (d.aux % 64 ≠ 0 ∨ e.refused (some p) false d.aux 64 = true ∨ bneckBad (e.bytes d.aux 64) = true) then some (fkMem, 3, d.aux)
    else if !e.resident p d.version then some (fkVersion, 3, d.version)
    else if back ∧ (e.forwardOf p st d).isNone then some (fkMem, 3, a)
    else none

/-- VPROJ or VGRAD BACK: read and check the descriptor, then queue, or wait for room (R143, R327). -/
def Eng.planeIns (b : BeatUnit) (i : Ins) (head : Nat) (back : Bool) (e : Eng) : Eng :=
  let num := (e.sa i).toNat
  let a := (e.sb i).toNat
  match e.opBad i.p num a head back with
  | some (k, f, d) => e.raise b i k f d
  | none =>
    let d := headDesc a (e.bytes a 64)
    let (id, e) := e.fresh
    let o : PlaneOp :=
      { id := id, part := i.p, step := num, head := head, back := back, desc := d,
        bneck := if head = 0 then none else some (bneckOf (e.bytes d.aux 64)), passesDone := [], units := [], redo := [], round := [], seats := [], z := [] }
    if e.planeWait ≠ [] ∨ 64 ≤ e.planeq.length then
      (({ e with planeWait := e.planeWait ++ [(i.p, i.c, o)] } : Eng).ev Reg.lplEvent 3).wait_ b i.p i.c .plane
    else (e.queueOp b o).fin b i

/-- VPROJ of the main head (R143). -/
def execVprojMain (i : Ins) (s : State) : Host.Outcome State Fault Refusal :=
  runIns (.vprojMain i) ⟨0x30, 0x00, .unused, .s, .s, 0⟩ i none (fun b e => e.planeIns b i 0 false) s

/-- VPROJ of a Jet head (R143, R375). -/
def execVprojJet (i : Ins) (head : Fin 8) (s : State) : Host.Outcome State Fault Refusal :=
  runIns (.vprojJet i head) ⟨0x30, head.val + 1, .unused, .s, .s, 0⟩ i none (fun b e => e.planeIns b i (head.val + 1) false) s

/-- VGRAD BACK (R143, R340). -/
def execVgradBack (i : Ins) (s : State) : Host.Outcome State Fault Refusal :=
  runIns (.vgradBack i) ⟨0x39, 0x01, .unused, .s, .s, 0⟩ i none (fun b e => e.planeIns b i 0 true) s

/-- PLANE_QUEUE_ROOM: a partition's first waiting operation is queued once there is room (R327); its step's group may have
formed meanwhile (R329). -/
def execPlaneQueueRoom (p : Fin 32) (s : State) : Host.Outcome State Fault Refusal :=
  .next <| s.onEng fun b e =>
    match e.planeWait.find? fun w => decide (w.1 = p.val) with
    | none => e
    | some (p, c, o) =>
      if 64 ≤ e.planeq.length then e
      else
        let e : Eng := { e with planeWait := e.planeWait.filter fun w => decide (w.2.2.id ≠ o.id) }
        match e.stepOf p o.step with
        | none => e.finish b p c id
        | some st =>
          if st.passes = 2 ∧ st.grouped then e.ctxFault b p c fkBatch 2 0x08 []
          else (e.queueOp b o).finish b p c id

/-! ## Passes (R328, R329, R338) -/

/-- The passes that an operation has still to run. -/
def Eng.passesLeft (e : Eng) (st : Step) (o : PlaneOp) : List Nat := (e.opPasses st o).filter fun k => !o.passesDone.contains k

/-- Some queued operation of a step has pass 0 to run. -/
def Eng.passZeroLeft (e : Eng) (p : Nat) (st : Step) : Bool :=
  e.planeq.any fun o => decide (o.part = p) && decide (o.step = st.num) && (e.passesLeft st o).contains 0

/-- A pass of an operation is eligible (R328, R329). -/
def Eng.passReady (e : Eng) (st : Step) (o : PlaneOp) (k : Nat) : Bool :=
  st.granted.contains k && (((e.passRows st o k).take 64).all fun t => (st.hidRow t).isSome) &&
    (!o.back || ((e.forwardOf o.part st o.desc).map fun f => f.passesDone.contains k).getD false) &&
    (decide (k = 0) || decide (st.passes ≠ 2) || (if st.grouped then st.released.contains 0 else !e.passZeroLeft o.part st))

/-- The eligible passes in queue order, with whether each is pass 0 of a step group that has formed. -/
def Eng.readyPasses (e : Eng) : List (Nat × Nat × Bool) :=
  (e.planeq.map fun o => match e.stepOf o.part o.step with
    | none => []
    | some st => ((e.passesLeft st o).filter fun k => e.passReady st o k).map fun k =>
        (o.id, k, decide (k = 0) && decide (st.passes = 2) && st.grouped)).flatten

/-- The pass to start: that of a formed step group first (R329), else the earliest queued. -/
def Eng.nextPass (e : Eng) : Option (Nat × Nat) :=
  let l := e.readyPasses
  let pick : Option (Nat × Nat × Bool) := match l.find? (fun x : Nat × Nat × Bool => x.2.2) with
    | some x => some x
    | none => l.head?
  pick.map fun x : Nat × Nat × Bool => (x.1, x.2.1)

/-- A queued operation. -/
def Eng.opOf (e : Eng) (id : Nat) : Option PlaneOp := e.planeq.find? fun o => decide (o.id = id)

/-- Change a queued operation. -/
def Eng.onOp (id : Nat) (f : PlaneOp → PlaneOp) (e : Eng) : Eng :=
  { e with planeq := e.planeq.map fun o => if o.id = id then f o else o }

/-- LEARN_ADDR (R338). -/
def Eng.learnAddr (e : Eng) (slot : Nat) : Nat := (e.rqw slot 17).toNat

/-- A learning block is unusable (R338). -/
def Eng.learnBad (e : Eng) (p slot : Nat) : Bool :=
  let a := e.learnAddr slot
  e.refused (some p) false a 64 || !crcGood (e.bytes a 64) || decide (e.num (a + 0x18) 36 ≠ 0)

/-- Read the learning blocks of the LEARN runs that a forward's pass covers, each once in the step (R338); what that forms for
privileged requests goes out at once (R423). -/
def Eng.learnBlocks (b : BeatUnit) (p : Nat) (st : Step) (rs : List Run) (e : Eng) : Eng :=
  Eng.flushPriv b p st.num <| rs.foldl (init := e) fun e r =>
    if r.phase ≠ phLearn ∨ r.slot = deadSlot ∨ (((e.stepOf p st.num).map fun s => s.learnRead.contains r.slot).getD true) = true then e
    else
    let e := e.onStep p st.num fun s => { s with learnRead := s.learnRead ++ [r.slot] }
    if e.learnBad p r.slot = false then e
    else
      (e.onStep p st.num fun s => { s with badLearn := s.badLearn ++ [r.slot] }).formRec b p st.num r.slot r.row0
        (e.rpromptLen r.slot + e.rgenerated r.slot) none 0 stTenantFault true

/-- C of R320. -/
def tileRows (fmt : Nat) : Nat := if fmt = 9 then 512 else 1024

/-- g of R331 for a number of rows. -/
def PlaneOp.groupSize (o : PlaneOp) (rows : Nat) : Nat := max 1 (ceilDiv rows (tileRows o.desc.fmt))

/-- The number of groups (R331). -/
def Eng.groupsOf (e : Eng) (rows : Nat) (o : PlaneOp) : Nat := max 1 (e.fld Reg.lplStatus 7 0 / o.groupSize rows)

/-- The units of the next round: group i takes the i-th of those that are left (R331, R344). -/
def Eng.roundOf (e : Eng) (rows : Nat) (o : PlaneOp) : List Nat :=
  ((List.range o.unitCount).filter fun u => !o.units.contains u).take (e.groupsOf rows o)

/-- Tiles that have failed without a spare leave the active ones (R319, R344): A falls, and the generator's lanes with it, 32 to a
tile (R410); the last active tile takes the logical number of the one that goes. (DESIGN CHOICE, assumption log 102) -/
def Eng.dropTiles (e : Eng) : Eng :=
  (sortBy (fun x y => decide (y < x)) e.tileGone).foldl (init := ({ e with tileGone := [] } : Eng)) fun e t =>
    let a := e.fld Reg.lplStatus 7 0 - 1
    let e : Eng := if t < a then { e with tileMap := remapTo e.tileMap t (physOf e.tileMap a) } else e
    (e.setF Reg.lplStatus 7 0 a).setF Reg.rngStatus 12 0 (32 * a)

/-- PLANE_PASS_START: the plane starts the earliest eligible pass, and forms a step group (R328, R329). -/
def execPlanePassStart (s : State) : Host.Outcome State Fault Refusal :=
  .next <| s.onEng fun b e =>
    if e.planeCur.isSome || e.planeStop.isSome || !e.tileDown.isEmpty then e
    else match e.nextPass with
      | none => e
      | some (id, k) => match e.opOf id with
        | none => e
        | some o => match e.stepOf o.part o.step with
          | none => e
          | some st =>
            let first := decide (st.passes = 2) && !st.grouped
            let e : Eng := ({ e with planeCur := some (id, k), planeRan := true } : Eng).onOp id fun o =>
              let o := { o with units := [], redo := [] }
              let l := e.roundOf (e.passRows st o k).length o
              { o with round := l, seats := l }
            let e := if first then e.onStep o.part o.step fun s => { s with grouped := true } else e
            let e := if first && !e.passZeroLeft o.part st then e.releasePass o.part o.step 0 else e
            let e := e.wr Reg.lplLastOp (BitVec.ofNat 32 (o.part * 2 ^ 27 + (if o.back then 2 ^ 24 else 0) + (if o.back then 1 else o.head) * 2 ^ 20 + o.step % 65536))
            let e := if !o.back then e.learnBlocks b o.part st ((e.opRuns st o).filter fun r => decide (r.pass = k)) else e
            e.showPlane

/-! ## Weights and products (R321, R324, R376) -/

/-- The number of an element in panel-major layout (R324). (DESIGN CHOICE, assumption log 95) -/
def panelIndex (vocab h v k : Nat) : Nat :=
  let j := v / 128
  let nj := min 128 (vocab - 128 * j)
  let p := k / 1024
  j * 128 * h + nj * 1024 * p + v % 128 * min 1024 (h - 1024 * p) + k % 1024

/-- The code of an element of a packed array in memory. (DESIGN CHOICE, assumption log 95) -/
def Eng.packedMem (e : Eng) (p base bits i : Nat) : Nat :=
  e.pnum p (base + i * bits / 8) ((i * bits % 8 + bits + 7) / 8) / 2 ^ (i * bits % 8) % 2 ^ bits

/-- A weight w[v, k] (R321, R324). -/
def Eng.weight (e : Eng) (p fmt wa sa vocab h v k : Nat) : Fl :=
  let i := panelIndex vocab h v k
  elValue fmt (e.packedMem p wa (fmtBits fmt) i) (if fmtMx fmt then (e.pbyte p (sa + i / 32)).toNat else 0)

/-- A product formed exactly and rounded, then added (R321). -/
def macc (acc : Nat) (w h : Fl) : Nat := fadd acc (toF32 (flMul w h))

/-- The dot product over increasing k (R321). -/
def dot (n : Nat) (w h : Nat → Fl) : Nat := (List.range n).foldl (fun acc k => macc acc (w k) (h k)) 0

/-- The hidden elements of a covered row. -/
def Eng.hidVec (e : Eng) (o : PlaneOp) (row : List Byte) : List Fl :=
  (List.range o.desc.hidden).map fun k => hidElem (e.hfmt o.part o.desc.profile) o.desc.hidden row k

/-- act of R376: SiLU or ReLU. (DEDUCED, assumption log 48) -/
def actOf (act u : Nat) : Nat := if act = 0 then fdiv u (fadd fOne (fexp (u ^^^ 0x80000000))) else fmax u 0

/-- Values as another format reads them after conversion (R87). -/
def through (f : Nat) (l : List Nat) : List Fl :=
  let (codes, scales) := encodeVec f (fun _ => none) l
  codes.zipIdx.map fun x => elValue f x.1 (scales.getD (x.2 / 32) 0)

/-- The drafted hidden row h′ of a Jet head (R376). -/
def Eng.jetRow (e : Eng) (o : PlaneOp) (k : Bneck) (h : List Fl) : List Fl :=
  let p := o.part
  let n := o.desc.hidden
  let hv := fun i => h.getD i .nan
  let a := through 2 ((List.range k.rank).map fun j => actOf k.act (dot n (fun i => e.weight p k.fmt k.down k.downScale k.rank n j i) hv))
  let av := fun i => a.getD i .nan
  through (e.hfmt p o.desc.profile) ((List.range n).map fun i =>
    fadd (toF32 (hv i)) (dot k.rank (fun j => e.weight p k.fmt k.up k.upScale n k.rank i j) av))

/-- The row that the head projects. -/
def Eng.projRow (e : Eng) (o : PlaneOp) (row : List Byte) : List Fl :=
  let h := e.hidVec o row
  match o.bneck with
  | some k => e.jetRow o k h
  | none => h

/-- The logits of a row over a unit's vocabulary. -/
def Eng.unitLogits (e : Eng) (o : PlaneOp) (u : Nat) (row : List Byte) : List Nat :=
  let h := e.projRow o row
  let r := o.unitRange u
  (List.range (r.2 - r.1)).map fun i =>
    dot o.desc.hidden (fun k => e.weight o.part o.desc.fmt o.desc.waddr o.desc.saddr o.desc.vocab o.desc.hidden (r.1 + i) k) fun k => h.getD k .nan

/-- The reads of a unit's weights, which may draw errors (R581). -/
def Eng.readUnit (b : BeatUnit) (o : PlaneOp) (u : Nat) (e : Eng) : Eng :=
  let r := o.unitRange u
  let e := e.partRead b o.part (o.desc.waddr + r.1 * o.desc.hidden * fmtBits o.desc.fmt / 8) ((r.2 - r.1) * o.desc.hidden * fmtBits o.desc.fmt / 8)
  let e := if fmtMx o.desc.fmt then e.partRead b o.part (o.desc.saddr + r.1 * o.desc.hidden / 32) ((r.2 - r.1) * o.desc.hidden / 32) else e
  match o.bneck with
  | none => e
  | some k =>
    let n := k.rank * o.desc.hidden
    let e := (e.partRead b o.part k.down (n * fmtBits k.fmt / 8)).partRead b o.part k.up (n * fmtBits k.fmt / 8)
    if fmtMx k.fmt then (e.partRead b o.part k.downScale (n / 32)).partRead b o.part k.upScale (n / 32) else e

/-! ## Units (R331, R334, R337, R475) -/

/-- The logical tile on which a mismatch of a unit stands: which member of its group is open. (DESIGN CHOICE, assumption log
93) -/
def Eng.tileOf (e : Eng) (rows : Nat) (o : PlaneOp) (u : Nat) : Nat × Eng :=
  let g := o.groupSize rows
  let (k, e) := e.drawFree
  (o.seats.idxOf u * g + Config.freePick k % g, e)

/-- The physical tile behind a logical number (R474). -/
def Eng.physTile (e : Eng) (t : Nat) : Nat := physOf e.tileMap t

/-- The round ends when all its units are done, and the next one starts (R331, R337, R344). -/
def Eng.roundStep (id rows : Nat) (e : Eng) : Eng :=
  match e.opOf id with
  | none => e
  | some o =>
    if !o.round.all fun u => o.units.contains u then e
    else
      let e := e.dropTiles
      e.onOp id fun o => { o with round := e.roundOf rows o, seats := e.roundOf rows o }

/-- A tile fails (R337, R344, R475, R482): a spare is awaited, behind those that failed before it (R487), or without one A falls
from the next round and its unit runs in a later one. (DESIGN CHOICE, assumption log 102) -/
def Eng.tileFail (b : BeatUnit) (o : PlaneOp) (rows t u : Nat) (e : Eng) : Eng :=
  let left := e.sparesLeft spTiles - e.tileDown.length
  let ph := e.physTile t
  let e := (e.ev Reg.lplEvent 1).engFault b 0x80 none (engDetail ukTile ph t 0 0 0 (left - 1))
  if left = 0 then
    let e := (e.sparesOut b ukTile ph t none).recoverAll b
    (({ e with tileGone := e.tileGone ++ [t] } : Eng).onOp o.id fun o => { o with round := o.round.erase u }).roundStep o.id rows
  else { e with tileDown := e.tileDown ++ [(t, u)] }

/-- A tile whose accumulators of a unit are lost executes it again for its own rows; a second loss in the re-execution fails the
tile (R337, R475). -/
def Eng.reexec (b : BeatUnit) (o : PlaneOp) (rows t u : Nat) (e : Eng) : Eng :=
  if o.redo.contains (u, t) then (e.onOp o.id fun o => { o with redo := o.redo.erase (u, t) }).tileFail b o rows t u
  else (e.bump Reg.lplReexecCount 31 0).onOp o.id fun o => { o with redo := o.redo ++ [(u, t)] }

/-- A residue mismatch is counted (R337): the tile on which it stands, and the engine. (DEDUCED, assumption log 35) -/
def Eng.residue (o : PlaneOp) (rows u : Nat) (e : Eng) : Nat × Eng :=
  let (t, e) := e.tileOf rows o u
  (t, ((e.bump Reg.lplResidueCount 31 0).ev Reg.lplEvent 0).wr Reg.lplLastResidue (BitVec.ofNat 32 (e.physTile t * 2 ^ 24 + u % 65536)))

/-- A residue mismatch at a unit, whose weights that execution has read (R337). (DEDUCED, assumption log 35) -/
def Eng.mismatch (b : BeatUnit) (o : PlaneOp) (rows u : Nat) (e : Eng) : Eng :=
  let (t, e) := (e.readUnit b o u).residue o rows u
  e.reexec b o rows t u

/-- A unit of an abandoned pass ends, finished or lost: the last one of its round ends the pass (R333, R344). -/
def Eng.stopUnit (u : Nat) (e : Eng) : Eng :=
  match e.planeStop with
  | none => e
  | some (o, rows, l) =>
    let l := l.erase u
    if l = [] then ((({ e with planeStop := none } : Eng).dropTiles).ev Reg.lplEvent 4).showPlane
    else { e with planeStop := some (o, rows, l) }

/-- A unit finishes for the rows of the running pass: its logits, written where WRITE is set (R334). -/
def Eng.unitDone (b : BeatUnit) (st : Step) (o : PlaneOp) (k u : Nat) (e : Eng) : Eng :=
  let e := e.readUnit b o u
  let e := (e.passRows st o k).foldl (init := e) fun e t =>
    let z := e.unitLogits o u ((st.hidRow t).getD [])
    let e := e.onOp o.id fun o => { o with z := kset [] o.z (u * 2 ^ 20 + t) z }
    if o.desc.write then e.partStore b o.part (o.logitAt (e.rankOf st o t) (o.unitRange u).1) ((z.map fun x => leBytes 4 x).flatten) else e
  e.onOp o.id fun o => { o with units := o.units ++ [u] }

/-- The running pass: its operation, its step and its number. -/
def Eng.running? (e : Eng) : Option (PlaneOp × Step × Nat) :=
  e.planeCur.bind fun c => (e.opOf c.1).bind fun o => (e.stepOf o.part o.step).map fun st => (o, st, c.2)

/-- Every row of a pass is present (R333). -/
def Eng.passPresent (e : Eng) (st : Step) (o : PlaneOp) (k : Nat) : Bool := (e.passRows st o k).all fun t => (st.hidRow t).isSome

/-- The failed tile of a unit waits for its spare (R475). -/
def Eng.unitHeld (e : Eng) (u : Nat) : Bool := e.tileDown.any fun x => decide (x.2 = u)

/-- PLANE_UNIT_DONE: the last panel of a unit of the round completes, or its residues mismatch (R331, R334, R337); in the
last round of an abandoned pass it writes nothing, and a re-execution is cancelled (R333, R344). -/
def execPlaneUnitDone (unit : Nat) (mismatch : Bool) (s : State) : Host.Outcome State Fault Refusal :=
  .next <| s.onEng fun b e =>
    match e.planeStop with
    | some (o, rows, l) => if !l.contains unit then e else (if mismatch then (e.residue o rows unit).2 else e).stopUnit unit
    | none => match e.running? with
      | none => e
      | some (o, st, k) =>
        let rows := (e.passRows st o k).length
        if !e.passPresent st o k || !o.round.contains unit || o.units.contains unit || e.unitHeld unit then e
        else if mismatch then e.mismatch b o rows unit
        else (if o.back then e.onOp o.id fun o => { o with units := o.units ++ [unit] } else e.unitDone b st o k unit).roundStep o.id rows

/-- A spare takes the logical number of the tile that failed first (R474, R475, R487). (DESIGN CHOICE, assumption log 102) -/
def Eng.tileSwap (e : Eng) : Eng :=
  match e.tileDown with
  | [] => e
  | (t, _) :: r => ({ e with tileDown := r, tileMap := remapTo e.tileMap t (e.nextSpare spTiles 128 8) } : Eng).useSpare spTiles

/-- TILE_SPARE_SWAP: a spare takes a failed tile's logical number, and the unit runs again (R475); the remapping starts RECOVER
(R481). -/
def execTileSpareSwap (s : State) : Host.Outcome State Fault Refusal :=
  .next <| s.onEng fun b e =>
    if e.tileDown = [] then e else e.tileSwap.recoverAll b

/-! ## Drafts (R377) -/

/-- Entry j of a partition's tree template: PARENT and RANK (R391). -/
def Eng.treeEnt (e : Eng) (p j : Nat) : Nat × Nat :=
  let r := Reg.specTree p (j / 2)
  if j % 2 = 0 then (e.fld r 11 5, e.fld r 4 0) else (e.fld r 27 21, e.fld r 20 16)

/-- The depths of the template's entries, in order. -/
def Eng.treeDepths (e : Eng) (p : Nat) : List Nat :=
  (List.range (min 64 (e.fld (Reg.specCtrl p) 6 0))).foldl (init := []) fun l j =>
    let a := (e.treeEnt p j).1
    l ++ [if a = 0x7F then 1 else l.getD a 0 + 1]

/-- L_d (R377). -/
def Eng.draftLen (e : Eng) (p d : Nat) : Nat :=
  ((e.treeDepths p).zipIdx.filter fun x => decide (x.1 = d)).foldl (fun n x => max n ((e.treeEnt p x.2).2 + 1)) 0

/-- The logits of a row in a pass that has run every unit. -/
def PlaneOp.rowLogits (o : PlaneOp) (t : Nat) : List Nat := ((List.range o.unitCount).map fun u => kget [] o.z (u * 2 ^ 20 + t)).flatten

/-- The lists of a Jet head for the rows of a pass. -/
def Eng.draftLists (st : Step) (o : PlaneOp) (k : Nat) (e : Eng) : Eng :=
  let n := e.draftLen o.part o.head
  (e.passRows st o k).foldl (init := e) fun e t =>
    if (((st.runAt t).map fun r => decide (r.phase = phDecode) || (decide (r.phase = phPrefill) && r.last)).getD false) then
      let l := ((ranking (o.rowLogits t)).take n).map fun x => x.2
      e.onStep o.part o.step fun s => { s with drafts := kins (16 * t + o.head) l (kdel s.drafts (16 * t + o.head)) }
    else e

/-! ## Learning (R339 to R342) -/

/-- The target of a row at sequence position q (R339). -/
def Eng.targetOf (e : Eng) (p slot q : Nat) : Option Nat :=
  if q + 1 < e.rpromptLen slot then some (e.pnum p ((e.rqw slot 3).toNat + 4 * (q + 1)) 4 % 2 ^ 20) else none

/-- A LEARN row of the forward: its log-sum-exp and log-probability, written and kept with its target and advantage. (DESIGN
CHOICE, assumption log 56) -/
def Eng.learnRow (b : BeatUnit) (o : PlaneOp) (r : Run) (t : Nat) (e : Eng) : Eng :=
  let p := o.part
  let q := r.pos0 + (t - r.row0)
  let a := e.learnAddr r.slot
  let z := o.rowLogits t
  let lse := rowLse z
  let target := e.targetOf p r.slot q
  let e := if target.isSome then e.partRead b p ((e.rqw r.slot 3).toNat + 4 * (q + 1)) 4 else e
  let (k, e) := e.drawFree
  let logp := match target with
    | none => 0
    | some v => if v < z.length then fsub (z.getD v 0) lse else (Config.freeWord k).toNat % 2 ^ 32
  let adv := e.pnum p (e.num a 8 + 4 * q) 4
  let e := e.partRead b p (e.num a 8 + 4 * q) 4
  let e := e.partStore b p (e.num (a + 8) 8 + 4 * q) (leBytes 4 logp)
  let e := if e.num (a + 16) 8 = 0 then e else e.partStore b p (e.num (a + 16) 8 + 4 * q) (leBytes 4 lse)
  e.onStep p o.step fun s => { s with learn := kins t (BitVec.ofNat 32 lse, target, BitVec.ofNat 32 adv) (kdel s.learn t) }

/-- A LEARN row that an uncorrectable error has taken away (R473): a NaN log-probability and a report of layer 0xFFF. -/
def Eng.lostRow (b : BeatUnit) (p : Nat) (r : Run) (t : Nat) (e : Eng) : Eng :=
  (e.partStore b p (e.num (e.learnAddr r.slot + 8) 8 + 4 * (r.pos0 + (t - r.row0))) (leBytes 4 qnan)).nfReport p 0xFFF

/-- The LEARN rows of a pass of a forward with LEARN (R339). -/
def Eng.learnRows (b : BeatUnit) (st : Step) (o : PlaneOp) (k : Nat) (e : Eng) : Eng :=
  ((e.opRuns st o).filter fun r => decide (r.pass = k) && decide (r.phase = phLearn) && !st.badLearn.contains r.slot).foldl (init := e) fun e r =>
    r.returned.foldl (fun e t => if st.ueRows.contains t then e.lostRow b o.part r t else e.learnRow b o r t) e

/-- What a LEARN row brings to BACK: log-sum-exp, target and advantage; without a target its gradient is 0. A row that no
forward with LEARN covered has no such values stated: the first two are free values. -/
def Eng.backRow (e : Eng) (st : Step) (t : Nat) : Nat × Option Nat × Nat :=
  if ((st.runAt t).map fun r => st.badLearn.contains r.slot).getD true then (0, none, 0)
  else match st.learn.find? fun x => decide (x.1 = t) with
    | some x => (x.2.1.toNat, x.2.2.1, x.2.2.2.toNat)
    | none =>
      let target := (st.runAt t).bind fun r => e.targetOf ((r.handle / 2 ^ 27) % 32) r.slot (r.pos0 + (t - r.row0))
      ((Config.freeWord (e.free + 2 * t)).toNat % 2 ^ 32, target, (Config.freeWord (e.free + 2 * t + 1)).toNat % 2 ^ 32)

/-- The gradient at the logits of a row, in BF16 (R340). -/
def Eng.dzRow (e : Eng) (st : Step) (fwd o : PlaneOp) (t : Nat) : List Fl :=
  let (lse, target, adv) := e.backRow st t
  let rank := e.rankOf st fwd t
  (List.range o.desc.vocab).map fun v =>
    match target with
    | none => .fin false 0 0
    | some x =>
      let z := e.pnum o.part (fwd.logitAt rank v) 4
      let d := fmul adv (fsub (fexp (fsub z lse)) (if v = x then fOne else 0))
      fmtBf16.read (fmtBf16.write (unF32 d))

/-- A sum from +0.0 of exact products, one at a time in binary32 (R340). -/
def exactSum (l : List (Fl × Fl)) : Nat := l.foldl (fun acc x => toF32 (flAdd (unF32 acc) (flMul x.1 x.2))) 0

/-- The gradient format of GFMT as an R84 code. -/
def gradFmt : Nat → Nat
  | 0 => 2
  | 1 => 3
  | _ => 4

/-- A written code that is not finite (R342). -/
def codeInfinite (f c : Nat) : Bool :=
  match (elFmt f).read c with
  | .fin _ _ _ => false
  | _ => true

/-- One element of dW for a chunk (R341): the code and its address. -/
def Eng.dwElem (e : Eng) (o : PlaneOp) (chunk v k sum : Nat) : Nat × Nat :=
  let f := gradFmt o.desc.gfmt
  let n := fmtBits f / 8
  let a := (o.desc.aux + panelIndex o.desc.vocab o.desc.hidden v k * n) % 2 ^ 64
  let x := if chunk = 0 ∧ o.desc.gacc = false then sum else fadd (toF32 (elValue f (e.pnum o.part a n) 0)) sum
  (elCode f 0 (some (rillWord o.desc.rkey 0 rpRound chunk (v * o.desc.hidden + k))) x, a)

/-- A chunk of dW is written (R340, R341): the engine and whether a value was not finite. -/
def Eng.dwChunk (b : BeatUnit) (st : Step) (fwd o : PlaneOp) (chunk : Nat) (rows : List Nat) (e : Eng) : Bool × Eng :=
  let f := gradFmt o.desc.gfmt
  let n := fmtBits f / 8
  let data := rows.map fun t => (e.dzRow st fwd o t, e.hidVec o ((st.hid.find? fun x => decide (x.1 = t)).map (fun x => x.2) |>.getD []))
  let e := if chunk = 0 ∧ o.desc.gacc = false then e else e.partRead b o.part o.desc.aux (o.desc.vocab * o.desc.hidden * n)
  (List.range (o.desc.vocab * o.desc.hidden)).foldl (init := (false, e)) fun x i =>
    let v := i / o.desc.hidden
    let k := i % o.desc.hidden
    let (c, a) := x.2.dwElem o chunk v k (exactSum (data.map fun d => (d.1.getD v .nan, d.2.getD k .nan)))
    (x.1 || codeInfinite f c, x.2.partStore b o.part a (leBytes n c))

/-- dh of a row in BF16 (R340, R341). -/
def Eng.dhRow (e : Eng) (st : Step) (fwd o : PlaneOp) (t : Nat) : List Nat :=
  let dz := e.dzRow st fwd o t
  let rank := e.rankOf st o t
  (List.range o.desc.hidden).map fun k =>
    let s := exactSum (dz.zipIdx.map fun x => (x.1, e.weight o.part o.desc.fmt o.desc.waddr o.desc.saddr o.desc.vocab o.desc.hidden x.2 k))
    elCode 2 0 (some (rillWord o.desc.rkey 1 rpRound 0 (rank * o.desc.hidden + k))) s

/-- The covered LEARN rows, in step-row order (R340). -/
def Eng.learnRowsOf (e : Eng) (st : Step) (o : PlaneOp) : List Nat :=
  (((e.opRuns st o).filter fun r => decide (r.phase = phLearn)).map Run.returned).flatten

/-- The chunks whose last covered LEARN row lies in a pass: number and rows (R340). -/
def Eng.chunksOf (e : Eng) (st : Step) (o : PlaneOp) (pass : Nat) : List (Nat × List Nat) :=
  let rows := e.learnRowsOf st o
  let cs := (blocks 512 (rows.length / 512 + 1) rows).zipIdx
  (cs.filter fun c => decide ((c.1.getLast?.bind fun t => st.runAt t).map (fun r => r.pass) = some pass)).map fun c =>
    (c.2, c.1.filter fun t => !st.ueRows.contains t)

/-- A pass of BACK (R340 to R342, R445): dh of its LEARN rows leaves in step-row order, dW is written chunk by chunk; a value
that is not finite makes a report of layer 0xFFF. -/
def Eng.backPass (b : BeatUnit) (st : Step) (o : PlaneOp) (k : Nat) (e : Eng) : Eng :=
  match e.forwardOf o.part st o.desc with
  | none => e
  | some fwd =>
    let e := (List.range o.unitCount).foldl (fun e u => e.readUnit b o u) e
    let rows := (e.passRows st o k).filter fun t => (e.learnRowsOf st o).contains t
    let e := rows.foldl (fun e t => e.partRead b o.part (fwd.logitAt (e.rankOf st fwd t) 0) (4 * o.desc.vocab)) e
    let dh := rows.map fun t => (t, e.dhRow st fwd o t)
    let e := dh.foldl (init := e) fun e x =>
      e.hsSend 8 0 (hsHeader 0x81 o.part o.step x.1 (2 * o.desc.hidden) ++ flitPad ((x.2.map fun c => leBytes 2 c).flatten))
    let e := e.hsPump
    let (bad, e) := (e.chunksOf st o k).foldl (init := (dh.any fun x => x.2.any fun c => codeInfinite 2 c, e)) fun x c =>
      let (f, e) := x.2.dwChunk b st fwd o c.1 c.2
      (x.1 || f, e)
    if bad then (((e.bump Reg.lplNfCount 31 0).wr Reg.lplNfLast (BitVec.ofNat 32 (o.part * 2 ^ 27 + o.step % 65536))).ev Reg.lplEvent 2).nfReport o.part 0xFFF
    else e

/-! ## The end of a pass (R331, R347, R377) -/

/-- The AUTO tail, which follows the operation's last row-block (R372): every covered sample row not yet sampled, those of an
earlier pass too (R347). (DEDUCED, assumption log 57) -/
def Eng.autoTail (b : BeatUnit) (st : Step) (o : PlaneOp) (e : Eng) : Eng :=
  if st.program ∨ o.head ≠ 0 ∨ o.back then e
  else ((e.opRuns st o).filter fun r => r.sampled && !st.sampled.contains r.slot && !st.ueRows.contains (r.nodeRow none)).foldl (init := e) fun e r =>
    e.sampleRun b o.part st o.desc.vocab (fun t => o.rowLogits t) r

/-- PLANE_PASS_END: a pass completes, with what follows from its logits (R326, R331, R339, R341, R347, R377). -/
def execPlanePassEnd (s : State) : Host.Outcome State Fault Refusal :=
  .next <| s.onEng fun b e =>
    match e.running? with
    | none => e
    | some (o, st, k) =>
      let unfinished := !o.back && decide (e.passRows st o k ≠ []) && !(List.range o.unitCount).all fun u => o.units.contains u
      let last := decide (e.passesLeft st { o with passesDone := o.passesDone ++ [k] } = [])
      let noise := e.romWait && (o.back || (last && !st.program && decide (o.head = 0)))
      if unfinished || !e.passPresent st o k || !e.tileDown.isEmpty || decide (o.redo.any fun x => !o.units.contains x.1) || noise then e
      else
        let e := e.bumpWrap (if o.back then Reg.lplBacks else Reg.lplProjs) 31 0
        let e := if o.back then e.backPass b st o k
          else if o.desc.learn then e.learnRows b st o k
          else if o.head ≠ 0 then e.draftLists st o k else e
        let e := if last then e.autoTail b st o else e
        let o' := { o with passesDone := o.passesDone ++ [k], units := [], redo := [], round := [], seats := [] }
        let e : Eng := (({ e with planeCur := none } : Eng).dropTiles).onOp o.id fun _ => o'
        let zeroDone := decide (k = 0) && decide (st.passes = 2) && !e.passZeroLeft o.part st
        let e := if zeroDone then e.releasePass o.part o.step 0 else e
        (if e.passesLeft st o' = [] then e.opComplete b o' else e).showPlane

/-! ## Abandonment (R326, R333, R344) -/

/-- The running pass stops at the end of its round (R333, R344): the units that wait for a re-execution end with it. A BACK,
whose rounds the spec does not divide into units, stops at once. (DEDUCED, assumption log 55) -/
def Eng.stopPass (o : PlaneOp) (st : Step) (k : Nat) (e : Eng) : Eng :=
  let l := if o.back then [] else o.round.filter fun u => !o.units.contains u && !(o.redo.any fun x => decide (x.1 = u)) && !e.unitHeld u
  let e : Eng := { e with planeCur := none }
  if l = [] then (e.dropTiles).ev Reg.lplEvent 4 else { e with planeStop := some (o, (e.passRows st o k).length, l) }

/-- A step is abandoned: its operations are withdrawn, a running pass stops at the end of its round, its reservations and
rows go. (DEDUCED, assumption log 55) -/
def Eng.planeAbandon (b : BeatUnit) (p num : Nat) (e : Eng) : Eng :=
  let mine := fun (o : PlaneOp) => decide (o.part = p) && decide (o.step = num)
  let e := match e.running? with
    | some (o, st, k) => if mine o then e.stopPass o st k else e
    | none => e
  let waits := e.planeWait.filter fun w => mine w.2.2
  let e : Eng := { e with planeq := e.planeq.filter fun o => !mine o, planeWait := e.planeWait.filter fun w => !mine w.2.2 }
  let e := waits.foldl (fun e w => e.finish b w.1 w.2.1 id) e
  let e := e.drainVersions p
  ((e.releasePass p num 0).releasePass p num 1).rowsLeft p num

end Sys2Proof.Machine
end

