-- ==== Sys2Proof/Machine/Abandon.lean ====
section
/-! DEFINITION. The abandonment of steps (R60, R326, R333, R541) and phase 3 of a partition reset. -/

namespace Sys2Proof.Machine

open Sys2Proof

/-- An ABANDON descriptor takes its place in a channel's queue: behind other ABANDONs, before everything else (R539, R541). -/
def putAbandon (d : KdlOut) (l : List KdlOut) : List KdlOut :=
  let ab := fun x : KdlOut => decide (x.bytes.headD 0 = 4#8)
  l.takeWhile ab ++ d :: l.dropWhile ab

/-- ABANDON for a group whose STEP_OPEN has gone, and nothing further of the step on its channel (R541). -/
def Eng.abandonGroup (p num : Nat) (g : StepGrp) (e : Eng) : Eng :=
  let l := (kget [] e.kdlq g.chan).filter fun d => !(decide (d.part = p) && decide (d.step = num))
  if !g.opened then { e with kdlq := kset [] e.kdlq g.chan l }
  else
    let d := KdlOut.mk p num (descriptor 4 p g.chan num 0 [])
    { e with kdlq := kset [] e.kdlq g.chan (putAbandon d l), abOwed := e.abOwed ++ [(g.chan, p, num)] }

/-- A step is abandoned (phase 3 of R60): out of the plane, the stage and the seal queue, ABANDON on its channels, and a
context that waits in its BISSUE goes on. What arrives later for it names no step in flight and is discarded. -/
def Eng.abandonStep (b : BeatUnit) (p : Nat) (st : Step) (e : Eng) : Eng :=
  let e := e.planeAbandon b p st.num
  let e := st.groups.foldl (fun e g => e.abandonGroup p st.num g) e
  let e := (({ e with
    seals := e.seals.filter fun x => !(decide (x.1 = p) && decide (x.2 = st.num))
    hrowHeld := e.hrowHeld.filter fun h => !(decide (h.part.val = p) && decide (h.step.toNat = st.num)) } : Eng).showBacklog)
  let e := st.runs.foldl (fun e r => e.onReq r.slot fun x => { x with inStep := none }) e
  let e := e.onPart p fun q => { q with steps := q.steps.filter fun s => decide (s.num ≠ st.num) }
  match st.issuer with
  | some c => if (e.ctx p c).pend = some .issue then e.finish b p c id else e
  | none => e

/-- Abandon every step of a partition in flight. -/
def Eng.abandonAll (b : BeatUnit) (p : Nat) (e : Eng) : Eng :=
  ((e.part p).steps.foldl (fun e st => e.abandonStep b p st) e).stageFlow.kdlPump b

/-- Phase 3 of a partition reset (R60): the steps still in flight are abandoned and counted, and the records not yet
written are discarded (R428). -/
def Eng.phase3 (b : BeatUnit) (p : Nat) (e : Eng) : Eng :=
  let e := e.bump (Reg.partStatus p) 31 16 (e.part p).steps.length
  ((e.abandonAll b p).spoutDiscard p).onPart p fun q => { q with resetPhase3 := true }

/-- Phase 3 begins at once where no step is in flight (R60). -/
def Eng.phase3IfIdle (b : BeatUnit) (p : Nat) (e : Eng) : Eng :=
  if e.pstate p = psResetting ∧ (e.part p).resetPhase3 = false ∧ (e.part p).steps = [] then e.phase3 b p else e

end Sys2Proof.Machine
end

