-- ==== Sys2Proof/Machine/Cells.lean ====
section
/-! DEFINITION. One cycle of a semaphore cell in the order of R175: manual writes, realignment, adds, subtractions and commits, the new waits, barriers local and spanning engines, the walk, expiry and withdrawal (spec/07). -/

namespace Sys2Proof.Machine

open Sys2Proof

/-! ## Counts (R169) -/

/-- A cell's count is clamped: the flag is set, and the owner counts it (R169). -/
def Eng.satHit (n : Nat) (e : Eng) : Eng :=
  let e := e.onCell n fun x => { x with sat := true }
  match e.cellOwner n with
  | none => e
  | some p => (e.bump (Reg.syncSatCount p) 31 0).ev (Reg.syncEvent p) 0

/-- Add to a cell, clamped (R169). -/
def Eng.cellAdd (n k : Nat) (e : Eng) : Eng :=
  let c := (e.cell n).count.toNat + k
  if c < 2 ^ 32 then e.onCell n fun x => { x with count := BitVec.ofNat 32 c }
  else (e.onCell n fun x => { x with count := 0xFFFFFFFF#32 }).satHit n

/-- T of the armed realignment entries of a cell counts an amount taken (R193). -/
def Eng.tookFrom (n k : Nat) (e : Eng) : Eng :=
  match e.cellOwner n with
  | none => e
  | some p => e.onPart p fun q =>
      { q with realigns := q.realigns.map fun x =>
          if x.2.armed ∧ e.semBase p + e.fld (Reg.syncRaCell p x.1) 15 0 = n then (x.1, { x.2 with taken := x.2.taken + k }) else x }

/-- Subtract from a cell, clamped, counting what was taken (R169, R193). -/
def Eng.cellSub (n k : Nat) (e : Eng) : Eng :=
  let c := (e.cell n).count.toNat
  let e := e.tookFrom n (min c k)
  let e := e.onCell n fun x => { x with count := BitVec.ofNat 32 (c - k) }
  if c < k then e.satHit n else e

/-- Realignment of one armed entry (R194): the target BASE + AMOUNT × S − T, clamped. -/
def Eng.realignEntry (p k : Nat) (e : Eng) : Eng :=
  match (e.part p).realigns.find? fun x => decide (x.1 = k) && x.2.armed with
  | none => e
  | some (_, r) =>
    let n := e.semBase p + e.fld (Reg.syncRaCell p k) 15 0
    let t : Int := (r.base.toNat + e.fld (Reg.syncRaAmount p k) 31 0 * r.steps : Nat) - (r.taken : Int)
    let target := BitVec.ofInt 32 (max 0 (min t 0xFFFFFFFF))
    if (e.cell n).count = target then e
    else ((e.onCell n fun x => { x with count := target, sat := false }).bump (Reg.syncDriftCount p) 31 0).ev (Reg.syncEvent p) 2

/-! ## Waits (R172 to R176) -/

/-- A wait completes OK, with the late-edge flag in the cycle of its expiry (R125, R173, R175). The boundary of a context whose
operation arrived in the cycle is the cycle's last step. -/
def Eng.waitOk (b : BeatUnit) (w : Wait) (e : Eng) : Eng :=
  let v : Dword := if !w.once && decide (w.deadline ≤ b.time) then 1 else 0
  if (e.ctx w.part w.ctx).st = .waiting then
    (e.onCtx w.part w.ctx fun x => let y := x.setS w.dst.toNat v; { y with st := .ready, pc := y.pc + 8 })
  else e.complete w.part w.ctx fun x => x.setS w.dst.toNat v

/-- One wait met by the walk (R173): the state, and whether a take-wait has blocked those behind it. -/
def walkOne (b : BeatUnit) (n : Nat) (x : Eng × Bool) (w : Wait) : Eng × Bool :=
  let drop := fun e : Eng => e.onCell n fun y => { y with queue := y.queue.filter fun v => decide (v ≠ w) }
  let c := (x.1.cell n).count.toNat
  match w.kind with
  | .bar => x
  | .peek => if w.n ≤ c then ((drop x.1).waitOk b w, x.2) else x
  | .take =>
    if x.2 then x
    else if w.n ≤ c then (((drop x.1).cellSub n w.n).waitOk b w, false)
    else (x.1, true)

/-- The walk of a cell's queue (R173). -/
def Eng.walk (b : BeatUnit) (n : Nat) (e : Eng) : Eng := ((e.cell n).queue.foldl (walkOne b n) (e, false)).1

/-- A wait expires (R176, R178, R182). (DEDUCED, assumption log 77) (DESIGN CHOICE, assumption log 125) -/
def Eng.expire (b : BeatUnit) (n : Nat) (w : Wait) (e : Eng) : Eng :=
  let atExpiry := (e.cell n).count.toNat
  let e := e.onCell n fun y => y.without w true
  let p := w.part
  let pc := (e.ctx p w.ctx).pc.toNat
  let e := (e.bump (Reg.syncToCount p) 31 0).ev (Reg.syncEvent p) 1
  let e := e.wr (Reg.syncToLastId p) (BitVec.ofNat 32 (n * 65536 + w.ctx * 4096 + w.vid.toNat))
  let e := e.setPair (Reg.syncToLastPcLo p) (Reg.syncToLastPcHi p) pc
  if w.dst = 0 then
    e.faultOnly b p w.ctx fkTimeout 0 w.vid.toNat
      (leBytes 2 n ++ [0, 0] ++ leBytes 4 atExpiry ++ leBytes 4 w.n ++ [0, 0, 0, 0] ++ leBytes 8 w.deadline)
  else if (e.ctx p w.ctx).st = .waiting then
    (e.onCtx p w.ctx fun x => let y := x.setS w.dst.toNat 2; { y with st := .ready, pc := y.pc + 8 })
  else e.complete p w.ctx fun x => x.setS w.dst.toNat 2

/-- Expiry of every queued wait whose deadline has been reached (step 8 of R175). -/
def Eng.expireAll (b : BeatUnit) (n : Nat) (e : Eng) : Eng :=
  ((e.cell n).queue.filter fun w => w.once || decide (w.deadline ≤ b.time)).foldl (fun e w => e.expire b n w) e

/-- The instruction boundary of a context at the end of the cycle (R95): if its wait stays queued it enters WAITING, and a stop
takes effect (R172, step 9 of R175). A RESET accepted while the wait travelled takes its SBAR arrival with it (R172), where one of
a queued wait leaves the cell as it is (R68, R178). (DEDUCED, assumption log 77) (DESIGN CHOICE, assumption log 125) -/
def Eng.settle (b : BeatUnit) (n : Nat) (came : List (Nat × Nat)) (e : Eng) (x : Nat × Nat) : Eng :=
  let here := (e.cell n).queue.any fun v => decide (v.part = x.1) && decide (v.ctx = x.2)
  let e := if came.contains x && decide ((e.ctx x.1 x.2).stopReq = some .reset) then
      match (e.cell n).queue.find? fun v => decide (v.part = x.1) && decide (v.ctx = x.2) with
      | some w => e.onCell n fun y => y.without w true
      | none => e
    else e
  let e := if here then e.onCtx x.1 x.2 fun y => { y with st := .waiting, pend := none } else e
  let y := e.ctx x.1 x.2
  if here || (decide (y.st = .running) && decide (y.pend = none)) then e.boundary b x.1 x.2 else e

/-! ## Barriers (R177 to R182) -/

/-- Release queued SBAR waits that satisfy a condition: how many, and the state. -/
def Eng.releaseBars (b : BeatUnit) (n : Nat) (f : Wait → Bool) (e : Eng) : Nat × Eng :=
  let ws := (e.cell n).queue.filter fun w => decide (w.kind = .bar) && f w
  let e := e.onCell n fun x => { x with queue := x.queue.filter fun w => !(decide (w.kind = .bar) && f w) }
  (ws.length, ws.foldl (fun e w => e.waitOk b w) e)

/-- The enabled cluster-barrier entry of a partition whose local cell is the physical cell (R180). -/
def Eng.xbAt (e : Eng) (p n : Nat) : Option Nat :=
  (List.range 4).find? fun k => e.bit (Reg.syncXbCfg p k) 31 && decide (e.semBase p + e.fld (Reg.syncXbCfg p k) 15 0 = n)

/-- Whether an entry is a home entry. -/
def Eng.xbHome (e : Eng) (p k : Nat) : Bool := e.bit (Reg.syncXbCfg p k) 30
/-- The hidden state of an entry. -/
def Eng.xb (e : Eng) (p k : Nat) : XbEnt := kget XbEnt.idle (e.part p).xbs k
def Eng.onXb (e : Eng) (p k : Nat) (f : XbEnt → XbEnt) : Eng := e.onPart p fun q => { q with xbs := kmod XbEnt.idle q.xbs k f }
/-- The physical local cell of an entry. (DESIGN CHOICE, assumption log 41) -/
def Eng.xbCell (e : Eng) (p k : Nat) : Nat := e.semBase p + e.fld (Reg.syncXbCfg p k) 15 0

/-- Whether an entry takes no further local completion now (steps 2 and 3 of R180, R181). -/
def Eng.xbBusy (e : Eng) (p k : Nat) : Bool :=
  if e.xbHome p k then (e.xb p k).localIn else decide (e.fld (Reg.syncXbStatus p k) 31 30 = 1)

/-- An arrival counted at a home entry (steps 3 and 4 of R180, R181, R446). -/
def Eng.xbCount (b : BeatUnit) (p k engine vote : Nat) (e : Eng) : Eng :=
  let r := Reg.syncXbStatus p k
  let e := (e.setF r 15 0 (e.fld r 15 0 + 1)).setF r 31 30 2
  if e.isVerdict p k then e.countVote b p k engine vote else e

/-- The local completion of a cluster barrier under step 1 of R180, with the vote of R445. -/
def Eng.xbLocal (b : BeatUnit) (p k pCount : Nat) (e : Eng) : Eng :=
  let n := e.xbCell p k
  let e := e.onCell n fun x => { x with count := 0, queue := x.queue.map fun w => if w.kind = .bar then { w with fwd := true } else w }
  let (vote, e) := if e.isVerdict p k then e.takeVote b p else (0, e)
  if e.xbHome p k then
    (e.onXb p k fun x => { x with p := pCount, localIn := true }).xbCount b p k (e.fld Reg.syncEngineId 15 0) vote
  else
    let e := (e.onXb p k fun x => { x with p := pCount }).setF (Reg.syncXbStatus p k) 31 30 1
    (e.rmSend 0xC1 (e.rmHeader 0 (e.fld (Reg.syncXbHome p k) 31 16) (e.fld (Reg.syncXbCfg p k) 20 16) 0
      (e.fld (Reg.syncXbHome p k) 15 0) vote)).rmPump

/-- The amounts that verdicts add to GO cells: the physical cell and the amount (R447). -/
abbrev GoAdds : Type := List (Nat × Nat)

/-- Apply a RELEASE to the waits of an entry: they are released, and a verdict is applied (R180, R182, R447). -/
def Eng.xbFree (b : BeatUnit) (p k body : Nat) (e : Eng) : Eng × GoAdds :=
  let (c, e) := e.releaseBars b (e.xbCell p k) fun w => w.fwd
  if e.isVerdict p k then
    let (go, e) := e.applyVerdict b p c body
    (e, if go = 0 then [] else [(e.semBase p + e.fld (Reg.wlcVerdictCfg p) 15 0, go)])
  else (e, [])

/-- The home entry's ARRIVED has reached ENGINES (step 5 of R180, R446, R447). -/
def Eng.xbRelease (b : BeatUnit) (p k : Nat) (e : Eng) : Eng × GoAdds :=
  let e := e.wr (Reg.syncXbStatus p k) 0
  let (body, e) := if e.isVerdict p k then e.decideRound b p k else (0, e)
  let e := (e.rmSend 0xC2 (e.rmHeader 0x10 (e.fld (Reg.syncXbCount p k) 31 16) p 0 (e.fld (Reg.syncXbCfg p k) 15 0) body)).rmPump
  let e := e.onXb p k fun x => { x with localIn := false }
  let (e, go) := e.xbFree b p k body
  (if e.isVerdict p k && decide (bitsOf body 127 124 = 0) then (e.roundCheck b p).rmFlow b else e, go)

/-- A local completion, or a count at the home, and all that follows at once: the release, and the next local
completion when enough arrivals have already come (R180, R181). (DEDUCED, assumption log 38) -/
def Eng.xbRun (b : BeatUnit) (p k : Nat) : Nat → Bool → Nat → Eng → Eng × GoAdds
  | 0, _, _, e => (e, [])
  | f + 1, true, pCount, e =>
    let e := e.xbLocal b p k pCount
    if e.xbHome p k then Eng.xbRun b p k f false pCount e else (e, [])
  | f + 1, false, _, e =>
    if e.fld (Reg.syncXbStatus p k) 15 0 < e.fld (Reg.syncXbCount p k) 15 0 ∨ e.fld (Reg.syncXbStatus p k) 15 0 = 0 then (e, [])
    else
      let was := (e.xb p k).localIn
      let (e, g) := e.xbRelease b p k
      let pc := (e.xb p k).p
      if was ∧ pc ≤ (e.cell (e.xbCell p k)).count.toNat then
        let (e, h) := Eng.xbRun b p k f true pc e
        (e, g ++ h)
      else (e, g)

/-- Step 6 of R175: the barrier check (R177, R180). -/
def Eng.barCheck (b : BeatUnit) (n : Nat) (e : Eng) : Eng × GoAdds :=
  let c := e.cell n
  match c.queue.find? fun w => decide (w.kind = .bar) && !w.fwd && decide (w.n ≤ c.count.toNat) with
  | none => (e, [])
  | some w =>
    match e.xbAt w.part n with
    | none => (((e.onCell n fun x => { x with count := 0 }).releaseBars b n fun _ => true).2, [])
    | some k => if e.xbBusy w.part k then (e, []) else e.xbRun b w.part k 8 true w.n

/-! ## The cycle of a cell (R175) -/

/-- The sum of the amounts that a selection of operations carries. -/
def sumOps (f : CellOp → Nat) (ops : List CellOp) : Nat := ops.foldl (fun n o => n + f o) 0

/-- The amount that an operation adds at step 3. -/
def addOf : CellOp → Nat
  | .sadd _ _ _ a => a.toNat
  | .add a => a.toNat
  | .wait w _ => if w.kind = .bar then 1 else 0
  | _ => 0

/-- The amount that an operation subtracts at step 4. -/
def subOf : CellOp → Nat
  | .ssub _ _ _ a => a.toNat
  | _ => 0

/-- The result of SADD and SSUB (R126). -/
def Eng.cellResult (e : Eng) (n : Nat) : Dword :=
  BitVec.ofNat 64 ((e.cell n).count.toNat + if (e.cell n).sat then 2 ^ 32 else 0)

/-- Complete the adds or the subtractions of contexts with the count as it now stands (R126). -/
def Eng.ackOps (n : Nat) (sub : Bool) (ops : List CellOp) (e : Eng) : Eng :=
  let v := e.cellResult n
  ops.foldl (init := e) fun e o => match o, sub with
    | .sadd p c dst _, false => e.complete p c fun x => x.setS dst.toNat v
    | .ssub p c dst _, true => e.complete p c fun x => x.setS dst.toNat v
    | _, _ => e

/-- The contexts whose operations arrive in a cycle. -/
def comers (ops : List CellOp) : List (Nat × Nat) :=
  ops.filterMap fun o => match o with
    | .sadd p c _ _ => some (p, c)
    | .ssub p c _ _ => some (p, c)
    | .wait w _ => some (w.part, w.ctx)
    | _ => none

/-- A manual write of a cell, logged as it is made (R195, R196). -/
def Eng.manualPut (b : BeatUnit) (n src : Nat) (value : Option Word) (e : Eng) : Eng :=
  let old := e.cell n
  let new : Cell := { old with count := value.getD old.count, sat := false }
  let flag := fun c : Cell => if c.sat then 1#8 else 0#8
  let e := e.logAdd b 0x0002 src (e.cellOwner n) (leBytes 2 n ++ [0, 0] ++ leBytes 4 old.count.toNat ++ [flag old, 0, 0, 0] ++
    leBytes 4 new.count.toNat ++ [flag new])
  let e := e.bump Reg.syncManualCount 31 0
  let e := match e.cellOwner n with
    | some p => e.ev (Reg.syncEvent p) 3
    | none => e
  e.onCell n fun _ => new

/-- Steps 1 and 2 of R175. -/
def Eng.cellSet (b : BeatUnit) (n : Nat) (ops : List CellOp) (e : Eng) : Eng :=
  let e := ops.foldl (init := e) fun e o => match o with
    | .manual src v => e.manualPut b n src v
    | .satClr => e.onCell n fun x => { x with sat := false }
    | .put v f => e.onCell n fun x => { x with count := v, sat := f.getD x.sat }
    | _ => e
  ops.foldl (init := e) fun e o => match o with
    | .realign p => (List.range 16).foldl (init := e) fun e k =>
        if e.semBase p + e.fld (Reg.syncRaCell p k) 15 0 = n then e.realignEntry p k else e
    | _ => e

/-- The commits that the cell's count allows (R435), part of step 4. -/
def Eng.cellCommit (b : BeatUnit) (n : Nat) (e : Eng) : Eng :=
  match e.cellOwner n with
  | none => e
  | some p =>
    let (c, slots) := (e.part p).commitList (n - e.semBase p) (e.cell n).count.toNat
    if slots = [] then e
    else slots.foldl (fun e k => e.commit b p k) (e.onCell n fun x => { x with count := BitVec.ofNat 32 c })

/-- The waits that arrive in a cycle, with their deadlines (R172). (DEDUCED, assumption logs 38, 77) -/
def newWaits (b : BeatUnit) (ops : List CellOp) : List Wait :=
  ops.filterMap fun o => match o with
    | .wait w t => some { w with deadline := b.time + t, once := decide (t = 0) }
    | _ => none

/-- A member entry receives its RELEASE (step 6 of R180, R182, R447). -/
def Eng.takeRelease (b : BeatUnit) (p k body : Nat) (e : Eng) : Eng × GoAdds :=
  let n := e.xbCell p k
  let late := !((e.cell n).queue.any fun w => decide (w.kind = .bar) && w.fwd)
  let e := if late then e.ev (Reg.syncEvent p) 4 else e
  let (e, g) := (e.setF (Reg.syncXbStatus p k) 31 30 0).xbFree b p k body
  let pc := (e.xb p k).p
  if pc ≤ (e.cell n).count.toNat ∧ pc ≠ 0 then
    let (e, h) := e.xbRun b p k 8 true pc
    (e, g ++ h)
  else (e, g)

/-- The broadcast releases of a cycle, step 6 of R175 (R180). -/
def Eng.xbOps (b : BeatUnit) (ops : List CellOp) (x : Eng × GoAdds) : Eng × GoAdds :=
  ops.foldl (init := x) fun x o => match o with
    | .release p k body => let (e, g) := x.1.takeRelease b p k body; (e, x.2 ++ g)
    | .arrive p k src vote => let (e, g) := (x.1.xbCount b p k src vote).xbRun b p k 8 false 0; (e, x.2 ++ g)
    | _ => x

/-- The contexts queued on a cell that have been told to stop while it was held (R479). -/
def Eng.stopping (e : Eng) (n : Nat) : List (Nat × Nat) :=
  ((e.cell n).queue.filter fun w => (e.ctx w.part w.ctx).stopReq.isSome).map fun w => (w.part, w.ctx)

/-- One cycle of a cell (R175): what it does, and the adds to GO cells that follow. (DESIGN CHOICE, assumption log 125) -/
def Eng.cellCycle (b : BeatUnit) (n : Nat) (ops : List CellOp) (e : Eng) : Eng × GoAdds :=
  let came := comers ops
  let ends := (e.stopping n ++ came).eraseDups
  let e := e.cellSet b n ops
  let adds := sumOps addOf ops
  let e := if adds = 0 then e else e.cellAdd n adds
  let e := e.ackOps n false ops
  let e := e.cellCommit b n
  let subs := sumOps subOf ops
  let e := if subs = 0 then e else e.cellSub n subs
  let e := e.ackOps n true ops
  let news := newWaits b ops
  let e := (news.filter fun w => decide (w.n = 0)).foldl (fun e w => e.waitOk b w) e
  let queued := news.filter fun w => decide (w.n ≠ 0)
  let e := e.onCell n fun x => { x with queue := x.queue ++ queued }
  let (e, gos) := Eng.xbOps b ops (e.barCheck b n)
  let e := (e.walk b n).expireAll b n
  (ends.foldl (Eng.settle b n came) e, gos)

/-- The operations that share the next cycle of a cell (R175). (DESIGN CHOICE, assumption log 113) -/
def Eng.joinedAt (e : Eng) (n : Nat) : List CellOp := (e.joined.filter fun x => decide (x.1 = n)).map fun x => x.2

/-- An operation waits for the next cycle of its cell. (DESIGN CHOICE, assumption log 113) -/
def Eng.join (n : Nat) (op : CellOp) (e : Eng) : Eng := { e with joined := e.joined ++ [(n, op)] }

/-- The partitions whose contexts a cycle of a cell can make able to issue. -/
def Eng.cellParts (e : Eng) (n : Nat) (ops : List CellOp) : List Nat :=
  ((e.cell n).queue.map fun w => w.part) ++ (comers ops).map fun x => x.1

/-- Run the cycles of a list of cells and of the GO cells that they add to, with the operations that share them; the operations
of a held cell wait. Then Cascade chooses in each partition that the cycles concern (R150). (DESIGN CHOICE, assumption log
113) -/
def Eng.cellRun (b : BeatUnit) : Nat → List (Nat × List CellOp) → List Nat → Eng → Eng
  | 0, _, ps, e => ps.foldl (fun e p => e.dispatch p) e
  | _, [], ps, e => ps.foldl (fun e p => e.dispatch p) e
  | f + 1, (n, ops) :: r, ps, e =>
    if e.cellHeld n then Eng.cellRun b f r ps (ops.foldl (fun e o => e.launch n o) e) else
    let all := e.joinedAt n ++ ops
    let qs := e.cellParts n all
    let (e, gos) := ({ e with joined := e.joined.filter fun x => decide (x.1 ≠ n) } : Eng).cellCycle b n all
    Eng.cellRun b f (r ++ gos.map fun x => (x.1, [.add (BitVec.ofNat 32 x.2)])) (ps ++ qs) e

/-- Operations at cells in one cycle, with everything that follows from them: at most one GO cell per SBAR wait, of which 512
exist. The cores that wake withdraw their loans together (R498). -/
def Eng.atCells (b : BeatUnit) (l : List (Nat × List CellOp)) (e : Eng) : Eng :=
  e.oneCycle fun e => e.cellRun b (l.length + 1024) l []

/-- One cycle of a cell. -/
def Eng.atCell (b : BeatUnit) (n : Nat) (ops : List CellOp) (e : Eng) : Eng := e.atCells b [(n, ops)]

/-- Ask a context to stop: at once at a boundary, otherwise at its next one (R65, R95). A cycle of the cell that queues its wait, or
of the ledger that holds its LEDG, that other operations share is this one (R67, R175, R213). (DESIGN CHOICE, assumption log 113) -/
def Eng.stopNow (b : BeatUnit) (p c : Nat) (k : StopReq) (e : Eng) : Eng :=
  let e := e.askStop b p c k
  match e.takeWait p c, (e.ledJoined.find? fun o => decide (o.part = p) && decide (o.ctx = c)) with
  | some (n, _), _ => if (e.ctx p c).stopReq.isSome && !e.cellHeld n && decide (e.joinedAt n ≠ []) then e.atCell b n [] else e
  | none, some o => e.ledgCycle b o.ledger 0 id
  | none, none => e

/-- An operation takes effect at its cell in a cycle of its own with those that have joined it, or joins the cell's next cycle
(R175). (DESIGN CHOICE, assumption log 113) -/
def Eng.reach (b : BeatUnit) (joins : Bool) (n : Nat) (op : CellOp) (e : Eng) : Eng :=
  if joins then e.join n op else e.atCell b n [op]

end Sys2Proof.Machine
end

