-- ==== Sys2Proof/Machine/Boundary.lean ====
section
/-! DEFINITION. Boundaries (R14 to R20): the updates of a step's runs (R287), the penalty set (R360), the walk of R20 with its retirements, new bindings and pauses, the width and the candidate tree (R379, R383, R387, R388), realignment points (R194), seal processing (R279, R380), and the commands STEP_BOUNDARY, IDLE_BOUNDARY and SEAL_PROCESSED. -/

namespace Sys2Proof.Machine

open Sys2Proof

/-! ## Leaving the table (R220, R238, R424) -/

/-- A request leaves the table: its pages, blocks, slot and generation (R220, R238); its token ring is left to its consumer
(R424); its alert goes with it, and its rows in a batch or a step that has not reached its boundary are no request's any more
(R17). The engine and the ring. -/
def Eng.leave (b : BeatUnit) (p slot : Nat) (e : Eng) : Option Nat × Eng :=
  let ring := e.rring slot
  let e := e.dropPages b p slot
  let e := match ring with
    | some n => e.onTring n fun t => { t with left := true }
    | none => e
  let e : Eng := { e with
    reqs := kdel e.reqs slot
    gens := kmod 0 e.gens slot (· + 1)
    rqt := e.rqt.filter fun x => decide (x.1 / 24 ≠ slot)
    rqtBad := e.rqtBad.filter fun w => decide (w / 24 ≠ slot) }
  (ring, e.onPart p fun q =>
    { q with
      freed := q.freed ++ [slot], aged := q.aged.erase slot, alertHeld := q.alertHeld.erase slot
      batch := q.batch.map fun bt => { bt with
        reserved := bt.reserved.erase slot, runs := bt.runs.filter fun r => decide (r.slot ≠ slot) }
      steps := q.steps.map fun st => { st with
        runs := st.runs.map fun r => if r.slot = slot then { r with slot := deadSlot } else r
        recs := st.recs.map fun r => if r.slot = slot then { r with slot := deadSlot } else r } })

/-- Mark a record of the boundary LATE where a step held the request: `at_` is its late check time (R303, R304, R413). The record
keeps its status. -/
def Eng.lateAt_ (p slot : Nat) (at_ : Option Nat) (l : List Byte) (e : Eng) : List Byte × Eng :=
  match at_ with
  | some t => e.markLate p slot t true l
  | none => (l, e)

/-- A retirement with a record without a token (R20 rows 3 to 5, R412): the ring, the record and the engine. `at_` is the
late check time where the step of the boundary held the request. -/
def Eng.retireRec (b : BeatUnit) (p slot status : Nat) (at_ : Option Nat) (e : Eng) : (Option Nat × List Byte) × Eng :=
  let (ok, e) := e.formed b p
  let l := e.plainRec b slot (if ok then status else stEngineFault) rfTerminal
  let (l, e) := e.lateAt_ p slot at_ l
  let e := if status = stDeadline then (e.bump (Reg.latDeadlines p) 31 16).ev (Reg.latEvent p) 2 else e
  ((e.rring slot, l), e)

/-! ## Versions at a boundary (R439, R440, R442) -/

/-- Bind a request to a version. -/
def Eng.rebind (slot v : Nat) (e : Eng) : Eng := e.setRqf slot 1 63 48 v

/-- The learned-prefix id of a request. -/
def Eng.rlpId (e : Eng) (slot : Nat) : Option Nat := if e.rqf slot 1 15 15 = 1 then some (e.rqf slot 1 31 16) else none

/-- A request's run leaves the open batch, whose row it no longer can take. (DEDUCED, assumption log 120) -/
def Eng.unbatch (p slot : Nat) (e : Eng) : Eng :=
  if !(e.req slot).inBatch then e
  else (e.onPart p fun q => { q with batch := q.batch.map fun bt => { bt with runs := bt.runs.filter fun r => decide (r.slot ≠ slot) } }).onReq slot
    fun r => { r with inBatch := false }

/-- A rebuild under REPREFILL (R440), after the new binding; false where the learned prefix is not resident under it. STATE is
REPREFILL while the directory is written and WAITING after it, also for a request that was PAUSED. (DEDUCED, assumption log 66) -/
def Eng.rebuild (b : BeatUnit) (p slot : Nat) (e : Eng) : Bool × Eng :=
  let e := e.dropPages b p slot
  let e := (e.onReq slot fun r => { r with tree := [], lists := [], commit := [], path := [] }).setRqf slot 20 16 13 0
  let ok := match e.rlpId slot with
    | some id => e.lpResident p (e.rversion slot) id
    | none => true
  if !ok then (false, e)
  else
    let e := e.unbatch p slot
    let rb := e.rpromptLen slot + e.rgenerated slot
    let e := ((e.setRqf slot 5 63 32 0).setRstate slot rsReprefill).onReq slot fun r => { r with rb := some rb, started := false }
    (true, (e.startList b p slot (e.rlpId slot)).setRstate slot rsWaiting)

/-- Take a version as binding, with a rebuild where the policy is REPREFILL: false where the request retires. -/
def Eng.takeVersion (b : BeatUnit) (p slot v policy : Nat) (e : Eng) : Bool × Eng :=
  let e := e.rebind slot v
  if policy = 2 then e.rebuild b p slot else (true, e)

/-- Row 5 of R20 for a version event under a policy (R439): false where the request retires with VERSION. -/
def Eng.versionRow (b : BeatUnit) (p slot policy : Nat) (e : Eng) : Bool × Eng :=
  let bound := e.rversion slot
  if policy = 0 then (e.resident p bound, e)
  else match e.newest p with
    | none => (e.resident p bound, e)
    | some v => if v = bound then (true, e) else e.takeVersion b p slot v policy

/-- WVPIN and version events of a request at its boundary (R439, R442): false where it retires with VERSION, and whether a
version event falls due for the following boundary. -/
def Eng.versionStep (b : BeatUnit) (p slot : Nat) (e : Eng) : Bool × Bool × Eng :=
  let r := e.req slot
  let partPolicy := e.fld (Reg.wlcCtrl p) 1 0
  let e := e.onReq slot fun r => { r with verEv := false, pinEv := none }
  match r.pinEv with
  | some (some v) =>
    let e := e.onReq slot fun r => { r with pinned := some v }
    if !e.resident p v then (false, false, e)
    else if v = e.rversion slot then (true, false, e)
    else let (ok, e) := e.takeVersion b p slot v partPolicy; (ok, false, e)
  | some none =>
    let e := e.onReq slot fun r => { r with pinned := none }
    if r.verEv || !e.resident p (e.rversion slot) then
      let (ok, e) := e.versionRow b p slot partPolicy
      (ok, false, e)
    else (true, decide (partPolicy ≠ 0) && (e.newest p).isSome && decide (e.newest p ≠ some (e.rversion slot)), e)
  | none =>
    if r.verEv then let (ok, e) := e.versionRow b p slot (e.policy p slot); (ok, false, e) else (true, false, e)

/-! ## The walk of R20 -/

/-- What the walk has formed so far: the boundary's records with their token rings, the rings of the requests that left, and
the requests with a version event for the following boundary (R442). -/
structure WalkOut where
  recs : List (Option Nat × List Byte)
  rings : List Nat
  later : List Nat
  deriving DecidableEq, Repr

/-- A request retires with a record formed at the boundary. (DEDUCED, assumption log 66) -/
def Eng.retire (b : BeatUnit) (p slot status : Nat) (at_ : Option Nat) (x : WalkOut × Eng) : WalkOut × Eng :=
  let (r, e) := x.2.retireRec b p slot status at_
  let (ring, e) := e.leave b p slot
  ({ x.1 with recs := x.1.recs ++ [r], rings := x.1.rings ++ ring.toList }, e)

/-- A request retires with a record that its step has already formed (row 2 of R20). -/
def Eng.retireFormed (b : BeatUnit) (p slot : Nat) (x : WalkOut × Eng) : WalkOut × Eng :=
  let (ring, e) := x.2.leave b p slot
  ({ x.1 with rings := x.1.rings ++ ring.toList }, e)

/-- The terminal record of a LEARN request whose prompt is done (R343). -/
def Eng.learnRec (b : BeatUnit) (p slot : Nat) (at_ : Option Nat) (e : Eng) : (Option Nat × List Byte) × Eng :=
  let (ok, e) := e.formed b p
  let l := if ok then recBody b (e.rhandle slot) (e.rpromptLen slot) 0 0 (e.rversion slot) stLength rfTerminal 0
    else e.plainRec b slot stEngineFault rfTerminal
  let (l, e) := e.lateAt_ p slot at_ l
  ((e.rring slot, l), e)

/-- Row 6 of R20, for a request that no earlier row has retired. -/
def Eng.pauseRow (b : BeatUnit) (p slot : Nat) (at_ : Option Nat) (x : WalkOut × Eng) : WalkOut × Eng :=
  let e := x.2
  if !(e.req slot).pauseEv then x
  else if e.rstate slot = rsPaused then (x.1, e.onReq slot fun r => { r with pauseEv := false })
  else
    let (ok, e) := (e.pauseReq p slot).formed b p
    if !ok then (x.1, e.unformed slot) else
    let (l, e) := e.lateAt_ p slot at_ (e.plainRec b slot stPaused 0)
    ({ x.1 with recs := x.1.recs ++ [(e.rring slot, l)] }, e)

/-- Rows 5 to 7 of R20. -/
def Eng.lowRows (b : BeatUnit) (p slot : Nat) (at_ : Option Nat) (x : WalkOut × Eng) : WalkOut × Eng :=
  let (ok, later, e) := x.2.versionStep b p slot
  if !ok then Eng.retire b p slot stVersion at_ (x.1, e)
  else Eng.pauseRow b p slot at_ (if later then { x.1 with later := x.1.later ++ [slot] } else x.1, e)

/-- Walk one request through R20. `at_` is the late check time of the boundary's step where that step held the request.
(DEDUCED, assumption log 66) -/
def Eng.walkReq (b : BeatUnit) (p : Nat) (at_ : Option Nat) (slot : Nat) (x : WalkOut × Eng) : WalkOut × Eng :=
  let e := x.2
  let r := e.req slot
  if r.termEv.isSome then Eng.retireFormed b p slot x
  else if at_.isSome && e.rlearn slot && decide (e.rpromptLen slot ≤ e.rprefilled slot) then
    let (l, e) := e.learnRec b p slot at_
    Eng.retireFormed b p slot ({ x.1 with recs := x.1.recs ++ [l] }, e)
  else if r.cancel then Eng.retire b p slot stCancelled at_ x
  else
    let due := e.deadlineHit b slot
    if due && decide (e.rqf slot 6 63 63 = 1) then Eng.retire b p slot stDeadline at_ x
    else match r.faultEv with
      | some st => Eng.retire b p slot st at_ x
      | none =>
        let e := if due then
            (e.bump (Reg.latDeadlines p) 15 0).onReq slot fun r => { r with deadlineEv := false, deadlineArmed := false }
          else e
        Eng.lowRows b p slot at_ (x.1, e)

/-- A request with the version and WVPIN events that it had before a batch took it beside those since. (DEDUCED, assumption log 120) -/
def Req.merged (r : Req) : Req := { r with verEv := r.verEv || r.early.ver, pinEv := if r.pinEv.isSome then r.pinEv else r.early.pin }

/-- Walk a request that a later step or the open batch holds: the events accepted before it take effect here, and the others wait
(R17). (DEDUCED, assumption log 120) -/
def Eng.walkEarly (b : BeatUnit) (p slot : Nat) (x : WalkOut × Eng) : WalkOut × Eng :=
  let r := x.2.req slot
  let k := r.early
  let masked := { r with
    cancel := r.cancel && k.cancel, deadlineEv := r.deadlineEv && k.due, deadlineArmed := r.deadlineArmed && k.due
    faultEv := if k.fault then r.faultEv else none, termEv := none, verEv := k.ver
    pinEv := k.pin, pauseEv := r.pauseEv && k.pause }
  let y := Eng.walkReq b p none slot (x.1, x.2.onReq slot fun _ => masked)
  if !(y.2.req slot).live then y
  else (y.1, y.2.onReq slot fun z => { z with
    cancel := r.cancel, deadlineEv := if k.due then z.deadlineEv else r.deadlineEv
    deadlineArmed := if k.due then z.deadlineArmed else r.deadlineArmed, faultEv := if k.fault then z.faultEv else r.faultEv
    termEv := r.termEv, verEv := r.verEv, pinEv := r.pinEv
    pauseEv := if k.pause then z.pauseEv else r.pauseEv })

/-- Walk one request at a boundary: one of the boundary's step (`mine`, with its late check time), one in no step and no batch, or
one that joined a step or batch after its event. -/
def Eng.walkSlot (b : BeatUnit) (p : Nat) (mine : List Nat) (at_ : Nat) (slot : Nat) (x : WalkOut × Eng) : WalkOut × Eng :=
  let r := x.2.req slot
  let all := (x.1, x.2.onReq slot Req.merged)
  let y :=
    if mine.contains slot then Eng.walkReq b p (some at_) slot all
    else if r.inStep.isNone && !r.inBatch then Eng.walkReq b p none slot all
    else Eng.walkEarly b p slot x
  (y.1, if (y.2.req slot).early = Events.none then y.2 else y.2.onReq slot fun r => { r with early := Events.none })

/-- What follows a walk: the records leave for Spout in slot order (R420, R423), the rings of the requests that left may
return (R424), and the version events of R442 are accepted. -/
def Eng.afterWalk (b : BeatUnit) (p : Nat) (x : WalkOut × Eng) : Eng :=
  let e := x.2.putBoundary b p x.1.recs
  let e := x.1.rings.foldl (fun e n => e.tryFreeTring n) e
  let e := x.1.later.foldl (fun e s => e.onReq s fun r => { r with verEv := true }) e
  e.drainVersions p

/-- The live requests in no step and in no open batch, and those whose events were accepted before the step or batch that holds
them, in slot order: their events take effect at any boundary (R17). (DEDUCED, assumption log 66) -/
def Eng.idleSlots (e : Eng) (p : Nat) : List Nat :=
  sortBy (fun a c => decide (a < c)) ((e.liveSlots p).filter fun s =>
    ((e.req s).inStep.isNone && !(e.req s).inBatch) || decide ((e.req s).early ≠ Events.none))

/-- IDLE_BOUNDARY: a boundary without a step, for a partition that had none in flight as an event was accepted (R18, R519). While
the partition is HALTED the events of its requests stay (R306). (DEDUCED, assumption logs 65, 72) -/
def execIdleBoundary (p : Fin 32) (s : State) : Host.Outcome State Fault Refusal :=
  .next <| s.onEng fun b e =>
    let p := p.val
    let q := e.part p
    if !(e.running p || decide (e.pstate p = psHalted)) || (decide (q.steps ≠ []) && !q.idleDue) then e
    else
      let run := e.running p
      let e := (e.onPart p fun q => { q with idleDue := false }).switchIdle b p
      if !run then e
      else (e.idleSlots p).foldl (fun x s => Eng.walkSlot b p [] 0 s x) (⟨[], [], []⟩, e) |> Eng.afterWalk b p

/-! ## The updates of a step's runs (R210, R287, R343, R360, R441) -/

/-- Put a token into a penalty set (R360). -/
def Eng.penPut (p slot tok : Nat) (e : Eng) : Eng :=
  let s := (e.req slot).pen
  if s.contains tok then e
  else if 4080 ≤ s.length then e.ev (Reg.smpEvent p) 2
  else e.onReq slot fun r => { r with pen := insertBy (fun a c => decide (a < c)) tok r.pen }

/-- The boundary's update of a penalty set (R360): the prompt's tokens once, then the tokens delivered. (DEDUCED, assumption
log 66) -/
def Eng.penUpdate (b : BeatUnit) (p slot : Nat) (toks : List Nat) (e : Eng) : Eng :=
  if !e.penOn p || e.rlearn slot then e
  else
    let old := (e.req slot).pen
    let addr := (e.rqw slot 3).toNat
    let len := e.rpromptLen slot
    let e :=
      if (e.req slot).penDone || decide (e.rprefilled slot < len) then e
      else
        let prompt := match (e.req slot).penPrompt with
          | some x => x
          | none => match e.auxRead p slot with
            | .inl x => x.prompt
            | .inr _ => false
        let e := e.onReq slot fun r => { r with penDone := true }
        if prompt then
          (List.range len).foldl (fun e i => e.penPut p slot (e.pnum p (addr + 4 * i) 4 % 2 ^ 20)) (e.partRead b p addr (4 * len))
        else e
    let e := toks.foldl (fun e t => e.penPut p slot t) e
    let s := (e.req slot).pen
    if s = old then e
    else e.partStore b p (e.penAddr p slot) (padTo 64 (leBytes 4 s.length) ++ (s.map fun t => leBytes 4 t).flatten)

/-- Write delivered tokens into the prompt buffer under REPREFILL (R441): an error leaves a request fault for the following
boundary. -/
def Eng.promptWrite (p slot pos : Nat) : List Nat → Eng → Bool × Eng
  | [], e => (false, e)
  | t :: r, e =>
    let a := (e.rqw slot 3).toNat + 4 * pos
    let bad := e.refused (some p) true a 4
    let e := if bad then e else e.store a (leBytes 4 t)
    let (x, e) := Eng.promptWrite p slot (pos + 1) r e
    (bad || x, e)

/-- The updates of one run at its step's boundary, before the walk (R210, R248, R287, R349, R360, R441): whether a prompt
write failed. (DEDUCED, assumption logs 57, 66, 105) -/
def Eng.runUpdate (b : BeatUnit) (p : Nat) (st : Step) (r : Run) (e : Eng) : Bool × Eng :=
  let slot := r.slot
  let toks := st.tokensOf slot
  let old := e.rprefilled slot
  let pos := e.rpromptLen slot + e.rgenerated slot
  -- rows of a list that a rebuild has replaced since (R440) fill nothing, as those of a failed learning block
  let bad := st.badLearn.contains slot || st.lists.any fun l => decide (l.slot = slot)
  let e := if r.sampled && !st.sampledRow r then
      (e.bump (Reg.smpUnsampledCount p) 31 0).ev (Reg.smpEvent p) 3
    else e
  let e := if r.phase = phDecode ∨ bad = true then e else e.setRqf slot 5 63 32 (old + r.rows)
  let e := e.setRqf slot 5 31 0 (e.rgenerated slot + toks.length)
  let e := if r.phase = phDecode ∨ bad = true then e else e.insertPages b p slot old
  let e := if st.lists.any (fun l => decide (l.slot = slot)) && (e.req slot).rb.isSome then
      e.onReq slot fun q => { q with rb := some (e.rpromptLen slot + e.rgenerated slot) }
    else e
  let e := if (e.req slot).rb.any fun n => decide (n ≤ e.rprefilled slot) then e.onReq slot fun q => { q with rb := none } else e
  let (tok, e) := match toks.getLast? with
    | some t => (t, e)
    | none =>
      let a := (e.rqw slot 3).toNat
      let n := e.rpromptLen slot - 1
      if r.last && decide (e.rgenerated slot = 0) then (e.token p a n, e.readTokens b p a n 1) else ((e.req slot).lastTok, e)
  let ledger := e.ledBase p + e.rqf slot 1 47 32
  let e := if toks = [] then e else e.ledgCycle b ledger 2 fun e => e.charge p ledger (toks.length * (e.ledger ledger).wGen)
  let (fail, e) := if e.fld (Reg.wlcCtrl p) 1 0 = 2 then e.promptWrite p slot pos toks else (false, e)
  let e := e.penUpdate b p slot toks
  let e := if e.rstate slot = rsActive then e.setRstate slot rsWaiting else e
  (fail, e.onReq slot fun q => { q with inStep := none, lastTok := tok, age := 0 })

/-- The updates of every run: the slots whose prompt write failed. -/
def Eng.runUpdates (b : BeatUnit) (p : Nat) (st : Step) : List Run → Eng → List Nat × Eng
  | [], e => ([], e)
  | r :: rest, e =>
    let (f, e) := e.runUpdate b p st r
    let (l, e) := Eng.runUpdates b p st rest e
    (if f then r.slot :: l else l, e)

/-! ## Speculation at a boundary (R379, R383, R387 to R390) -/

/-- Word 20 of a request: SPEC's node and head counts, A and the probe count (R389). -/
def Eng.specNodes (e : Eng) (slot : Nat) : Nat := e.rqf slot 20 63 57
def Eng.specHeads (e : Eng) (slot : Nat) : Nat := e.rqf slot 20 56 53
def Eng.specA (e : Eng) (slot : Nat) : Nat := e.rqf slot 20 48 33

/-- A after a step that accepted `m` nodes of a tree of greatest depth `d` (R387). -/
def nextA (a m d : Nat) : Nat := ((a : Int) + (((65536 * m / d : Nat) : Int) - a).fdiv 8).toNat % 65536

/-- The width after a step whose run verified a node (R387). -/
def Eng.adapt (p slot m d : Nat) (e : Eng) : Eng :=
  let a := nextA (e.specA slot) m d
  let w := e.rwidth slot
  let e := e.setRqf slot 20 48 33 a
  if a < e.fld (Reg.specAdapt p) 15 0 ∧ 0 < w then
    ((e.setRqf slot 20 52 49 (w - 1)).bump (Reg.specWidthChg p) 15 0).ev (Reg.specEvent p) 0
  else if e.fld (Reg.specAdapt p) 31 16 ≤ a ∧ w < e.specHeads slot then
    ((e.setRqf slot 20 52 49 (w + 1)).bump (Reg.specWidthChg p) 31 16).ev (Reg.specEvent p) 1
  else e

/-- The probe of a request at width 0 (R388). (DEDUCED, assumption log 66) -/
def Eng.probe (p slot : Nat) (e : Eng) : Eng :=
  let n := min 65535 (e.rqf slot 20 32 17 + 1)
  let bound := e.fld (Reg.specCtrl p) 31 16
  if bound ≠ 0 ∧ bound ≤ n ∧ 0 < e.specHeads slot then
    ((((e.setRqf slot 20 32 17 0).setRqf slot 20 52 49 1).setRqf slot 20 48 33 (e.fld (Reg.specAdapt p) 15 0)).bump
      (Reg.specWidthChg p) 31 16)
  else e.setRqf slot 20 32 17 n

/-- The request drafts no candidates: its grammar is VALID or its allowed list is not empty (R367). -/
def Eng.noDrafts (e : Eng) (p slot : Nat) : Bool :=
  (e.rgram slot).isSome || match e.auxRead p slot with
    | .inl x => decide (x.allow ≠ [])
    | .inr _ => false

/-- The candidate tree that head lists give under the template (R379). The accumulator keeps, for each template entry, the
index it was taken under. -/
def Eng.buildTree (e : Eng) (p slot : Nat) (lists : KMap (List Nat)) : List TreeNode :=
  let n := min (e.fld (Reg.specCtrl p) 6 0) (e.specNodes slot)
  let ds := e.treeDepths p
  let w := e.rwidth slot
  ((List.range (min 64 n)).foldl (init := (([], []) : List TreeNode × List (Option Nat))) fun x j =>
    let (parent, rank) := e.treeEnt p j
    let d := ds.getD j 1
    let up := if parent = 0x7F then some 0x7F else (x.2[parent]?).bind id
    match up, (kget [] lists d)[rank]? with
    | some u, some tok => if d ≤ w then (x.1 ++ [⟨tok, u, d⟩], x.2 ++ [some x.1.length]) else (x.1, x.2 ++ [none])
    | _, _ => (x.1, x.2 ++ [none])).1

/-- The head lists of an anchor row. -/
def Step.listsAt (st : Step) (row : Nat) : KMap (List Nat) :=
  ((List.range 8).map fun d => (d + 1, kget [] st.drafts (16 * row + d + 1))).filter fun x => decide (x.2 ≠ [])

/-- What a boundary does for a request of the step that has stayed: the width, the commit and the next tree. A request that
the walk has put under a rebuild keeps no commit, lists or tree (R390). -/
def Eng.specUpdate (p : Nat) (st : Step) (r : Run) (e : Eng) : Eng :=
  let slot := r.slot
  if !(e.req slot).live || decide (r.phase = phLearn) then e
  else
    let acc := kget [] st.accepted slot
    let held := e.noDrafts p slot
    let w := e.rwidth slot
    let e := if r.nodes ≠ [] then e.adapt p slot acc.length (r.nodes.foldl (fun d t => max d t.depth) 0)
      else if w = 0 ∧ r.phase = phDecode ∧ held = false then e.probe p slot else e
    if !(e.req slot).started then e
    else
      let lists := match st.anchors.find? fun x => decide (x.1 = slot) with
        | some x => st.listsAt x.2
        | none => (e.req slot).lists
      let e := e.onReq slot fun q => { q with commit := acc, lists := lists }
      let e := e.setRqf slot 20 16 13 acc.length
      e.onReq slot fun q => { q with tree := if held then [] else e.buildTree p slot lists }

/-- The counters of a run that verified at least one node (R391). -/
def Eng.countTree (p : Nat) (st : Step) (r : Run) (e : Eng) : Eng :=
  if r.nodes = [] then e
  else (e.bumpWrap (Reg.specVerified p) 31 0).bumpWrap (Reg.specAccepted p) 31 0 (kget [] st.accepted r.slot).length

/-! ## Realignment (R193, R194) -/

/-- A step boundary counts in S of every armed entry, and the first one at or after a realignment point evaluates them.
(DEDUCED, assumption log 66) -/
def Eng.realignCut (b : BeatUnit) (p : Nat) (e : Eng) : Eng :=
  let e := e.onPart p fun q => { q with realigns := q.realigns.map fun x => (x.1, if x.2.armed then { x.2 with steps := x.2.steps + 1 } else x.2) }
  let due := (e.part p).raDue
  let e := e.onPart p fun q => { q with raDue := false }
  if !due || decide (e.fld (Reg.syncRealign p) 15 0 = 0) then e
  else
    let armed := ((e.part p).realigns.filter fun x => x.2.armed).map fun x => e.semBase p + e.fld (Reg.syncRaCell p x.1) 15 0
    armed.eraseDups.foldl (fun e n => e.atCell b n [.realign p]) e

/-! ## The boundary of a step (R16, R17, R286, R303, R336) -/

/-- The cut of a step has been reached: no operation of it is left, every group has reported, and every record it has formed
is in its ring. (DEDUCED, assumption log 67) -/
def Eng.cutReached (e : Eng) (p : Nat) (st : Step) : Bool :=
  st.proc && st.groupsDone && !e.opsLeft p st.num && (st.recs.all fun r => r.handed) && e.stepLanded p st.num

/-- The slots of a step, rising. -/
def Step.slots (st : Step) : List Nat :=
  sortBy (fun a c => decide (a < c)) ((st.runs.map fun r => r.slot).filter fun s => decide (s ≠ deadSlot))

/-- The boundary of a step whose cut has been reached. While the partition is RESETTING row 1 of R20 holds and the walk does
nothing (R60, R62). (DEDUCED, assumption logs 66, 67) -/
def Eng.stepBoundary (b : BeatUnit) (p : Nat) (st : Step) (e : Eng) : Eng :=
  let at_ := st.lateAt.getD b.time
  let mine := st.slots
  let e := ((e.releasePass p st.num 0).releasePass p st.num 1).rowsLeft p st.num
  let e := e.realignCut b p
  let e := if e.pstate p = psResetting then e else e.switchBank b p st.num
  let rs := sortBy (fun x y : Run => decide (x.slot < y.slot)) (st.runs.filter fun r => decide (r.slot ≠ deadSlot))
  let e := rs.foldl (fun e r => if (e.req r.slot).copyStep = some st.num then e.dropCopy b p r.slot else e) e
  let e := st.lists.foldl (fun e l => e.dropList b p l) e
  let (bad, e) := Eng.runUpdates b p st rs e
  let e := rs.foldl (fun e r => e.countTree p st r) e
  let e := e.onPart p fun q => { q with steps := q.steps.filter (fun s => decide (s.num ≠ st.num)), idleDue := false }
  if e.pstate p = psResetting then rs.foldl (fun e r => e.measureStep p r.slot false) e
  else
    let all := sortBy (fun a c => decide (a < c)) (mine ++ (e.idleSlots p).filter fun s => !mine.contains s)
    let x := all.foldl (fun x s => Eng.walkSlot b p mine at_ s x) ((⟨[], [], []⟩ : WalkOut), rs.foldl (fun e r => e.measureStep p r.slot true) e)
    let e := x.2
    let e := bad.foldl (fun e s => if (e.req s).live then e.onReq s fun r => { r with faultEv := some stTenantFault } else e) e
    let e := rs.foldl (fun e r => e.specUpdate p st r) e
    let e := (Eng.afterWalk b p (x.1, e))
    rs.foldl (fun e r => if (e.req r.slot).live && decide (e.rstate r.slot = rsWaiting) then e.alertReturn p r.slot else e) e

/-- STEP_BOUNDARY: the boundary of a partition's oldest step in flight, once its cut has been reached (R16, R17, R286). -/
def execStepBoundary (p : Fin 32) (s : State) : Host.Outcome State Fault Refusal :=
  .next <| s.onEng fun b e =>
    match (e.part p.val).steps with
    | [] => e
    | st :: _ =>
      if e.cutReached p.val st then ((e.stepBoundary b p.val st).phase3IfIdle b p.val).kdlPump b else e

/-! ## Seal processing (R279, R364, R380) -/

/-- The 8 bytes of a node entry of a candidate block (R380). -/
def nodeEntry (t : TreeNode) : List Byte := leBytes 8 (t.token % 2 ^ 20 + t.parent % 2 ^ 7 * 2 ^ 20 + t.depth % 16 * 2 ^ 27)

/-- The candidate block of a DECODE run with TREE (R380). -/
def Run.candBlock (r : Run) : List Byte :=
  let head := leBytes 4 r.nodes.length ++ [BitVec.ofNat 8 r.commit.length, 0, 0, 0] ++ leBytes 4 (r.pos0 - r.commit.length) ++
    leBytes 4 0 ++ ((r.commit.map fun j => BitVec.ofNat 8 j) ++ List.replicate 8 0xFF#8).take 8 ++ List.replicate 36 0
  let ents := (r.nodes.map nodeEntry).flatten
  head ++ leBytes 4 (crc32c (head ++ ents)).toNat ++ padTo 512 ents

/-- What seal processing writes for a run: its candidate block, and the mask of a sample row under a grammar (R364, R380). -/
def Eng.sealRun (b : BeatUnit) (p : Nat) (r : Run) (e : Eng) : Eng :=
  let e := if r.tree then e.partStore b p (e.candAddr p r.home) r.candBlock else e
  if r.sampled && (e.rgram r.slot).isSome then e.buildMask b p r.slot else e

/-- SEAL_PROCESSED: Weir has processed the block's oldest waiting seal, if it is one of this partition (R279). -/
def execSealProcessed (p : Fin 32) (s : State) : Host.Outcome State Fault Refusal :=
  .next <| s.onEng fun b e =>
    match e.seals with
    | [] => e
    | (q, num) :: rest =>
      if q ≠ p.val then e
      else
        let e : Eng := (({ e with seals := rest } : Eng).showBacklog).bumpWrap Reg.weirSeals 31 0
        match e.stepOf q num with
        | none => e
        | some st =>
          let e := st.runs.foldl (fun e r => e.sealRun b q r) e
          (e.onStep q num fun s => { s with proc := true }).issueStep b q num

end Sys2Proof.Machine
end

