-- ==== Sys2Proof/Machine/Sched.lean ====
section
/-! DEFINITION. The task scheduler (spec/06): ready lists, delay lists, the scheduling and time instructions, and the events QUANTUM_EXPIRY, ITEM_DUE, WAKE_DUE and HELD_ITEM_MOVE. -/

namespace Sys2Proof.Machine

open Sys2Proof

/-- A priority level in MOD [4:0], with MOD [7:5] 0 (R121). -/
def Ins.level (i : Ins) : Nat := bitsOf i.ext.toNat 28 24

/-- ITEM and TIMER entries on the delay lists (R157). -/
def Partn.dlUsed (q : Partn) : Nat :=
  (q.delays.filter fun d => match d.act with
    | .wake _ _ _ => false
    | _ => true).length

/-- The list with the fewest entries, lowest number first (R158). -/
def Partn.emptiest (q : Partn) : Nat :=
  let n := fun l => (q.delays.filter fun d => decide (d.list = l)).length
  (List.range 8).foldl (fun best l => if n l < n best then l else best) 0

/-- Insert a delay-list entry under the next insertion count (R158, R159). -/
def Partn.dlInsert (key : Nat) (a : DlAct) (q : Partn) : Partn :=
  { q with dlSeq := q.dlSeq + 1, delays := q.delays ++ [⟨key, q.dlSeq, q.emptiest, false, a⟩] }

/-- Whether one insertion count is later than another (R159): the difference modulo 2^32 is below 2^31. -/
def seqLater (a b : Word) : Bool := decide (a ≠ b) && decide ((a - b).toNat < 2 ^ 31)

/-- The release order of R159. -/
def dlBefore (x y : DlEnt) : Bool := decide (x.key < y.key) || (decide (x.key = y.key) && seqLater y.seq x.seq)

/-- The earliest entry that satisfies a condition (R159). -/
def Partn.dlFirst (q : Partn) (f : DlEnt → Bool) : Option DlEnt :=
  (q.delays.filter f).foldl (fun best d => match best with
    | none => some d
    | some x => if dlBefore d x then some d else some x) none

/-- Whether an entry may be released now: due, and not an ITEM later than a held ITEM of the same ready list (R156, R159,
R160). -/
def Partn.dlFree (q : Partn) (now : Nat) (d : DlEnt) : Bool :=
  decide (d.key ≤ now) && !d.held && (match d.act with
    | .item _ l => !q.delays.any fun y => y.held && dlBefore y d && (match y.act with
      | .item _ m => decide (m = l)
      | _ => false)
    | _ => true)

/-- The next entry of the release sequence. -/
def Partn.dlNext (q : Partn) (now : Nat) : Option DlEnt := q.dlFirst (q.dlFree now)

/-- Remove an entry. -/
def Partn.dlDrop (d : DlEnt) (q : Partn) : Partn := { q with delays := q.delays.filter fun x => decide (x ≠ d) }

/-- An entry leaves: OVERDUE when it is more than LAG_LIMIT late (R161). -/
def Eng.dlLeave (b : BeatUnit) (p : Nat) (d : DlEnt) (e : Eng) : Eng :=
  let e := e.onPart p fun q => q.dlDrop d
  if e.fld (Reg.schedLagLimit p) 15 0 + d.key < b.time then e.ev (Reg.schedEvent p) 3 else e

/-- ENQ: put an item on a ready list, or report it full (R122, R156). -/
def execEnq (i : Ins) (s : State) : Host.Outcome State Fault Refusal :=
  runIns (.enq i) ⟨0x1C, 0x00, .s, .s, .unused, 0x1F000000⟩ i none (fun b e =>
    let l := Ins.level i
    if e.listFull i.p l then
      ((e.ev (Reg.schedEvent i.p) 0).bump (Reg.schedFullCount i.p) 15 0).finS b i 1
    else (e.putItem i.p l (e.sa i)).finS b i 0) s

/-- Which item of a ready list DEQ takes: a free value of the draw (R122, R155). (DESIGN CHOICE, assumption log 17) -/
def pickIndex (n len : Nat) : Nat := if len ≤ 1 then 0 else Config.freePick n % len

/-- DEQ: take an item from the most urgent non-empty list down to level MOD (R122, R155). -/
def execDeq (i : Ins) (s : State) : Host.Outcome State Fault Refusal :=
  runIns (.deq i) ⟨0x1D, 0x00, .s, .unused, .p, 0x1F000000⟩ i none (fun b e =>
    match (List.range (Ins.level i + 1)).find? fun l => decide ((e.part i.p).itemsAt l ≠ []) with
    | none => e.finish b i.p i.c fun x => (x.setS i.dst.toNat 0).setP i.srcb.toNat false
    | some l =>
      let (n, e) := e.drawFree
      let items := (e.part i.p).itemsAt l
      let k := pickIndex n items.length
      let v := items.getD k 0
      let e := e.onPart i.p fun q => { q with items := kset [] q.items l (items.eraseIdx k) }
      e.finish b i.p i.c fun x => (x.setS i.dst.toNat v).setP i.srcb.toNat true) s

/-- The delay lists are full for ITEM and TIMER entries (R157). -/
def Eng.dlFull (e : Eng) (p : Nat) : Bool := decide (32752 ≤ (e.part p).dlUsed)

/-- DLY or TAT found the lists full (R157, R165). -/
def Eng.dlRefuse (p : Nat) (e : Eng) : Eng := (e.ev (Reg.schedEvent p) 1).bump (Reg.schedFullCount p) 31 16

/-- DLY: insert an ITEM entry (R122, R158). -/
def execDly (i : Ins) (s : State) : Host.Outcome State Fault Refusal :=
  runIns (.dly i) ⟨0x1E, 0x00, .s, .s, .s, 0x1F000000⟩ i none (fun b e =>
    if e.dlFull i.p then (e.dlRefuse i.p).finS b i 1
    else (e.onPart i.p fun q => q.dlInsert ((e.sb i).toNat % 2 ^ 56) (.item (e.sa i) (Ins.level i))).finS b i 0) s

/-- A YIELD at its boundary (R151): the slot passes when another context can issue at the level or a more urgent one. -/
def Eng.yieldSlot (b : BeatUnit) (i : Ins) (e : Eng) : Eng :=
  let e := e.onCtx i.p i.c fun x => { x with pc := x.pc + 8 }
  if e.rivalBelow i.p i.c (e.prio i.p i.c + 1) then e.switchOut i.p i.c else e.boundary b i.p i.c

/-- YIELD: let Cascade choose again (R122, R151). -/
def execYield (i : Ins) (s : State) : Host.Outcome State Fault Refusal :=
  runIns (.yield i) ⟨0x1F, 0x00, .unused, .unused, .unused, 0⟩ i none (fun b e => e.yieldSlot b i) s

/-- YIELD with MINOR 0x01: write the priority, then yield (R149). -/
def execYieldPrio (i : Ins) (s : State) : Host.Outcome State Fault Refusal :=
  runIns (.yieldPrio i) ⟨0x1F, 0x01, .unused, .unused, .unused, 0x1F000000⟩ i none (fun b e =>
    (e.setF (Reg.schedPrio i.p (i.c / 4)) (8 * (i.c % 4) + 4) (8 * (i.c % 4)) (Ins.level i)).yieldSlot b i) s

/-- QUANTUM_EXPIRY: the issuing context has held the slot for its quantum and another can issue at its level (R151). -/
def execQuantumExpiry (p : Fin 32) (s : State) : Host.Outcome State Fault Refusal :=
  .next <| s.onEng fun _ e =>
    match (e.part p.val).slot with
    | none => e
    | some c =>
      if e.running p.val && decide (e.fld (Reg.schedCtrl p.val) 31 16 ≠ 0) && !(e.ctx p.val c).busyIns &&
          ((List.range 16).any fun d => decide (d ≠ c) && (e.ctx p.val d).canIssue && decide (e.prio p.val d = e.prio p.val c)) then
        e.preempt p.val c
      else e


/-- ITEM_DUE: the next entry of the release sequence is a due ITEM; it moves to its ready list or is held (R156, R159
to R161). -/
def execItemDue (p : Fin 32) (s : State) : Host.Outcome State Fault Refusal :=
  .next <| s.onEng fun b e =>
    match (e.part p.val).dlNext b.time with
    | none => e
    | some d => match d.act with
      | .item v l =>
        if e.listFull p.val l then
          ((e.onPart p.val fun q => { q with delays := q.delays.map fun x => if x = d then { x with held := true } else x }).ev
            (Reg.schedEvent p.val) 2).bump (Reg.schedStallCount p.val) 31 0
        else (e.dlLeave b p.val d).putItem p.val l v
      | _ => e

/-- HELD_ITEM_MOVE: a held ITEM moves once its ready list has room (R156). -/
def execHeldItemMove (p : Fin 32) (level : Fin 32) (s : State) : Host.Outcome State Fault Refusal :=
  .next <| s.onEng fun b e =>
    let mine := fun d : DlEnt => d.held && (match d.act with
      | .item _ l => decide (l = level.val)
      | _ => false)
    match (e.part p.val).dlFirst mine with
    | none => e
    | some d => match d.act with
      | .item v l => if e.listFull p.val l then e else (e.dlLeave b p.val d).putItem p.val l v
      | _ => e

/-- The wake of a delayed context under R130: READY with its status, or TIMEOUT. -/
def Eng.wakeCtx (b : BeatUnit) (p c key : Nat) (slack : Option Dword) (dst : BitVec 5) (e : Eng) : Eng :=
  if (e.ctx p c).st ≠ .delayed then e
  else
    let late := match slack with
      | none => false
      | some k => decide (key + k.toNat < b.time)
    if late && decide (dst = 0) then
      e.ctxFault b p c fkTimeout 0 0x1000 (List.replicate 16 0 ++ leBytes 8 key)
    else
      let v : Dword := if late then 2 else 0
      (e.onCtx p c fun x => { x.setS dst.toNat v with st := .ready, pc := x.pc + 8 }).dispatch p

/-- WAKE_DUE: the next entry of the release sequence is a due WAKE; its context wakes under the slack check (R130). -/
def execWakeDue (p : Fin 32) (s : State) : Host.Outcome State Fault Refusal :=
  .next <| s.onEng fun b e =>
    match (e.part p.val).dlNext b.time with
    | none => e
    | some d => match d.act with
      | .wake c slack dst => (e.dlLeave b p.val d).wakeCtx b p.val c d.key slack dst
      | _ => e

/-- The context enters DELAYED until `t` (R130). -/
def Eng.delayCtx (b : BeatUnit) (i : Ins) (t : Nat) (e : Eng) : Eng :=
  let slack := if i.srcb = 0 then none else some (e.sb i)
  let e := e.onPart i.p fun q => q.dlInsert t (.wake i.c slack i.dst)
  (e.onCtx i.p i.c fun x => { x with st := .delayed }).boundary b i.p i.c

/-- TWAIT abs: delay until the beat time in s[srca] [55:0] (R130). -/
def execTwaitAbs (i : Ins) (s : State) : Host.Outcome State Fault Refusal :=
  runIns (.twaitAbs i) ⟨0x26, 0x00, .s, .s, .s, 0⟩ i none (fun b e => e.delayCtx b i ((e.sa i).toNat % 2 ^ 56)) s

/-- TWAIT rel: delay for s[srca] ticks (R130). (DESIGN CHOICE, assumption log 4) -/
def execTwaitRel (i : Ins) (s : State) : Host.Outcome State Fault Refusal :=
  runIns (.twaitRel i) ⟨0x26, 0x01, .s, .s, .s, 0⟩ i none (fun b e => e.delayCtx b i (b.time + (e.sa i).toNat)) s

end Sys2Proof.Machine
end

