-- ==== Sys2Proof/Machine/SyncOps.lean ====
section
/-! DEFINITION. The synchronization instructions and events (R123 to R131, R168 to R198): waits, adds, barriers, timers, remote signals and data, cluster barriers, realignment, manual writes and core gating. -/

namespace Sys2Proof

/-- The virtual id in IMM24 [11:0] (R123). -/
def Ins.vid (i : Ins) : Nat := Machine.bitsOf i.ext.toNat 11 0

/-- SRC of a log entry for a user of Strings (R510). -/
def StringsSrc.log : StringsSrc → Nat
  | .mgmt => 1
  | .jtag => 2

end Sys2Proof

namespace Sys2Proof.Machine

open Sys2Proof

/-! ## Virtual ids (R53, R171) -/

/-- DETAIL of a SEM fault record (R176, R483): the virtual id, whether its entry is valid, and, where it is, the offended
offset. (DEDUCED, assumption log 16) -/
def semDetail (vid : Nat) (valid : Bool) (off : Nat) : List Byte :=
  leBytes 2 vid ++ [if valid then 1#8 else 0#8, 0] ++ leBytes 4 (if valid then off else 0)

/-- Translate the virtual id of an instruction to a physical cell, or raise SEM (R53, R171). -/
def Eng.withCell (b : BeatUnit) (i : Ins) (f : Nat → Eng → Eng) (e : Eng) : Eng :=
  let s := kget SemEnt.invalid (e.me i).semtab (Ins.vid i)
  if !s.valid then e.ctxFault b i.p i.c fkSem 5 (Ins.vid i) (semDetail (Ins.vid i) false 0)
  else if e.semSize i.p ≤ s.off.toNat then
    e.ctxFault b i.p i.c fkSem 5 (Ins.vid i) (semDetail (Ins.vid i) true s.off.toNat)
  else f (e.semBase i.p + s.off.toNat) e

/-- An operation of a context leaves for its cell (R172). -/
def Eng.travelOp (b : BeatUnit) (i : Ins) (n : Nat) (op : CellOp) (e : Eng) : Eng :=
  (e.launch n op).wait_ b i.p i.c .cell

/-- Bits [31:0] of a register as a count or amount (R124). (DESIGN CHOICE, assumption log 19) -/
def low32 (v : Dword) : Word := v.setWidth 32

/-- The wait that an instruction makes (R124, R172). -/
def Eng.waitOf (e : Eng) (i : Ins) (k : WKind) (n : Nat) : CellOp :=
  .wait ⟨i.p, i.c, k, n, 0, false, i.dst, BitVec.ofNat 12 (Ins.vid i), false⟩ ((e.sb i).toNat % 2 ^ 48)

/-- SWAIT: a take-wait (R124, R172, R173). -/
def execSwait (i : Ins) (s : State) : Host.Outcome State Fault Refusal :=
  runIns (.swait i) ⟨0x20, 0x00, .s, .s, .s, 0xFFF⟩ i none (fun b e =>
    e.withCell b i (fun n e => e.travelOp b i n (e.waitOf i .take (low32 (e.sa i)).toNat))) s

/-- SWAITP: a peek-wait. -/
def execSwaitp (i : Ins) (s : State) : Host.Outcome State Fault Refusal :=
  runIns (.swaitp i) ⟨0x20, 0x01, .s, .s, .s, 0xFFF⟩ i none (fun b e =>
    e.withCell b i (fun n e => e.travelOp b i n (e.waitOf i .peek (low32 (e.sa i)).toNat))) s

/-- SADD: add to a cell (R126). -/
def execSadd (i : Ins) (s : State) : Host.Outcome State Fault Refusal :=
  runIns (.sadd i) ⟨0x21, 0x00, .s, .s, .unused, 0xFFF⟩ i none (fun b e =>
    e.withCell b i (fun n e => e.travelOp b i n (.sadd i.p i.c i.dst (low32 (e.sa i))))) s

/-- SSUB: subtract from a cell (R126). -/
def execSsub (i : Ins) (s : State) : Host.Outcome State Fault Refusal :=
  runIns (.ssub i) ⟨0x22, 0x00, .s, .s, .unused, 0xFFF⟩ i none (fun b e =>
    e.withCell b i (fun n e => e.travelOp b i n (.ssub i.p i.c i.dst (low32 (e.sa i))))) s

/-- SBAR: arrive at a barrier of P participants; a P of 0 counts as 1 (R177). -/
def execSbar (i : Ins) (s : State) : Host.Outcome State Fault Refusal :=
  runIns (.sbar i) ⟨0x23, 0x00, .s, .s, .s, 0xFFF⟩ i none (fun b e =>
    e.withCell b i (fun n e => e.travelOp b i n (e.waitOf i .bar (max 1 (low32 (e.sa i)).toNat)))) s

/-- SIGR: hand a standalone signal to a remote message port (R127). -/
def execSigr (i : Ins) (s : State) : Host.Outcome State Fault Refusal :=
  runIns (.sigr i) ⟨0x24, 0x00, .unused, .s, .s, 0x01FFFFFF⟩ i
    (if i.ext.getLsbD 24 = false ∧ Ins.imm24 i ≠ 0 then some 5 else none) (fun b e =>
      let d := (e.sa i).toNat
      ((e.rmSend 0x81 (e.rmHeader (if i.ext.getLsbD 24 then 4 else 0) (bitsOf d 15 0) (bitsOf d 20 16)
        (Ins.imm24 i) (bitsOf d 47 32) (low32 (e.sb i)).toNat)).rmPump).fin b i) s

/-- Write an entry of the context's virtual table (R128). (DEDUCED, assumption log 16) -/
def Eng.smap (b : BeatUnit) (i : Ins) (priv : Bool) (e : Eng) : Eng :=
  let off := (e.sa i).setWidth 16
  if e.semSize i.p ≤ off.toNat then
    e.ctxFault b i.p i.c fkSem 2 (Ins.vid i) (semDetail (Ins.vid i) (kget SemEnt.invalid (e.me i).semtab (Ins.vid i)).valid off.toNat)
  else e.finish b i.p i.c fun x => { x with semtab := kset SemEnt.invalid x.semtab (Ins.vid i) ⟨true, priv, off⟩ }

/-- SMAP with MINOR 0x00: map shared. -/
def execSmapShared (i : Ins) (s : State) : Host.Outcome State Fault Refusal :=
  runIns (.smapShared i) ⟨0x25, 0x00, .unused, .s, .unused, 0xFFF⟩ i none (fun b e => e.smap b i false) s

/-- SMAP with MINOR 0x01: map private. -/
def execSmapPrivate (i : Ins) (s : State) : Host.Outcome State Fault Refusal :=
  runIns (.smapPrivate i) ⟨0x25, 0x01, .unused, .s, .unused, 0xFFF⟩ i none (fun b e => e.smap b i true) s

/-- SMAP with MINOR 0x02: mark invalid, ignoring SRCA. -/
def execSmapInvalid (i : Ins) (s : State) : Host.Outcome State Fault Refusal :=
  runIns (.smapInvalid i) ⟨0x25, 0x02, .unused, .s, .unused, 0xFFF⟩ i none (fun b e =>
    e.finish b i.p i.c fun x => { x with semtab := kset SemEnt.invalid x.semtab (Ins.vid i) SemEnt.invalid }) s

/-! ## Timers (R131) -/

/-- The token of a timer: opaque, non-zero, different for every insertion count. (DESIGN CHOICE, assumption log 18) -/
def timerToken (n : Nat) (seq : Word) : Dword :=
  BitVec.ofNat 64 ((Config.freeToken n).toNat * 2 ^ 33 + seq.toNat + 1)

/-- Arm a timer at a beat time (R131, R157, R158). (DESIGN CHOICE, assumption log 18) -/
def Eng.arm (b : BeatUnit) (i : Ins) (t : Nat) (e : Eng) : Eng :=
  e.withCell b i (fun n e =>
    if e.dlFull i.p then (e.dlRefuse i.p).finS b i 0
    else
      let (k, e) := e.drawFree
      let tok := timerToken k (e.part i.p).dlSeq
      (e.onPart i.p fun q => q.dlInsert t (.timer n (low32 (e.sb i)) tok)).finS b i tok)

/-- TAT abs: arm at the beat time in s[srca]. (DEDUCED, assumption log 124) -/
def execTatAbs (i : Ins) (s : State) : Host.Outcome State Fault Refusal :=
  runIns (.tatAbs i) ⟨0x27, 0x00, .s, .s, .s, 0xFFF⟩ i none (fun b e => e.arm b i ((e.sa i).toNat % 2 ^ 56)) s

/-- TAT rel: arm s[srca] ticks from now. (DESIGN CHOICE, assumption log 4) -/
def execTatRel (i : Ins) (s : State) : Host.Outcome State Fault Refusal :=
  runIns (.tatRel i) ⟨0x27, 0x01, .s, .s, .s, 0xFFF⟩ i none (fun b e => e.arm b i (b.time + (e.sa i).toNat)) s

/-- TAT disarm: remove the timer of a token; 1 if it did (R131). -/
def execTatDisarm (i : Ins) (s : State) : Host.Outcome State Fault Refusal :=
  runIns (.tatDisarm i) ⟨0x27, 0x02, .s, .s, .s, 0⟩ i none (fun b e =>
    let mine := fun d : DlEnt => match d.act with
      | .timer _ _ t => decide (t = e.sa i)
      | _ => false
    if (e.part i.p).delays.any mine then
      (e.onPart i.p fun q => { q with delays := q.delays.filter fun d => !mine d }).finS b i 1
    else e.finS b i 0) s

/-- TIMER_DUE: the next entry of the release sequence is a due timer; its amount reaches its cell (R131, R159). -/
def execTimerDue (p : AtCell (Fin 32)) (s : State) : Host.Outcome State Fault Refusal :=
  .next <| s.onEng fun b e =>
    match (e.part p.what.val).dlNext b.time with
    | none => e
    | some d => match d.act with
      | .timer n k _ => (e.dlLeave b p.what.val d).reach b p.joins n (.add k)
      | _ => e

/-! ## Events at cells -/

/-- SEM_OP_AT_CELL: the travelling operations named reach the cell in one cycle (R172, R175). `fails` says that the slice's
control parity fails twice in the cell's cycle: the slice fails, and with a spare the operations wait for the copy (R479). With
`joins` they share the cycle in which the next command acts on the cell (R175). -/
def execSemOpAtCell (cell : AtCell (BitVec 16)) (ids : List Nat) (fails : Bool) (s : State) : Host.Outcome State Fault Refusal :=
  .next <| s.onEng fun b e =>
    let n := cell.what.toNat
    if e.cellHeld n then e
    else
      let hit := fun t : Travel => decide (t.cell = n) && ids.contains t.id
      let e := if fails && (e.travel.any hit || decide (e.joinedAt n ≠ []) || decide ((e.cell n).queue ≠ [])) then e.sliceFail b (n / 2048) else e
      if e.cellHeld n then e
      else if cell.joins then (e.travel.filter hit).foldl (fun e t => e.join n t.op) { e with travel := e.travel.filter fun t => !hit t }
      else ({ e with travel := e.travel.filter fun t => !hit t }).atCell b n ((e.travel.filter hit).map fun t : Travel => t.op)

/-- WAIT_EXPIRY: a queued wait has reached its deadline (R172, R175, R176). -/
def execWaitExpiry (cell : BitVec 16) (s : State) : Host.Outcome State Fault Refusal :=
  .next <| s.onEng fun b e =>
    let n := cell.toNat
    if e.cellHeld n || ((e.cell n).queue.all fun w => decide (b.time < w.deadline)) then e else e.atCell b n []

/-- HOST_SIGNAL: AMOUNT [31:16] and CELL [15:0] of the doorbell page; the add leaves for its cell (R58, R59). -/
def execHostSignal (p : Fin 32) (v : Word) (s : State) : Host.Outcome State Fault Refusal :=
  doorWrite p.val 0x018 [psRunning] (fun _ e =>
    let off := bitsOf v.toNat 15 0
    let k := bitsOf v.toNat 31 16
    if k = 0 ∨ e.semSize p.val ≤ off then e.dbDrop p.val
    else e.launch (e.semBase p.val + off) (.add (BitVec.ofNat 32 k))) s

/-- SAT_CLR: clear a cell's saturation flag (R170, R197), once the cell is free (R479). -/
def execSatClr (path : Path) (p : Fin 32) (off : BitVec 16) (s : State) : Host.Outcome State Fault Refusal :=
  ctlWrite path (Reg.syncSatClr p.val) (fun _ e =>
    if e.semSize p.val ≤ off.toNat then e
    else
      let n := e.semBase p.val + off.toNat
      if e.cellHeld n then e.launch n .satClr else e.onCell n fun x => { x with sat := false }) s

/-- A write of WX_SYNC_RA_CELL: EN from 0 to 1 arms the entry with BASE, S 0 and T 0 (R193). -/
def Eng.raWrite (p n : Nat) (v : Word) (e : Eng) : Eng :=
  let was := e.bit (Reg.syncRaCell p n) 31
  let e := e.wr (Reg.syncRaCell p n) (v &&& 0x8000FFFF#32)
  let on := v.getLsbD 31
  let r : Realign :=
    if !on then Realign.off
    else if was then kget Realign.off (e.part p).realigns n
    else ⟨true, (e.cell (e.semBase p + bitsOf v.toNat 15 0)).count, 0, 0⟩
  e.onPart p fun q => { q with realigns := kset Realign.off q.realigns n r }

/-- REALIGN_ARM: a write of WX_SYNC_RA_CELL (R193). -/
def execRealignArm (path : Path) (p : Fin 32) (n : Fin 16) (v : Word) (s : State) : Host.Outcome State Fault Refusal :=
  ctlWrite path (Reg.syncRaCell p.val n.val) (fun _ e => e.raWrite p.val n.val v) s

/-- Whether a user of Strings may act: the ACTIVE core, or JTAG while JTAG_EN is 1 (R527). -/
def Eng.mayString (e : Eng) : StringsSrc → Bool
  | .mgmt => e.hasActive
  | .jtag => e.bit Reg.dbgCtrl 0

/-- Set WX_SYNC_MANUAL_CELL, and make the manual write that it starts (R195): SET with a value, or CLEAR_SAT. -/
def Eng.manual (b : BeatUnit) (src : Nat) (cell : AtCell (BitVec 16)) (v : Option Word) (e : Eng) : Eng :=
  (e.setF Reg.syncManualCell 15 0 cell.what.toNat).reach b cell.joins cell.what.toNat (.manual src v)

/-- A Strings write of a register of the control window that a command of its own makes: `f` is its effect (R528). -/
def Eng.strWrote (b : BeatUnit) (src a : Nat) (f : Eng → Eng) (e : Eng) : Eng :=
  let t := f e
  t.strLog b src none 0 a (e.rd a).toNat (t.rd a).toNat

/-- MANUAL_SET: Strings writes the value and then SET with the cell (R195), and each write is logged (R528). -/
def execManualSet (src : StringsSrc) (cell : AtCell (BitVec 16)) (v : Word) (s : State) : Host.Outcome State Fault Refusal :=
  .next <| s.onEng fun b e =>
    if !e.mayString src then e
    else (e.strWrote b src.log Reg.syncManualValue fun e => e.wr Reg.syncManualValue v).strWrote b src.log Reg.syncManualCell fun e =>
      e.manual b src.log cell (some v)

/-- MANUAL_CLEAR_SAT: Strings clears the flag only (R195). -/
def execManualClearSat (src : StringsSrc) (cell : AtCell (BitVec 16)) (s : State) : Host.Outcome State Fault Refusal :=
  .next <| s.onEng fun b e =>
    if !e.mayString src then e
    else e.strWrote b src.log Reg.syncManualCell fun e => e.manual b src.log cell none

/-- CORE_GATE: the spin window has passed with nothing to issue; the core gates and lends what the last
controller period took as LEND (R192, R497, R502). -/
def execCoreGate (p : Fin 32) (s : State) : Host.Outcome State Fault Refusal :=
  .next <| s.onEng fun _ e =>
    let xs := (List.range 16).map fun c => e.ctx p.val c
    if e.gated p.val || decide (e.fld (Reg.syncCtrl p.val) 15 0 = 0xFFFF) || xs.any Ctx.canIssue ||
        (xs.any fun x => x.pend.isSome) || !(xs.any fun x => decide (x.st = .waiting) || decide (x.st = .delayed)) then e
    else
      let lend := if e.bit Reg.pwrCtrl 8 then e.lend else 0
      let e := { (e.setF Reg.pwrGated p.val p.val 1) with loans := kset 0 e.loans p.val lend }
      e.showPower (e.fld Reg.pwrStatus 20 16)

/-! ## Remote signals and data (R184 to R190) -/

/-- Whether a signal to a cell is rejected (R188). -/
def Eng.sigBad (e : Eng) (p off : Nat) (k : Word) : Bool :=
  !e.running p || decide (e.semSize p ≤ off) || decide (k = 0)

/-- Apply a signal, or reject it (R186, R188). -/
def Eng.signal (b : BeatUnit) (joins : Bool) (p off : Nat) (k : Word) (e : Eng) : Eng :=
  if e.sigBad p off k then e.reject p else e.reach b joins (e.semBase p + off) (.add k)

/-- Show the occupancy of the pending-signal buffer and of the transfer table (R198). -/
def Eng.showOcc (e : Eng) : Eng :=
  let n := e.parked.length
  let m := e.xfers.length
  let e := (e.setF Reg.syncPendOcc 8 0 n).setF Reg.syncPendOcc 24 16 (max n (e.fld Reg.syncPendOcc 24 16))
  (e.setF Reg.syncXferOcc 10 0 m).setF Reg.syncXferOcc 26 16 (max m (e.fld Reg.syncXferOcc 26 16))

/-- The key of a transfer: source engine and tag (R184). -/
def xferKey (src : BitVec 16) (tag : BitVec 24) : Nat := src.toNat * 2 ^ 24 + tag.toNat

def Eng.xfer? (e : Eng) (key : Nat) : Option Xfer := e.xfers.find? fun x => decide (x.key = key)
def Eng.onXfer (e : Eng) (key : Nat) (f : Xfer → Xfer) : Eng :=
  { e with xfers := e.xfers.map fun x => if x.key = key then f x else x }

/-- An entry retires when its transfer is complete, its attached signal applied and, with SIGF, its standalone signal
applied (R184). -/
def Eng.retireXfer (key : Nat) (e : Eng) : Eng :=
  ({ e with xfers := e.xfers.filter fun x => !(decide (x.key = key) && x.complete && (!x.sigf || x.sigDone)) }).showOcc

/-- Rounds of parked signals: in arrival order within a port, summed across ports (R186). (DEDUCED, assumption log 38) -/
def parkedRounds (ps : List Parked) : List (List Parked) :=
  (List.range ps.length).map fun k => (List.range 4).filterMap fun q => (ps.filter fun x => decide (x.port = q))[k]?

/-- The adds of a round at their cells: those of the ports to one cell are summed (R186). (DEDUCED, assumption log 38) -/
def Eng.roundAdds (e : Eng) (ps : List Parked) : List (Nat × List CellOp) :=
  (ps.map fun x => e.semBase x.part + x.off).eraseDups.map fun n =>
    (n, (ps.filter fun x => decide (e.semBase x.part + x.off = n)).map fun x => .add x.amount)

/-- Rounds of signals that become applicable in one cycle are rejected or applied in it (R186, R188). (DEDUCED, assumption log 38) -/
def Eng.applyRounds (b : BeatUnit) (rs : List (List Parked)) (e : Eng) : Eng :=
  let bad := fun x : Parked => e.sigBad x.part x.off x.amount
  let l := (rs.map fun ps => e.roundAdds (ps.filter fun x => !bad x)).flatten
  ((rs.flatten.filter bad).foldl (fun e x => e.reject x.part) e).atCells b l

/-- A transfer is complete: its attached signal, then its parked signals, are applied (R185, R186). (DESIGN CHOICE,
assumption log 99) -/
def Eng.xferDone (b : BeatUnit) (key : Nat) (e : Eng) : Eng :=
  match e.xfer? key with
  | none => e
  | some x =>
    if x.done ≠ x.total ∨ x.complete then e
    else
      let e := e.onXfer key fun x => { x with complete := true, attached := none }
      let first := (x.attached.map fun y => [Parked.mk 0 key 0 x.part y.1 y.2 b.time 0]).toList
      let ps := e.parked.filter fun y => decide (y.key = key)
      let e := { e with parked := e.parked.filter fun y => decide (y.key ≠ key) }
      let e := e.applyRounds b (first ++ parkedRounds ps)
      (e.onXfer key fun x => { x with sigDone := x.sigDone || decide (ps ≠ []) }).retireXfer key

/-- Put a signal into the pending-signal buffer (R186). -/
def Eng.park (key src p off : Nat) (k : Word) (now port : Nat) (e : Eng) : Eng :=
  ({ e with nextId := e.nextId + 1, parked := e.parked ++ [Parked.mk e.nextId key src p off k now port] }).showOcc

/-- A standalone signal is rejected, applied, or parked for its transfer (R186, R188); none where it must wait at its port
for a place in the full pending-signal buffer (R189). `now` is when it arrived. -/
def Eng.takeSignal (b : BeatUnit) (joins : Bool) (now : Nat) (m : RmMsg) (e : Eng) : Option Eng :=
  let p := m.part.val
  let off := m.offset.toNat
  let k : Word := BitVec.ofNat 32 m.body.toNat
  let key := xferKey m.src m.tag
  let ended := ((e.xfer? key).map fun x => x.complete).getD false
  if !signalClean m || e.sigBad p off k then some (e.reject p)
  else if !m.flags.getLsbD 2 then some (e.signal b joins p off k)
  else if ended then some (((e.signal b joins p off k).onXfer key fun x => { x with sigDone := true }).retireXfer key)
  else if 256 ≤ e.parked.length then none
  else some (e.park key m.src.toNat p off k now m.port.val)

/-- A DATA packet opens or joins its transfer and is written to memory (R184, R185, R187); none where it must wait at its
port for a place in the full transfer table (R189). -/
def Eng.takeData (m : RmMsg) (e : Eng) : Option Eng :=
  let key := xferKey m.src m.tag
  if (e.xfer? key).isNone ∧ 1024 ≤ e.xfers.length then none
  else
    let p := m.part.val
    let body := m.body.toNat
    let e := if (e.xfer? key).isSome then e
      else ({ e with xfers := e.xfers ++ [Xfer.mk key p (bitsOf body 63 32) 0 false false none false] }).showOcc
    let e := e.onXfer key fun x => { x with sigf := x.sigf || m.flags.getLsbD 1 }
    let siga := m.flags.getLsbD 0 && m.flags.getLsbD 5
    let k : Word := BitVec.ofNat 32 body
    let e := if !siga then e
      else if e.sigBad p m.offset.toNat k then e.reject p
      else e.onXfer key fun x => { x with attached := some (m.offset.toNat, k) }
    some (e.issueTxn p (bitsOf body 127 64) (.data p key m.payload))

/-- The signals and then the packets that wait at the remote message ports are taken, in the order of their arrival, as far
as there are places; the rest wait on and hold the credits of their class (R189). (DESIGN CHOICE, assumption log 25) -/
def Eng.ingress (b : BeatUnit) (e : Eng) : Eng :=
  let e := e.sigIn.foldl (init := { e with sigIn := [] }) fun e x => match e.takeSignal b false x.2 x.1 with
    | some e => e
    | none => { e with sigIn := e.sigIn ++ [x] }
  e.dataIn.foldl (init := { e with dataIn := [] }) fun e m => match e.takeData m with
    | some e => e
    | none => { e with dataIn := e.dataIn ++ [m] }

/-- The flits of a message: the header and its payload (R551). -/
def RmMsg.flits (m : RmMsg) : Nat := 1 + ceilDiv m.bytes.toNat 32

/-- The flit credits of a class that the engine grants on a remote message port and does not withhold (R189, R462, R550): 0
REQUEST, 1 RESPONSE, 2 SIGNAL, 3 VERDICT. A message that waits at the port holds its credits; a full transfer table withholds
the REQUEST class and a full pending-signal buffer the SIGNAL class (R189), and while wx_ready_o is low all is withheld (R533,
R561). (DESIGN CHOICE, assumption log 25) -/
def Eng.granted (e : Eng) (port cls : Nat) : Nat :=
  let held := fun l : List RmMsg => ((l.filter fun m => decide (m.port.val = port)).map RmMsg.flits).foldl (· + ·) 0
  if !e.bit Reg.glbStatus 31 then 0
  else if cls = 0 then (if 1024 ≤ e.xfers.length then 0 else 256 - held e.dataIn)
  else if cls = 2 then (if 256 ≤ e.parked.length then 0 else 32 - held (e.sigIn.map fun x => x.1))
  else 32

/-- The flit credits of a VC that the engine grants on a hidden-state port (R545): 64 on VC 0 and 8 on VC 1, less the flits that
have not left its ingress buffer, the rows that wait for a reservation (R548) and the requests for random words that wait
(R410); none on VC 0 while a row waits, and none while wx_ready_o is low (R533). (DESIGN CHOICE, assumption log 25) -/
def Eng.hsGranted (e : Eng) (port vc : Nat) : Nat :=
  let rows := e.hrowHeld.filter fun h => decide (h.port.val = port)
  if !e.bit Reg.glbStatus 31 then 0
  else if vc = 0 then (if rows = [] then 64 else 0)
  else 8 - (e.bitq.filter fun x => decide (x.1 = port)).length

/-- The write of a DATA packet has its response (R184, R581): an error is the partition's, and the write counts. (DESIGN
CHOICE, assumption log 99) -/
def Eng.dataDone (b : BeatUnit) (t : Txn) (ok : Bool) (e : Eng) : Eng :=
  match t.kind with
  | .data p key d =>
    let e := if ok then e.store t.addr d else e.memFault b p t.addr true
    ((e.onXfer key fun x => { x with done := x.done + d.length }).xferDone b key).ingress b
  | _ => e

/-- DATA: a packet is taken, or waits at its port, behind those that wait there, while the transfer table is full (R184, R189). -/
def execData (m : RmMsg) (s : State) : Host.Outcome State Fault Refusal :=
  .next <| s.onPort fun _ e =>
    let n := m.bytes.toNat
    if n ≠ m.payload.length ∨ n = 0 ∨ 4096 < n then e
    else if !dataClean m then e.reject m.part.val
    else match e.takeData m with
      | some e => e
      | none => { e with dataIn := e.dataIn ++ [m] }

/-- SIGNAL: a standalone signal is rejected, applied or parked, or waits at its port while the pending-signal buffer is full
(R186, R188, R189). -/
def execSignal (m : AtCell RmMsg) (s : State) : Host.Outcome State Fault Refusal :=
  .next <| s.onPort fun b e => match e.takeSignal b m.joins b.time m.what with
    | some e => e.ingress b
    | none => { e with sigIn := e.sigIn ++ [(m.what, b.time)] }

/-- PARK_EXPIRY: a parked signal has waited PARK_LIMIT beats (R190). -/
def execParkExpiry (id : Nat) (s : State) : Host.Outcome State Fault Refusal :=
  .next <| s.onEng fun b e =>
    match e.parked.find? fun x => decide (x.id = id) with
    | none => e
    | some x =>
      if b.time < x.at_ + max 1 (e.fld Reg.syncParkLimit 15 0) * 256 then e
      else
        let e := ({ e with parked := e.parked.filter fun y => decide (y.id ≠ id) }).showOcc
        (((e.bump (Reg.syncParkDrops x.part) 31 0).ev (Reg.syncEvent x.part) 6).logAdd b 0x0003 0 (some x.part)
          (leBytes 2 x.src ++ [0, 0] ++ leBytes 3 (x.key % 2 ^ 24) ++ [0] ++ leBytes 2 x.off)).ingress b

/-- The home entry that an ARRIVE names (R180). -/
def Eng.homeEntry (e : Eng) (m : RmMsg) : Option Nat :=
  (List.range 4).find? fun k => e.bit (Reg.syncXbCfg m.part.val k) 31 && e.xbHome m.part.val k &&
    decide (e.fld (Reg.syncXbCfg m.part.val k) 15 0 = m.offset.toNat)

/-- XB_ARRIVE: an ARRIVE is counted at its home entry, which releases the round when it is complete (R180, R446); one with
a reserved bit is rejected (R553). -/
def execXbArrive (m : RmMsg) (s : State) : Host.Outcome State Fault Refusal :=
  .next <| s.onPort fun b e =>
    match e.homeEntry m with
    | none => e.rejectGlobal
    | some k =>
      let p := m.part.val
      if !arriveClean m (e.isVerdict p k) then e.reject p else
      let vote := m.body.toNat % 8192
      if e.fld (Reg.syncXbStatus p k) 15 0 + 1 < e.fld (Reg.syncXbCount p k) 15 0 then e.xbCount b p k m.src.toNat vote
      else e.atCell b (e.xbCell p k) [.arrive p k m.src.toNat vote]

/-- The member entries that a RELEASE names: partition and entry (R180). -/
def Eng.memberEntries (e : Eng) (m : RmMsg) : List (Nat × Nat) :=
  ((List.range 32).map fun p => ((List.range 4).filter fun k =>
    e.bit (Reg.syncXbCfg p k) 31 && !e.xbHome p k && decide (e.fld (Reg.syncXbHome p k) 31 16 = m.src.toNat) &&
      decide (e.fld (Reg.syncXbCfg p k) 20 16 = m.part.val) && decide (e.fld (Reg.syncXbHome p k) 15 0 = m.offset.toNat)).map
        fun k => (p, k)).flatten

/-- Member entries receive their RELEASE in one cycle, at their local cells (step 6 of R175 and of R180). -/
def Eng.memberRelease (b : BeatUnit) (body : Nat) (l : List (Nat × Nat)) (e : Eng) : Eng :=
  e.atCells b (l.map fun x => (e.xbCell x.1 x.2, [.release x.1 x.2 body]))

/-- XB_RELEASE: a RELEASE reaches its member entries; one of this engine's own is ignored (R180, R182), and one with a
reserved bit rejected (R553). -/
def execXbRelease (m : RmMsg) (s : State) : Host.Outcome State Fault Refusal :=
  .next <| s.onPort fun b e =>
    if m.src.toNat = e.fld Reg.syncEngineId 15 0 then e
    else match e.memberEntries m with
      | [] => e.rejectGlobal
      | l =>
        if l.any fun x => !releaseClean m (e.isVerdict x.1 x.2) then e.reject m.part.val
        else e.memberRelease b m.body.toNat l

/-! ## Update commands and reports (R445, R452, R453) -/

/-- ECHO: an owner's answer (R452), rejected where a reserved bit is set (R553). -/
def execEcho (m : RmMsg) (s : State) : Host.Outcome State Fault Refusal :=
  .next <| s.onPort fun b e => if echoClean m then e.takeEcho b m.body.toNat else e.reject m.part.val

/-- ECHO_LATE: an UPDATE of the group has waited ECHO_LIMIT beats (R453). -/
def execEchoLate (g : BitVec 12) (s : State) : Host.Outcome State Fault Refusal :=
  .next <| s.onEng fun b e =>
    let x := e.group g.toNat
    let lim := e.fld (Reg.wlcEchoLimit x.part) 15 0
    let due := fun u : Unans => !u.late && decide (u.sent + 256 * lim ≤ b.time)
    if lim ≠ 0 ∧ x.unans.any due then
      (e.onGroup g.toNat fun x => { x with unans := x.unans.map fun u => if due u then { u with late := true } else u }).ev
        (Reg.wlcEvent x.part) 7
    else e

/-- Discard a group's commands and return it to IDLE (R453). -/
def Eng.groupReset (b : BeatUnit) (n : Nat) (e : Eng) : Eng := ((e.onGroup n Group.idle).roundCheck b (e.group n).part).rmFlow b

/-- ABORT of the selected group (R453). -/
def Eng.groupAbort (b : BeatUnit) (e : Eng) : Eng :=
  let n := e.fld Reg.wlcGrpSel 11 0
  if (e.group n).st = gsIdle then e else e.groupReset b n

/-- CLEAR of the selected group (R453). -/
def Eng.groupClear (b : BeatUnit) (e : Eng) : Eng :=
  let n := e.fld Reg.wlcGrpSel 11 0
  if (e.group n).st = gsFailed then e.groupReset b n else e

/-- ABORT: discard the selected group's commands (R453). -/
def execAbort (path : Path) (s : State) : Host.Outcome State Fault Refusal :=
  ctlWrite path Reg.wlcGrpCmd (fun b e => e.groupAbort b) s

/-- CLEAR: return a FAILED group to IDLE (R453). -/
def execClear (path : Path) (s : State) : Host.Outcome State Fault Refusal :=
  ctlWrite path Reg.wlcGrpCmd (fun b e => e.groupClear b) s

/-- NF_REPORT: software reports a non-finite layer (R445). -/
def execNfReport (path : Path) (p : Fin 32) (v : Word) (s : State) : Host.Outcome State Fault Refusal :=
  ctlWrite path (Reg.wlcNfReport p.val) (fun _ e => e.nfReport p.val (bitsOf v.toNat 11 0)) s

end Sys2Proof.Machine
end

