-- ==== Sys2Proof/Machine/Partitions.lean ====
section
/-! DEFINITION. Partitions coming into and out of service (R52, R55, R60 to R62, R563): the checks of ENABLE, pending and starting, and the phases of a partition reset. -/

namespace Sys2Proof.Machine

open Sys2Proof

/-! ## The checks of ENABLE (R52, R200, R228, R378, R429) -/

/-- Two ranges, each a base and a size, share an element: an empty one shares none. -/
def rangesMeet (a n c m : Nat) : Bool := decide (max a c < min (a + n) (c + m))

/-- A range lies within its total, holds something, and meets no range of another partition in use. -/
def Eng.rangeGood (e : Eng) (p total : Nat) (lo size : Nat → Nat) : Bool :=
  decide (1 ≤ size p) && decide (lo p + size p ≤ total) &&
    (List.range 32).all fun q => decide (q = p) || !e.inUse q || !rangesMeet (lo p) (size p) (lo q) (size q)

/-- The shares of R52. -/
def Eng.sharesGood (e : Eng) (p : Nat) : Bool :=
  e.rangeGood p 131072 e.rqtBase e.rqtSize && e.rangeGood p 65536 e.semBase e.semSize && e.rangeGood p 8192 e.ledBase e.ledSize &&
    decide (e.dispChans p ≠ []) &&
    (List.range 32).all fun q => decide (q = p) || !e.inUse q || decide (e.dispMask p &&& e.dispMask q = 0)

/-- Basin's settings (R228). -/
def Eng.basinGood (e : Eng) (p : Nat) : Bool :=
  let lpLo := e.fld Reg.pageLpRange 11 0 * 4096
  let lpSize := e.fld Reg.pageLpRange 28 16 * 4096
  e.rangeGood p (e.fld Reg.pagePool 24 0) e.pageLo e.pageSpan && !rangesMeet (e.pageLo p) (e.pageSpan p) lpLo lpSize &&
    e.rangeGood p (2 ^ 28) e.nodeLo e.nodeSpan && decide (e.fld (Reg.pageRange p) 28 16 ≤ 4096) &&
    decide (e.fld (Reg.pageNodes p) 28 16 ≤ 4096) && decide (2 ≤ e.listSpan p) && decide (e.fld (Reg.pageCfg p) 1 0 ≠ 3)

/-- The tree template (R378). -/
def Eng.templateGood (e : Eng) (p : Nat) : Bool :=
  let n := e.fld (Reg.specCtrl p) 6 0
  let ds := e.treeDepths p
  decide (n = 0) ||
    (decide (n ≤ 64) && decide (e.pair (Reg.specCandBaseLo p) (Reg.specCandBaseHi p) ≠ 0) &&
      (List.range n).all fun j =>
        let x := e.treeEnt p j
        (decide (x.1 = 0x7F) || decide (x.1 < j)) && decide (ds.getD j 0 ≤ 8) &&
          (List.range j).all fun i => decide (e.treeEnt p i ≠ x))

/-- Spout's settings (R429), and the submission ring's LOG2 (R200). -/
def Eng.ringsGood (e : Eng) (p : Nat) : Bool :=
  let within := fun n lo hi : Nat => decide (lo ≤ n) && decide (n ≤ hi)
  within (e.fld (Reg.admSqSize p) 4 0) 6 16 && within (e.fld (Reg.spoutCqSize p) 4 0) 6 16 &&
    within (e.fld (Reg.spoutTrCfg p) 3 0) 6 12 && decide (e.cqBase p ≠ 0) &&
    decide (e.pair (Reg.spoutSpillBaseLo p) (Reg.spoutSpillBaseHi p) ≠ 0) &&
    (decide (e.fld (Reg.spoutTrCfg p) 24 16 = 0) || decide (e.trBase p ≠ 0))

/-- Every check that R55 makes. -/
def Eng.enableGood (e : Eng) (p : Nat) : Bool := e.sharesGood p && e.basinGood p && e.templateGood p && e.ringsGood p

/-- ENABLE is checked: pending, or cleared with CFG_ERR (R55). -/
def Eng.tryEnable (p : Nat) (e : Eng) : Eng :=
  if e.enableGood p then e.setF (Reg.partStatus p) 2 2 1 else (e.setF (Reg.partCtrl p) 0 0 0).cfgErr p

/-! ## Entering RUNNING (R55, R307, R418, R521) -/

/-- Whether a pending partition may start: beat time is kept, every channel of its mask is UP, and the microcode is loaded. -/
def Eng.startReady (b : BeatUnit) (e : Eng) (p : Nat) : Bool :=
  e.bit (Reg.partStatus p) 2 && decide (e.pstate p = psDisabled) && b.running && !e.warm && e.bit Reg.mgmtUpdStatus 26 &&
    decide (e.dispChans p ≠ []) && (e.dispChans p).all fun c => (e.chan (e.phys c)).up

/-- What the free lists and cursors hold at ENABLE and at the end of a partition reset (R220, R232). -/
def Partn.freshLists (q : Partn) : Partn :=
  { q with
    freeFrom := 0, freed := [], commits := 0, pageCur := 0, freePages := [], nodeCur := 0, freeNodes := [], blockCur := 0
    freeBlocks := [], lru := [] }

/-- A partition enters RUNNING: ONLINE in its headers, the START drawdown source, and the issue slot. -/
def Eng.startPart (b : BeatUnit) (p : Nat) (e : Eng) : Eng :=
  let e := (e.setF (Reg.partStatus p) 2 2 0).setF (Reg.partStatus p) 1 0 psRunning
  let e := (e.roleRestart b p).onPart p fun q => { q.freshLists with memFaulted := false, lastKind := none }
  let e := e.onPart p fun q => { q with startAt := some b.beat }
  let e := e.drawSource b p dsStart (e.startLive b p)
  ((e.plantRoots b p).setHeader b p hdOnline).dispatch p

/-- PARTITION_START: a pending partition enters RUNNING (R55). -/
def execPartitionStart (p : Fin 32) (s : State) : Host.Outcome State Fault Refusal :=
  .next <| s.onEng fun b e => if e.startReady b p.val then e.startPart b p.val else e

/-! ## A partition reset (R60 to R62) -/

/-- A context command in progress is aborted (phase 1 of R60, R61): ERR 0x7, BUSY 0 and CMD_DONE. -/
def Eng.abortCmd (p : Nat) (e : Eng) : Eng :=
  match (e.part p).cmd with
  | none => e
  | some _ => (((e.setF (Reg.partCtxCmd p) 31 31 0).setF (Reg.partCtxCmd p) 19 16 7).partEv p 6).onPart p fun q => { q with cmd := none }

/-- A partition reset begins: phase 1, and phase 3 at once where no step is in flight (R60). -/
def Eng.startReset (b : BeatUnit) (p : Nat) (e : Eng) : Eng :=
  let e := (e.setF (Reg.partStatus p) 2 2 0).setF (Reg.partStatus p) 1 0 psResetting
  let e := (e.abortCmd p).discardBatch p
  let e := ({ e with seals := e.seals.filter fun x => decide (x.1 ≠ p) } : Eng).showBacklog
  let beats := max 1 (e.fld (Reg.partResetTimeout p) 15 0)
  let e := e.onPart p fun q => { q with slot := none, resetAt := b.time + 256 * beats, resetPhase3 := false }
  let e := (List.range 16).foldl (init := e) fun e c =>
    match (e.ctx p c).st with
    | .ready | .running | .waiting | .delayed => e.stopNow b p c .partReset
    | _ => e
  (e.storeHeaders b p hdResetting).phase3IfIdle b p

/-- PARTITION_RESET: a write of RESET (R60, R62, R564). -/
def execPartitionReset (path : Path) (p : Fin 32) (s : State) : Host.Outcome State Fault Refusal :=
  ctlPart path (Reg.partCtrl p.val) p.val (fun b e =>
    if e.warm then e.cfgErr p.val
    else if e.pstate p.val = psResetting then e
    else e.startReset b p.val) s

/-- ENABLE_SET: a write of 1 to ENABLE (R52, R55, R62); RECOVER is inactive then (R313). -/
def execEnableSet (path : Path) (p : Fin 32) (s : State) : Host.Outcome State Fault Refusal :=
  ctlWrite path (Reg.partCtrl p.val) (fun b e =>
    let p := p.val
    let was := e.bit (Reg.partCtrl p) 0
    let e := e.setF (Reg.partCtrl p) 0 0 1
    if was || e.warm || decide (e.pstate p ≠ psDisabled) then e
    else ((e.onPart p fun q => { q with recoverAt := none }).drawSource b p dsRecover false).tryEnable p) s

/-- ENABLE_CLEAR: a write of 0 to ENABLE: a pending request is withdrawn, a partition in service is reset (R55, R62). -/
def execEnableClear (path : Path) (p : Fin 32) (s : State) : Host.Outcome State Fault Refusal :=
  ctlWrite path (Reg.partCtrl p.val) (fun b e =>
    let p := p.val
    let e := e.setF (Reg.partCtrl p) 0 0 0
    if e.warm then e
    else if e.pstate p = psRunning ∨ e.pstate p = psHalted then e.startReset b p
    else if e.pstate p = psDisabled then e.setF (Reg.partStatus p) 2 2 0
    else e) s

/-- RESET_DEADLINE: phase 3 begins at the reset deadline (R60). -/
def execResetDeadline (p : Fin 32) (s : State) : Host.Outcome State Fault Refusal :=
  .next <| s.onEng fun b e =>
    let q := e.part p.val
    if decide (e.pstate p.val = psResetting) && !q.resetPhase3 && decide (q.resetAt ≤ b.time) then e.phase3 b p.val else e

/-! ## Phases 4 to 6 -/

/-- A number lies in a partition's range and in that of no other partition in use (R58). -/
def Eng.inRange (e : Eng) (p : Nat) (lo size : Nat → Nat) (x : Nat) : Bool :=
  decide (lo p ≤ x) && decide (x < lo p + size p) && !e.elsewhere p lo size x

/-- Phase 4 for the requests: each leaves the table without a record, and its references on learned-prefix pages are
released (R60, R220, R254). -/
def Eng.freeRequests (b : BeatUnit) (p : Nat) (e : Eng) : Eng :=
  (e.liveSlots p).foldl (init := e) fun e slot =>
    let e := e.releasePages b p ((e.req slot).pages.filter fun g => e.learnedPage g)
    { e with
      reqs := kdel e.reqs slot, gens := kmod 0 e.gens slot (· + 1)
      rqt := e.rqt.filter fun x => decide (x.1 / 24 ≠ slot) }

/-- Phase 4 for Basin: trees, list blocks, free lists and cursors go unread (R254); learned-prefix pages stay (R60). -/
def Eng.dropBasin (p : Nat) (e : Eng) : Eng :=
  let e := (List.range 8).foldl (fun e m => e.setF (Reg.pageRoot p m) 27 0 noNode) e
  { e with
    pages := e.pages.filter fun x => e.learnedPage x.1 || !e.inRange p e.pageLo e.pageSpan x.1
    nodes := e.nodes.filter fun x => !e.inRange p e.nodeLo e.nodeSpan x.1 }

/-- Phase 4 of a partition reset (R60, R254, R424). -/
def Eng.phase4 (b : BeatUnit) (p : Nat) (e : Eng) : Eng :=
  let e := (e.freeRequests b p).dropBasin p
  let e := (e.heldRings p).foldl (fun e n => e.freeTring n) e
  let e := ({ e with parked := e.parked.filter fun x => decide (x.part ≠ p) } : Eng).showOcc
  ((e.onPart p fun q => { q.freshLists with items := [], delays := [], alertHeld := [], aged := [], resuming := false }).drainVersions p).ingress b

/-- Phase 5 of a partition reset (R60, R437): cells, contexts, doorbell indices, LOADING slots; an operation that still
travels to a cell of the partition goes with them. -/
def Eng.phase5 (p : Nat) (e : Eng) : Eng :=
  let mine := fun cell : Nat => e.inRange p e.semBase e.semSize cell
  let e := { e with
    cells := e.cells.filter fun x => !mine x.1
    travel := e.travel.filter fun t => !mine t.cell
    joined := e.joined.filter fun x => !mine x.1
    ledJoined := e.ledJoined.filter fun o => decide (o.part ≠ p)
    regs := e.regs.filter fun x => decide (x.1 < door p 0) || decide (door (p + 1) 0 ≤ x.1) }
  (List.range 4).foldl (init := e.onPart p fun q => { q with ctxs := [], slot := none, lastAt := [], lastSlot := none, xbs := [], cq := Ring.empty, spillNext := 0 })
    fun e n => if (e.vslot p n).st = vsLoading then e.setVslot p n VSlot.empty else e

/-- What a partition reset makes of a stored register (R8, R61, R560): W1C and RW fields take their reset values, RWS fields
and the hardware's own fields stand. (DEDUCED, assumption log 84) -/
def resetFields (r : RegRow) (a : Nat) (v : Word) : Word :=
  let m := BitVec.ofNat 32 (r.rw ||| r.w1c)
  (v &&& ~~~m) ||| (resetWord a &&& m)

/-- A register takes its reset word but for its RWS fields. -/
def Eng.clearReg (e : Eng) (a : Nat) : Eng :=
  match regRow a with
  | none => e
  | some r => let m := BitVec.ofNat 32 r.rws; e.wr a ((e.rd a &&& m) ||| (resetWord a &&& ~~~m))

/-- The registers from an address on. -/
def regRun (a n : Nat) : List Nat := (List.range n).map fun i => a + 4 * i

/-- The counters that the chapters have a partition reset clear (R74, R167, R197, R225, R261, R290, R318, R373, R391, R409, R429,
R457, R488). (DEDUCED, assumption log 74) -/
def resetCounters (p : Nat) : List Nat :=
  [Reg.partDbDrop p, Reg.intFltTail p, Reg.rngSvcBits p, Reg.rngSvcRej p] ++ regRun (Reg.schedFullCount p) 4 ++
    regRun (Reg.syncSatCount p) 9 ++ (List.range 4).map (fun n => Reg.syncXbStatus p n) ++ regRun (Reg.admAdmitted p) 5 ++
    regRun (Reg.pageShortCount p) 5 ++ regRun (Reg.weirSealed p) 4 ++ regRun (Reg.latTtftViols p) 9 ++ regRun (Reg.smpSampled p) 8 ++
    regRun (Reg.specVerified p) 5 ++ regRun (Reg.spoutRecords p) 3 ++ regRun (Reg.wlcApplies p) 4

/-- The per-partition registers at the end of a partition reset; those of R61 stand. (DEDUCED, assumption log 84) -/
def Eng.resetRegs (p : Nat) (e : Eng) : Eng :=
  let keep := [Reg.partEvent p, Reg.partCtxCmd p]
  let e := e.regs.foldl (init := e) fun e x =>
    match regRow x.1 with
    | some r => if r.pstride ≠ 0 ∧ r.part x.1 = p ∧ keep.contains x.1 = false then e.wr x.1 (resetFields r x.1 x.2) else e
    | none => e
  (resetCounters p).foldl (fun e a => e.clearReg a) e

/-- Phase 6 of a partition reset (R60, R307, R318, R418, R519): step numbers and drawdown start over, and ENABLE decides.
(DEDUCED, assumption log 70) -/
def Eng.phase6 (b : BeatUnit) (p : Nat) (e : Eng) : Eng :=
  let e := e.onPart p fun q => { q with startAt := none }
  let e := ((e.setSw b p false).setMgmt b p false).drawSource b p dsStart false
  let e := ((e.resetRegs p).roleRestart b p).switchIdle b p
  let e := e.onPart p fun q => { q with nextStep := 0, epoch := (q.epoch + 1) % 2 ^ 32, resetPhase3 := false, lastKind := none, resuming := false }
  let e := (e.setF (Reg.partStatus p) 1 0 psDisabled).partEv p 0
  let e := if e.bit (Reg.partCtrl p) 0 then e.tryEnable p else e
  if e.startReady b p then e.startPart b p else e.storeHeaders b p hdAbsent

/-- Every context of the partition stands at an instruction boundary; one whose vector instruction waits for the rows of an
abandoned step has nothing left to wait for. -/
def Eng.ctxsQuiet (e : Eng) (p : Nat) : Bool :=
  (List.range 16).all fun c => match (e.ctx p c).pend with
    | none | some (.rows _) => true
    | some _ => !(e.ctx p c).busyIns

/-- RESET_CLEAR_DONE: phases 4, 5 and 6 (R60, R428). -/
def execResetClearDone (p : Fin 32) (s : State) : Host.Outcome State Fault Refusal :=
  .next <| s.onEng fun b e =>
    let p := p.val
    if decide (e.pstate p = psResetting) && (e.part p).resetPhase3 && !e.spoutBusy p && e.ctxsQuiet p && !(e.part p).coreDown then
      ((e.phase4 b p).phase5 p).phase6 b p
    else e

end Sys2Proof.Machine
end

