-- ==== Sys2Proof/Machine/Contexts.lean ====
section
/-! DEFINITION. Context commands (R65 to R72, R581): START, STOP, SAVE, RESTORE, RESET and RESUME, the save area, and the failure of a policy core (R477, R482). -/

namespace Sys2Proof.Machine

open Sys2Proof

/-! ## Starting a command (R65, R66) -/

/-- A command written to WX_PART_CTX_CMD (R62, R65, R66): BUSY from the write on; from a state that the table does not
allow it only completes with ERR 0x1. (DESIGN CHOICE, assumption log 14) -/
def Eng.ctxCommand (p c op : Nat) (allowed : List CtxSt) (act : Eng → Eng) (e : Eng) : Eng :=
  if decide (e.pstate p = psResetting) || e.warm || e.bit (Reg.partCtxCmd p) 31 then e.cfgErr p
  else
    let ok := allowed.contains (e.ctx p c).st
    let e := ((e.setF (Reg.partCtxCmd p) 3 0 c).setF (Reg.partCtxCmd p) 31 31 1).onPart p fun q =>
      { q with cmd := some (op, c, if ok then 0 else 1) }
    if ok then act e else e

/-- The progress word of a save or restore (R66, R522): its position in bytes of the area, and whether it is complete.
(DESIGN CHOICE, assumption log 14) -/
def Eng.ctxProgress (p pos : Nat) (all : Bool) (e : Eng) : Eng :=
  e.setPair (Reg.partCtxProgressLo p) (Reg.partCtxProgressHi p) ((if all then 1000 * 2 ^ 54 else 0) + 5 * 2 ^ 48 + pos)

/-- A context command completes (R66). (DESIGN CHOICE, assumption log 14) -/
def Eng.ctxDone (p err : Nat) (e : Eng) : Eng :=
  (((e.setF (Reg.partCtxCmd p) 31 31 0).setF (Reg.partCtxCmd p) 19 16 err).partEv p 6).onPart p fun q => { q with cmd := none }

/-- The state that START gives a context (R65, R80). (DEDUCED, assumption log 15) -/
def Ctx.started (c entry : Nat) : Ctx :=
  { Ctx.cleared.setS 1 (BitVec.ofNat 64 c) with st := .ready, pc := BitVec.ofNat 64 entry }

/-- The entry address of START: bits [2:0] are 0 (R74). -/
def Eng.entryPc (e : Eng) (p : Nat) : Nat := e.pair (Reg.partCtxEntryLo p) (Reg.partCtxEntryHi p) / 8 * 8

/-- CTX_START. -/
def execCtxStart (path : Path) (p : Fin 32) (c : Fin 16) (s : State) : Host.Outcome State Fault Refusal :=
  ctlPart path (Reg.partCtxCmd p.val) p.val (fun _ e =>
    e.ctxCommand p.val c.val 1 [.free] fun e =>
      (e.onCtx p.val c.val fun _ => Ctx.started c.val (e.entryPc p.val)).dispatch p.val) s

/-- CTX_STOP. -/
def execCtxStop (path : Path) (p : Fin 32) (c : Fin 16) (s : State) : Host.Outcome State Fault Refusal :=
  ctlPart path (Reg.partCtxCmd p.val) p.val (fun b e =>
    e.ctxCommand p.val c.val 2 [.ready, .running, .waiting, .delayed] fun e => e.stopNow b p.val c.val .stop) s

/-- CTX_SAVE. -/
def execCtxSave (path : Path) (p : Fin 32) (c : Fin 16) (s : State) : Host.Outcome State Fault Refusal :=
  ctlPart path (Reg.partCtxCmd p.val) p.val (fun b e =>
    e.ctxCommand p.val c.val 3 [.ready, .running, .waiting, .delayed, .stopped, .faulted] fun e =>
      (e.ctxProgress p.val 0 false).stopNow b p.val c.val .save) s

/-- CTX_RESTORE. -/
def execCtxRestore (path : Path) (p : Fin 32) (c : Fin 16) (s : State) : Host.Outcome State Fault Refusal :=
  ctlPart path (Reg.partCtxCmd p.val) p.val (fun _ e =>
    e.ctxCommand p.val c.val 4 [.free, .saved] fun e => e.ctxProgress p.val 0 false) s

/-- CTX_RESET. -/
def execCtxReset (path : Path) (p : Fin 32) (c : Fin 16) (s : State) : Host.Outcome State Fault Refusal :=
  ctlPart path (Reg.partCtxCmd p.val) p.val (fun b e =>
    e.ctxCommand p.val c.val 5 [.free, .ready, .running, .waiting, .delayed, .stopped, .faulted, .saved] fun e =>
      e.stopNow b p.val c.val .reset) s

/-- CTX_RESUME. -/
def execCtxResume (path : Path) (p : Fin 32) (c : Fin 16) (s : State) : Host.Outcome State Fault Refusal :=
  ctlPart path (Reg.partCtxCmd p.val) p.val (fun _ e =>
    e.ctxCommand p.val c.val 6 [.stopped] fun e =>
      (e.onCtx p.val c.val fun x => { x with st := .ready, remain := .none }).dispatch p.val) s

/-! ## The save area (R69 to R71) -/

/-- The size of a save area, and where that of a context starts. -/
abbrev saveSize : Nat := 0xC000
def Eng.saveAddr (e : Eng) (p c : Nat) : Nat := e.pair (Reg.partSaveBaseLo p) (Reg.partSaveBaseHi p) / 65536 * 65536 + c * saveSize

/-- The codes of the states (R64). -/
def CtxSt.code : CtxSt → Nat
  | .free => 0
  | .ready => 1
  | .running => 2
  | .waiting => 3
  | .delayed => 4
  | .stopped => 5
  | .faulted => 6
  | .saved => 7

/-- The state that a STATE code of a save area names, if it is one of R69's. -/
def CtxSt.ofSaved : Nat → Option CtxSt
  | 1 => some .ready
  | 3 => some .waiting
  | 4 => some .delayed
  | 5 => some .stopped
  | 6 => some .faulted
  | _ => none

/-- SEM_SPAN (R69). -/
def Ctx.semSpan (x : Ctx) : Nat := x.semtab.foldl (fun n s => if s.2.valid then max n (s.2.off.toNat + 1) else n) 0

/-- FLAGS and WAKE of a withdrawn wait or delay (R69). -/
def Remain.saved : Remain → Nat × Nat
  | .none => (0, 0)
  | .wait t => (1, t)
  | .delay k => (2, k % 2 ^ 56)

/-- A semaphore table entry of a save area (R69): a private cell's count and flag go with it. -/
def Eng.semWord (e : Eng) (p : Nat) (s : SemEnt) : Nat :=
  let c := if s.valid && s.priv && decide (s.off.toNat < e.semSize p) then e.cell (e.semBase p + s.off.toNat) else Cell.zero
  let flag := fun (x : Bool) (k : Nat) => if x then 2 ^ k else 0
  s.off.toNat + flag s.valid 16 + flag s.priv 17 + flag c.sat 18 + c.count.toNat * 2 ^ 32

/-- A vector handle entry of a save area (R69). -/
def VHandle.bytes (h : VHandle) : List Byte := leBytes 8 h.base.toNat ++ leBytes 4 h.count.toNat ++ [h.space, h.fmt, 0, 0]

/-- The save area after its CRC field (R69). -/
def Eng.saveBody (e : Eng) (p c : Nat) : List Byte :=
  let x := e.ctx p c
  padTo 0x3C0 ((List.range 32).flatMap (fun r => leBytes 8 (x.sreg r).toNat) ++ [x.p ||| 1#8, 0, 0, 0] ++ leBytes 4 x.elen.toNat ++
      leBytes 8 x.fault.toNat ++ List.replicate 48 0 ++ (List.range 16).flatMap fun r => (x.vh r).bytes) ++
    (List.range 8192).map (fun k => kget 0 x.scratch k) ++
    (List.range 4096).flatMap (fun k => leBytes 8 (e.semWord p (kget SemEnt.invalid x.semtab k))) ++ List.replicate 7168 0

/-- The save area before its CRC field (R69): CONTRACT is the AGREED level. (DEDUCED, assumption log 15) -/
def Eng.saveHead (b : BeatUnit) (e : Eng) (p c : Nat) : List Byte :=
  let x := e.ctx p c
  padTo 0x3C (leBytes 4 0x5641534B ++ leBytes 2 1 ++ leBytes 2 e.agreed ++ leBytes 2 (p * 16 + c) ++
    [BitVec.ofNat 8 x.saveSt.code, BitVec.ofNat 8 x.remain.saved.1] ++ leBytes 4 x.semSpan ++ leBytes 8 x.pc.toNat ++
    leBytes 8 x.remain.saved.2 ++ leBytes 8 b.stamp)

/-- A save area (R69), its CRC computed with the field taken as 0. -/
def Eng.saveArea (b : BeatUnit) (e : Eng) (p c : Nat) : List Byte :=
  let h := e.saveHead b p c
  let t := e.saveBody p c
  h ++ leBytes 4 (crc32c (h ++ [0, 0, 0, 0] ++ t)).toNat ++ t

/-- SAVE writes the area of its stopped context (R70); a refused write leaves the context STOPPED (R581). -/
def Eng.saveDone (b : BeatUnit) (p c : Nat) (e : Eng) : Eng :=
  let a := e.saveAddr p c
  if e.refused (some p) true a saveSize then e.ctxDone p 8
  else
    let e := ((e.store a (e.saveArea b p c)).zeroPrivates p c true).onCtx p c fun _ => { Ctx.cleared with st := .saved }
    (e.ctxProgress p saveSize true).ctxDone p 0

/-- Reserved bytes of a save area (R69, R71): all 0, and STATE one of its codes. -/
def saveReserved (l : List Byte) : Bool :=
  let zero := fun o n : Nat => (bytesAt l o n).all fun x => decide (x = 0)
  zero 0x28 20 && zero 0x141 3 && zero 0x150 48 && zero 0x280 384 && zero 0xA400 7168 && decide (fieldAt l 0x0B 1 < 4) &&
    (CtxSt.ofSaved (fieldAt l 0x0A 1)).isSome && ((List.range 16).all fun r => zero (0x180 + 16 * r + 14) 2) &&
    (List.range 4096).all fun k => decide (bitsOf (fieldAt l (0x2400 + 8 * k) 4) 31 19 = 0)

/-- The checks of R71 in their order: the ERR of the first that fails, or 0. (DEDUCED, assumption log 15) -/
def Eng.restoreErr (e : Eng) (p : Nat) (l : List Byte) : Nat :=
  if fieldAt l 0 4 ≠ 0x5641534B ∨ fieldAt l 4 2 ≠ 1 then 2
  else if fieldAt l 0x3C 4 ≠ (crc32c (l.take 0x3C ++ [0, 0, 0, 0] ++ l.drop 0x40)).toNat then 3
  else if e.agreed < fieldAt l 6 2 then 4
  else if !saveReserved l then 5
  else if e.semSize p < fieldAt l 0x0C 4 then 6
  else 0

/-- A semaphore table entry read from a save area. -/
def semOfWord (w : Nat) : SemEnt := ⟨w.testBit 16, w.testBit 17, BitVec.ofNat 16 w⟩

/-- A sparse table of n entries that differ from a default. -/
def tableOf {α : Type} [DecidableEq α] (d : α) (n : Nat) (f : Nat → α) : KMap α :=
  (List.range n).filterMap fun k => if f k = d then none else some (k, f k)

/-- The context that a save area holds (R72), in the state recorded. -/
def ctxOfArea (l : List Byte) : Ctx :=
  let flags := fieldAt l 0x0B 1
  let wake := fieldAt l 0x18 8
  { Ctx.cleared with
    st := (CtxSt.ofSaved (fieldAt l 0x0A 1)).getD .free
    s := tableOf 0 32 fun r => if r = 0 then 0 else BitVec.ofNat 64 (fieldAt l (0x40 + 8 * r) 8)
    p := BitVec.ofNat 8 (fieldAt l 0x140 1 / 2 * 2)
    v := tableOf VHandle.unbound 16 fun r =>
      let o := 0x180 + 16 * r
      ⟨BitVec.ofNat 8 (fieldAt l (o + 12) 1), BitVec.ofNat 8 (fieldAt l (o + 13) 1), BitVec.ofNat 64 (fieldAt l o 8), BitVec.ofNat 32 (fieldAt l (o + 8) 4)⟩
    elen := BitVec.ofNat 32 (fieldAt l 0x144 4)
    fault := BitVec.ofNat 64 (fieldAt l 0x148 8)
    pc := BitVec.ofNat 64 (fieldAt l 0x10 8)
    semtab := tableOf SemEnt.invalid 4096 fun k => semOfWord (fieldAt l (0x2400 + 8 * k) 8)
    scratch := tableOf 0 8192 fun k => BitVec.ofNat 8 (fieldAt l (0x400 + k) 1)
    remain := if flags.testBit 0 then .wait wake else if flags.testBit 1 then .delay (wake % 2 ^ 56) else .none }

/-- The private count and flag of a saved table entry go to its cell (R69, R72), whose queue is walked; a cell of another
partition stays (R58). -/
def Eng.restoreCell (b : BeatUnit) (p w : Nat) (e : Eng) : Eng :=
  let s := semOfWord w
  let n := e.semBase p + s.off.toNat
  if s.valid && s.priv && decide (s.off.toNat < e.semSize p) && !e.cellElsewhere p n then
    let e := e.putCell n (BitVec.ofNat 32 (w / 2 ^ 32)) (some (w.testBit 18))
    if e.cellHeld n then e else e.atCell b n []
  else e

/-- Each private count of a save area goes back to its cell (R72). -/
def Eng.restoreCells (b : BeatUnit) (p : Nat) (l : List Byte) (e : Eng) : Eng :=
  (List.range 4096).foldl (init := e) fun e k => e.restoreCell b p (fieldAt l (0x2400 + 8 * k) 8)

/-! ## Waits and delays of a restored context (R72, R88) -/

/-- The instruction word at the program counter of a context; 0 where the fetch is refused. -/
def Eng.wordAt (e : Eng) (p c : Nat) : Dword := if e.fetchBad p c then 0 else BitVec.ofNat 64 (e.num (e.ctx p c).pc.toNat 8)

/-- A WAITING context re-executes the wait at PC with the remaining ticks; where the word there is no wait, it issues what is
there. (DESIGN CHOICE, assumption log 13; DEDUCED, assumption log 15) -/
def Eng.rewait (b : BeatUnit) (p c ticks : Nat) (e : Eng) : Eng :=
  let x := e.ctx p c
  let kind : Option (WKind × Ins) := match Instr.ofWord (Fin.ofNat 32 p) (Fin.ofNat 16 c) (e.wordAt p c) with
    | .swait i => some (.take, i)
    | .swaitp i => some (.peek, i)
    | .sbar i => some (.bar, i)
    | _ => none
  match kind with
  | none => (e.onCtx p c fun x => { x with st := .ready, remain := .none }).dispatch p
  | some (k, i) =>
    let vid := Ins.vid i
    let s := kget SemEnt.invalid x.semtab vid
    let n := (low32 (x.sreg i.srca.toNat)).toNat
    let e := e.onCtx p c fun x => { x with st := .running, remain := .none, pend := some .cell }
    if !s.valid then e.ctxFault b p c fkSem 5 vid (semDetail vid false 0)
    else if e.semSize p ≤ s.off.toNat then e.ctxFault b p c fkSem 5 vid (semDetail vid true s.off.toNat)
    else e.launch (e.semBase p + s.off.toNat)
      (.wait ⟨p, c, k, if k = .bar then max 1 n else n, 0, false, i.dst, BitVec.ofNat 12 vid, false⟩ ticks)

/-- A DELAYED context joins a delay list at WAKE, with the slack check of the TWAIT at PC. (DESIGN CHOICE, assumption log 13;
DEDUCED, assumption log 15) -/
def Eng.redelay (p c key : Nat) (e : Eng) : Eng :=
  let x := e.ctx p c
  let (slack, dst) := match Instr.ofWord (Fin.ofNat 32 p) (Fin.ofNat 16 c) (e.wordAt p c) with
    | .twaitAbs i | .twaitRel i => (if i.srcb = 0 then none else some (x.sreg i.srcb.toNat), i.dst)
    | _ => (none, 0)
  (e.onPart p fun q => q.dlInsert key (.wake c slack dst)).onCtx p c fun x => { x with remain := .none }

/-- A restored context takes up the state recorded (R72). (DEDUCED, assumption log 15) -/
def Eng.reenter (b : BeatUnit) (p c : Nat) (e : Eng) : Eng :=
  match (e.ctx p c).st, (e.ctx p c).remain with
  | .waiting, .wait t => e.rewait b p c t
  | .waiting, _ => e.rewait b p c 0
  | .delayed, .delay k => e.redelay p c k
  | .delayed, _ => e.redelay p c 0
  | _, _ => e.dispatch p

/-- RESTORE reads and checks the area, and loads the context (R71, R72, R581). (DEDUCED, assumption log 15) -/
def Eng.restoreDone (b : BeatUnit) (p c : Nat) (e : Eng) : Eng :=
  let a := e.saveAddr p c
  let l := e.bytes a saveSize
  let err := if e.refused (some p) false a saveSize then 8 else e.restoreErr p l
  if err ≠ 0 then ((e.onCtx p c fun _ => Ctx.cleared).partEv p 5).ctxDone p err
  else
    let e := ((e.onCtx p c fun _ => ctxOfArea l).restoreCells b p l).reenter b p c
    (e.ctxProgress p saveSize true).ctxDone p 0

/-- CTX_CMD_COMPLETE: the context command in progress completes, once the context that it stops has reached its
boundary (R66, R95); where the core has failed, on the spare core (R487). -/
def execCtxCmdComplete (p : Fin 32) (s : State) : Host.Outcome State Fault Refusal :=
  .next <| s.onEng fun b e =>
    let p := p.val
    match (e.part p).cmd with
    | none => e
    | some (op, c, err) =>
      if (e.part p).coreDown then e
      else if err ≠ 0 then e.ctxDone p err
      else
        let e := match (e.ctx p c).stopReq with
          | some k => if e.mustWait p c then e else (e.stopCtx b p c k).release p c
          | none => e
        if (e.ctx p c).stopReq.isSome then e
        else if op = 3 then e.saveDone b p c
        else if op = 4 then e.restoreDone b p c
        else e.ctxDone p 0

/-! ## The failure of a policy core (R477, R482, R487) -/

/-- A failed core takes its spare, which loads the partition's contexts; with no spare left the partition enters HALTED (R477,
R482). (DESIGN CHOICE, assumption log 102) -/
def Eng.coreTake (b : BeatUnit) (p : Nat) (e : Eng) : Eng :=
  let left := e.sparesLeft spCores
  let ph := physOf e.coreMap p
  let e := e.engFault b 0x81 (some p) (engDetail ukCore ph p 0 0 0 (left - 1))
  if left ≠ 0 then
    ((({ e with coreMap := remapTo e.coreMap p (e.nextSpare spCores 32 4) } : Eng).useSpare spCores).onPart p fun q =>
      { q with coreDown := true }).recover b p
  else ((e.sparesOut b ukCore ph p (some p)).onPart p fun q => { q with coreDown := false, coreLost := true }).halt b p

/-- CORE_STALL: the partition's core fails: it has not issued for 65,536 cycles while a context can issue, or with `residue` the
residue check of an instruction has failed twice in a row (R477). A failure while another core is being replaced waits, its
core issuing nothing (R487). (DESIGN CHOICE, assumption log 102) (DEDUCED, assumption log 35) -/
def execCoreStall (p : CoreFail) (s : State) : Host.Outcome State Fault Refusal :=
  .next <| s.onEng fun b e =>
    let residue := p.residue
    let p := p.core.val
    let q := e.part p
    let live := (List.range 16).any fun c => if residue then decide ((e.ctx p c).st = .running) else (e.ctx p c).canIssue
    if !live || decide (e.pstate p = psDisabled) || decide (e.pstate p = psHalted) || q.coreDown || q.coreLost then e
    else if (List.range 32).any fun k => (e.part k).coreDown then
      ({ e with coreWait := e.coreWait ++ [p] } : Eng).onPart p fun q => { q with coreDown := true }
    else e.coreTake b p

/-- The cores that failed while another was being replaced, in order, up to one that a spare takes (R482, R487). (DESIGN CHOICE, assumption log 102) -/
def Eng.coreNext (b : BeatUnit) : Nat → Eng → Eng
  | 0, e => e
  | k + 1, e => match e.coreWait with
    | [] => e
    | n :: r =>
      let e := ({ e with coreWait := r } : Eng).coreTake b n
      if (e.part n).coreDown then e else Eng.coreNext b k e

/-- CORE_FAILOVER_DONE: the spare core has loaded every context from the mirror, and they resume. The cores that failed meanwhile
are handled now (R487). -/
def execCoreFailoverDone (p : Fin 32) (s : State) : Host.Outcome State Fault Refusal :=
  .next <| s.onEng fun b e =>
    if !(e.part p.val).coreDown || e.coreWait.contains p.val then e
    else
      let e := (e.onPart p.val fun q => { q with coreDown := false }).dispatch p.val
      e.coreNext b e.coreWait.length

end Sys2Proof.Machine
end

