-- ==== Sys2Proof/Machine/Power.lean ====
section
/-! DEFINITION. Power and clocks (spec/20): droop detectors, the budget controller and the sensor hub. Gating a core and withdrawing its loan stand with synchronization and the issue slot (R192, R497, R498). -/

namespace Sys2Proof.Machine

open Sys2Proof

/-! ## Clock domains (R490 to R492) -/

/-- The unit, the source of the clock, and whether the clock is stretched on droop, of a domain (R490). -/
def clockDomain (n : Nat) : Option (DomUnit × ClkSource × Bool) :=
  if n ≤ 16 then some (.tileGroup, .pll, true)
  else if n ≤ 52 then some (.policyCore, .pll, true)
  else if n = 53 then some (.admission, .pll, true)
  else if n = 54 then some (.weir, .pll, true)
  else if n = 55 then some (.basin, .pll, true)
  else if n = 56 then some (.scrubber, .pll, true)
  else if n ≤ 58 then some (.sync, .pll, true)
  else if n = 59 then some (.rill, .pll, true)
  else if n ≤ 64 then some (.spout, .pll, true)
  else if n ≤ 72 then some (.memPair, .integrator, false)
  else if n ≤ 80 then some (.chanGroup, .integrator, false)
  else if n ≤ 88 then some (.hsPort, .integrator, false)
  else if n ≤ 92 then some (.rmPort, .integrator, false)
  else if n = 93 then some (.hostControl, .integrator, false)
  else if n ≤ 96 then some (.management, .pll, true)
  else if n ≤ 98 then some (.beat, .beatRefclk, false)
  else if n = 99 then some (.jtag, .integrator, false)
  else none

/-- The domains whose supply a detector watches (R492). -/
def droopDomains (det : Nat) : List Nat :=
  if det ≤ 33 then [det / 2]
  else if det ≤ 51 then [17 + 2 * (det - 34), 18 + 2 * (det - 34)]
  else if det ≤ 55 then [det + 1]
  else if det ≤ 57 then [det + 1]
  else if det = 58 then [59]
  else if det = 59 then [60, 61, 62]
  else if det = 60 then [63, 64]
  else if det ≤ 63 then [94 + (det - 61)]
  else []

/-- The detectors that watch a domain. -/
def droopWatchers (dom : Nat) : List Nat := (List.range 64).filter fun d => (droopDomains d).contains dom

/-- A domain whose clock an internal PLL makes is held in reset until the PLL reports lock (R491), in the first step of
start-up. -/
def Eng.domainHeld (e : Eng) (dom : Nat) : Bool :=
  decide (e.fld Reg.glbStatus 3 0 ≤ 1) && (clockDomain dom).any fun x => decide (x.2.1 = .pll)

/-- The management domain of the peripherals, in which the budget controller and the sensor hub run (R490, R496, R509). -/
abbrev domPeripherals : Nat := 96
/-- The management domain of a core (R490). -/
abbrev domCore (core : Nat) : Nat := 94 + core
/-- The domain of the scrubber (R490). -/
abbrev domScrubber : Nat := 56

/-! ## Droop (R493) -/

/-- A detector that has never tripped: its domains run at full speed. -/
def Droop.quiet : Droop := ⟨.idle, 16, 0⟩

/-- Change a droop detector. -/
def Eng.onDroop (e : Eng) (det : Nat) (f : Droop → Droop) : Eng := { e with droops := kmod Droop.quiet e.droops det f }

/-- s of a domain, which runs at s/16 of its nominal frequency: the smallest among the detectors that watch it, and 16 in a domain
that is never stretched (R490, R493). -/
def Eng.domainS (e : Eng) (dom : Nat) : Nat :=
  (droopWatchers dom).foldl (fun m d => min m (kget Droop.quiet e.droops d).s) 16

/-- A detector of the domain has tripped since reset, so that the domain has run at s below 16 (R493, R501). -/
def Eng.everStretched (e : Eng) (dom : Nat) : Bool :=
  (droopWatchers dom).any fun d => decide ((kget Droop.quiet e.droops d).trips ≠ 0)

/-- DROOP_TRIP: s falls to 8, whatever stage the detector is in; a detector whose domains the PLL does not clock yet is in
reset with them (R491). -/
def execDroopTrip (det : Fin 64) (s : State) : Host.Outcome State Fault Refusal :=
  .next <| s.onEng fun _ e =>
    if (droopDomains det.val).all e.domainHeld then e
    else (e.onDroop det.val fun d => ⟨.hold, 8, if d.trips = 0xFFFFFFFF#32 then d.trips else d.trips + 1⟩).ev Reg.pwrEvent 0

/-- s rises by 1; at 16 the release is over. -/
def Droop.rise (d : Droop) : Droop := { d with s := d.s + 1, st := if 16 ≤ d.s + 1 then .idle else .release }

/-- DROOP_HOLD_DONE: the hold is complete and s rises for the first time. -/
def execDroopHoldDone (det : Fin 64) (s : State) : Host.Outcome State Fault Refusal :=
  .next <| s.onEng fun _ e => e.when (decide ((kget Droop.quiet e.droops det.val).st = .hold)) fun e => e.onDroop det.val Droop.rise

/-- DROOP_RELEASE_STEP: STEP cycles of the release have passed. -/
def execDroopReleaseStep (det : Fin 64) (s : State) : Host.Outcome State Fault Refusal :=
  .next <| s.onEng fun _ e => e.when (decide ((kget Droop.quiet e.droops det.val).st = .release)) fun e => e.onDroop det.val Droop.rise

/-! ## The budget controller (R495, R496, R499, R502) -/

/-- MIN_DUTY. -/
def Eng.minDuty (e : Eng) : Nat := e.fld Reg.pwrCtrl 4 0

/-- T is at or above CRIT_T (R499). (DESIGN CHOICE, assumption log 83) -/
def Eng.critical (e : Eng) : Bool := decide (e.fld Reg.pwrTherm 15 8 ≤ e.hottest)

/-- The next duty (R496): `target` against the present one. (DESIGN CHOICE, assumption log 83) -/
def dutyNext (d target least : Nat) : Nat :=
  if target < d then max target least else if d < target then min (d + 1) 16 else d

/-- The controller takes the powers measured, in 0.1 W, and the budget and LEND as they stand; a lower LEND lowers the loans that
stand, a higher one does not raise them (R502). -/
def Eng.takePeriod (lpl total : Nat) (e : Eng) : Eng :=
  let lend := e.fld Reg.pwrCoreLend 7 0
  { (e.setF Reg.pwrMeas 31 16 total).setF Reg.pwrMeas 15 0 lpl with
    budget := e.fld Reg.pwrLplBudget 15 0, lend := lend
    loans := (e.loans.map fun x => (x.1, min x.2 lend)).filter fun x => decide (x.2 ≠ 0) }

/-- BUDGET_PERIOD: the controller reads the powers and updates the duty; it does not run before the PLL's lock (R491). With
no power measured the target is not stated: a free value. (DESIGN CHOICE, assumption logs 83, 93) -/
def execBudgetPeriod (lpl total : Nat) (s : State) : Host.Outcome State Fault Refusal :=
  .next <| s.onEng fun _ e =>
    if e.domainHeld domPeripherals then e
    else
      let e := e.takePeriod lpl total
      let d := e.fld Reg.pwrStatus 20 16
      let (k, e) := if lpl = 0 then e.drawFree else (0, e)
      let target := if lpl = 0 then (Config.freeWord k).toNat else e.perBeff d (lpl * 10)
      let next := if e.critical then e.minDuty else dutyNext d target e.minDuty
      let e := e.showPower next
      if d < 16 ∨ next < 16 then e.ev Reg.pwrEvent 1 else e

/-! ## The sensor hub (R499, R509) -/

/-- The sensors: 32 thermal, 64 droop detectors, 16 current monitors. -/
abbrev sensorCount : Nat := 112

/-- Whole °C of a thermal sample in signed Q8.8. (DESIGN CHOICE, assumption log 83) -/
def celsius (v : Nat) : Int := signed 16 v / 256

/-- What T, the hottest temperature, sets (R499): HOT above THROTTLE_T, and from CRIT_T on CRIT, with D held at MIN_DUTY. -/
def Eng.heat (e : Eng) : Eng :=
  if e.critical then (e.showPower e.minDuty).ev Reg.pwrEvent 3
  else
    let e := e.showPower (e.fld Reg.pwrStatus 20 16)
    if e.fld Reg.pwrTherm 23 16 < e.hottest then e.ev Reg.pwrEvent 2 else e

/-- Every sensor's VALUE, in the order of R509, and the hottest temperature with what it sets. -/
def Eng.takeSample (values : List Nat) (e : Eng) : Eng :=
  let at_ := fun i => (values.getD i 0) % 65536
  let e : Eng := { e with sens := (List.range sensorCount).foldl (fun m i => kset 0 m i (BitVec.ofNat 16 (at_ i))) e.sens, sampled := true }
  let hot := (List.range 32).foldl (fun m i => max m (celsius (at_ i))) (celsius (at_ 0))
  (e.setF Reg.pwrTherm 31 24 (wrap 8 hot)).heat

/-- SENSOR and NOTE entries that the firmware of the ACTIVE core makes (R509, R514); without an ACTIVE core there are none. (DESIGN
CHOICE, assumption log 100) -/
def Eng.firmLog (b : BeatUnit) (l : List FirmEnt) (e : Eng) : Eng :=
  if e.activeCore.isNone then e
  else l.foldl (init := e) fun e x => match x with
    | .sensor n => e.logAdd b 0x0020 1 none (leBytes 2 n.val ++ [0, 0] ++ leBytes 4 (kget 0 e.sens n.val).toNat)
    | .note pay => e.logAdd b 0x0021 1 none pay

/-- SENSOR_SAMPLE: the sensor hub takes a sample, whose bounds the firmware watches (R509); it does not run before the PLL's lock
(R491). -/
def execSensorSample (x : SensSample) (s : State) : Host.Outcome State Fault Refusal :=
  .next <| s.onEng fun b e => if e.domainHeld domPeripherals then e else (e.takeSample x.values).firmLog b x.entries

end Sys2Proof.Machine
end

