-- ==== Sys2Proof/Machine/Mgmt.lean ====
section
/-! DEFINITION. The management subsystem (spec/21): the roles of the two cores, the event log and its flash copy, updates, and the negotiation of the contract level. -/

namespace Sys2Proof.Machine

open Sys2Proof

/-! ## Flash (R516, R517) -/

/-- A slot of flash: 0 slot A, 1 slot B. -/
def Flash.slot (f : Flash) (n : Nat) : FlashSlot := if n = 0 then f.slotA else f.slotB
/-- Change a slot of flash. -/
def Flash.onSlot (f : Flash) (n : Nat) (g : FlashSlot → FlashSlot) : Flash :=
  if n = 0 then { f with slotA := g f.slotA } else { f with slotB := g f.slotB }

/-- The boot slot (R516): the CONFIRMED slot with the higher generation. -/
def Flash.bootSlot (f : Flash) : Nat :=
  if f.slotB.st = .confirmed ∧ (f.slotA.st ≠ .confirmed ∨ f.slotA.gen < f.slotB.gen) then 1 else 0

/-- Where the regions of the flash start (R515): the copies of the boot header, the slots and the log region; and the bytes of a
device of 256 MiB. -/
abbrev flashHdrAt (copy : Nat) : Nat := copy * 0x10000
abbrev flashSlotAt (slot : Nat) : Nat := 0x100000 + slot * 0x4000000
abbrev flashLogAt : Nat := 0x8100000
abbrev flashBytes : Nat := 0x10000000
/-- Entries that the log region of a 256 MiB device holds (R515). -/
abbrev flashLogSlots : Nat := (flashBytes - flashLogAt) / 64

/-- The codes of a slot's state (R530). -/
def SlotSt.code : SlotSt → Nat
  | .empty => 0
  | .incomplete => 1
  | .staged => 2
  | .confirmed => 3

/-- Fields of an image header (R517). -/
def imgContract (l : List Byte) : Nat := fieldAt l 0x06 2
def imgSvn (l : List Byte) : Nat := fieldAt l 0x08 4
def imgParts (l : List Byte) : Nat := fieldAt l 0x0C 1
def imgLength (l : List Byte) : Nat := fieldAt l 0x10 8
def imgBuild (l : List Byte) : Nat := fieldAt l 0x28 8

/-- The boot header that the flash stands for (R516). -/
def Flash.header (f : Flash) : BootHdr :=
  ⟨f.slotA.st, f.slotA.gen, imgBuild f.slotA.image, f.slotB.st, f.slotB.gen, imgBuild f.slotB.image, f.bootCount, f.minSvn, f.logPos⟩

/-- Marionette writes the boot header over the copy that is not the latest one (R516). (DESIGN CHOICE, assumption log 3; DESIGN CHOICE, assumption log 81) -/
def Flash.saved (f : Flash) : Flash :=
  if f.hdrLast = 0 then { f with hdr1 := some f.header, hdrLast := 1 } else { f with hdr0 := some f.header, hdrLast := 0 }

/-- The header checks of STAGE (R517, R518): MAGIC, FORMAT, reserved bytes, lengths and offsets. -/
def imgHeaderGood (l : List Byte) : Bool :=
  let zero := fun o n : Nat => (bytesAt l o n).all fun x => decide (x = 0)
  let span := fun o n : Nat => decide (0x200 ≤ fieldAt l o 4) && decide (fieldAt l o 4 + fieldAt l n 4 ≤ imgLength l)
  decide (fieldAt l 0 4 = 0x4D495857) && decide (fieldAt l 4 2 = 1) && decide (imgParts l < 4) && decide (fieldAt l 0x0D 1 < 4) &&
    zero 0x0E 2 && zero 0x30 80 && zero 0x140 192 && decide (0x200 ≤ imgLength l) && decide (imgLength l ≤ 64 * 2 ^ 20) &&
    (!(imgParts l).testBit 0 || span 0x18 0x1C) &&
    (!(imgParts l).testBit 1 || (span 0x20 0x24 && decide (fieldAt l 0x24 4 ≤ 2 * 2 ^ 20)))

/-- Whether the key slot of an image is good (R518). -/
def imgKeyGood (l : List Byte) : Bool :=
  let k := Fin.ofNat 4 (fieldAt l 0x0D 1)
  !Config.keyRevoked k && decide (sha384 (bytesAt l 0x80 96) = (Config.keyHash k).toNat)

/-- Whether the signature of an image is good (R517, R518). -/
def imgSigned (l : List Byte) : Bool :=
  ecdsaGood (fieldAt l 0x80 48, fieldAt l 0xB0 48) (sha384 (bytesAt l 0 0xE0 ++ bytesAt l 0x200 (imgLength l - 0x200)))
    (fieldAt l 0xE0 48) (fieldAt l 0x110 48)

/-! ## Roles (R504 to R507) -/

/-- The image of a slot passes the checks of R518 and can be read. (DESIGN CHOICE, assumption log 81) -/
def State.imageGood (s : State) (n : Nat) : Bool :=
  let l := (s.flash.slot n).image
  !s.flash.bad.contains n && imgHeaderGood l && imgKeyGood l && imgSigned l && decide (s.flash.minSvn ≤ imgSvn l) &&
    decide (imgContract l ≤ s.eng.hwMax)

/-- The slot that a core boots (R516): the boot slot, or, where its image fails a check, the other slot if that is CONFIRMED. (DESIGN CHOICE, assumption log 81) -/
def State.bootPick (s : State) : Nat :=
  let n := s.flash.bootSlot
  if !s.imageGood n && decide ((s.flash.slot (1 - n)).st = .confirmed) then 1 - n else n

/-- A core is reset and boots a slot (R506, R520). -/
def Eng.bootCore (c slot fails : Nat) (e : Eng) : Eng := e.onCore c fun _ => ⟨.booting, fails, slot, 0⟩

/-- No core is ACTIVE: HEADLESS (R507). (DESIGN CHOICE, assumption log 81) -/
def Eng.headless (e : Eng) : Eng :=
  if e.activeCore.isSome then e else (e.setF Reg.mgmtStatus 31 31 1).ev Reg.mgmtEvent 1

/-- A TAKEOVER entry (R514). (DESIGN CHOICE, assumption log 81) -/
def Eng.logTakeover (b : BeatUnit) (old trigger new : Nat) (e : Eng) : Eng :=
  e.logAdd b 0x0010 0 none [BitVec.ofNat 8 old, BitVec.ofNat 8 trigger, BitVec.ofNat 8 new]

/-- The other core. -/
def otherCore (c : Nat) : Nat := 1 - c

/-- The image of a slot, and whether it may run and holds a component (R518). -/
def Flash.holds (f : Flash) (n comp : Nat) : Bool :=
  (decide ((f.slot n).st = .staged) || decide ((f.slot n).st = .confirmed)) && (imgParts (f.slot n).image).testBit comp

/-! ## Update commands (R518) -/

/-- BUILD_ID that an UPDATE entry names: of the image that STAGE read, otherwise of the slot's image. -/
def State.updBuild (s : State) (u : UpdCmd) : Nat := imgBuild (if u.op = 1 then u.image else (s.flash.slot u.slot).image)

/-- An update command completes with an ERR (R518). (DESIGN CHOICE, assumption log 81) -/
def State.updEnd (s : State) (err : Nat) : State :=
  match s.eng.upd with
  | none => s
  | some u =>
    let pay := [BitVec.ofNat 8 u.op, BitVec.ofNat 8 err, BitVec.ofNat 8 u.slot, 0#8] ++ leBytes 8 (s.updBuild u)
    s.onEng fun b e =>
      let e := { (e.setF Reg.mgmtUpdCmd 31 31 0).setF Reg.mgmtUpdCmd 30 28 err with upd := none }
      (e.ev Reg.mgmtEvent (if err = 0 then 5 else 6)).logAdd b 0x0011 0 none pay

/-- A core becomes ACTIVE. -/
def Eng.makeActive (c : Nat) (e : Eng) : Eng :=
  ((e.onCore c fun x => { x with role := .active, fails := 0 }).setF Reg.mgmtStatus 31 31 0).showLevel

/-- A boot of a core has failed (R506, R507, R529): the standby of ACTIVATE_MGMT goes back to the boot slot; another core boots
again, and is FAILED after the third time. (DEDUCED, assumption log 80) -/
def State.bootFail (s : State) (c : Nat) : State :=
  let planned := match s.eng.upd with
    | some u => u.waitKick
    | none => false
  if planned then
    ({ s with eng := s.eng.bootCore c s.bootPick 0 } : State).updEnd 6
  else s.onEng fun _ e =>
    let n := (e.core c).fails + 1
    if n < 3 then e.bootCore c (e.core c).slot n
    else
      let e := e.onCore c fun x => { x with role := .failed, fails := n }
      if e.activeCore.isNone && decide ((e.core (otherCore c)).role = .failed) then
        let e := e.headless.ev Reg.mgmtEvent 2
        if e.fld Reg.glbStatus 3 0 = 4 then e.setF Reg.glbStatus 3 0 5 else e
      else e

/-- A core fails (R506, R508): `trigger` as R514 codes it. The failure of the ACTIVE core leaves the engine headless, for one cycle
where the other core is STANDBY (R507). (DEDUCED, assumption log 80) -/
def State.coreFail (s : State) (c trigger : Nat) : State :=
  match (s.eng.core c).role with
  | .failed => s
  | .booting => s.bootFail c
  | .standby => { s with eng := s.eng.bootCore c s.bootPick 0 }
  | .active =>
    let s := ({ s with eng := s.eng.bootCore c s.bootPick 0 } : State).updEnd 7
    s.onEng fun b e =>
      let d := otherCore c
      let e := e.headless
      if (e.core d).role = .standby then
        (((e.makeActive d).bump Reg.mgmtStatus 15 0).ev Reg.mgmtEvent 0).logTakeover b c trigger d
      else e

/-- KICK: a booting core's first kick makes it ACTIVE or STANDBY, or completes a planned takeover (R505, R506, R520, R562).
(DESIGN CHOICE, assumption log 100) -/
def execKick (core : Fin 2) (s : State) : Host.Outcome State Fault Refusal :=
  .next <|
    let c := core.val
    if (s.eng.core c).role ≠ .booting ∨ s.eng.fld Reg.glbStatus 3 0 < 4 then s
    else
      let level := imgContract (s.flash.slot (s.eng.core c).slot).image
      s.onEng fun b e =>
        let e := e.onCore c fun x => { x with level := level }
        match e.activeCore with
        | none =>
          let e := e.makeActive c
          let e := if e.fld Reg.glbStatus 3 0 = 4 then e.setF Reg.glbStatus 3 0 5 else e
          match e.restarted with
          | none => e
          | some old =>
            let (k, e) := e.drawFree
            ({ e with restarted := none }).logTakeover b (if old = 0 then (Config.freeWord k).toNat % 256 else old - 1) 4 c
        | some a =>
          match e.upd with
          | some u =>
            if u.waitKick then
              let e := (e.bootCore a u.slot 0).makeActive c
              ({ e with upd := some { u with waitKick := false } }).logTakeover b a 3 c
            else e.onCore c fun x => { x with role := .standby, fails := 0 }
          | none => e.onCore c fun x => { x with role := .standby, fails := 0 }

/-- MGMT_WATCHDOG: a core has not kicked in time (R505). -/
def execMgmtWatchdog (core : Fin 2) (s : State) : Host.Outcome State Fault Refusal :=
  .next <| if (s.eng.core core.val).role = .active ∨ (s.eng.core core.val).role = .standby then s.coreFail core.val 2 else s

/-- MGMT_CORE_FAULT: a residue check or an SRAM check fails a core (R505), not while its domain is held in reset (R491). (DEDUCED, assumption log 80) -/
def execMgmtCoreFault (core : Fin 2) (sram : Bool) (s : State) : Host.Outcome State Fault Refusal :=
  .next <| if s.eng.domainHeld (domCore core.val) then s else s.coreFail core.val (if sram then 1 else 0)

/-- BOOT_LIMIT_EXPIRY: a booting core has not kicked within BOOT_LIMIT (R506). -/
def execBootLimitExpiry (core : Fin 2) (s : State) : Host.Outcome State Fault Refusal :=
  .next <| if (s.eng.core core.val).role = .booting ∧ 4 ≤ s.eng.fld Reg.glbStatus 3 0 then s.bootFail core.val else s

/-- RESTART: both cores are reset and boot (R507); an update command in progress ends with ERR 0x7 (R508). (DESIGN CHOICE,
assumption log 81) -/
def execRestart (path : Path) (s : State) : Host.Outcome State Fault Refusal :=
  .next <| ctlState path Reg.mgmtCtrl (fun s =>
    let old := match s.eng.activeCore with
      | some c => c + 1
      | none => 0
    let slot := s.bootPick
    let s := s.updEnd 7
    s.onEng fun _ e => { (((e.bootCore 0 slot 0).bootCore 1 slot 0).headless) with restarted := some old }) s

/-- The banks that some partition uses. -/
def Eng.bankUsed (e : Eng) (n : Nat) : Bool := (List.range 32).any fun p => decide (e.fld Reg.mgmtUcodeBank p p = n)

/-- The partitions of WX_MGMT_UPD_PARTS. -/
def Eng.updParts (e : Eng) : List Nat := (List.range 32).filter fun p => e.bit Reg.mgmtUpdParts p

/-- A bank switch of the partitions of WX_MGMT_UPD_PARTS is accepted (R519): a DISABLED partition switches at once. (DESIGN
CHOICE, assumption log 51) -/
def Eng.switchParts (b : BeatUnit) (e : Eng) : Eng :=
  (e.updParts.foldl (init := e) fun e p =>
    let e := if e.bankSwitch.contains p then e else { e with bankSwitch := e.bankSwitch ++ [p] }
    if e.pstate p = psDisabled then e.switchIdle b p else e).showLevel

/-- The ERR of STAGE before anything is written, the first of the table that applies (R518, R581), and the image. A body that
cannot be read hides the signature alone. (DESIGN CHOICE, assumption log 81) -/
def State.stageErr (s : State) : Nat × List Byte :=
  let a := s.eng.pair Reg.mgmtUpdAddrLo Reg.mgmtUpdAddrHi
  let h := s.eng.bytes a 0x200
  if s.eng.refused none false a 0x200 then (6, [])
  else if !imgHeaderGood h then (1, h)
  else if !imgKeyGood h then (2, h)
  else
    let dark := s.eng.refused none false a (imgLength h)
    let l := if dark then h else s.eng.bytes a (imgLength h)
    if !dark && !imgSigned l then (3, l)
    else if imgSvn l < s.flash.minSvn then (4, l)
    else if s.eng.hwMax < imgContract l then (5, l)
    else if dark then (6, l)
    else (0, l)

/-- A progress word of staging (R518, R522). -/
def Eng.updProgress (pos : Nat) (all : Bool) (e : Eng) : Eng :=
  e.setPair Reg.mgmtUpdProgLo Reg.mgmtUpdProgHi ((if all then 1000 * 2 ^ 54 else 0) + 2 * 2 ^ 48 + pos)

/-- The other slot. -/
def Flash.nonBoot (f : Flash) : Nat := 1 - f.bootSlot

/-- An update command is written (R518): ignored while BUSY; while headless it only ends with ERR 0x7 (R507). -/
def updStart (path : Path) (op : Nat) (f : State → State) (s : State) : Host.Outcome State Fault Refusal :=
  .next <| ctlState path Reg.mgmtUpdCmd (fun s =>
    if s.eng.bit Reg.mgmtUpdCmd 31 then s
    else
      let slot := s.eng.fld Reg.mgmtUpdCmd 0 0
      let on := s.eng.activeCore.isSome
      let s := s.onEng fun _ e =>
        { e.setF Reg.mgmtUpdCmd 31 31 1 with upd := some ⟨op, slot, if on then 0 else 7, false, []⟩ }
      if on then f s else s) s

/-- Change the command in progress. -/
def Eng.onUpd (e : Eng) (f : UpdCmd → UpdCmd) : Eng := { e with upd := e.upd.map f }

/-- STAGE: the image is read and checked, and the slot marked INCOMPLETE, which it stays where the flash errs or the image read back
differs (R518). (DESIGN CHOICE, assumption log 81) -/
def execStage (path : Path) (s : State) : Host.Outcome State Fault Refusal :=
  updStart path 1 (fun s =>
    let (err, l) := s.stageErr
    let n := s.flash.nonBoot
    let end_ := if err = 0 ∧ s.flash.bad.contains n then 6 else err
    let s := s.onEng fun _ e => (e.onUpd fun u => { u with err := end_, image := l, slot := n }).updProgress 0 false
    if err = 0 then { s with flash := (s.flash.onSlot n fun x => { x with st := .incomplete, image := [] }).saved } else s) s

/-- ACTIVATE_UCODE: the microcode of SLOT goes into the bank that no partition uses (R518). (DESIGN CHOICE, assumption log 81) -/
def execActivateUcode (path : Path) (s : State) : Host.Outcome State Fault Refusal :=
  updStart path 2 (fun s =>
    let n := s.eng.fld Reg.mgmtUpdCmd 0 0
    let ok := s.flash.holds n 1
    s.onEng fun _ e => e.onUpd fun u => { u with err := if !ok then 1 else if s.flash.bad.contains n then 6 else if e.bankUsed 0 && e.bankUsed 1 then 7 else 0 }) s

/-- ACTIVATE_MGMT: the STANDBY core boots SLOT for a planned takeover (R518, R520). (DESIGN CHOICE, assumption log 81) -/
def execActivateMgmt (path : Path) (s : State) : Host.Outcome State Fault Refusal :=
  updStart path 3 (fun s =>
    let n := s.eng.fld Reg.mgmtUpdCmd 0 0
    let ok := s.flash.holds n 0
    s.onEng fun _ e =>
      let d := match e.activeCore with
        | some a => otherCore a
        | none => 0
      if !ok then e.onUpd fun u => { u with err := 1 }
      else if (e.core d).role ≠ .standby then e.onUpd fun u => { u with err := 6 }
      else (e.bootCore d n 0).onUpd fun u => { u with waitKick := true }) s

/-- CONFIRM: a STAGED slot becomes CONFIRMED (R518). -/
def execConfirm (path : Path) (s : State) : Host.Outcome State Fault Refusal :=
  updStart path 4 (fun s =>
    let ok := decide ((s.flash.slot (s.eng.fld Reg.mgmtUpdCmd 0 0)).st = .staged)
    s.onEng fun _ e => e.onUpd fun u => { u with err := if ok then 0 else 1 }) s

/-- REVERT: the partitions of WX_MGMT_UPD_PARTS go back to the other bank (R518). -/
def execRevert (path : Path) (s : State) : Host.Outcome State Fault Refusal :=
  updStart path 5 (fun s => s.onEng fun _ e =>
    let bad := e.updParts.any fun p => (kget none e.banks (1 - e.fld Reg.mgmtUcodeBank p p)).isNone
    e.onUpd fun u => { u with err := if bad then 7 else 0 }) s

/-- What an update command without an error does as it completes (R518, R519). -/
def State.updEffect (s : State) (u : UpdCmd) : State :=
  let img := (s.flash.slot u.slot).image
  match u.op with
  | 1 =>
    let s := { s with flash := (s.flash.onSlot u.slot fun x => { x with st := .staged, image := u.image }).saved }
    s.onEng fun _ e => e.updProgress (imgLength u.image) true
  | 2 => s.onEng fun b e =>
      let n := if e.bankUsed 0 then 1 else 0
      ({ e with banks := kset none e.banks n (some (imgContract img, imgBuild img)) } : Eng).switchParts b
  | 4 =>
    let gen := (s.flash.slot (1 - u.slot)).gen + 1
    let f := s.flash.onSlot u.slot fun x => { x with st := .confirmed, gen := gen }
    { s with flash := ({ f with minSvn := max f.minSvn (imgSvn img) } : Flash).saved }
  | 5 => s.onEng fun b e => e.switchParts b
  | _ => s

/-- UPD_CMD_DONE: the update command in progress completes (R518), a planned takeover once the standby has kicked. (DESIGN
CHOICE, assumption logs 81, 100) -/
def execUpdCmdDone (s : State) : Host.Outcome State Fault Refusal :=
  .next <| match s.eng.upd with
    | none => s
    | some u => if u.waitKick then s else if u.err ≠ 0 then s.updEnd u.err else (s.updEffect u).updEnd 0

/-! ## The log in flash and at the host (R511 to R513) -/

/-- A held KEEP entry enters the log once a slot is free (R512). -/
def Eng.unhold (b : BeatUnit) (e : Eng) : Eng :=
  match e.logHeld with
  | [] => e
  | l :: r => if e.logOcc < logSlots then (({ e with logHeld := r } : Eng).logPut l).hlogPump b else e

/-- LOG_KEEP_RETRY. -/
def execLogKeepRetry (s : State) : Host.Outcome State Fault Refusal := .next <| s.onEng fun b e => e.unhold b

/-- LOG_MIRROR: the ACTIVE core copies the waiting entries to flash in SEQ order, after a GAP entry for those that the host log
ring has freed (R511, R513). (DESIGN CHOICE, assumption log 100) -/
def execLogMirror (s : State) : Host.Outcome State Fault Refusal :=
  .next <|
    if s.eng.activeCore.isNone then s
    else
      let e := s.eng
      let next := e.fld Reg.mgmtLogSeq 31 0
      let from_ := e.fld Reg.mgmtLogMirrored 31 0
      let first := match e.log.find? fun l => !e.mirrored l.seq with
        | some l => l.seq
        | none => next
      let s := if first = from_ then s
        else s.onEng fun b e => e.logRaw b 0x0014 1 none (leBytes 4 from_ ++ leBytes 4 ((first + 2 ^ 32 - 1) % 2 ^ 32))
      let l := s.eng.log.filter fun l => !s.eng.mirrored l.seq
      let all := s.flash.log ++ l
      let s := { s with flash := ({ s.flash with
        log := all.drop (all.length - flashLogSlots), logPos := (s.flash.logPos + l.length) % flashLogSlots } : Flash).saved }
      s.onEng fun b e =>
        let e := e.setF Reg.mgmtLogMirrored 31 0 (e.fld Reg.mgmtLogSeq 31 0)
        if e.fld Reg.mgmtHlogCfg 4 0 = 0 then { e with log := [] } else e.hlogPump b

/-- Whether a consumer index may take a value: not backwards, not past the producer's (R486, R511). -/
def headGood (head tail v : Nat) : Bool := decide ((v + 2 ^ 32 - head) % 2 ^ 32 ≤ (tail + 2 ^ 32 - head) % 2 ^ 32)

/-- HLOG_HEAD: software frees slots of the host log ring (R511). -/
def execHlogHead (path : Path) (v : Word) (s : State) : Host.Outcome State Fault Refusal :=
  ctlWrite path Reg.mgmtHlogHead (fun b e =>
    if headGood (e.fld Reg.mgmtHlogHead 31 0) (e.fld Reg.mgmtHlogTail 31 0) v.toNat then (e.wr Reg.mgmtHlogHead v).hlogPump b
    else e) s

/-! ## The contract level (R523 to R526) -/

/-- AGREED changes (R523, R525). -/
def Eng.setLevel (b : BeatUnit) (new eff : Nat) (e : Eng) : Eng :=
  let old := e.agreed
  if new = old then e
  else ((e.setF Reg.mgmtLevel 15 0 new).ev Reg.mgmtEvent 7).logAdd b 0x0013 0 none (leBytes 2 old ++ leBytes 2 new ++ leBytes 8 eff)

/-- LEVEL_SET: Marionette writes a level that AGREED takes at the next tick 0 (R523). -/
def execLevelSet (path : Path) (level : BitVec 16) (s : State) : Host.Outcome State Fault Refusal :=
  ctlWrite path Reg.mgmtLevelSet (fun b e =>
    if path ≠ .mgmt ∨ e.bit Reg.mgmtNegCfg 31 = true ∨ e.supported < level.toNat then e
    else { e with levelSet := some (level.toNat, b.beat + 1) }) s

/-- The body of a negotiation message (R526). -/
def negBody (level eff round : Nat) : Nat := level * 2 ^ 112 + eff % 2 ^ 48 * 2 ^ 64 + round % 2 ^ 32 * 2 ^ 32

/-- Apply a negotiation RELEASE (R525): EFFECTIVE 0 asks for no change. (DEDUCED, assumption log 82) -/
def Eng.negApply (b : BeatUnit) (level eff : Nat) (e : Eng) : Eng :=
  if eff = 0 then e
  else
    let e := if level < e.agreed then e.ev Reg.mgmtEvent 9 else e
    if eff * 256 < b.time then (e.ev Reg.mgmtEvent 8).setLevel b level eff
    else
      let e : Eng := { e with nego := { e.nego with pend := some (level, eff) } }
      (e.wr Reg.mgmtNegEffLo (BitVec.ofNat 32 eff)).wr Reg.mgmtNegEffHi (BitVec.ofNat 32 (level * 2 ^ 16 + eff / 2 ^ 32 % 2 ^ 16))

/-- The home engine counts an ARRIVE (R524) and releases a complete round. (DEDUCED, assumption log 82) -/
def Eng.negCount (b : BeatUnit) (level round : Nat) (e : Eng) : Eng :=
  let n := e.nego
  let arrived := e.fld Reg.mgmtNegStatus 31 16
  if round < n.round then e
  else
    let later := decide (n.round < round)
    let e := if later && decide (arrived ≠ 0) then e.ev Reg.mgmtEvent 8 else e
    let count := if later then 1 else arrived + 1
    let low := if count = 1 then level else min n.lowest level
    let e : Eng := { e with nego := { n with round := round, lowest := low } }
    let e := (e.setF Reg.mgmtNegStatus 31 16 count).setF Reg.mgmtNegStatus 15 0 round
    if count < e.fld Reg.mgmtNegCount 15 0 then e
    else
      let eff := if low = e.agreed then 0 else (b.beat + e.fld Reg.mgmtNegTime 15 0) % 2 ^ 48
      let e := e.setF Reg.mgmtNegStatus 31 16 0
      ((e.rmSend 0xC2 (e.rmHeader 0x18 (e.fld Reg.mgmtNegCount 31 16) 0 0 0 (negBody low eff round))).rmPump).negApply b low eff

/-- NEG_ARRIVE_SEND: at tick 0 of a beat that starts a round, or at the jump that passes such a beat (R26), the engine sends its
SUPPORTED level, or counts it itself (R524). -/
def execNegArriveSend (s : State) : Host.Outcome State Fault Refusal :=
  .next <| s.onEng fun b e =>
    let period := max 1 (e.fld Reg.mgmtNegTime 31 16)
    let r := b.beat / period % 2 ^ 32
    if !e.bit Reg.mgmtNegCfg 31 || !b.newBeat || !periodPassed period b.before b.beat || decide (e.nego.sent = b.beat + 1) || !e.bit Reg.glbStatus 31 then e
    else
      let e : Eng := { e with nego := { e.nego with sent := b.beat + 1 } }
      if e.bit Reg.mgmtNegCfg 30 then e.negCount b e.supported r
      else (e.rmSend 0xC1 (e.rmHeader 8 (e.fld Reg.mgmtNegCfg 15 0) 0 0 0 (r * 2 ^ 32 + e.supported))).rmPump

/-- NEG_ARRIVE: an ARRIVE reaches the home engine (R524, R526). (DEDUCED, assumption log 82) -/
def execNegArrive (m : RmMsg) (s : State) : Host.Outcome State Fault Refusal :=
  .next <| s.onPort fun b e =>
    if e.bit Reg.mgmtNegCfg 31 && e.bit Reg.mgmtNegCfg 30 then
      if !negArriveClean m then e.reject m.part.val else e.negCount b (bitsOf m.body.toNat 15 0) (bitsOf m.body.toNat 63 32)
    else e

/-- NEG_RELEASE: a RELEASE reaches an engine (R525); the home has applied its own. -/
def execNegRelease (m : RmMsg) (s : State) : Host.Outcome State Fault Refusal :=
  .next <| s.onPort fun b e =>
    if e.bit Reg.mgmtNegCfg 31 && decide (m.src.toNat ≠ e.fld Reg.syncEngineId 15 0) then
      if !negReleaseClean m then e.reject m.part.val else e.negApply b (bitsOf m.body.toNat 127 112) (bitsOf m.body.toNat 111 64)
    else e

/-- LEVEL_EFFECTIVE: beat EFFECTIVE has come, or the tick 0 after a write of WX_MGMT_LEVEL_SET (R523, R525). -/
def execLevelEffective (s : State) : Host.Outcome State Fault Refusal :=
  .next <| s.onEng fun b e =>
    let e := match e.nego.pend with
      | some (l, eff) =>
        if eff * 256 ≤ b.time then
          let e : Eng := { e with nego := { e.nego with pend := none } }
          ((e.wr Reg.mgmtNegEffLo 0).wr Reg.mgmtNegEffHi 0).setLevel b l eff
        else e
      | none => e
    match e.levelSet with
    | some (l, beat) =>
      if beat ≤ b.beat then
        let e : Eng := { e with levelSet := none }
        if e.bit Reg.mgmtNegCfg 31 ∨ e.supported < l then e else e.setLevel b l beat
      else e
    | none => e

end Sys2Proof.Machine
end

