-- ==== Sys2Proof/Machine/Integrity.lean ====
section
/-! DEFINITION. Integrity (spec/19): the scrubber, corrected and uncorrectable errors, the copy of a semaphore slice, and the consumer indices of the fault rings. -/

namespace Sys2Proof.Machine

open Sys2Proof

/-! ## Corrected errors (R470, R472) -/

/-- Free spare rows of a bank. -/
def Eng.freeRows (e : Eng) (bank : Nat) : Nat := Config.bankSpares bank - kget 0 e.rowsSpared bank

/-- LOWEST of WX_INT_ROWS (R489). -/
def Eng.leastRows (e : Eng) : Nat := (List.range Config.bankCount).foldl (fun n k => min n (e.freeRows k)) 65535

/-- A row is spared, or its bank has no free spare row (R472). -/
def Eng.spareRow (bank : Nat) (e : Eng) : Eng :=
  if e.freeRows bank = 0 then e.ev Reg.intEvent 5
  else
    let e : Eng := { e with rowsSpared := kmod 0 e.rowsSpared bank (· + 1) }
    ((e.setF Reg.intRows 31 16 (e.fld Reg.intRows 31 16 + 1)).setF Reg.intRows 15 0 e.leastRows).ev Reg.intEvent 3

/-- A corrected error (R470). The scrubber, while it is enabled, spares a row whose word still shows the error, or that has had
CE_LIMIT of them in the pass; the copy that takes the row's place has had none (R472). -/
def Eng.corrected (bank row : Nat) (stuck : Bool) (e : Eng) : Eng :=
  let e := (e.bump Reg.intCeCount 31 0).ev Reg.intEvent 1
  if !e.bit Reg.intScrub 31 then e
  else
    let l := e.scrubErrs ++ [(bank, row)]
    let n := (l.filter fun x => decide (x = (bank, row))).length
    if e.bit Reg.intCtrl 0 && (stuck || decide (max 1 (e.fld Reg.intCeLimit 7 0) ≤ n)) then
      { e.spareRow bank with scrubErrs := if e.freeRows bank = 0 then l else l.filter fun x => decide (x ≠ (bank, row)) }
    else { e with scrubErrs := l }

/-! ## Uncorrectable errors (R473) -/

/-- UE_COUNT and UE (R473). -/
def Eng.countUe (e : Eng) : Eng := (e.bump Reg.intUeCount 31 0).ev Reg.intEvent 2

/-- An engine fault of kind SRAM_UE for a structure (R473, R483). (DESIGN CHOICE, assumption log 36) -/
def Eng.ueFault (b : BeatUnit) (part : Option Nat) (struct : Nat) (e : Eng) : Eng :=
  e.engFault b 0x86 part (e.ueDetail struct)

/-- The outcome of an uncorrectable error (R473). (DESIGN CHOICE, assumption log 36) -/
def Eng.uncorrectable (b : BeatUnit) (u : UeAt) (e : Eng) : Eng :=
  match u with
  | .refetched => e.countUe
  | .accumulator unit =>
    let e := e.countUe
    match e.planeStop with
    | some (_, _, l) => if l.contains unit then e.stopUnit unit else e
    | none => match e.running? with
      | none => e
      | some (o, st, k) =>
        let rows := (e.passRows st o k).length
        if o.round.contains unit = false ∨ o.units.contains unit = true ∨ e.unitHeld unit = true then e
        else
          let (t, e) := (e.readUnit b o unit).tileOf rows o unit
          e.reexec b o rows t unit
  | .stage p num row =>
    let e := e.countUe.ueFault b (some p.val) 2
    e.onPart p.val fun q => { q with steps := q.steps.map fun st =>
      if st.num = num.toNat ∧ (st.hidRow row).isSome then { st with ueRows := st.ueRows ++ [row] } else st }
  | .request slot word =>
    let n := slot.toNat
    let e : Eng := { e with rqtBad := e.rqtBad ++ [24 * n + word.val] }
    let e := e.countUe.engFault b 0x87 (e.rangeOwner e.rqtBase e.rqtSize n) (e.ueDetail structRqt (some (24 * n + word.val)))
    if (e.req n).live then e.onReq n fun r => { r with faultEv := some stEngineFault } else e
  | .core _ => e.countUe
  | .cell c => e.cellLost b c.toNat
  | .ledger l =>
    let e := e.countUe.ueFault b (e.rangeOwner e.ledBase e.ledSize l.toNat) 4
    e.setLedger l.toNat ((e.ledger l.toNat).clamp 0)
  | .partition p => (e.countUe.ueFault b (some p.val) 5).halt b p.val
  | .engine => e.countUe.ueFault b none 6

/-! ## The scrubber (R405, R471) -/

/-- What was found, in order. A lane whose parity fails computes its block again, to the same words (R405); a
slice whose control parity fails twice in an operation fails (R479). (DESIGN CHOICE,
assumption log 118) -/
def Eng.scrub (b : BeatUnit) (l : List ScrubFinding) (e : Eng) : Eng :=
  l.foldl (init := e) fun e f => match f with
    | .corrected bank row stuck => e.corrected bank row stuck
    | .uncorrectable u => e.uncorrectable b u
    | .slice n => if e.sliceHold.contains n.val || e.sliceWait.contains n.val || e.sliceLost.contains n.val then e else e.sliceFail b n.val
    | .lane => (e.bump Reg.rngParityCount 31 0).ev Reg.rngEventG 0
    | .source p n => e.onPart p.val fun q => { q with srcFails := n.val }

/-- The jump ROM fails its check (R405, R485): jumps wait until its matrices are rebuilt. -/
def Eng.romBad (b : BeatUnit) (e : Eng) : Eng :=
  let e : Eng := { e with romWait := true }
  (((e.setF Reg.rngStatus 31 31 0).ev Reg.rngEventG 1).engFault b 0x89 none (engDetail 0 0 0 7 0 0 0))

/-- A scrub pass may end: the scrubber is enabled, and BEATS beats, 1,024 at least, have passed since its last pass ended
(R471, R489). (DESIGN CHOICE, assumption log 118) -/
def Eng.scrubEnds (b : BeatUnit) (e : Eng) : Bool :=
  e.bit Reg.intScrub 31 && (match e.scrubAt with
    | none => true
    | some t => decide (t + 256 * max 1024 (e.fld Reg.intScrub 15 0) ≤ b.time))

/-- SCRUB_PASS: what the scrubber and the functional accesses have found; and, where a pass over every SRAM ends with it, its
progress word and the check of the jump ROM (R405, R471). (DESIGN CHOICE, assumption logs 36, 118) -/
def execScrubPass (findings : List ScrubFinding) (romOk : Bool) (s : State) : Host.Outcome State Fault Refusal :=
  .next <| s.onEng fun b e =>
    if e.domainHeld domScrubber then e else
    let e := e.scrub b findings
    if !e.scrubEnds b then e
    else
      let e := e.setPair Reg.intScrubProgLo Reg.intScrubProgHi (1000 * 2 ^ 54 + 4 * 2 ^ 48 + Config.sramWords % 2 ^ 48)
      let e : Eng := { e with scrubAt := some b.time, scrubErrs := [], scrubPos := 0 }
      if romOk then e.setF Reg.rngStatus 31 31 1 else e.romBad b

/-! ## Slices and rings (R479, R486) -/

/-- SLICE_COPY_DONE: the spare slice has copied the failed one; its cells are free again, and the expiries, commits (R435)
and releases that have come meanwhile take place. The slices that failed meanwhile are handled now (R487). (DESIGN CHOICE,
assumption log 102) -/
def execSliceCopyDone (slice : Fin 32) (s : State) : Host.Outcome State Fault Refusal :=
  .next <| s.onEng fun b e =>
    if !e.sliceHold.contains slice.val then e
    else
      let e : Eng := { e with sliceHold := e.sliceHold.filter fun n => decide (n ≠ slice.val) }
      let e := e.atCells b ((e.cells.filter fun x => decide (x.1 / 2048 = slice.val)).map fun x => (x.1, []))
      e.sliceNext b e.sliceWait.length

/-- FLT_HEAD: software frees records of a partition's fault ring (R486). -/
def execFltHead (path : Path) (p : Fin 32) (v : Word) (s : State) : Host.Outcome State Fault Refusal :=
  ctlWrite path (Reg.intFltHead p.val) (fun _ e =>
    if headGood (e.fld (Reg.intFltHead p.val) 31 0) (e.fld (Reg.intFltTail p.val) 31 0) v.toNat then e.wr (Reg.intFltHead p.val) v
    else e.cfgErr p.val) s

/-- EFR_HEAD: software frees records of the engine fault ring (R486). -/
def execEfrHead (path : Path) (v : Word) (s : State) : Host.Outcome State Fault Refusal :=
  ctlWrite path Reg.intEfrHead (fun _ e =>
    if headGood (e.fld Reg.intEfrHead 31 0) (e.fld Reg.intEfrTail 31 0) v.toNat then e.wr Reg.intEfrHead v else e) s

end Sys2Proof.Machine
end

