-- ==== Sys2Proof/Machine/Links.lean ====
section
/-! DEFINITION. The Dispatch Link (R478, R538 to R544): HELLO, DONE, ERROR, credit returns, discarded messages, restarts, and the failure of a channel. -/

namespace Sys2Proof.Machine

open Sys2Proof

/-! ## Channels -/

/-- Set or clear a channel's bit of WX_GLB_KDL_UP (R565). -/
def Eng.showUp (ph : Nat) (up : Bool) (e : Eng) : Eng :=
  let a := if ph < 32 then Reg.glbKdlUpLo else if ph < 64 then Reg.glbKdlUpMid else Reg.glbKdlUpHi
  e.setF a (ph % 32) (ph % 32) (if up then 1 else 0)

/-- Change a physical channel. -/
def Eng.onChan (e : Eng) (ph : Nat) (f : Chan → Chan) : Eng := { e with chans := kmod Chan.down e.chans ph f }

/-- The logical channel that a physical one carries, if any. -/
def Eng.logicalOf (e : Eng) (ph : Nat) : Option Nat :=
  (List.range 64).find? fun c => decide (e.phys c = ph) && !e.chanLost.contains c

/-- The channel is one of a partition's dispatch mask and the partition is in use. -/
def Eng.usesChan (e : Eng) (p c : Nat) : Bool := e.inUse p && (e.dispMask p).testBit c

/-- The descriptors of a step for a channel that is to be sent again from STEP_OPEN (R478, R544). -/
def Eng.resendDescs (e : Eng) (p : Nat) (st : Step) (c : Nat) : List KdlOut :=
  if !st.queued then []
  else ((st.groups.filter fun g => decide (g.chan = c) && !g.done).map fun g =>
    (e.stepDescs p st g).map fun d => KdlOut.mk p st.num d).flatten

/-- Every step in flight whose group on the channel has not reported DONE is sent again, oldest first; ABANDONs that wait
keep their place. -/
def Eng.resendAll (c : Nat) (e : Eng) : Eng :=
  let keep := (kget [] e.kdlq c).filter fun d => decide (d.bytes.headD 0 = 4#8)
  let again := ((List.range 32).map fun p => ((e.part p).steps.map fun st => e.resendDescs p st c).flatten).flatten
  { e with kdlq := kset [] e.kdlq c (keep ++ again) }

/-- The spare channel that is taken next: the lowest that has not failed and carries no logical channel (R474). (DEDUCED,
assumption log 49) -/
def Eng.spareChan (e : Eng) : Option Nat :=
  [64, 65, 66, 67].find? fun ph => !(e.chan ph).failed && (e.chanMap.all fun x => decide (x.2 ≠ ph))

/-- A logical channel moves to a spare (R478, R481): the steps in flight on it are sent again there. (DEDUCED, assumption log
49) -/
def Eng.moveChan (b : BeatUnit) (c ph : Nat) (e : Eng) : Eng :=
  let e := ({ e with chanMap := remapTo e.chanMap c ph } : Eng).useSpare spChannels
  let e := (List.range 32).foldl (init := e) fun e p => e.onPart p fun q => { q with
    steps := q.steps.map fun s => s.onGrp c fun g => if g.done then g else { g with opened := false, errs := 0 } }
  let e := e.resendAll c
  (List.range 32).foldl (fun e p => if e.usesChan p c then e.recover b p else e) e

/-- A logical channel is lost with no spare (R482): it leaves its partition's mask, and a partition without channels halts.
(DEDUCED, assumption log 49) -/
def Eng.loseChan (b : BeatUnit) (c ph : Nat) (e : Eng) : Eng :=
  let e := e.sparesOut b ukChannel ph c none
  let e : Eng := { e with chanLost := insertBy (fun x y => decide (x < y)) c e.chanLost, kdlq := kdel e.kdlq c }
  (List.range 32).foldl (fun e p => if e.usesChan p c && decide (e.dispChans p = []) then e.halt b p else e) e

/-- A physical channel fails (R474, R478): it never returns to service. (DEDUCED, assumption log 49) -/
def Eng.failChan (b : BeatUnit) (ph : Nat) (e : Eng) : Eng :=
  let lg := e.logicalOf ph
  let e := ((e.onChan ph fun k => { k with up := false, credits := 0, failed := true }).showUp ph false).ev Reg.glbEvent 3
  let e := e.engFault b 0x82 none (engDetail ukChannel ph (lg.getD ph) 0 0 0 (e.sparesLeft spChannels - 1))
  let e := match lg with
    | none => if 64 ≤ ph then e.setF Reg.intSpares 15 8 (e.sparesLeft spChannels - 1) else e
    | some c => match e.spareChan with
      | some s => e.moveChan b c s
      | none => e.loseChan b c ph
  e.kdlPump b

/-! ## Upstream messages -/

/-- An upstream message is discarded and counted; two in a row fail the channel (R542, R544). (DEDUCED, assumption log 32) -/
def Eng.upBad (b : BeatUnit) (ph : Nat) (e : Eng) : Eng :=
  let e := (e.bump Reg.glbKdlErr 31 16).onChan ph fun k => { k with badRun := k.badRun + 1 }
  if 2 ≤ (e.chan ph).badRun then e.failChan b ph else e

/-- An upstream message is accepted. -/
def Eng.upGood (ph : Nat) (e : Eng) : Eng := e.onChan ph fun k => { k with badRun := 0 }

/-- UP_BAD: a message with a bad CRC, a reserved TYPE, non-zero reserved bytes or bad CREDITS (R542). -/
def execUpBad (chan : Fin 68) (s : State) : Host.Outcome State Fault Refusal :=
  .next <| s.onPort fun b e => if (e.chan chan.val).failed then e else e.upBad b chan.val

/-- HELLO (R539, R542, R544): a DOWN channel comes UP; an UP channel restarts. -/
def execKdlHello (chan : Fin 68) (credits : Word) (s : State) : Host.Outcome State Fault Refusal :=
  .next <| s.onPort fun b e =>
    let ph := chan.val
    let n := credits.toNat
    if (e.chan ph).failed then e
    else if n < 2 ∨ 256 < n then e.upBad b ph
    else
      let was := (e.chan ph).up
      let e := e.onChan ph fun k => { k with up := true, credits := n, limit := n, badRun := 0 }
      let e := if was then
          let e := e.ev Reg.glbEvent 3
          match e.logicalOf ph with
          | some c => e.resendAll c
          | none => e
        else (e.showUp ph true).ev Reg.glbEvent 2
      e.kdlPump b

/-- KDL_CREDIT_RETURN: one descriptor credit, never above CREDITS (R539). -/
def execKdlCreditReturn (chan : Fin 68) (s : State) : Host.Outcome State Fault Refusal :=
  .next <| s.onPort fun b e =>
    let k := e.chan chan.val
    if !k.up || decide (k.limit ≤ k.credits) then e
    else (e.onChan chan.val fun k => { k with credits := k.credits + 1 }).kdlPump b

/-- The step in flight that a message names on the channel that brought it, and its group there, once STEP_OPEN has gone.
(DESIGN CHOICE, assumption log 89) -/
def Eng.namedGroup (e : Eng) (ph : Nat) (m : KdlMsg) : Option (Step × StepGrp) :=
  if e.logicalOf ph ≠ some m.chan.toNat then none
  else (e.stepOf m.part.val m.step.toNat).bind fun st =>
    (st.groups.find? fun g => decide (g.chan = m.chan.toNat) && g.opened).map fun g => (st, g)

/-- DONE (R286, R543): a group's completion report, or the answer to an ABANDON. (DESIGN CHOICE, assumption log 89) -/
def execKdlDone (chan : Fin 68) (m : KdlMsg) (s : State) : Host.Outcome State Fault Refusal :=
  .next <| s.onPort fun b e =>
    let ph := chan.val
    let key := (m.chan.toNat, m.part.val, m.step.toNat)
    if (e.chan ph).failed then e
    else if m.flags &&& 0xFE ≠ 0 ∨ m.seq ≠ 0 then e.upBad b ph
    else if m.flags = 1 then
      if e.logicalOf ph = some m.chan.toNat ∧ e.abOwed.contains key = true then
        ({ e with abOwed := e.abOwed.erase key } : Eng).upGood ph
      else e.upBad b ph
    else match e.namedGroup ph m with
      | some (st, g) =>
        if g.done then e.upBad b ph
        else ((e.onStep m.part.val st.num fun s => s.onGrp g.chan fun g => { g with done := true }).upGood ph).flushRecs b m.part.val st.num
      | none => e.upBad b ph

/-- ERROR (R544): the step is sent again from STEP_OPEN on the channel; the second for one step fails the channel. (DEDUCED,
assumption log 32) -/
def execKdlError (chan : Fin 68) (m : KdlMsg) (s : State) : Host.Outcome State Fault Refusal :=
  .next <| s.onPort fun b e =>
    let ph := chan.val
    if (e.chan ph).failed then e
    else if m.flags ≠ 0 ∨ m.arg1 ≠ 0 ∨ (m.arg0 ≠ 1 ∧ m.arg0 ≠ 2) then e.upBad b ph
    else match e.namedGroup ph m with
      | some (st, g) =>
        if g.done then e.upBad b ph
        else
          let p := m.part.val
          let e := ((e.bump Reg.glbKdlErr 15 0).upGood ph).onStep p st.num fun s => s.onGrp g.chan fun g => { g with errs := g.errs + 1 }
          if 1 ≤ g.errs then e.failChan b ph
          else
            let mine := fun d : KdlOut => decide (d.part = p) && decide (d.step = st.num)
            let l := (kget [] e.kdlq g.chan).filter fun d => !mine d
            let e : Eng := { e with kdlq := kset [] e.kdlq g.chan (l ++ e.resendDescs p st g.chan) }
            e.kdlPump b
      | none => e.upBad b ph

end Sys2Proof.Machine
end

