-- ==== Sys2Proof/Machine/RqLedger.lean ====
section
/-! DEFINITION. The request-table and ledger instructions (R117 to R120, R221). -/

namespace Sys2Proof.Machine

open Sys2Proof

/-- OFFSET must be a multiple of 8 from 0 to 184 (R118). (DESIGN CHOICE, assumption log 19) -/
def rqOffsetBad (i : Ins) : Option Nat := if i.ext.toNat % 8 = 0 ∧ i.ext.toNat ≤ 184 then none else some 5

/-- The words that programs may write (R221). -/
def rqWritable (w : Nat) : Bool := decide (w = 13) || decide (w = 14) || decide (w = 15) || decide (w = 22) || decide (w = 23)

/-- A reserved field of a writable word is not 0 (R221). (DESIGN CHOICE, assumption log 19) -/
def rqReservedBad (w v : Nat) : Bool :=
  (decide (w = 14) && decide (bitsOf v 63 53 ≠ 0)) || (decide (w = 15) && decide (bitsOf v 31 21 ≠ 0))

/-- Raise REQUEST with the handle (R97). (DEDUCED, assumption log 16) -/
def Eng.raiseReq (b : BeatUnit) (i : Ins) (operand : Nat) (h : Nat) (e : Eng) : Eng := e.raise b i fkRequest operand h

/-- The handle in s[srca]. (DESIGN CHOICE, assumption log 19) -/
def Eng.handleA (e : Eng) (i : Ins) : Nat := (e.sa i).toNat % 2 ^ 32

/-- RQLD: read a word of a request-table entry by handle. -/
def execRqld (i : Ins) (s : State) : Host.Outcome State Fault Refusal :=
  runIns (.rqld i) ⟨0x18, 0x00, .s, .s, .unused, 0xFFFFFFFF⟩ i (rqOffsetBad i) (fun b e =>
    match e.slotOf i.p (e.handleA i) with
    | none => e.raiseReq b i 2 (e.handleA i)
    | some n => e.finS b i (e.rqw n (i.ext.toNat / 8))) s

/-- RQST: write a writable word of a request-table entry. -/
def execRqst (i : Ins) (s : State) : Host.Outcome State Fault Refusal :=
  runIns (.rqst i) ⟨0x19, 0x00, .unused, .s, .s, 0xFFFFFFFF⟩ i (rqOffsetBad i) (fun b e =>
    let w := i.ext.toNat / 8
    match e.slotOf i.p (e.handleA i) with
    | none => e.raiseReq b i 2 (e.handleA i)
    | some n =>
      if !rqWritable w then e.raiseReq b i 5 (e.handleA i)
      else if rqReservedBad w (e.sb i).toNat then e.raiseReq b i 3 (e.handleA i)
      else (e.setRqw n w (e.sb i)).fin b i) s

/-- RQCAS: compare-and-swap on a writable word (R119). (DESIGN CHOICE, assumption log 19) -/
def execRqcas (i : Ins) (s : State) : Host.Outcome State Fault Refusal :=
  runIns (.rqcas i) ⟨0x1A, 0x00, .s, .s, .s, 0xFFFFFFFF⟩ i (rqOffsetBad i) (fun b e =>
    let w := i.ext.toNat / 8
    match e.slotOf i.p (e.handleA i) with
    | none => e.raiseReq b i 2 (e.handleA i)
    | some n =>
      if !rqWritable w then e.raiseReq b i 5 (e.handleA i)
      else if rqReservedBad w (e.sb i).toNat then e.raiseReq b i 3 (e.handleA i)
      else
        let old := e.rqw n w
        let e := if old = e.sd i then e.setRqw n w (e.sb i) else e
        e.finS b i old) s

/-- The block-wide index of a partition's ledger (R120). -/
def Eng.ledgIdx (e : Eng) (i : Ins) : Nat := e.ledBase i.p + (e.sa i).toNat
/-- The amount, unsigned from bits [31:0] (R209). -/
def Eng.ledgAmt (e : Eng) (i : Ins) : Nat := (e.sb i).toNat % 2 ^ 32

/-- The shared form of LEDG: an index at or beyond the partition's count raises LEDGER (R120). With `joins` the instruction waits
for the cycle in which the next operation reaches its ledger (R213). (DESIGN CHOICE, assumption log 121) -/
def ledgIns (self : Instr) (minor : Nat) (i : Ins) (k : LedgKind) (s : State) : Host.Outcome State Fault Refusal :=
  runIns self ⟨0x1B, minor, .s, .s, .s, 0⟩ i none (fun b e =>
    if (e.sa i).toNat < e.ledSize i.p then
      let o : LedgOp := ⟨e.ledgIdx i, i.p, i.c, i.dst.toNat, k, if k = .rd then 0 else e.ledgAmt i⟩
      let e : Eng := { e with ledJoined := e.ledJoined ++ [o] }
      if i.joins then e.wait_ b i.p i.c .ledger else e.ledgCycle b o.ledger 0 id
    else e.raise b i fkLedger 2 (e.sa i).toNat) s

/-- LEDG.RD: the balance. -/
def execLedgRd (i : Ins) (s : State) : Host.Outcome State Fault Refusal := ledgIns (.ledgRd i) 0x00 i .rd s

/-- LEDG.CHG: charge, clamped at the lower bound; the balance after. -/
def execLedgChg (i : Ins) (s : State) : Host.Outcome State Fault Refusal := ledgIns (.ledgChg i) 0x01 i .chg s

/-- LEDG.TRY: charge only if the balance covers the amount; 1 if charged, else 0. -/
def execLedgTry (i : Ins) (s : State) : Host.Outcome State Fault Refusal := ledgIns (.ledgTry i) 0x02 i .try_ s

/-- LEDG.CRD: credit, clamped at CAP; the balance after. -/
def execLedgCrd (i : Ins) (s : State) : Host.Outcome State Fault Refusal := ledgIns (.ledgCrd i) 0x03 i .crd s

end Sys2Proof.Machine
end

