-- ==== Sys2Proof/Machine/Versions.lean ====
section
/-! DEFINITION. Version commands and pins (R147, R434, R436, R442): ANNOUNCE, RETIRE, WVPIN. -/

namespace Sys2Proof.Machine

open Sys2Proof

/-- A version command completes at once: VERSION as written, BUSY 0, its ERR and CMD_DONE (R434, R436). -/
def Eng.verDone (p version err : Nat) (e : Eng) : Eng :=
  (e.wr (Reg.wlcVerCmd p) (BitVec.ofNat 32 (err * 2 ^ 28 + version))).ev (Reg.wlcEvent p) 2

/-- The slot that holds a version, if one does. -/
def Partn.slotWith (q : Partn) (version : Nat) : Option Nat :=
  (List.range 4).find? fun n => decide ((q.vslot n).st ≠ vsEmpty) && decide ((q.vslot n).version = version)

/-- The lowest-numbered EMPTY slot. -/
def Partn.emptySlot (q : Partn) : Option Nat := (List.range 4).find? fun n => decide ((q.vslot n).st = vsEmpty)

/-- The ERR code of ANNOUNCE (R434). -/
def Eng.announceErr (e : Eng) (p version : Nat) : Nat :=
  let q := e.part p
  let layers := e.fld (Reg.wlcFanCfg p) 28 16
  if q.emptySlot = none then 1
  else if version = 0xFFFF ∨ (q.slotWith version).isSome then 2
  else if layers = 0 ∨ 4096 < layers ∨ e.semSize p ≤ e.fld (Reg.wlcFanCfg p) 15 0 then 3
  else if e.pstate p ≠ psRunning then 5
  else 0

/-- ANNOUNCE: put a version into an EMPTY slot as LOADING (R434). -/
def execAnnounce (path : Path) (p : Fin 32) (version : BitVec 16) (s : State) : Host.Outcome State Fault Refusal :=
  ctlWrite path (Reg.wlcVerCmd p.val) (fun b e =>
    let p := p.val
    let v := version.toNat
    match e.announceErr p v, (e.part p).emptySlot with
    | 0, some n =>
      let q := (e.part p).vseq
      let layers := e.fld (Reg.wlcFanCfg p) 28 16
      let cell := e.fld (Reg.wlcFanCfg p) 15 0
      let e := (e.setVslot p n (VSlot.mk vsLoading v layers cell q 0)).onPart p fun x => { x with vseq := q + 1 }
      let e := (e.phase b p 0x07 v layers).verDone p v 0
      if e.cellHeld (e.semBase p + cell) then e else e.atCell b (e.semBase p + cell) []
    | err, _ => e.verDone p v err) s

/-- A RESIDENT version starts to drain: it leaves residence (R253, R436, R439). -/
def Eng.retireSlot (b : BeatUnit) (p n : Nat) (e : Eng) : Eng :=
  let v := e.vslot p n
  let was := (e.part p).newestSlot
  let e := e.setVslot p n { v with st := vsDraining }
  let e := (e.dropVersion b p v.version).leaveEvents p v.version
  let e := if was = some n then e.newestEvents p else e
  e.drainVersions p

/-- RETIRE: empty a LOADING slot, or set a RESIDENT one DRAINING (R436). -/
def execRetire (path : Path) (p : Fin 32) (version : BitVec 16) (s : State) : Host.Outcome State Fault Refusal :=
  ctlWrite path (Reg.wlcVerCmd p.val) (fun b e =>
    let p := p.val
    let v := version.toNat
    match (e.part p).slotWith v with
    | none => e.verDone p v 4
    | some n =>
      let st := (e.vslot p n).st
      if st = vsDraining then e.verDone p v 4
      else if e.pstate p ≠ psRunning then e.verDone p v 5
      else if st = vsLoading then (e.setVslot p n VSlot.empty).verDone p v 0
      else (e.retireSlot b p n).verDone p v 0) s

/-- WVPIN PIN: bind a request to a resident version at its boundary (R147, R442). -/
def execWvpinPin (i : Ins) (s : State) : Host.Outcome State Fault Refusal :=
  runIns (.wvpinPin i) ⟨0x3D, 0x00, .unused, .s, .s, 0⟩ i none (fun b e =>
    let v := (e.sb i).toNat % 2 ^ 16
    match e.slotOf i.p (e.handleA i) with
    | none => e.raiseReq b i 2 (e.handleA i)
    | some n =>
      if !e.resident i.p v then e.raise b i fkVersion 3 v
      else (e.onReq n fun r => { r with pinEv := some (some v) }).fin b i) s

/-- WVPIN UNPIN: return a request to its partition's version policy at its boundary (R147, R442). -/
def execWvpinUnpin (i : Ins) (s : State) : Host.Outcome State Fault Refusal :=
  runIns (.wvpinUnpin i) ⟨0x3D, 0x01, .unused, .s, .unused, 0⟩ i none (fun b e =>
    match e.slotOf i.p (e.handleA i) with
    | none => e.raiseReq b i 2 (e.handleA i)
    | some n => (e.onReq n fun r => { r with pinEv := some none }).fin b i) s

end Sys2Proof.Machine
end

