-- ==== Sys2Proof/Machine/Startup.lean ====
section
/-! DEFINITION. Resets and start-up (R418, R521, R533, R560 to R564): cold reset and loss of power, the steps of start-up, and the phases of a warm reset. -/

namespace Sys2Proof.Machine

open Sys2Proof

/-! ## Cold reset and loss of power (R418, R533, R560) -/

/-- The engine after a cold reset. Host memory, what the host's protection unit refuses and what the ports have driven lie
outside it; ids and draws of the model's own go on. -/
def Eng.afterCold (e : Eng) : Eng :=
  { Eng.cold with mem := e.mem, deny := e.deny, out := e.out, nextId := e.nextId, free := e.free, resp := e.resp }

/-- ENGINE_ABSENT in the ring headers of every partition in service (R418). -/
def Eng.absentAll (b : BeatUnit) (e : Eng) : Eng :=
  ((List.range 32).filter fun p => decide (e.pstate p ≠ psDisabled)).foldl (fun e p => e.storeHeaders b p hdAbsent) e

/-- Both management cores boot the slot that R516 names. -/
def State.bootBoth (s : State) : State := { s with eng := (s.eng.bootCore 0 s.bootPick 0).bootCore 1 s.bootPick 0 }

/-- COLD_RESET: power-on, or wx_cold_rst_n_i (R560). The pin's reset writes ENGINE_ABSENT first (R418). -/
def execColdReset (powerOn : Bool) (s : State) : Host.Outcome State Fault Refusal :=
  .next <|
    let e := if powerOn || !s.eng.bit Reg.glbStatus 31 then s.eng else s.eng.absentAll s.beat
    let e := (e.afterCold.wr Reg.glbResetCause (if powerOn then 8 else 1)).setF Reg.glbStatus 3 0 1
    ({ s with beat := BeatUnit.cold, eng := e } : State).bootBoth

/-- POWER_LOSS: every state but flash and host memory is lost (R533). -/
def execPowerLoss (s : State) : Host.Outcome State Fault Refusal :=
  .next (({ s with beat := BeatUnit.cold, eng := s.eng.afterCold } : State).bootBoth)

/-! ## Start-up (R562) -/

/-- A step of start-up completes: PHASE moves on. (DEDUCED, assumption log 31) -/
def Eng.phaseTo (n : Nat) (e : Eng) : Eng := e.setF Reg.glbStatus 3 0 n

/-- PLL_LOCK: step 1 (R491). (DEDUCED, assumption log 31) -/
def execPllLock (s : State) : Host.Outcome State Fault Refusal :=
  .next <| s.onEng fun _ e => if e.fld Reg.glbStatus 3 0 ≤ 1 then e.phaseTo 2 else e

/-- SRAM_CLEAR_DONE: step 2. (DEDUCED, assumption log 31) -/
def execSramClearDone (s : State) : Host.Outcome State Fault Refusal :=
  .next <| s.onEng fun _ e => if e.fld Reg.glbStatus 3 0 = 2 then e.phaseTo 3 else e

/-- JUMP_ROM_CHECK_DONE: step 3 (R405). (DEDUCED, assumption log 31) -/
def execJumpRomCheckDone (crcOk : Bool) (s : State) : Host.Outcome State Fault Refusal :=
  .next <| s.onEng fun b e =>
    if e.fld Reg.glbStatus 3 0 ≠ 3 then e
    else (if crcOk then e.setF Reg.rngStatus 31 31 1 else e.romBad b).phaseTo 4

/-- UCODE_LOAD_DONE: steps 5 to 7, with discovery and the spare maps of step 6, which are those of the reset state, shown on the way;
or PHASE 0xF where bank 0 could not be loaded (R521, R562). (DEDUCED, assumption log 31) -/
def execUcodeLoadDone (loaded : Bool) (s : State) : Host.Outcome State Fault Refusal :=
  .next <|
    if s.eng.fld Reg.glbStatus 3 0 ≠ 5 then s
    else if !loaded then s.onEng fun _ e => e.phaseTo 0xF
    else
      let img := (s.flash.slot s.flash.bootSlot).image
      s.onEng fun _ e =>
        let e : Eng := { e with banks := kset none e.banks 0 (some (imgContract img, imgBuild img)) }
        ((((e.setF Reg.mgmtUpdStatus 26 26 1).showLevel).phaseTo 6).phaseTo 7).setF Reg.glbStatus 31 31 1

/-! ## Warm reset (R561) -/

/-- Phases 1 and 2: ENGINE_ABSENT, ready falls, open batches are discarded and every step abandoned. Contexts issue nothing
more and every partition leaves service at once. (DEDUCED, assumption log 31) -/
def Eng.warmBegin (b : BeatUnit) (cause : Word) (e : Eng) : Eng :=
  let e := e.absentAll b
  let e := (List.range 32).foldl (fun e p => ((e.discardBatch p).abandonAll b p).spoutDiscard p) e
  let e := (List.range 32).foldl (fun e p => e.setF (Reg.partStatus p) 2 0 0) e
  let e := { ((e.bump Reg.glbWarmCount 31 0).wr Reg.glbResetCause cause) with warm := true }
  (e.setF Reg.glbStatus 31 31 0).phaseTo 8

/-- A warm reset is asked for: ignored while one runs or before start-up has completed (R561, R564). -/
def Eng.warmAsk (b : BeatUnit) (cause : Word) (e : Eng) : Eng :=
  if e.fld Reg.glbStatus 3 0 = 7 then e.warmBegin b cause else e

/-- WARM_RESET_PIN. -/
def execWarmResetPin (s : State) : Host.Outcome State Fault Refusal := .next <| s.onEng fun b e => e.warmAsk b 2

/-- WARM: a write of 1 to WARM. -/
def execWarm (path : Path) (s : State) : Host.Outcome State Fault Refusal :=
  ctlWrite path Reg.glbReset (fun b e => e.warmAsk b 4) s

/-- The bits of a register that a warm reset keeps beside its RWS fields (R45, R74, R198, R290, R345, R429, R489, R504, R511,
R516, R560, R565): what "since cold reset" counts, and what shows state that is kept. (DEDUCED, assumption log 84) -/
def warmKeep (r : RegRow) : Nat :=
  let all := 0xFFFFFFFF
  let high := 0xFFFF0000
  ([(Reg.partStatus 0, high), (Reg.syncPendOcc, 0x01FF0000), (Reg.syncManualCount, all), (Reg.weirSealBacklog, high),
    (Reg.lplStatus, 0xFF), (Reg.lplStage, 0x01FF0000), (Reg.lplQueueHigh, 0x7F), (Reg.rngStatus, all), (Reg.spoutSpillOcc 0, high), (Reg.intSpares, all),
    (Reg.intRows, all), (Reg.pwrTherm, 0xFF000000), (Reg.mgmtStatus, 0x8F000000), (Reg.mgmtLogSeq, all),
    (Reg.mgmtLogMirrored, all), (Reg.mgmtLogOcc, 0x7FFF0000), (Reg.mgmtUpdStatus, all), (Reg.mgmtUcodeBank, all),
    (Reg.mgmtLevel, all), (Reg.dbgWrites, all), (Reg.glbPortFailed, all), (Reg.glbWarmCount, all), (Reg.glbResetCause, all)].find?
      fun x => decide (x.1 = r.base)).elim 0 fun x => x.2

/-- What a warm reset makes of a stored register; the beat unit's stand (R45). (DEDUCED, assumption log 84) -/
def warmWord (a : Nat) (v : Word) : Word :=
  if Reg.beatCtrl ≤ a ∧ a ≤ Reg.beatErrCount then v
  else match regRow a with
    | none => resetWord a
    | some r =>
      let m := BitVec.ofNat 32 (r.rws ||| warmKeep r)
      (v &&& m) ||| (resetWord a &&& ~~~m)

/-- The group fields stand and every STATE returns to IDLE (R458). (DEDUCED, assumption log 84) -/
def Group.afterWarm (g : Group) : Group :=
  { Group.fresh with
    cfg := g.cfg, base := g.base, shardLo := g.shardLo, shardHi := g.shardHi, shards := g.shards, lr := g.lr, step := g.step }

/-- What a warm reset keeps of a partition: the lost core and the count of its partition resets (R417, R474). (DEDUCED,
assumption log 84) -/
def Partn.afterWarm (q : Partn) : Partn := { Partn.fresh with coreLost := q.coreLost, epoch := q.epoch }

/-- Phase 4: covered state is reset (R560, R561). (DEDUCED, assumption log 84) -/
def Eng.afterWarm (e : Eng) : Eng :=
  let live := (e.reqs.filter fun x => x.2.live).map fun x => x.1
  let stays := fun x : Nat × Nat => decide (x.2 = 1)
  { e.afterCold with
    regs := (e.regs.map fun x => (x.1, warmWord x.1 x.2)).filter fun x => decide (x.2 ≠ resetWord x.1)
    parts := kmapAll Partn.fresh e.parts Partn.afterWarm
    chans := kmapAll Chan.down e.chans fun c => { Chan.down with failed := c.failed }
    chanMap := e.chanMap, chanLost := e.chanLost, sliceLost := e.sliceLost, coreMap := e.coreMap, sliceMap := e.sliceMap, jtagIr := e.jtagIr, jtagDr := e.jtagDr, mcores := e.mcores, log := e.log, logHeld := e.logHeld
    banks := e.banks, sens := e.sens, rowsSpared := e.rowsSpared, ledgers := e.ledgers, refilled := e.refilled
    gens := live.foldl (fun g s => kmod 0 g s (· + 1)) e.gens
    groups := kmapAll Group.fresh e.groups Group.afterWarm
    lps := e.lps.filter stays, lpPages := e.lpPages.filter fun x => decide (kget 0 e.lps x.1 = 1)
    grams := e.grams.filter fun x => decide (x.2.st = 1)
    romWait := e.romWait, tileMap := e.tileMap, budget := e.budget, restarted := e.restarted, lend := e.lend, balStaged := e.balStaged
    latch := e.latch.filter fun x => decide (x.1 % 2 ^ 22 = Reg.beatNowHi) }

/-- The spares of failed tiles, those of slices and cores whose failure waits, and the pending bank switches take their place
before the state is reset (R475, R487, R519). -/
def Eng.warmSettle (b : BeatUnit) (e : Eng) : Eng :=
  let e := e.dropTiles
  let e := e.tileDown.foldl (fun e _ => e.tileSwap) e
  let e := e.sliceWait.foldl (fun e n => e.sliceTake b n) { e with sliceWait := [] }
  let e := e.coreWait.foldl (fun e p => e.coreTake b p) { e with coreWait := [] }
  (e.bankSwitch).foldl (fun e p => e.switchIdle b p) e

/-- Residence shows again: the pages of resident learned prefixes carry the table's references (R257), and the counts; the
profiles that stay enabled have their plans (R216). -/
def Eng.showKept (b : BeatUnit) (e : Eng) : Eng :=
  let pages := (e.lpPages.map fun x => x.2).flatten
  let e := pages.foldl (fun e g => e.setPage b g fun r => { r with ref := r.ref + 1 }) e
  let e := (e.showLps.setF Reg.smpGramResident 10 0 e.grams.length).showPower 16
  (List.range 32).foldl (init := e) fun e p => ((List.range 8).foldl (fun e m => e.planModel p m) e).roleRestart b p

/-- Phase 5: step 7 of start-up, WARM_DONE, and the partitions whose ENABLE is still 1. -/
def Eng.warmEnd (e : Eng) : Eng :=
  let e := ((e.setF Reg.glbStatus 31 31 1).phaseTo 7).ev Reg.glbEvent 0
  ((List.range 32).filter fun p => e.bit (Reg.partCtrl p) 0).foldl (fun e p => e.tryEnable p) e

/-- WARM_RESET_COMPLETE: phases 4 and 5, once every memory-port response is in (R561). -/
def execWarmResetComplete (s : State) : Host.Outcome State Fault Refusal :=
  .next <| s.onEng fun b e =>
    if e.warm && decide (e.txns = []) then (((e.warmSettle b).afterWarm).showKept b).warmEnd else e

end Sys2Proof.Machine
end

