-- ==== Sys2Proof/Machine/Window.lean ====
section
/-! DEFINITION. The control window (R8, R534, R558, R566 to R578): what each register reads, the latching reads, and the write of any register by any path. -/

namespace Sys2Proof.Machine

open Sys2Proof

/-! ## What registers read that no field of theirs stores -/

/-- A word of a number. -/
abbrev w32 (n : Nat) : Word := BitVec.ofNat 32 n

/-- A set of levels or numbers as a mask. -/
def maskOf (n : Nat) (f : Nat → Bool) : Nat := (List.range n).foldl (fun m i => if f i then m + 2 ^ i else m) 0

/-- WX_BEAT_STATUS and WX_BEAT_NOW (R48). -/
def State.readBeat (s : State) (base : Nat) : Option Word :=
  if base = Reg.beatStatus then some (w32 s.beat.st.code)
  else if base = Reg.beatNowLo then some (w32 s.beat.stamp)
  else if base = Reg.beatNowHi then some s.beat.nowHi
  else none

/-- WX_PART_CTX_STATE (R74): 4 bits for each of 8 contexts. -/
def Eng.ctxStates (e : Eng) (p first : Nat) : Nat :=
  (List.range 8).foldl (fun n i => n + (e.ctx p (first + i)).st.code * 16 ^ i) 0

/-- A ready list holds an item, or the entry of a context that can issue and does not hold the slot (R150, R154, R165). -/
def Eng.listBusy (e : Eng) (p l : Nat) : Bool :=
  decide ((e.part p).itemsAt l ≠ []) ||
    (List.range 16).any fun c => (e.ctx p c).canIssue && decide ((e.part p).slot ≠ some c) && decide (e.prio p c = l)

/-- Entries of a delay list (R165). -/
def Partn.dlOcc (q : Partn) (l : Nat) : Nat := (q.delays.filter fun d => decide (d.list = l)).length

/-- The earliest pending key, with VALID at bit 63 (R165). -/
def Partn.dlNextWord (q : Partn) : Nat :=
  match q.dlFirst fun _ => true with
  | some d => 2 ^ 63 + d.key % 2 ^ 56
  | none => 0

/-- WX_PART, WX_SCHED and WX_SYNC (R74, R165, R197, R198). -/
def Eng.readPart (e : Eng) (base p n : Nat) : Option Word :=
  let q := e.part p
  if base = Reg.partCtxStateLo 0 then some (w32 (e.ctxStates p 0))
  else if base = Reg.partCtxStateHi 0 then some (w32 (e.ctxStates p 8))
  else if base = Reg.schedRlNonempty 0 then some (w32 (maskOf 32 fun l => e.listBusy p l))
  else if base = Reg.schedRlFull 0 then some (w32 (maskOf 32 fun l => e.listFull p l))
  else if base = Reg.schedDlOcc 0 0 then some (w32 (q.dlOcc (2 * n) + 2 ^ 16 * q.dlOcc (2 * n + 1)))
  else if base = Reg.schedDlNextLo 0 then some (w32 q.dlNextWord)
  else if base = Reg.schedDlNextHi 0 then some (w32 (q.dlNextWord / 2 ^ 32))
  else if base = Reg.syncManualCell then
    some (w32 (e.fld base 15 0 + if (e.cell (e.fld base 15 0)).sat then 2 ^ 16 else 0))
  else if base = Reg.syncManualRead then some (e.cell (e.fld Reg.syncManualCell 15 0)).count
  else none

/-- The balance of the selected ledger, 40 bits (R224). -/
def Eng.ledgerBal (e : Eng) : Nat := wrap 64 (e.ledger e.ledSel).bal

/-- WX_ADM and WX_PAGE (R224, R226, R261). (DEDUCED, assumption log 103) -/
def Eng.readAdm (e : Eng) (base p : Nat) : Option Word :=
  let l := e.ledger e.ledSel
  if base = Reg.admLive 0 then some (w32 (e.liveSlots p).length)
  else if base = Reg.admLedgerWeight then some (w32 (l.wPrefill * 2 ^ 16 + l.wGen))
  else if base = Reg.admLedgerRefill then some (w32 l.refill)
  else if base = Reg.admLedgerCap then some (w32 l.cap)
  else if base = Reg.admLedgerFloor then some (w32 l.floor)
  else if base = Reg.admLedgerBalLo then some (w32 e.ledgerBal)
  else if base = Reg.admLedgerBalHi then some (w32 (e.ledgerBal / 2 ^ 32))
  else if base = Reg.pageFree 0 then some (if e.pstate p = psDisabled then 0 else w32 (e.freeCount p))
  else if base = Reg.pageCached 0 then some (w32 (e.cachedPages p).length)
  else if base = Reg.pageListFree 0 then some (if e.pstate p = psDisabled then 0 else w32 (e.blocksLeft p))
  else if base = Reg.pageNodesUsed 0 then some (w32 (e.nodeSpan p - e.nodesLeft p))
  else none

/-- The largest age of an eligible request (R290). -/
def Eng.maxAge (e : Eng) (p : Nat) : Nat :=
  min 255 (((e.liveSlots p).filter fun s => e.eligible s).foldl (fun m s => max m (e.req s).age) 0)

/-- WX_WEIR_OPEN (R290). -/
def Eng.openWord (e : Eng) (p : Nat) : Nat :=
  match (e.part p).batch with
  | none => 0
  | some bt => 2 ^ 31 + (if bt.learning then 2 ^ 30 else 0) + bt.owner * 2 ^ 16 + bt.runs.foldl (fun n r => n + r.rows) 0

/-- WX_WEIR and WX_LAT (R290, R317). (DEDUCED, assumption logs 103, 105) -/
def Eng.readWeir (e : Eng) (base p : Nat) : Option Word :=
  if base = Reg.weirAgeStatus 0 then some (w32 ((e.part p).aged.length * 2 ^ 16 + e.maxAge p))
  else if base = Reg.weirOpen 0 then some (w32 (e.openWord p))
  else if base = Reg.weirRoleStatus 0 then
    some (if e.pstate p = psDisabled then 0 else
      w32 (putBits (putBits (e.rd (Reg.weirRoleStatus p)).toNat 6 0 (e.dispChans p).length) 14 8 (e.prefillGroups p)))
  else if base = Reg.latDrawStatus 0 then
    some (w32 (putBits (e.rd (Reg.latDrawStatus p)).toNat 17 0
      ((e.liveSlots p).filter fun s => decide (e.rstate s = rsPaused)).length))
  else none

/-- The group that WX_WLC_GRP_SEL names. (DESIGN CHOICE, assumption log 85) -/
def Eng.grpSel (e : Eng) : Nat := e.fld Reg.wlcGrpSel 11 0

/-- WX_WLC_SLOT (R457). -/
def Eng.slotWord (e : Eng) (p n : Nat) : Nat :=
  let v := e.vslot p n
  v.st * 2 ^ 30 + (if (e.part p).newestSlot = some n then 2 ^ 29 else 0) + e.landed p n * 2 ^ 16 + v.version

/-- WX_WLC (R457, R458). -/
def Eng.readWlc (e : Eng) (base p n : Nat) : Option Word :=
  let g := e.group e.grpSel
  if base = Reg.wlcSlot 0 0 then some (w32 (e.slotWord p n))
  else if base = Reg.wlcFanProgLo 0 then some (w32 (e.fanProgress p))
  else if base = Reg.wlcFanProgHi 0 then some (w32 (e.fanProgress p / 2 ^ 32))
  else if base = Reg.wlcGrpCfg then some g.cfg
  else if base = Reg.wlcGrpLayer then some g.base
  else if base = Reg.wlcGrpShardLo then some g.shardLo
  else if base = Reg.wlcGrpShardHi then some g.shardHi
  else if base = Reg.wlcGrpShards then some g.shards
  else if base = Reg.wlcGrpLr then some g.lr
  else if base = Reg.wlcGrpStep then some g.step
  else if base = Reg.wlcGrpStatus then some (w32 (g.st * 2 ^ 30 + g.retries * 2 ^ 28 + g.outstanding))
  else none

/-- The prefill progress of the request that WX_MGMT_RQ_SEL names (R522). -/
def Eng.rqProgress (e : Eng) : Nat :=
  let h := (e.rd Reg.mgmtRqSel).toNat
  match e.slotOf (h / 2 ^ 27) h with
  | none => 0
  | some slot => progress (1000 * e.rprefilled slot / e.rlen slot) 0x01 (e.rprefilled slot)

/-- The activity counters that the last sample of the selected domain found (R501). -/
def Eng.actOf (e : Eng) : Activity := kget ⟨0, 0, 0⟩ e.activity (e.fld Reg.pwrActSel 6 0)

/-- The progress word of the scrub pass in progress, where one is since the last has ended (R471, R522): how far it has come is not
stated, a free value that never goes back within the pass. (DESIGN CHOICE, assumption log 118) -/
def Eng.scrubAtWord (b : BeatUnit) (e : Eng) : Option Nat :=
  if e.bit Reg.intScrub 31 && decide (e.scrubAt ≠ some b.time) then
    some (e.scrubPos + (Config.freeWord e.free).toNat % max 1 (Config.sramWords - e.scrubPos))
  else none

/-- WX_PWR, WX_MGMT and the Dispatch Link credits (R503, R509, R511, R516, R522, R565). The cycle counters of R345 and R501
count what the model does not time: each reads a free value, and 0 while the spec leaves nothing to count, before the plane's
first pass and in a domain held in reset. -/
def State.readMgmt (s : State) (base : Nat) : Option Word :=
  let e := s.eng
  let free : Word := (Config.freeWord e.free).truncate 32
  if base = Reg.intScrubProgLo ∨ base = Reg.intScrubProgHi then
    (e.scrubAtWord s.beat).map fun n =>
      let w := progress (1000 * n / Config.sramWords) 0x04 (n % 2 ^ 48)
      w32 (if base = Reg.intScrubProgLo then w else w / 2 ^ 32)
  else if base = Reg.lplCycCompute ∨ base = Reg.lplCycWeight ∨ base = Reg.lplCycHidden then some (if e.planeRan then free else 0)
  else if base = Reg.pwrActBusy then some (if e.domainHeld (e.fld Reg.pwrActSel 6 0) then 0 else free)
  else if base = Reg.pwrDroopCount then some (kget Droop.quiet e.droops (e.fld Reg.pwrDroopSel 5 0)).trips
  else if base = Reg.mgmtLogOcc then some (w32 (putBits (e.rd base).toNat 14 0 e.logOcc))
  else if base = Reg.mgmtSensVal then
    let n := e.fld Reg.mgmtSensSel 6 0
    some (if n < sensorCount ∧ e.sampled then w32 (2 ^ 16 + (kget 0 e.sens n).toNat) else 0)
  else if base = Reg.mgmtUpdStatus then
    some (w32 (s.flash.slotA.st.code * 2 ^ 30 + s.flash.slotB.st.code * 2 ^ 28 + s.flash.bootSlot * 2 ^ 27 + e.fld base 26 26 * 2 ^ 26))
  else if base = Reg.mgmtRqProgLo then some (w32 e.rqProgress)
  else if base = Reg.mgmtRqProgHi then some (w32 (e.rqProgress / 2 ^ 32))
  else if base = Reg.glbLinkCredits then
    let c := e.chan (e.fld base 7 0)
    some (w32 (e.fld base 7 0 + if c.up ∧ e.fld base 7 0 < 68 then c.credits * 2 ^ 16 else 0))
  else none

/-- Channel groups with a channel that has not failed: 9 channels in each of the first four, 8 in each of the others (R538).
(DEDUCED, assumption log 88) -/
def Eng.groupsLeft (e : Eng) : Nat :=
  ((List.range 8).filter fun g =>
    let lo := if g < 4 then 9 * g else 36 + 8 * (g - 4)
    (List.range (if g < 4 then 9 else 8)).any fun i => !(e.chan (lo + i)).failed).length

/-- The discovery registers (R576, R577): 0 until PHASE 0x6, and then what is in service. (DEDUCED, assumption log 88) -/
def Eng.readDisc (e : Eng) (base : Nat) : Option Word :=
  let ph := e.fld Reg.glbStatus 3 0
  let v := (resetWord base).toNat
  if base < Reg.glbDiscPart ∨ Reg.glbDiscPods < base then none
  else if ph ≠ 7 ∧ ph ≠ 8 then some 0
  else if base = Reg.glbDiscTile then some (w32 (putBits v 23 16 (e.fld Reg.lplStatus 7 0)))
  else if base = Reg.glbDiscCore then
    some (w32 (putBits v 23 16 (32 - ((List.range 32).filter fun p => (e.part p).coreLost).length)))
  else if base = Reg.glbDiscChan then some (w32 (putBits (putBits v 23 16 (64 - e.chanLost.length)) 15 8 e.groupsLeft))
  else if base = Reg.glbDiscSync then some (w32 (putBits v 15 8 (32 - e.sliceLost.length)))
  else none

/-- The first of some readings. -/
def firstOf : List (Option Word) → Option Word
  | [] => none
  | some w :: _ => some w
  | none :: r => firstOf r

/-- What a register reads: a value that follows from other state, or its stored word. -/
def State.regValue (s : State) (a : Nat) : Word :=
  match regRow a with
  | none => 0
  | some r =>
    let p := r.part a
    let n := (a - (r.base + r.pstride * p)) / max 1 r.step
    let e := s.eng
    (firstOf [s.readBeat r.base, e.readPart r.base p n, e.readAdm r.base p, e.readWeir r.base p, e.readWlc r.base p n,
      s.readMgmt r.base, e.readDisc r.base, if r.base = Reg.rngProbeWord then some e.probeWord else none]).getD (e.rd a)

/-! ## Reads (R534, R570, R572, R575) -/

/-- The paths, as keys of their latches. -/
def pathIndex : Path → Nat
  | .host => 0
  | .mgmt => 1
  | .jtag => 2
  | .i2c => 3

/-- The place of a path's latch for a register (R575). -/
def latchKey (path : Path) (a : Nat) : Nat := pathIndex path * 2 ^ 22 + a

/-- The registers whose read latches the register above them (R575). -/
def latchBases : List Nat :=
  [Reg.beatNowLo, Reg.partCtxProgressLo 0, Reg.smpGramProgLo, Reg.wlcFanProgLo 0, Reg.intScrubProgLo, Reg.mgmtUpdProgLo,
    Reg.mgmtRqProgLo, Reg.schedDlNextLo 0, Reg.syncToLastPcLo 0, Reg.weirLastStepLo 0, Reg.mgmtNegEffLo, Reg.admLedgerBalLo]

/-- The read at an address latches the register above it. -/
def latches (a : Nat) : Bool := (regRow a).any fun r => latchBases.contains r.base

/-- The register reads a path's latch. -/
def latched (a : Nat) : Bool :=
  decide (a = Reg.pwrActTotal) || decide (a = Reg.pwrActStretch) || (decide (4 ≤ a) && latches (a - 4))

/-- A path may read an address (R562, R570, R572): elsewhere the read returns 0. (DESIGN CHOICE, assumption log 27) -/
def Eng.readOpen (e : Eng) (path : Path) (a : Nat) : Bool :=
  match path with
  | .host => decide (a < 0x10000) || e.windowOpen
  | .i2c => (decide (a < 0x10000) || e.windowOpen) && decide (a < 0x200000)
  | .mgmt => true
  | .jtag => e.bit Reg.dbgCtrl 0

/-- A register of a doorbell page that reads its own value: the write-only ones read 0 (R8). -/
def doorReads (off : Nat) : Bool :=
  decide (off = doorSqTail) || decide (off = doorSqHead) || decide (off = doorCqHead) || decide (off = doorCqTail) ||
    (decide (0x1000 ≤ off) && decide (off < 0x1400))

/-- The value that a read by a path returns. -/
def State.readWord (s : State) (path : Path) (a : Nat) : Word :=
  if !s.eng.readOpen path a then 0
  else if 0x200000 ≤ a then (if doorReads (a % 0x10000) then s.eng.rd a else 0)
  else if latched a then kget 0 s.eng.latch (latchKey path a)
  else s.regValue a

/-- What a read leaves behind (R575): the latches of its path. The activity counters of the selected domain are free values, drawn
here (R501); a domain that no detector has stretched since reset has no stretched cycles. (DESIGN CHOICE, assumption log 93) -/
def State.readEffect (s : State) (path : Path) (a : Nat) : State :=
  if !s.eng.readOpen path a then s
  else
    let e := s.eng
    let e : Eng :=
      if a = Reg.pwrActBusy then
        let dom := e.fld Reg.pwrActSel 6 0
        let word := fun k : Nat =>
          if e.domainHeld dom || (decide (k = 2) && !e.everStretched dom) then 0 else (Config.freeWord (e.free + k)).truncate 32
        let l := kset 0 (kset 0 e.latch (latchKey path Reg.pwrActTotal) (word 1)) (latchKey path Reg.pwrActStretch) (word 2)
        { e with activity := kset ⟨0, 0, 0⟩ e.activity dom ⟨word 0, word 1, word 2⟩, latch := l }
      else if latches a then
        let e : Eng := if a = Reg.intScrubProgLo then { e with scrubPos := (e.scrubAtWord s.beat).getD e.scrubPos } else e
        { e with latch := kset 0 e.latch (latchKey path (a + 4)) (s.regValue (a + 4)) }
      else e
    { s with eng := { e with free := e.free + 3 } }

/-- A read of the window: its answer and its latches; a misaligned one answers SLVERR with data 0 and does nothing (R534).
(DESIGN CHOICE, assumption log 79) -/
def State.readAt (s : State) (path : Path) (a : Nat) : State :=
  if a % 4 ≠ 0 then { s with eng := { s.eng with resp := ⟨false, 0⟩ } }
  else
    let t := s.readEffect path a
    { t with eng := { t.eng with resp := ⟨true, s.readWord path a⟩ } }

/-- READ_BEAT_NOW_LO: latch the whole beat time (R47). -/
def execReadBeatNowLo (path : Path) (s : State) : Host.Outcome State Fault Refusal := .next (s.readAt path Reg.beatNowLo)

/-- LATCHING_READ: a read of a register that latches others (R575). -/
def execLatchingRead (path : Path) (addr : BitVec 22) (s : State) : Host.Outcome State Fault Refusal := .next (s.readAt path addr.toNat)

/-- READ_PROBE_WORD: the answer is given once the jump completes (R410). -/
def execReadProbeWord (path : Path) (s : State) : Host.Outcome State Fault Refusal :=
  .next <|
    let v := if s.eng.readOpen path Reg.rngProbeWord then s.eng.probeWord else 0
    { s with eng := { s.eng with resp := ⟨true, v⟩ } }

/-! ## Interrupts and ready (R558, R559) -/

/-- An EVENT register has a bit set together with its INT_EN bit. -/
def Eng.raised (e : Eng) (ev en : Nat) : Bool := decide (e.rd ev &&& e.rd en ≠ 0)

/-- wx_irq_part_o (R558). -/
def Eng.irqPart (e : Eng) (p : Nat) : Bool :=
  [(Reg.partEvent p, Reg.partIntEn p), (Reg.schedEvent p, Reg.schedIntEn p), (Reg.syncEvent p, Reg.syncIntEn p),
    (Reg.admEvent p, Reg.admIntEn p), (Reg.pageEvent p, Reg.pageIntEn p), (Reg.weirEvent p, Reg.weirIntEn p),
    (Reg.latEvent p, Reg.latIntEn p), (Reg.smpEvent p, Reg.smpIntEn p), (Reg.specEvent p, Reg.specIntEn p),
    (Reg.rngEvent p, Reg.rngIntEn p), (Reg.spoutEvent p, Reg.spoutIntEn p), (Reg.wlcEvent p, Reg.wlcIntEn p)].any fun x => e.raised x.1 x.2

/-- wx_irq_eng_o (R558). -/
def Eng.irqEng (e : Eng) : Bool :=
  [(Reg.beatEvent, Reg.beatIntEn), (Reg.lplEvent, Reg.lplIntEn), (Reg.rngEventG, Reg.rngIntEnG), (Reg.intEvent, Reg.intIntEn),
    (Reg.pwrEvent, Reg.pwrIntEn), (Reg.mgmtEvent, Reg.mgmtIntEn), (Reg.glbEvent, Reg.glbIntEn)].any fun x => e.raised x.1 x.2

/-- wx_ready_o (R559). -/
def Eng.readyOut (e : Eng) : Bool := e.bit Reg.glbStatus 31

/-! ## Plain writes (R8, R569) -/

/-- What a write makes of a stored word (R8): RW and RWS fields take their bits, 1s clear W1C bits, the rest stands. -/
def RegRow.written (r : RegRow) (old v : Word) : Word :=
  let m := w32 (r.rw ||| r.rws)
  (old &&& ~~~m &&& ~~~(v &&& w32 r.w1c)) ||| (v &&& m)

/-- Write a register with nothing but its fields. (DESIGN CHOICE, assumption log 63) -/
def Eng.plain (r : RegRow) (a : Nat) (v : Word) (e : Eng) : Eng := e.wr a (r.written (e.rd a) v)

/-- Write a register but for a field, which keeps its value. (DESIGN CHOICE, assumption log 63) -/
def Eng.plainBut (r : RegRow) (a hi lo : Nat) (v : Word) (e : Eng) : Eng :=
  (e.plain r a v).setF a hi lo (e.fld a hi lo)

/-- The per-partition registers that change only while the partition is DISABLED (R51, R200, R229, R373, R378, R391, R429).
(DEDUCED, assumption log 71) -/
def idleOnly : List Nat :=
  [Reg.partRqt 0, Reg.partSem 0, Reg.partLedger 0, Reg.partDispLo 0, Reg.partDispHi 0, Reg.admSqBaseLo 0, Reg.admSqBaseHi 0,
    Reg.admSqSize 0, Reg.pageCfg 0, Reg.pageRange 0, Reg.pageNodes 0, Reg.pageListBaseLo 0, Reg.pageListBaseHi 0,
    Reg.pageListBlocks 0, Reg.smpMaskBaseLo 0, Reg.smpMaskBaseHi 0, Reg.smpMaskStride 0, Reg.smpPenBaseLo 0,
    Reg.smpPenBaseHi 0, Reg.specCandBaseLo 0, Reg.specCandBaseHi 0, Reg.specTree 0 0, Reg.spoutCqBaseLo 0, Reg.spoutCqBaseHi 0,
    Reg.spoutCqSize 0, Reg.spoutTrBaseLo 0, Reg.spoutTrBaseHi 0, Reg.spoutSpillBaseLo 0, Reg.spoutSpillBaseHi 0]

/-- The Basin registers that change only while every partition is DISABLED (R229). (DEDUCED, assumption log 71) -/
def allIdleOnly : List Nat :=
  [Reg.pagePool, Reg.pagePrtBaseLo, Reg.pagePrtBaseHi, Reg.pageNodeBaseLo, Reg.pageNodeBaseHi, Reg.pageLpTableLo,
    Reg.pageLpTableHi, Reg.pageLpRange]

/-- Fields that change only while the partition is DISABLED, in registers that hold others too (R378, R429, R438). (DESIGN
CHOICE, assumption log 63) -/
def idleFields : List (Nat × Nat × Nat) :=
  [(Reg.specCtrl 0, 6, 0), (Reg.spoutTrCfg 0, 3, 0), (Reg.wlcCtrl 0, 1, 0)]

/-- Four bits of each bucket limit do not decrease, and none is 0xF (R269). -/
def bucketGood (v : Nat) : Bool :=
  (List.range 8).all fun i => decide (bitsOf v (4 * i + 3) (4 * i) ≠ 0xF) &&
    (decide (i = 7) || decide (bitsOf v (4 * i + 3) (4 * i) ≤ bitsOf v (4 * i + 7) (4 * i + 4)))

/-- A value of a WX_WEIR register lies in its stated range (R290). -/
def weirGood (base v : Nat) : Bool :=
  let tokens := decide (1 ≤ v % 2 ^ 15) && decide (v % 2 ^ 15 ≤ 16384)
  if base = Reg.weirChunk 0 ∨ base = Reg.weirSegment 0 then tokens
  else if base = Reg.weirBucket 0 then bucketGood v
  else if base = Reg.weirRole 0 then
    decide (bitsOf v 31 30 ≠ 3) && decide (bitsOf v 14 8 ≤ 64) && decide (bitsOf v 6 0 ≤ 64)
  else if base = Reg.weirFixed 0 then decide (bitsOf v 6 0 ≤ 64)
  else true

/-- A value of a WX_PWR register lies in its stated range (R503). -/
def pwrGood (base v : Nat) : Bool :=
  let within := fun n lo hi : Nat => decide (lo ≤ n) && decide (n ≤ hi)
  if base = Reg.pwrCtrl then within (bitsOf v 4 0) 1 16
  else if base = Reg.pwrLplBudget then within (bitsOf v 15 0) 100 2600
  else if base = Reg.pwrDroopCfg then within (bitsOf v 21 11) 1 2047 && within (bitsOf v 10 0) 1 2047
  else if base = Reg.pwrTherm then decide (bitsOf v 23 16 < bitsOf v 15 8)
  else if base = Reg.pwrActSel then decide (bitsOf v 6 0 ≤ 99)
  else true

/-- The registers that only Marionette writes (R530, R531). -/
def mgmtOnly : List Nat := [Reg.mgmtWdt, Reg.mgmtBootCount, Reg.mgmtLogMirrored, Reg.dbgCtrl]

/-- The key registers of a slot (R409): the slot lies in the array's place. -/
def rngKeys : List Nat := [Reg.rngK1Lo 0 0, Reg.rngK1Hi 0 0, Reg.rngK2Lo 0 0, Reg.rngK2Hi 0 0]

/-- A write of a register to which no command of its own belongs: the conditions that the owning chapters state, and otherwise
its fields. (DESIGN CHOICE, assumption log 63) -/
def Eng.fieldWrite (path : Path) (r : RegRow) (a p n : Nat) (v : Word) (e : Eng) : Eng :=
  let b := r.base
  if idleOnly.contains b then (if e.idlePart p then e.plain r a v else e.cfgErr p)
  else if allIdleOnly.contains b then
    let busy := (List.range 32).filter fun q => e.inUse q
    if busy = [] then e.plain r a v else busy.foldl (fun e q => e.cfgErr q) e
  else match idleFields.find? fun x => decide (x.1 = b) with
    | some (_, hi, lo) =>
      let new := bitsOf v.toNat hi lo
      if b = Reg.wlcCtrl 0 ∧ new = 3 ∧ e.idlePart p = true then e.plainBut r a hi lo v
      else if new = e.fld a hi lo ∨ e.idlePart p = true then e.plain r a v
      else (e.plainBut r a hi lo v).cfgErr p
    | none =>
      if !weirGood b v.toNat then e.cfgErr p
      else if !pwrGood b v.toNat then e
      else if mgmtOnly.contains b && decide (path ≠ .mgmt) then e
      else if rngKeys.contains b && e.bit (Reg.rngSlotEn p) n then e.cfgErr p
      else if b = Reg.smpCtrl 0 ∧ bitsOf v.toNat 3 2 = 3 then e.plainBut r a 3 2 v
      else if b = Reg.wlcVnext 0 ∧ bitsOf v.toNat 15 0 = 0xFFFF then e
      else if b = Reg.syncXbCfg 0 0 ∧ e.fld (Reg.syncXbStatus p n) 31 30 ≠ 0 ∧ r.written (e.rd a) v ≠ e.rd a then e.cfgErr p
      else if b = Reg.beatMasterPeriod ∧ (bitsOf v.toNat 22 0 < 5000 ∨ 5000000 < bitsOf v.toNat 22 0) then e.ev Reg.beatEvent 6
      else if b = Reg.pwrTherm then (e.plain r a v).heat
      else e.plain r a v

/-! ## The windows onto ledgers and groups (R226, R458) -/

/-- Write WX_ADM_LEDGER_WEIGHT or WX_ADM_LEDGER_REFILL of the selected ledger (R226). -/
def Eng.ledgerField (base : Nat) (v : Word) (e : Eng) : Eng :=
  let l := e.ledger e.ledSel
  e.setLedger e.ledSel (if base = Reg.admLedgerWeight then { l with wPrefill := bitsOf v.toNat 31 16, wGen := bitsOf v.toNat 15 0 }
    else { l with refill := v.toNat })

/-- What a write of the group window would make of the selected group (R458). (DESIGN CHOICE, assumption log 85) -/
def Group.written (g : Group) (r : RegRow) (v : Word) : Group :=
  let f := fun old : Word => r.written old v
  if r.base = Reg.wlcGrpCfg then { g with cfg := f g.cfg }
  else if r.base = Reg.wlcGrpLayer then { g with base := f g.base }
  else if r.base = Reg.wlcGrpShardLo then { g with shardLo := f g.shardLo }
  else if r.base = Reg.wlcGrpShardHi then { g with shardHi := f g.shardHi }
  else if r.base = Reg.wlcGrpShards then { g with shards := f g.shards }
  else if r.base = Reg.wlcGrpLr then { g with lr := f g.lr }
  else { g with step := f g.step }

/-- A write of a register of the group window that changes no field but ARMED, FROZEN and LR (R458). -/
def Group.sameBut (g h : Group) (r : RegRow) : Bool :=
  decide (r.base = Reg.wlcGrpLr) ||
    (decide (r.base = Reg.wlcGrpCfg) && decide (g.part = h.part) && decide (g.layers = h.layers))

/-- The fields keep R443 and their stated ranges. (DESIGN CHOICE, assumption log 85) -/
def Group.fieldsGood (g : Group) : Bool :=
  decide (g.base.toNat % 4096 + g.layers ≤ 4096) && decide (1 ≤ g.nsh) && decide (g.nsh ≤ 1024)

/-- Write a register of the group window (R458). (DESIGN CHOICE, assumption log 85) -/
def Eng.groupWrite (r : RegRow) (v : Word) (e : Eng) : Eng :=
  let g := e.group e.grpSel
  let h := g.written r v
  let free := !g.armed && decide (g.st = gsIdle)
  if (free || g.sameBut h r) && h.fieldsGood then e.onGroup e.grpSel fun _ => h else e.cfgErr g.part

/-- The group window's registers but its command. -/
def groupRegs : List Nat :=
  [Reg.wlcGrpCfg, Reg.wlcGrpLayer, Reg.wlcGrpShardLo, Reg.wlcGrpShardHi, Reg.wlcGrpShards, Reg.wlcGrpLr, Reg.wlcGrpStep]

/-! ## Writes that are commands -/

/-- The state of an outcome: the commands below always answer a next state. -/
def nextOr (s : State) : Host.Outcome State Fault Refusal → State
  | .next t => t
  | _ => s

/-- MODE_FOLLOWER (R44). -/
def execModeFollower (path : Path) (s : State) : Host.Outcome State Fault Refusal := .next (ctlState path Reg.beatCtrl State.modeFollower s)
/-- MODE_MASTER (R44). -/
def execModeMaster (path : Path) (s : State) : Host.Outcome State Fault Refusal := .next (ctlState path Reg.beatCtrl State.modeMaster s)
/-- MODE_OFF (R44). -/
def execModeOff (path : Path) (s : State) : Host.Outcome State Fault Refusal := .next (ctlState path Reg.beatCtrl State.modeOff s)

/-- Write WX_BEAT_CTRL (R44, R48): MODE 0b11 is ignored with CFG_ERR. (DESIGN CHOICE, assumption log 12) -/
def beatWrite (path : Path) (v : Nat) (s : State) : Host.Outcome State Fault Refusal :=
  match v % 4 with
  | 0 => execModeOff path s
  | 1 => execModeFollower path s
  | 2 => execModeMaster path s
  | _ => .next (ctlState path Reg.beatCtrl (fun s => s.beatEv 6) s)

/-- Write WX_PART_CTRL: ENABLE is stored before RESET acts (R574). -/
def partCtrlWrite (path : Path) (p : Fin 32) (v : Nat) (s : State) : Host.Outcome State Fault Refusal :=
  let t := nextOr s (if v.testBit 0 then execEnableSet path p s else execEnableClear path p s)
  if v.testBit 1 then execPartitionReset path p t else .next t

/-- Write WX_PART_CTX_CMD (R65, R66, R74): OP 0 and 7 only store CTX, and do nothing while BUSY is 1. (DESIGN CHOICE,
assumption log 14) -/
def ctxCmdWrite (path : Path) (p : Fin 32) (v : Nat) (s : State) : Host.Outcome State Fault Refusal :=
  let c := Fin.ofNat 16 v
  match bitsOf v 10 8 with
  | 1 => execCtxStart path p c s
  | 2 => execCtxStop path p c s
  | 3 => execCtxSave path p c s
  | 4 => execCtxRestore path p c s
  | 5 => execCtxReset path p c s
  | 6 => execCtxResume path p c s
  | _ => ctlWrite path (Reg.partCtxCmd p.val) (fun _ e =>
      if e.bit (Reg.partCtxCmd p.val) 31 then e else e.setF (Reg.partCtxCmd p.val) 3 0 c.val) s

/-- Write WX_PAGE_LP_CMD, WX_SMP_GRAM_CMD or WX_WLC_VER_CMD with an OP that is ignored: the selector is stored. -/
def selectorWrite (path : Path) (a hi : Nat) (v : Nat) (s : State) : Host.Outcome State Fault Refusal :=
  ctlWrite path a (fun _ e => e.setF a hi 0 v) s

/-- Write WX_LAT_DRAW_CTRL (R307, R317): every source that the word sets or clears turns at
once, so that drawdown handed from one to another goes on; MGMT from Marionette or Strings only. (DEDUCED, assumption log 70) -/
def drawWrite (path : Path) (strings : Bool) (r : RegRow) (p : Nat) (v : Word) (s : State) : Host.Outcome State Fault Refusal :=
  let a := Reg.latDrawCtrl p
  ctlWrite path a (fun b e =>
    let e := ((e.plainBut r a 1 0 v).timedSources b p).putSw p (v.getLsbD 0)
    (if strings || decide (path = .mgmt) then e.putMgmt p (v.getLsbD 1) else e).drawTurn b p) s

/-- Write WX_SYNC_MANUAL_CELL or WX_SYNC_MANUAL_VALUE (R195): through Strings only. -/
def manualWrite (path : Path) (strings : Bool) (a : Nat) (v : Word) (s : State) : Host.Outcome State Fault Refusal :=
  let src : StringsSrc := if path = .mgmt then .mgmt else .jtag
  if !strings then ctlWrite path a (fun _ e => e) s
  else if a = Reg.syncManualValue then ctlWrite path a (fun _ e => e.wr a v) s
  else
    let cell := BitVec.ofNat 16 v.toNat
    match bitsOf v.toNat 31 30 with
    | 1 => ctlWrite path a (fun b e => e.manual b src.log { what := cell } (some (e.rd Reg.syncManualValue))) s
    | 2 => ctlWrite path a (fun b e => e.manual b src.log { what := cell } none) s
    | _ => selectorWrite path a 15 v.toNat s

/-- Write WX_MGMT_UPD_CMD (R518, R574): SLOT is stored first; a command while BUSY is ignored. -/
def updWrite (path : Path) (v : Nat) (s : State) : Host.Outcome State Fault Refusal :=
  let t := if s.eng.bit Reg.mgmtUpdCmd 31 then s else nextOr s (selectorWrite path Reg.mgmtUpdCmd 0 v s)
  match bitsOf v 26 24 with
  | 1 => execStage path t
  | 2 => execActivateUcode path t
  | 3 => execActivateMgmt path t
  | 4 => execConfirm path t
  | 5 => execRevert path t
  | _ => selectorWrite path Reg.mgmtUpdCmd 0 v s

/-- Write WX_MGMT_KICK: the ACTIVE core's kick (R505); no other path is a core's. -/
def kickWrite (path : Path) (s : State) : Host.Outcome State Fault Refusal :=
  match path, s.eng.activeCore with
  | .mgmt, some c => execKick (Fin.ofNat 2 c) (ctlState path Reg.mgmtKick id s)
  | _, _ => ctlWrite path Reg.mgmtKick (fun _ e => e) s

/-- Entries leave the log ring once mirrored to flash, or once the host ring has them (R511). -/
def Eng.logFlow (b : BeatUnit) (e : Eng) : Eng :=
  if e.fld Reg.mgmtHlogCfg 4 0 = 0 then { e with log := e.log.filter fun l => !e.mirrored l.seq } else e.hlogPump b

/-- The engine-wide registers whose write is a command. -/
def engineCommand (path : Path) (strings : Bool) (r : RegRow) (v : Word) (s : State) : Option (Host.Outcome State Fault Refusal) :=
  let b := r.base
  let n := v.toNat
  if b = Reg.beatCtrl then some (beatWrite path n s)
  else if b = Reg.glbReset then some (if n.testBit 0 then execWarm path s else ctlWrite path b (fun _ e => e) s)
  else if b = Reg.syncManualCell ∨ b = Reg.syncManualValue then some (manualWrite path strings b v s)
  else if b = Reg.admLedgerBalLo then some (execLedgerBalStage path v s)
  else if b = Reg.admLedgerBalHi then some (execLedgerBalCommit path v s)
  else if b = Reg.admLedgerCap then some (execLedgerBoundWrite path false v s)
  else if b = Reg.admLedgerFloor then some (execLedgerBoundWrite path true v s)
  else if b = Reg.admLedgerWeight ∨ b = Reg.admLedgerRefill then some (ctlWrite path b (fun _ e => e.ledgerField b v) s)
  else if groupRegs.contains b then some (ctlWrite path b (fun _ e => e.groupWrite r v) s)
  else if b = Reg.wlcGrpCmd then
    some (match n % 4 with
      | 1 => execAbort path s
      | 2 => execClear path s
      | _ => ctlWrite path b (fun _ e => e) s)
  else if b = Reg.pageLpCmd then
    some (match bitsOf n 25 24 with
      | 1 => execLpLoad path (BitVec.ofNat 16 n) s
      | 2 => execLpUnload path (BitVec.ofNat 16 n) s
      | _ => selectorWrite path b 15 n s)
  else if b = Reg.smpGramCmd then
    some (match bitsOf n 25 24 with
      | 1 => execGramLoad path (BitVec.ofNat 10 n) s
      | 2 => execGramUnload path (BitVec.ofNat 10 n) s
      | _ => selectorWrite path b 9 n s)
  else if b = Reg.intEfrHead then some (execEfrHead path v s)
  else if b = Reg.mgmtCtrl then some (if n.testBit 0 then execRestart path s else ctlWrite path b (fun _ e => e) s)
  else if b = Reg.mgmtHlogHead then some (execHlogHead path v s)
  else if b = Reg.mgmtUpdCmd then some (updWrite path n s)
  else if b = Reg.mgmtLevelSet then some (execLevelSet path (BitVec.ofNat 16 n) s)
  else if b = Reg.mgmtBootCount ∧ path = .mgmt then
    some (.next (ctlState path b (fun s =>
      let s := s.onEng fun _ e => e.fieldWrite path r b 0 0 v
      { s with flash := ({ s.flash with bootCount := n } : Flash).saved }) s))
  else if b = Reg.mgmtKick then some (kickWrite path s)
  else if b = Reg.mgmtLogMirrored ∨ b = Reg.mgmtHlogCfg then
    some (ctlWrite path b (fun t e => (e.fieldWrite path r b 0 0 v).logFlow t) s)
  else if Reg.dbgCtrl ≤ b ∧ b ≤ Reg.dbgStatus then
    some (ctlWrite path b (fun _ e => if decide (path = .host) || decide (b = Reg.dbgCmd) then e else e.fieldWrite path r b 0 0 v) s)
  else none

/-- The per-partition registers whose write is a command. -/
def partCommand (path : Path) (strings : Bool) (r : RegRow) (a p n : Nat) (v : Word) (s : State) : Option (Host.Outcome State Fault Refusal) :=
  let b := r.base
  let q := Fin.ofNat 32 p
  let w := v.toNat
  if b = Reg.partCtrl 0 then some (partCtrlWrite path q w s)
  else if b = Reg.partCtxCmd 0 then some (ctxCmdWrite path q w s)
  else if b = Reg.syncSatClr 0 then some (execSatClr path q (BitVec.ofNat 16 w) s)
  else if b = Reg.syncRaCell 0 0 then some (execRealignArm path q (Fin.ofNat 16 n) v s)
  else if b = Reg.admModelCfg 0 0 ∨ b = Reg.admModelCtx 0 0 ∨ b = Reg.admModelLive 0 0 then
    some (execModelCfgWrite path q (BitVec.ofNat 8 (a % 256)) v s)
  else if b = Reg.weirBudget 0 then some (execModelCfgWrite path q 0 v s)
  else if b = Reg.pageCtrl 0 then some (if w.testBit 0 then execFlush path q s else ctlWrite path a (fun _ e => e) s)
  else if b = Reg.latDrawCtrl 0 then some (drawWrite path strings r p v s)
  else if b = Reg.latDrawTime 0 then some (ctlWrite path a (fun t e => ((e.plain r a v).timedSources t p).drawTurn t p) s)
  else if b = Reg.wlcVerCmd 0 then
    some (match bitsOf w 25 24 with
      | 1 => execAnnounce path q (BitVec.ofNat 16 w) s
      | 2 => execRetire path q (BitVec.ofNat 16 w) s
      | _ => selectorWrite path a 15 w s)
  else if b = Reg.wlcNfReport 0 then some (execNfReport path q v s)
  else if b = Reg.intFltHead 0 then some (execFltHead path q v s)
  else none

/-! ## Any write (R534, R569, R572) -/

/-- A write of the doorbell pages: the host's only (R572); one that lands on a reserved offset is dropped (R59), one to a
read-only register has no effect (R8). -/
def doorPage (path : Path) (a : Nat) (v : Word) (s : State) : State :=
  let p := Fin.ofNat 32 ((a - 0x200000) / 0x10000)
  let off := a % 0x10000
  if path ≠ .host then ctlState path a id s
  else nextOr s <|
    if off = doorSqTail then execSqTail p v s
    else if off = doorCancel then execCancel p v s
    else if off = doorCqHead then execCqHead p v s
    else if off = 0x18 then execHostSignal p v s
    else if 0x1000 ≤ off ∧ off < 0x1400 then execTrHead p (Fin.ofNat 256 ((off - 0x1000) / 4)) v s
    else if off = doorSqHead ∨ off = doorCqTail then doorWrite p.val off [psRunning] (fun _ e => e) s
    else doorWrite p.val off [] (fun _ e => e) s

/-- A whole aligned write of the window by a path, through Strings or not. (DESIGN CHOICE, assumption log 63; DEDUCED,
assumption log 71; DESIGN CHOICE, assumption log 79) -/
def windowWrite (path : Path) (strings : Bool) (a : Nat) (v : Word) (s : State) : State :=
  if 0x200000 ≤ a then doorPage path a v s
  else match regRow a with
    | none => ctlState path a id s
    | some r =>
      let p := r.part a
      let n := (a - (r.base + r.pstride * p)) / max 1 r.step
      match (if r.pstride = 0 then engineCommand path strings r v s else partCommand path strings r a p n v s) with
      | some o => nextOr s o
      | none => ctlState path a (fun s => s.onEng fun _ e => e.fieldWrite path r a p n v) s

end Sys2Proof.Machine
end

