-- ==== Sys2Proof/Machine/Ports.lean ====
section
/-! DEFINITION. Responses and credits of the ports (R463, R469, R480, R537, R545, R550, R553, R581): memory-port responses and watchdogs, remote messages that are dropped, and the credits of the outbound directions. -/

namespace Sys2Proof.Machine

open Sys2Proof

/-! ## Memory ports (R463, R469, R537, R564) -/

/-- Whether a response lets its transaction succeed: EXOKAY is treated as SLVERR (R535), and a read whose parity fails counts as an error while AXI_PARITY is 1 (R469). -/
def Eng.respGood (e : Eng) (k : TxnKind) (r : MemResp) : Bool :=
  match r with
  | .okay => true
  | .badParity => match k with
    | .load .. => !e.bit Reg.intCtrl 1
    | _ => true
  | .exokay | .slverr | .decerr => false

/-- Complete a transaction. (DESIGN CHOICE, assumption log 26) -/
def Eng.txnDone (b : BeatUnit) (t : Txn) (ok : Bool) (e : Eng) : Eng :=
  match t.kind with
  | .load .. | .store .. => e.ctxMemDone b t ok
  | .record .. => e.recDone b t ok
  | .data .. => e.dataDone b t ok

/-- MEM_RESPONSE: a response completes its transaction or has the error outcome of R581; one that answers no outstanding
transaction, as after its port has failed, is discarded (R537). -/
def execMemResponse (id : Nat) (resp : MemResp) (s : State) : Host.Outcome State Fault Refusal :=
  .next <| s.onEng fun b e =>
    match e.txns.find? fun t => decide (t.id = id) with
    | none => e
    | some t => ({ e with txns := e.txns.filter fun u => decide (u.id ≠ id) } : Eng).txnDone b t (e.respGood t.kind resp)

/-- The transactions of a failed port are issued again on the other ports, under ids of their own (R480, R537). (DESIGN
CHOICE, assumption log 102) -/
def Eng.reissue (port : Nat) (e : Eng) : Eng :=
  e.txns.foldl (init := { e with txns := [] }) fun e t =>
    if t.port = port then { e with nextId := e.nextId + 1, txns := e.txns ++ [{ t with id := e.nextId, port := e.memPort t.addr }] }
    else { e with txns := e.txns ++ [t] }

/-- A port's watchdog expires: WDT, an engine fault of kind WATCHDOG, and the port fails (R480, R481, R485). (DEDUCED,
assumption log 86) -/
def Eng.portWatchdog (b : BeatUnit) (unit n bit : Nat) (e : Eng) : Eng :=
  let wdt := fun e : Eng => e.engFault b 0x85 none (engDetail unit n n 0 0 0 0)
  let e := e.ev Reg.glbEvent 1
  if e.bit Reg.glbPortFailed bit then wdt e else (wdt (e.markPort b unit n bit 0x84)).recoverAll b

/-- MEM_WATCHDOG: a transaction has waited MEM_WDT (R466, R537), or a port fails on its own control check (R480). (DESIGN CHOICE,
assumption log 119) (DESIGN CHOICE, assumption log 26) -/
def execMemWatchdog (id : MemFail) (s : State) : Host.Outcome State Fault Refusal :=
  .next <| s.onEng fun b e =>
    match id with
    | .check q => (e.failPort b ukMemPort q.val (16 + q.val) 0x84).reissue q.val
    | .read q => if e.bit Reg.glbPortFailed (16 + q.val) then e else (e.portWatchdog b ukMemPort q.val (16 + q.val)).reissue q.val
    | .txn id => match e.txns.find? fun t => decide (t.id = id) with
      | none => e
      | some t => (e.portWatchdog b ukMemPort t.port (16 + t.port)).reissue t.port

/-! ## Remote message ports (R550, R553) -/

/-- RM_WATCHDOG: an outbound port has held a flit without credit for RM_WDT, or fails on its own control check: its messages
go to the others (R480, R553). (DESIGN CHOICE, assumption log 119) -/
def execRmWatchdog (port : RmFail) (s : State) : Host.Outcome State Fault Refusal :=
  .next <| s.onEng fun b e =>
    let q := port.port.val
    if port.check then (e.failPort b ukRmPort q (4 + q) 0x84).rmPump
    else if decide (e.rmHeld = []) || e.rmFailed q then e
    else (e.portWatchdog b ukRmPort q (4 + q)).rmPump

/-- RM_DROP: a message whose flit CRC fails is discarded; one of reserved type or with non-zero reserved bits is rejected
(R188, R553). -/
def execRmDrop (port : Fin 4) (crcBad : Bool) (part : Fin 32) (s : State) : Host.Outcome State Fault Refusal :=
  .next <| s.onPort fun _ e =>
    if e.rmFailed port.val then e else if crcBad then e.bump Reg.glbRmDrop 31 0 else e.reject part.val

/-- RM_CREDIT_RETURN: a flit credit of a class; held messages and commands leave as credits allow (R449, R550). -/
def execRmCreditReturn (port : Fin 4) (cls : Fin 4) (s : State) : Host.Outcome State Fault Refusal :=
  .next <| s.onPort fun b e => ({ e with rmCredit := kmod 0 e.rmCredit (4 * port.val + cls.val) (· + 1) } : Eng).rmFlow b

/-! ## Hidden-state ports (R545) -/

/-- HS_CREDIT_RETURN: a flit credit of an outbound VC; held packets leave as credits allow. -/
def execHsCreditReturn (port : Fin 8) (vc : Fin 2) (s : State) : Host.Outcome State Fault Refusal :=
  .next <| s.onPort fun _ e => ({ e with hsCredit := kmod 0 e.hsCredit (2 * port.val + vc.val) (· + 1) } : Eng).hsPump

end Sys2Proof.Machine
end

