-- ==== Sys2Proof/Machine/Flags.lean ====
section
/-! DEFINITION. The results of the scalar integer group (R76, R111) and the relations that compares put into a predicate (R112): the block's only flags are its predicates. -/

namespace Sys2Proof.Machine

open Sys2Proof

/-- Shift amounts are taken modulo 64 (R76). -/
def shamt (b : Dword) : Nat := b.toNat % 64

def aluAdd (a b : Dword) : Dword := a + b
def aluSub (a b : Dword) : Dword := a - b
def aluAnd (a b : Dword) : Dword := a &&& b
def aluOr (a b : Dword) : Dword := a ||| b
def aluXor (a b : Dword) : Dword := a ^^^ b
def aluSll (a b : Dword) : Dword := a <<< shamt b
def aluSrl (a b : Dword) : Dword := a >>> shamt b
def aluSra (a b : Dword) : Dword := a.sshiftRight (shamt b)
/-- The low 64 bits of the product. -/
def aluMul (a b : Dword) : Dword := a * b
/-- The high 64 bits of the unsigned product. -/
def aluMulhu (a b : Dword) : Dword := BitVec.ofNat 64 (a.toNat * b.toNat / 2 ^ 64)
/-- Division by zero returns a quotient with every bit set and a remainder equal to the dividend (R76). -/
def aluDivu (a b : Dword) : Dword := if b = 0 then BitVec.allOnes 64 else BitVec.ofNat 64 (a.toNat / b.toNat)
def aluRemu (a b : Dword) : Dword := if b = 0 then a else BitVec.ofNat 64 (a.toNat % b.toNat)
/-- Signed division rounds toward zero (assumption log 6); −2^63 by −1 gives −2^63 with remainder 0 (R76). -/
def aluDiv (a b : Dword) : Dword := if b = 0 then BitVec.allOnes 64 else BitVec.ofInt 64 (a.toInt.tdiv b.toInt)
def aluRem (a b : Dword) : Dword := if b = 0 then a else BitVec.ofInt 64 (a.toInt.tmod b.toInt)
def aluMin (a b : Dword) : Dword := if b.slt a then b else a
def aluMax (a b : Dword) : Dword := if a.slt b then b else a
def aluMinu (a b : Dword) : Dword := if b.ult a then b else a
def aluMaxu (a b : Dword) : Dword := if a.ult b then b else a

/-- The relations of R112. -/
def cmpEq (a b : Dword) : Bool := decide (a = b)
def cmpNe (a b : Dword) : Bool := !decide (a = b)
def cmpLt (a b : Dword) : Bool := a.slt b
def cmpGe (a b : Dword) : Bool := !a.slt b
def cmpLtu (a b : Dword) : Bool := a.ult b
def cmpGeu (a b : Dword) : Bool := !a.ult b

end Sys2Proof.Machine
end

