-- ==== Sys2Proof/Machine/Scalar.lean ====
section
/-! DEFINITION. The scalar and branch instructions (R75 to R79, R111 to R114): one definition per instruction over the shared forms. -/

namespace Sys2Proof.Machine

open Sys2Proof

/-- The register form: s[dst] := f s[srca] s[srcb]. -/
def aluR (b : BeatUnit) (i : Ins) (f : Dword → Dword → Dword) (e : Eng) : Eng := e.finS b i (f (e.sa i) (e.sb i))
/-- The immediate form: s[dst] := f s[srca] imm. -/
def aluI (b : BeatUnit) (i : Ins) (f : Dword → Dword → Dword) (e : Eng) : Eng := e.finS b i (f (e.sa i) i.imm)
/-- A compare: p[dst] := relation. -/
def setPred (b : BeatUnit) (i : Ins) (v : Bool) (e : Eng) : Eng := e.finish b i.p i.c fun x => x.setP i.dst.toNat v
/-- A predicate operand. -/
def Eng.pa (e : Eng) (i : Ins) : Bool := (e.me i).pred i.srca.toNat
def Eng.pb (e : Eng) (i : Ins) : Bool := (e.me i).pred i.srcb.toNat
/-- The binary32 operand in bits [31:0] (R113). -/
def f32a (e : Eng) (i : Ins) : Nat := (e.sa i).toNat % 2 ^ 32
def f32b (e : Eng) (i : Ins) : Nat := (e.sb i).toNat % 2 ^ 32
/-- A float result: bits [63:32] are written 0 (R113). -/
def finF (b : BeatUnit) (i : Ins) (v : Nat) (e : Eng) : Eng := e.finS b i (BitVec.ofNat 64 v)

/-- ADD: s[dst] := ADD of s[srca] and s[srcb] (R111, R76). -/
def execAdd (i : Ins) (s : State) : Host.Outcome State Fault Refusal :=
  runIns (.add i) ⟨0x01, 0x0, .s, .s, .s, 0⟩ i none (fun b e => aluR b i aluAdd e) s

/-- SUB: s[dst] := SUB of s[srca] and s[srcb] (R111, R76). -/
def execSub (i : Ins) (s : State) : Host.Outcome State Fault Refusal :=
  runIns (.sub i) ⟨0x01, 0x1, .s, .s, .s, 0⟩ i none (fun b e => aluR b i aluSub e) s

/-- AND: s[dst] := AND of s[srca] and s[srcb] (R111, R76). -/
def execAnd (i : Ins) (s : State) : Host.Outcome State Fault Refusal :=
  runIns (.iAnd i) ⟨0x01, 0x2, .s, .s, .s, 0⟩ i none (fun b e => aluR b i aluAnd e) s

/-- OR: s[dst] := OR of s[srca] and s[srcb] (R111, R76). -/
def execOr (i : Ins) (s : State) : Host.Outcome State Fault Refusal :=
  runIns (.iOr i) ⟨0x01, 0x3, .s, .s, .s, 0⟩ i none (fun b e => aluR b i aluOr e) s

/-- XOR: s[dst] := XOR of s[srca] and s[srcb] (R111, R76). -/
def execXor (i : Ins) (s : State) : Host.Outcome State Fault Refusal :=
  runIns (.xor i) ⟨0x01, 0x4, .s, .s, .s, 0⟩ i none (fun b e => aluR b i aluXor e) s

/-- SLL: s[dst] := SLL of s[srca] and s[srcb] (R111, R76). -/
def execSll (i : Ins) (s : State) : Host.Outcome State Fault Refusal :=
  runIns (.sll i) ⟨0x01, 0x5, .s, .s, .s, 0⟩ i none (fun b e => aluR b i aluSll e) s

/-- SRL: s[dst] := SRL of s[srca] and s[srcb] (R111, R76). -/
def execSrl (i : Ins) (s : State) : Host.Outcome State Fault Refusal :=
  runIns (.srl i) ⟨0x01, 0x6, .s, .s, .s, 0⟩ i none (fun b e => aluR b i aluSrl e) s

/-- SRA: s[dst] := SRA of s[srca] and s[srcb] (R111, R76). -/
def execSra (i : Ins) (s : State) : Host.Outcome State Fault Refusal :=
  runIns (.sra i) ⟨0x01, 0x7, .s, .s, .s, 0⟩ i none (fun b e => aluR b i aluSra e) s

/-- MUL: s[dst] := MUL of s[srca] and s[srcb] (R111, R76). -/
def execMul (i : Ins) (s : State) : Host.Outcome State Fault Refusal :=
  runIns (.mul i) ⟨0x01, 0x8, .s, .s, .s, 0⟩ i none (fun b e => aluR b i aluMul e) s

/-- MULHU: s[dst] := MULHU of s[srca] and s[srcb] (R111, R76). -/
def execMulhu (i : Ins) (s : State) : Host.Outcome State Fault Refusal :=
  runIns (.mulhu i) ⟨0x01, 0x9, .s, .s, .s, 0⟩ i none (fun b e => aluR b i aluMulhu e) s

/-- DIVU: s[dst] := DIVU of s[srca] and s[srcb] (R111, R76). -/
def execDivu (i : Ins) (s : State) : Host.Outcome State Fault Refusal :=
  runIns (.divu i) ⟨0x01, 0xa, .s, .s, .s, 0⟩ i none (fun b e => aluR b i aluDivu e) s

/-- REMU: s[dst] := REMU of s[srca] and s[srcb] (R111, R76). -/
def execRemu (i : Ins) (s : State) : Host.Outcome State Fault Refusal :=
  runIns (.remu i) ⟨0x01, 0xb, .s, .s, .s, 0⟩ i none (fun b e => aluR b i aluRemu e) s

/-- DIV: s[dst] := DIV of s[srca] and s[srcb] (R111, R76). -/
def execDiv (i : Ins) (s : State) : Host.Outcome State Fault Refusal :=
  runIns (.div i) ⟨0x01, 0xc, .s, .s, .s, 0⟩ i none (fun b e => aluR b i aluDiv e) s

/-- REM: s[dst] := REM of s[srca] and s[srcb] (R111, R76). -/
def execRem (i : Ins) (s : State) : Host.Outcome State Fault Refusal :=
  runIns (.rem i) ⟨0x01, 0xd, .s, .s, .s, 0⟩ i none (fun b e => aluR b i aluRem e) s

/-- MIN: s[dst] := MIN of s[srca] and s[srcb] (R111, R76). -/
def execMin (i : Ins) (s : State) : Host.Outcome State Fault Refusal :=
  runIns (.min i) ⟨0x01, 0xe, .s, .s, .s, 0⟩ i none (fun b e => aluR b i aluMin e) s

/-- MAX: s[dst] := MAX of s[srca] and s[srcb] (R111, R76). -/
def execMax (i : Ins) (s : State) : Host.Outcome State Fault Refusal :=
  runIns (.max i) ⟨0x01, 0xf, .s, .s, .s, 0⟩ i none (fun b e => aluR b i aluMax e) s

/-- MINU: s[dst] := MINU of s[srca] and s[srcb] (R111, R76). -/
def execMinu (i : Ins) (s : State) : Host.Outcome State Fault Refusal :=
  runIns (.minu i) ⟨0x01, 0x10, .s, .s, .s, 0⟩ i none (fun b e => aluR b i aluMinu e) s

/-- MAXU: s[dst] := MAXU of s[srca] and s[srcb] (R111, R76). -/
def execMaxu (i : Ins) (s : State) : Host.Outcome State Fault Refusal :=
  runIns (.maxu i) ⟨0x01, 0x11, .s, .s, .s, 0⟩ i none (fun b e => aluR b i aluMaxu e) s

/-- ADDI: s[dst] := ADD of s[srca] and the sign-extended immediate (R111, R76). -/
def execAddi (i : Ins) (s : State) : Host.Outcome State Fault Refusal :=
  runIns (.addi i) ⟨0x02, 0x0, .s, .s, .unused, 0xFFFFFFFF⟩ i none (fun b e => aluI b i aluAdd e) s

/-- SUBI: s[dst] := SUB of s[srca] and the sign-extended immediate (R111, R76). -/
def execSubi (i : Ins) (s : State) : Host.Outcome State Fault Refusal :=
  runIns (.subi i) ⟨0x02, 0x1, .s, .s, .unused, 0xFFFFFFFF⟩ i none (fun b e => aluI b i aluSub e) s

/-- ANDI: s[dst] := AND of s[srca] and the sign-extended immediate (R111, R76). -/
def execAndi (i : Ins) (s : State) : Host.Outcome State Fault Refusal :=
  runIns (.andi i) ⟨0x02, 0x2, .s, .s, .unused, 0xFFFFFFFF⟩ i none (fun b e => aluI b i aluAnd e) s

/-- ORI: s[dst] := OR of s[srca] and the sign-extended immediate (R111, R76). -/
def execOri (i : Ins) (s : State) : Host.Outcome State Fault Refusal :=
  runIns (.ori i) ⟨0x02, 0x3, .s, .s, .unused, 0xFFFFFFFF⟩ i none (fun b e => aluI b i aluOr e) s

/-- XORI: s[dst] := XOR of s[srca] and the sign-extended immediate (R111, R76). -/
def execXori (i : Ins) (s : State) : Host.Outcome State Fault Refusal :=
  runIns (.xori i) ⟨0x02, 0x4, .s, .s, .unused, 0xFFFFFFFF⟩ i none (fun b e => aluI b i aluXor e) s

/-- SLLI: s[dst] := SLL of s[srca] and the sign-extended immediate (R111, R76). -/
def execSlli (i : Ins) (s : State) : Host.Outcome State Fault Refusal :=
  runIns (.slli i) ⟨0x02, 0x5, .s, .s, .unused, 0xFFFFFFFF⟩ i none (fun b e => aluI b i aluSll e) s

/-- SRLI: s[dst] := SRL of s[srca] and the sign-extended immediate (R111, R76). -/
def execSrli (i : Ins) (s : State) : Host.Outcome State Fault Refusal :=
  runIns (.srli i) ⟨0x02, 0x6, .s, .s, .unused, 0xFFFFFFFF⟩ i none (fun b e => aluI b i aluSrl e) s

/-- SRAI: s[dst] := SRA of s[srca] and the sign-extended immediate (R111, R76). -/
def execSrai (i : Ins) (s : State) : Host.Outcome State Fault Refusal :=
  runIns (.srai i) ⟨0x02, 0x7, .s, .s, .unused, 0xFFFFFFFF⟩ i none (fun b e => aluI b i aluSra e) s

/-- MULI: s[dst] := MUL of s[srca] and the sign-extended immediate (R111, R76). -/
def execMuli (i : Ins) (s : State) : Host.Outcome State Fault Refusal :=
  runIns (.muli i) ⟨0x02, 0x8, .s, .s, .unused, 0xFFFFFFFF⟩ i none (fun b e => aluI b i aluMul e) s

/-- DIVUI: s[dst] := DIVU of s[srca] and the sign-extended immediate (R111, R76). -/
def execDivui (i : Ins) (s : State) : Host.Outcome State Fault Refusal :=
  runIns (.divui i) ⟨0x02, 0xa, .s, .s, .unused, 0xFFFFFFFF⟩ i none (fun b e => aluI b i aluDivu e) s

/-- REMUI: s[dst] := REMU of s[srca] and the sign-extended immediate (R111, R76). -/
def execRemui (i : Ins) (s : State) : Host.Outcome State Fault Refusal :=
  runIns (.remui i) ⟨0x02, 0xb, .s, .s, .unused, 0xFFFFFFFF⟩ i none (fun b e => aluI b i aluRemu e) s

/-- DIVI: s[dst] := DIV of s[srca] and the sign-extended immediate (R111, R76). -/
def execDivi (i : Ins) (s : State) : Host.Outcome State Fault Refusal :=
  runIns (.divi i) ⟨0x02, 0xc, .s, .s, .unused, 0xFFFFFFFF⟩ i none (fun b e => aluI b i aluDiv e) s

/-- REMI: s[dst] := REM of s[srca] and the sign-extended immediate (R111, R76). -/
def execRemi (i : Ins) (s : State) : Host.Outcome State Fault Refusal :=
  runIns (.remi i) ⟨0x02, 0xd, .s, .s, .unused, 0xFFFFFFFF⟩ i none (fun b e => aluI b i aluRem e) s

/-- MINI: s[dst] := MIN of s[srca] and the sign-extended immediate (R111, R76). -/
def execMini (i : Ins) (s : State) : Host.Outcome State Fault Refusal :=
  runIns (.mini i) ⟨0x02, 0xe, .s, .s, .unused, 0xFFFFFFFF⟩ i none (fun b e => aluI b i aluMin e) s

/-- MAXI: s[dst] := MAX of s[srca] and the sign-extended immediate (R111, R76). -/
def execMaxi (i : Ins) (s : State) : Host.Outcome State Fault Refusal :=
  runIns (.maxi i) ⟨0x02, 0xf, .s, .s, .unused, 0xFFFFFFFF⟩ i none (fun b e => aluI b i aluMax e) s

/-- MINUI: s[dst] := MINU of s[srca] and the sign-extended immediate (R111, R76). -/
def execMinui (i : Ins) (s : State) : Host.Outcome State Fault Refusal :=
  runIns (.minui i) ⟨0x02, 0x10, .s, .s, .unused, 0xFFFFFFFF⟩ i none (fun b e => aluI b i aluMinu e) s

/-- MAXUI: s[dst] := MAXU of s[srca] and the sign-extended immediate (R111, R76). -/
def execMaxui (i : Ins) (s : State) : Host.Outcome State Fault Refusal :=
  runIns (.maxui i) ⟨0x02, 0x11, .s, .s, .unused, 0xFFFFFFFF⟩ i none (fun b e => aluI b i aluMaxu e) s

/-- CEQ: p[dst] := the relation of s[srca] and s[srcb] (R112). -/
def execCeq (i : Ins) (s : State) : Host.Outcome State Fault Refusal :=
  runIns (.ceq i) ⟨0x03, 0x0, .p, .s, .s, 0⟩ i none (fun b e => setPred b i (cmpEq (e.sa i) (e.sb i)) e) s

/-- CNE: p[dst] := the relation of s[srca] and s[srcb] (R112). -/
def execCne (i : Ins) (s : State) : Host.Outcome State Fault Refusal :=
  runIns (.cne i) ⟨0x03, 0x1, .p, .s, .s, 0⟩ i none (fun b e => setPred b i (cmpNe (e.sa i) (e.sb i)) e) s

/-- CLT: p[dst] := the relation of s[srca] and s[srcb] (R112). -/
def execClt (i : Ins) (s : State) : Host.Outcome State Fault Refusal :=
  runIns (.clt i) ⟨0x03, 0x2, .p, .s, .s, 0⟩ i none (fun b e => setPred b i (cmpLt (e.sa i) (e.sb i)) e) s

/-- CGE: p[dst] := the relation of s[srca] and s[srcb] (R112). -/
def execCge (i : Ins) (s : State) : Host.Outcome State Fault Refusal :=
  runIns (.cge i) ⟨0x03, 0x3, .p, .s, .s, 0⟩ i none (fun b e => setPred b i (cmpGe (e.sa i) (e.sb i)) e) s

/-- CLTU: p[dst] := the relation of s[srca] and s[srcb] (R112). -/
def execCltu (i : Ins) (s : State) : Host.Outcome State Fault Refusal :=
  runIns (.cltu i) ⟨0x03, 0x4, .p, .s, .s, 0⟩ i none (fun b e => setPred b i (cmpLtu (e.sa i) (e.sb i)) e) s

/-- CGEU: p[dst] := the relation of s[srca] and s[srcb] (R112). -/
def execCgeu (i : Ins) (s : State) : Host.Outcome State Fault Refusal :=
  runIns (.cgeu i) ⟨0x03, 0x5, .p, .s, .s, 0⟩ i none (fun b e => setPred b i (cmpGeu (e.sa i) (e.sb i)) e) s

/-- CEQI: p[dst] := the relation of s[srca] and the immediate (R112). -/
def execCeqi (i : Ins) (s : State) : Host.Outcome State Fault Refusal :=
  runIns (.ceqi i) ⟨0x04, 0x0, .p, .s, .unused, 0xFFFFFFFF⟩ i none (fun b e => setPred b i (cmpEq (e.sa i) i.imm) e) s

/-- CNEI: p[dst] := the relation of s[srca] and the immediate (R112). -/
def execCnei (i : Ins) (s : State) : Host.Outcome State Fault Refusal :=
  runIns (.cnei i) ⟨0x04, 0x1, .p, .s, .unused, 0xFFFFFFFF⟩ i none (fun b e => setPred b i (cmpNe (e.sa i) i.imm) e) s

/-- CLTI: p[dst] := the relation of s[srca] and the immediate (R112). -/
def execClti (i : Ins) (s : State) : Host.Outcome State Fault Refusal :=
  runIns (.clti i) ⟨0x04, 0x2, .p, .s, .unused, 0xFFFFFFFF⟩ i none (fun b e => setPred b i (cmpLt (e.sa i) i.imm) e) s

/-- CGEI: p[dst] := the relation of s[srca] and the immediate (R112). -/
def execCgei (i : Ins) (s : State) : Host.Outcome State Fault Refusal :=
  runIns (.cgei i) ⟨0x04, 0x3, .p, .s, .unused, 0xFFFFFFFF⟩ i none (fun b e => setPred b i (cmpGe (e.sa i) i.imm) e) s

/-- CLTUI: p[dst] := the relation of s[srca] and the immediate (R112). -/
def execCltui (i : Ins) (s : State) : Host.Outcome State Fault Refusal :=
  runIns (.cltui i) ⟨0x04, 0x4, .p, .s, .unused, 0xFFFFFFFF⟩ i none (fun b e => setPred b i (cmpLtu (e.sa i) i.imm) e) s

/-- CGEUI: p[dst] := the relation of s[srca] and the immediate (R112). -/
def execCgeui (i : Ins) (s : State) : Host.Outcome State Fault Refusal :=
  runIns (.cgeui i) ⟨0x04, 0x5, .p, .s, .unused, 0xFFFFFFFF⟩ i none (fun b e => setPred b i (cmpGeu (e.sa i) i.imm) e) s

/-- ctx as MFSR reads it (R78). -/
def Eng.ctxWord (e : Eng) (i : Ins) : Dword := BitVec.ofNat 64 (e.agreed * 2 ^ 16 + i.p * 16 + i.c)

/-- A special-register code that MFSR or MTSR rejects (R77, R114). -/
def srBad (top : Nat) (i : Ins) : Option Nat := if i.mod ≤ top then none else some 5

/-- MFSR: s[dst] := the special register that MOD names (R77, R78, R114). -/
def execMfsr (i : Ins) (s : State) : Host.Outcome State Fault Refusal :=
  runIns (.mfsr i) ⟨0x05, 0x00, .s, .unused, .unused, 0xFF000000⟩ i (srBad 3 i) (fun b e =>
    e.finS b i (match i.mod with
      | 0 => (e.me i).elen.setWidth 64
      | 1 => e.ctxWord i
      | 2 => BitVec.ofNat 64 b.stamp
      | _ => (e.me i).fault)) s

/-- MTSR: elen under R79, fault as written; ctx and beatnow are read-only (R77, R79, R100). -/
def execMtsr (i : Ins) (s : State) : Host.Outcome State Fault Refusal :=
  runIns (.mtsr i) ⟨0x05, 0x01, .unused, .s, .unused, 0xFF000000⟩ i (if i.mod = 0 ∨ i.mod = 3 then none else some 5)
    (fun b e =>
      let v := e.sa i
      if i.mod = 3 then e.finish b i.p i.c fun x => { x with fault := v }
      else if 1 ≤ v.toNat ∧ v.toNat ≤ 1048576 then e.finish b i.p i.c fun x => { x with elen := v.setWidth 32 }
      else e.raise b i fkElen 2 v.toNat) s

/-- PAND (R112). -/
def execPand (i : Ins) (s : State) : Host.Outcome State Fault Refusal :=
  runIns (.pand i) ⟨0x06, 0, .p, .p, .p, 0⟩ i none (fun b e => setPred b i (e.pa i && e.pb i) e) s

/-- POR (R112). -/
def execPor (i : Ins) (s : State) : Host.Outcome State Fault Refusal :=
  runIns (.por i) ⟨0x06, 1, .p, .p, .p, 0⟩ i none (fun b e => setPred b i (e.pa i || e.pb i) e) s

/-- PXOR (R112). -/
def execPxor (i : Ins) (s : State) : Host.Outcome State Fault Refusal :=
  runIns (.pxor i) ⟨0x06, 2, .p, .p, .p, 0⟩ i none (fun b e => setPred b i (e.pa i != e.pb i) e) s

/-- PANDN (R112). -/
def execPandn (i : Ins) (s : State) : Host.Outcome State Fault Refusal :=
  runIns (.pandn i) ⟨0x06, 3, .p, .p, .p, 0⟩ i none (fun b e => setPred b i (e.pa i && !e.pb i) e) s

/-- LIH: the immediate into the upper 32 bits, without sign extension (R112). -/
def execLih (i : Ins) (s : State) : Host.Outcome State Fault Refusal :=
  runIns (.lih i) ⟨0x07, 0x00, .s, .s, .unused, 0xFFFFFFFF⟩ i none (fun b e =>
    e.finS b i ((e.sa i &&& 0xFFFFFFFF#64) ||| (i.ext.setWidth 64 <<< 32))) s

/-- FADD on binary32 (R86, R107, R113). -/
def execFadd (i : Ins) (s : State) : Host.Outcome State Fault Refusal :=
  runIns (.fadd i) ⟨0x08, 0, .s, .s, .s, 0⟩ i none (fun b e => finF b i (fadd (f32a e i) (f32b e i)) e) s

/-- FSUB on binary32 (R86, R107, R113). -/
def execFsub (i : Ins) (s : State) : Host.Outcome State Fault Refusal :=
  runIns (.fsub i) ⟨0x08, 1, .s, .s, .s, 0⟩ i none (fun b e => finF b i (fsub (f32a e i) (f32b e i)) e) s

/-- FMUL on binary32 (R86, R107, R113). -/
def execFmul (i : Ins) (s : State) : Host.Outcome State Fault Refusal :=
  runIns (.fmul i) ⟨0x08, 2, .s, .s, .s, 0⟩ i none (fun b e => finF b i (fmul (f32a e i) (f32b e i)) e) s

/-- FDIV on binary32 (R86, R107, R113). -/
def execFdiv (i : Ins) (s : State) : Host.Outcome State Fault Refusal :=
  runIns (.fdiv i) ⟨0x08, 3, .s, .s, .s, 0⟩ i none (fun b e => finF b i (fdiv (f32a e i) (f32b e i)) e) s

/-- FMIN on binary32 (R86, R107, R113). -/
def execFmin (i : Ins) (s : State) : Host.Outcome State Fault Refusal :=
  runIns (.fmin i) ⟨0x08, 4, .s, .s, .s, 0⟩ i none (fun b e => finF b i (fmin (f32a e i) (f32b e i)) e) s

/-- FMAX on binary32 (R86, R107, R113). -/
def execFmax (i : Ins) (s : State) : Host.Outcome State Fault Refusal :=
  runIns (.fmax i) ⟨0x08, 5, .s, .s, .s, 0⟩ i none (fun b e => finF b i (fmax (f32a e i) (f32b e i)) e) s

/-- FCVTI: a signed 64-bit integer to binary32 (R113). -/
def execFcvti (i : Ins) (s : State) : Host.Outcome State Fault Refusal :=
  runIns (.fcvti i) ⟨0x08, 6, .s, .s, .unused, 0⟩ i none (fun b e => finF b i (f32OfInt (e.sa i).toInt) e) s

/-- FTRUNC: binary32 to a signed 64-bit integer (R113). -/
def execFtrunc (i : Ins) (s : State) : Host.Outcome State Fault Refusal :=
  runIns (.ftrunc i) ⟨0x08, 7, .s, .s, .unused, 0⟩ i none (fun b e =>
    e.finS b i (BitVec.ofInt 64 (f32ToInt64 (f32a e i)))) s

/-- The target of a J-form branch: 8 × the signed offset from the branch (R89, R112). -/
def jTarget (e : Eng) (i : Ins) (off : BitVec 40) : Dword := (e.me i).pc + 8 * off.signExtend 64

/-- BR: the program counter moves by the offset; a target that is not aligned faults when it is fetched (R112). EXT
is the 40-bit offset, so nothing of the 32-bit field is reserved. The J form has no MINOR, and R97's DETAIL holds 0 for
it. (DESIGN CHOICE, assumption log 112) -/
def execBr (i : Ins) (off : BitVec 40) (s : State) : Host.Outcome State Fault Refusal :=
  runIns (.br i off) ⟨0x10, 0, .unused, .unused, .unused, 0xFFFFFFFF⟩ i none (fun b e =>
    let t := jTarget e i off
    e.finish b i.p i.c fun x => { x with pc := t - 8 }) s

/-- CALL: as BR, with the link in s[dst] (R112). (DESIGN CHOICE, assumption log 112) -/
def execCall (i : Ins) (off : BitVec 40) (s : State) : Host.Outcome State Fault Refusal :=
  runIns (.call i off) ⟨0x11, 0, .s, .unused, .unused, 0xFFFFFFFF⟩ i none (fun b e =>
    let t := jTarget e i off
    let link := (e.me i).pc + 8
    e.finish b i.p i.c fun x => { x.setS i.dst.toNat link with pc := t - 8 }) s

/-- JR: to the target in s[srca], which is read before the link is written (R112). -/
def execJr (i : Ins) (s : State) : Host.Outcome State Fault Refusal :=
  runIns (.jr i) ⟨0x12, 0x00, .s, .s, .unused, 0⟩ i none (fun b e =>
    let t := e.sa i
    let link := (e.me i).pc + 8
    e.finish b i.p i.c fun x => { x.setS i.dst.toNat link with pc := t - 8 }) s

/-- TRAP: a service call. fault holds the code, the context stops STOPPED at the next instruction, a TRAP record is
written and CTX_FAULT set (R99, R145). (DEDUCED, assumption log 76) -/
def execTrap (i : Ins) (s : State) : Host.Outcome State Fault Refusal :=
  runIns (.trap i) ⟨0x3E, 0x00, .unused, .unused, .unused, 0xFFFFFFFF⟩ i none (fun b e =>
    let f := faultWord fkTrap 0 i.ext.toNat
    let pc := (e.me i).pc.toNat
    let e := e.onCtx i.p i.c fun x => { x with fault := f, st := .stopped, pc := x.pc + 8 }
    ((e.tenantRec b i.p fkTrap (i.c + 128) pc f.toNat []).partEv i.p 4).release i.p i.c) s

/-- HALT: the context stops STOPPED with no fault (R99, R148). -/
def execHalt (i : Ins) (s : State) : Host.Outcome State Fault Refusal :=
  runIns (.halt i) ⟨0x3E, 0x01, .unused, .unused, .unused, 0⟩ i none (fun _ e =>
    (e.onCtx i.p i.c fun x => { x with st := .stopped, pc := x.pc + 8 }).release i.p i.c) s

end Sys2Proof.Machine
end

