-- ==== Sys2Proof/Machine/Strings.lean ====
section
/-! DEFINITION. Debug and the paths into the window (R527, R528, R531, R534, R556, R557): register writes, Strings over its spaces, the I2C port and the JTAG TAP. -/

namespace Sys2Proof

/-- The path that a user of Strings brings to the control window (R572). -/
def StringsSrc.path : StringsSrc → Path
  | .mgmt => .mgmt
  | .jtag => .jtag

end Sys2Proof

namespace Sys2Proof.Machine

open Sys2Proof

/-! ## The spaces of Strings (R527) -/

/-- The words of an address and of data of Strings. -/
abbrev lowWord (x : Dword) : Nat := x.toNat % 2 ^ 32
abbrev highWord (x : Dword) : Nat := x.toNat / 2 ^ 32

/-- The context that a mirror address names: 9 bits, the partition above the context. (DEDUCED, assumption log 78) -/
def mirrorPart (addr : Dword) : Nat := highWord addr / 16 % 32
def mirrorCtx (addr : Dword) : Nat := highWord addr % 16

/-- The address names a word of the request table, the slots' words in order (R527, R567). (DEDUCED, assumption log 78) -/
def strRqt (space : BitVec 2) (addr : Dword) : Bool :=
  decide (space = 1) && decide (highWord addr % 65536 = Config.structId structRqt % 65536)

/-- The ERR of an address of a space (R531): 1 for a bad address, 2 for the reserved space. -/
def strAddrErr (space : BitVec 2) (addr : Dword) : Nat :=
  let lo := lowWord addr
  match space.toNat with
  | 0 => if lo % 4 = 0 ∧ lo < 2 ^ 22 then 0 else 1
  | 1 => if lo < (if strRqt space addr then 24 * 131072 else Config.structWords (highWord addr % 65536)) then 0 else 1
  | 2 => if lo % 8 = 0 ∧ lo + 8 ≤ saveSize then 0 else 1
  | _ => 2

/-- The ERR of a Strings read (R531): 4 for a word that the code cannot correct. (DEDUCED, assumption log 78) -/
def Eng.strReadErr (e : Eng) (space : BitVec 2) (addr : Dword) : Nat :=
  if strAddrErr space addr ≠ 0 then strAddrErr space addr
  else if strRqt space addr && e.rqtBad.contains (lowWord addr) then 4 else 0

/-- What a space holds at a good address: of the SRAMs, the words of the request table; the contents of the others are not
stated, free values. (DEDUCED, assumption log 78) -/
def State.strValue (s : State) (src : StringsSrc) (space : BitVec 2) (addr : Dword) : Dword :=
  match space.toNat with
  | 0 => (s.readWord src.path (lowWord addr)).zeroExtend 64
  | 1 => if strRqt space addr then kget 0 s.eng.rqt (lowWord addr) else Config.freeWord s.eng.free
  | 2 => BitVec.ofNat 64 (fieldAt (s.eng.saveArea s.beat (mirrorPart addr) (mirrorCtx addr)) (lowWord addr) 8)
  | _ => 0

/-- SPACE, ADDR and ERR of an operation as the WX_DBG registers show them (R531). -/
def Eng.strShow (space : BitVec 2) (addr : Dword) (err : Nat) (e : Eng) : Eng :=
  (((e.setF Reg.dbgCmd 17 16 space.toNat).setF Reg.dbgCmd 30 28 err).wr Reg.dbgAddrLo (w32 (lowWord addr))).wr
    Reg.dbgAddrHi (w32 (highWord addr))

/-- A Strings read: the data goes to WX_DBG_DATA, 32 bits of it for the control window. (DEDUCED, assumption log 78) -/
def State.strRead (s : State) (src : StringsSrc) (space : BitVec 2) (addr : Dword) : State :=
  let err := s.eng.strReadErr space addr
  let v := s.strValue src space addr
  let s := if err = 0 ∧ space = 0 then s.readEffect src.path (lowWord addr) else s.onEng fun _ e => { e with free := e.free + 1 }
  s.onEng fun _ e =>
    let e := e.strShow space addr err
    if err ≠ 0 then e
    else
      let e := e.wr Reg.dbgDataLo (v.truncate 32)
      if space = 0 then e else e.wr Reg.dbgDataHi (w32 (highWord v))

/-- Write 8 bytes of a stopped context's mirror (R69, R527): the fields that the bytes hold, and of an entry of the virtual table
the count and flag of its private cell. (DEDUCED, assumption log 78) -/
def Eng.mirrorWrite (b : BeatUnit) (p c off : Nat) (d : Dword) (e : Eng) : Eng :=
  let l := e.saveArea b p c
  let y := ctxOfArea (l.take off ++ leBytes 8 d.toNat ++ l.drop (off + 8))
  let e := if 0x2400 ≤ off ∧ off < 0xA400 then e.restoreCell b p d.toNat else e
  e.onCtx p c fun x => { x with s := y.s, p := y.p, v := y.v, elen := y.elen, fault := y.fault, pc := y.pc, semtab := y.semtab, scratch := y.scratch, remain := y.remain }

/-- The ERR of a Strings write: a context's mirror is written only while the context is STOPPED or FAULTED (R527). (DEDUCED,
assumption log 78) -/
def Eng.strWriteErr (e : Eng) (space : BitVec 2) (addr : Dword) : Nat :=
  let st := (e.ctx (mirrorPart addr) (mirrorCtx addr)).st
  if strAddrErr space addr ≠ 0 then strAddrErr space addr
  else if space = 2 ∧ st ≠ .stopped ∧ st ≠ .faulted then 3 else 0

/-- The partition that a Strings address concerns, if one. -/
def strPart (space : BitVec 2) (addr : Dword) : Option Nat :=
  match space.toNat with
  | 0 => if 0x200000 ≤ lowWord addr then some ((lowWord addr - 0x200000) / 0x10000 % 32) else
      match regRow (lowWord addr) with
      | some r => if r.pstride = 0 then none else some (r.part (lowWord addr))
      | none => none
  | 2 => some (mirrorPart addr)
  | _ => none

/-- Perform a Strings write. BUSY reads 1 meanwhile; the host port's last answer stands. (DEDUCED, assumption log 78) -/
def State.strPut (s : State) (src : StringsSrc) (space : BitVec 2) (addr data : Dword) : State :=
  match space.toNat with
  | 0 =>
    let t := windowWrite src.path true (lowWord addr) (data.truncate 32) (s.onEng fun _ e => e.setF Reg.dbgCmd 31 31 1)
    { t with eng := { t.eng.setF Reg.dbgCmd 31 31 0 with resp := s.eng.resp } }
  | 1 => if strRqt space addr then
      s.onEng fun _ e => { e with rqt := kset 0 e.rqt (lowWord addr) data, rqtBad := e.rqtBad.filter fun w => decide (w ≠ lowWord addr) }
    else s
  | 2 => s.onEng fun b e => e.mirrorWrite b (mirrorPart addr) (mirrorCtx addr) (lowWord addr) data
  | _ => s

/-- A Strings write: it is logged and counted (R528, R531). (DEDUCED, assumption log 78) -/
def State.strWrite (s : State) (src : StringsSrc) (space : BitVec 2) (addr data : Dword) : State :=
  let err := s.eng.strWriteErr space addr
  let s := s.onEng fun _ e =>
    let e := (e.strShow space addr err).wr Reg.dbgDataLo (data.truncate 32)
    if space = 0 then e else e.wr Reg.dbgDataHi (w32 (highWord data))
  if err ≠ 0 then s
  else
    let old := s.strValue src space addr
    let t := s.strPut src space addr data
    let new := if space = 1 then data else t.strValue src space addr
    t.onEng fun b e =>
      ({ e with free := e.free + 1 } : Eng).strLog b src.log (strPart space addr) space.toNat addr.toNat old.toNat new.toNat

/-- STRINGS_READ (R527): nothing happens for a user that may not use Strings. -/
def execStringsRead (src : StringsSrc) (space : BitVec 2) (addr : Dword) (s : State) : Host.Outcome State Fault Refusal :=
  .next <| if s.eng.mayString src then s.strRead src space addr else s

/-- STRINGS_WRITE (R527, R528). -/
def execStringsWrite (src : StringsSrc) (space : BitVec 2) (addr data : Dword) (s : State) : Host.Outcome State Fault Refusal :=
  .next <| if s.eng.mayString src then s.strWrite src space addr data else s

/-- The address and data that the WX_DBG registers hold. -/
def Eng.dbgAddr (e : Eng) : Dword := BitVec.ofNat 64 (e.pair Reg.dbgAddrLo Reg.dbgAddrHi)
def Eng.dbgData (e : Eng) : Dword := BitVec.ofNat 64 (e.pair Reg.dbgDataLo Reg.dbgDataHi)

/-- SPACE is stored, and OP acts on the address and data that the WX_DBG registers hold (R527, R531, R574). -/
def State.dbgCommand (s : State) (src : StringsSrc) (cmd : Nat) : State :=
  let space := BitVec.ofNat 2 (bitsOf cmd 17 16)
  let s := s.onEng fun _ e => e.setF Reg.dbgCmd 17 16 space.toNat
  match bitsOf cmd 25 24 with
  | 1 => s.strRead src space s.eng.dbgAddr
  | 2 => s.strWrite src space s.eng.dbgAddr s.eng.dbgData
  | _ => s

/-! ## Register writes (R534) -/

/-- REGISTER_WRITE: a partial or misaligned write is not performed and answers SLVERR; the ACTIVE core's write of WX_DBG_CMD
drives Strings (R527). -/
def execRegisterWrite (path : Path) (addr : BitVec 22) (data : Word) (strbFull : Bool) (s : State) : Host.Outcome State Fault Refusal :=
  .next <|
    let a := addr.toNat
    if !strbFull || decide (a % 4 ≠ 0) then { s with eng := { s.eng with resp := ⟨false, 0⟩ } }
    else if path = .mgmt ∧ a = Reg.dbgCmd then ctlState path a (fun s => s.dbgCommand .mgmt data.toNat) s
    else windowWrite path false a data s

/-! ## The I2C port (R556) -/

/-- I2C_POINTER_WRITE: 4 bytes set the pointer, least significant byte first; any other length is ignored. (DESIGN CHOICE,
assumption log 90) -/
def execI2cPointerWrite (bytes : List Byte) (s : State) : Host.Outcome State Fault Refusal :=
  .next <| if bytes.length = 4 then s.onEng fun _ e => { e with i2cPtr := ofLe bytes % 2 ^ 22 } else s

/-- I2C_READ: 4 bytes at the pointer by the rules of the host port's reads; the pointer advances by 4. -/
def execI2cRead (s : State) : Host.Outcome State Fault Refusal :=
  .next <|
    let a := s.eng.i2cPtr
    let v := if a % 4 = 0 then s.readWord .i2c a else 0
    let t := if a % 4 = 0 then s.readEffect .i2c a else s
    t.onEng fun _ e => { e with i2cPtr := (a + 4) % 2 ^ 22, out := e.out ++ [.i2c v] }

/-! ## The TAP (R557) -/

/-- The instruction codes. (PRESUMED, assumption log 97) -/
abbrev irBypass : Byte := 0xFF
abbrev irIdcode : Byte := 0x01
abbrev irStrings : Byte := 0x40

/-- JTAG_UPDATE_IR: every code but IDCODE and STRINGS selects BYPASS. -/
def execJtagUpdateIr (code : BitVec 8) (s : State) : Host.Outcome State Fault Refusal :=
  .next <| s.onEng fun _ e => { e with jtagIr := if code = irIdcode ∨ code = irStrings then code else irBypass }

/-- JTAG_TRST: the TAP is reset, and IDCODE selected. -/
def execJtagTrst (s : State) : Host.Outcome State Fault Refusal := .next <| s.onEng fun _ e => { e with jtagIr := irIdcode }

/-- What Capture-DR loads into the selected data register. (PRESUMED, assumption log 97) -/
def Eng.jtagCapture (e : Eng) : BitVec 160 :=
  if e.jtagIr = irStrings then
    if e.bit Reg.dbgCtrl 0 then
      BitVec.ofNat 160 (e.dbgData.toNat * 2 ^ 96 + e.dbgAddr.toNat * 2 ^ 32 + (e.rd Reg.dbgCmd).toNat)
    else 0
  else if e.jtagIr = irIdcode then Config.idcode.zeroExtend 160
  else 0

/-- JTAG_CAPTURE_DR. -/
def execJtagCaptureDr (s : State) : Host.Outcome State Fault Refusal :=
  .next <| s.onEng fun _ e => { e with jtagDr := e.jtagCapture, out := e.out ++ [.jtag e.jtagCapture] }

/-- JTAG_UPDATE_DR: DATA and ADDR are written before CMD; nothing is while JTAG_EN is 0 or BUSY reads 1. -/
def execJtagUpdateDr (bits : BitVec 160) (s : State) : Host.Outcome State Fault Refusal :=
  .next <|
    let s := s.onEng fun _ e => { e with jtagDr := bits }
    if s.eng.jtagIr ≠ irStrings ∨ s.eng.bit Reg.dbgCtrl 0 = false ∨ s.eng.bit Reg.dbgCmd 31 = true then s
    else
      let n := bits.toNat
      let s := s.onEng fun _ e =>
        (((e.wr Reg.dbgDataLo (w32 (bitsOf n 127 96))).wr Reg.dbgDataHi (w32 (bitsOf n 159 128))).wr
          Reg.dbgAddrLo (w32 (bitsOf n 63 32))).wr Reg.dbgAddrHi (w32 (bitsOf n 95 64))
      s.dbgCommand .jtag (n % 2 ^ 32)

end Sys2Proof.Machine
end

