-- ==== Sys2Proof/Machine/Dispatch.lean ====
section
/-! DEFINITION. One arm for each command: its meaning (R-rules of each stand with the meaning). -/

namespace Sys2Proof.Machine

open Sys2Proof

/-- The effect of a command on everything but the queue. -/
def exec (i : Instr) (s : State) : Host.Outcome State Fault Refusal :=
  match i with
  | .coldReset powerOn => Sys2Proof.Machine.execColdReset powerOn s
  | .pllLock => Sys2Proof.Machine.execPllLock s
  | .sramClearDone => Sys2Proof.Machine.execSramClearDone s
  | .ucodeLoadDone loaded => Sys2Proof.Machine.execUcodeLoadDone loaded s
  | .warmResetPin => Sys2Proof.Machine.execWarmResetPin s
  | .warm path => Sys2Proof.Machine.execWarm path s
  | .warmResetComplete => Sys2Proof.Machine.execWarmResetComplete s
  | .timecodeFrame frame => Sys2Proof.Machine.execTimecodeFrame frame s
  | .beatLoss => Sys2Proof.Machine.execBeatLoss s
  | .freeRunEdge => Sys2Proof.Machine.execFreeRunEdge s
  | .masterEdge => Sys2Proof.Machine.execMasterEdge s
  | .modeFollower path => Sys2Proof.Machine.execModeFollower path s
  | .modeMaster path => Sys2Proof.Machine.execModeMaster path s
  | .modeOff path => Sys2Proof.Machine.execModeOff path s
  | .readBeatNowLo path => Sys2Proof.Machine.execReadBeatNowLo path s
  | .latchingRead path addr => Sys2Proof.Machine.execLatchingRead path addr s
  | .registerWrite path addr data strbFull => Sys2Proof.Machine.execRegisterWrite path addr data strbFull s
  | .i2cPointerWrite bytes => Sys2Proof.Machine.execI2cPointerWrite bytes s
  | .i2cRead => Sys2Proof.Machine.execI2cRead s
  | .enableSet path p => Sys2Proof.Machine.execEnableSet path p s
  | .partitionStart p => Sys2Proof.Machine.execPartitionStart p s
  | .enableClear path p => Sys2Proof.Machine.execEnableClear path p s
  | .partitionReset path p => Sys2Proof.Machine.execPartitionReset path p s
  | .resetDeadline p => Sys2Proof.Machine.execResetDeadline p s
  | .resetClearDone p => Sys2Proof.Machine.execResetClearDone p s
  | .sqTail p v => Sys2Proof.Machine.execSqTail p v s
  | .cancel p h => Sys2Proof.Machine.execCancel p h s
  | .cqHead p v => Sys2Proof.Machine.execCqHead p v s
  | .trHead p n v => Sys2Proof.Machine.execTrHead p n v s
  | .hostSignal p v => Sys2Proof.Machine.execHostSignal p v s
  | .ctxStart path p c => Sys2Proof.Machine.execCtxStart path p c s
  | .ctxStop path p c => Sys2Proof.Machine.execCtxStop path p c s
  | .ctxSave path p c => Sys2Proof.Machine.execCtxSave path p c s
  | .ctxRestore path p c => Sys2Proof.Machine.execCtxRestore path p c s
  | .ctxReset path p c => Sys2Proof.Machine.execCtxReset path p c s
  | .ctxResume path p c => Sys2Proof.Machine.execCtxResume path p c s
  | .ctxCmdComplete p => Sys2Proof.Machine.execCtxCmdComplete p s
  | .add ins => Sys2Proof.Machine.execAdd ins s
  | .sub ins => Sys2Proof.Machine.execSub ins s
  | .iAnd ins => Sys2Proof.Machine.execAnd ins s
  | .iOr ins => Sys2Proof.Machine.execOr ins s
  | .xor ins => Sys2Proof.Machine.execXor ins s
  | .sll ins => Sys2Proof.Machine.execSll ins s
  | .srl ins => Sys2Proof.Machine.execSrl ins s
  | .sra ins => Sys2Proof.Machine.execSra ins s
  | .mul ins => Sys2Proof.Machine.execMul ins s
  | .mulhu ins => Sys2Proof.Machine.execMulhu ins s
  | .divu ins => Sys2Proof.Machine.execDivu ins s
  | .remu ins => Sys2Proof.Machine.execRemu ins s
  | .div ins => Sys2Proof.Machine.execDiv ins s
  | .rem ins => Sys2Proof.Machine.execRem ins s
  | .min ins => Sys2Proof.Machine.execMin ins s
  | .max ins => Sys2Proof.Machine.execMax ins s
  | .minu ins => Sys2Proof.Machine.execMinu ins s
  | .maxu ins => Sys2Proof.Machine.execMaxu ins s
  | .addi ins => Sys2Proof.Machine.execAddi ins s
  | .subi ins => Sys2Proof.Machine.execSubi ins s
  | .andi ins => Sys2Proof.Machine.execAndi ins s
  | .ori ins => Sys2Proof.Machine.execOri ins s
  | .xori ins => Sys2Proof.Machine.execXori ins s
  | .slli ins => Sys2Proof.Machine.execSlli ins s
  | .srli ins => Sys2Proof.Machine.execSrli ins s
  | .srai ins => Sys2Proof.Machine.execSrai ins s
  | .muli ins => Sys2Proof.Machine.execMuli ins s
  | .divui ins => Sys2Proof.Machine.execDivui ins s
  | .remui ins => Sys2Proof.Machine.execRemui ins s
  | .divi ins => Sys2Proof.Machine.execDivi ins s
  | .remi ins => Sys2Proof.Machine.execRemi ins s
  | .mini ins => Sys2Proof.Machine.execMini ins s
  | .maxi ins => Sys2Proof.Machine.execMaxi ins s
  | .minui ins => Sys2Proof.Machine.execMinui ins s
  | .maxui ins => Sys2Proof.Machine.execMaxui ins s
  | .ceq ins => Sys2Proof.Machine.execCeq ins s
  | .cne ins => Sys2Proof.Machine.execCne ins s
  | .clt ins => Sys2Proof.Machine.execClt ins s
  | .cge ins => Sys2Proof.Machine.execCge ins s
  | .cltu ins => Sys2Proof.Machine.execCltu ins s
  | .cgeu ins => Sys2Proof.Machine.execCgeu ins s
  | .ceqi ins => Sys2Proof.Machine.execCeqi ins s
  | .cnei ins => Sys2Proof.Machine.execCnei ins s
  | .clti ins => Sys2Proof.Machine.execClti ins s
  | .cgei ins => Sys2Proof.Machine.execCgei ins s
  | .cltui ins => Sys2Proof.Machine.execCltui ins s
  | .cgeui ins => Sys2Proof.Machine.execCgeui ins s
  | .mfsr ins => Sys2Proof.Machine.execMfsr ins s
  | .mtsr ins => Sys2Proof.Machine.execMtsr ins s
  | .pand ins => Sys2Proof.Machine.execPand ins s
  | .por ins => Sys2Proof.Machine.execPor ins s
  | .pxor ins => Sys2Proof.Machine.execPxor ins s
  | .pandn ins => Sys2Proof.Machine.execPandn ins s
  | .lih ins => Sys2Proof.Machine.execLih ins s
  | .fadd ins => Sys2Proof.Machine.execFadd ins s
  | .fsub ins => Sys2Proof.Machine.execFsub ins s
  | .fmul ins => Sys2Proof.Machine.execFmul ins s
  | .fdiv ins => Sys2Proof.Machine.execFdiv ins s
  | .fmin ins => Sys2Proof.Machine.execFmin ins s
  | .fmax ins => Sys2Proof.Machine.execFmax ins s
  | .fcvti ins => Sys2Proof.Machine.execFcvti ins s
  | .ftrunc ins => Sys2Proof.Machine.execFtrunc ins s
  | .br ins off => Sys2Proof.Machine.execBr ins off s
  | .call ins off => Sys2Proof.Machine.execCall ins off s
  | .jr ins => Sys2Proof.Machine.execJr ins s
  | .lds ins minor => Sys2Proof.Machine.execLds ins minor s
  | .sts ins minor => Sys2Proof.Machine.execSts ins minor s
  | .ldd ins minor => Sys2Proof.Machine.execLdd ins minor s
  | .std ins minor => Sys2Proof.Machine.execStd ins minor s
  | .rqld ins => Sys2Proof.Machine.execRqld ins s
  | .rqst ins => Sys2Proof.Machine.execRqst ins s
  | .rqcas ins => Sys2Proof.Machine.execRqcas ins s
  | .ledgRd ins => Sys2Proof.Machine.execLedgRd ins s
  | .ledgChg ins => Sys2Proof.Machine.execLedgChg ins s
  | .ledgTry ins => Sys2Proof.Machine.execLedgTry ins s
  | .ledgCrd ins => Sys2Proof.Machine.execLedgCrd ins s
  | .enq ins => Sys2Proof.Machine.execEnq ins s
  | .deq ins => Sys2Proof.Machine.execDeq ins s
  | .dly ins => Sys2Proof.Machine.execDly ins s
  | .yield ins => Sys2Proof.Machine.execYield ins s
  | .yieldPrio ins => Sys2Proof.Machine.execYieldPrio ins s
  | .swait ins => Sys2Proof.Machine.execSwait ins s
  | .swaitp ins => Sys2Proof.Machine.execSwaitp ins s
  | .sadd ins => Sys2Proof.Machine.execSadd ins s
  | .ssub ins => Sys2Proof.Machine.execSsub ins s
  | .sbar ins => Sys2Proof.Machine.execSbar ins s
  | .sigr ins => Sys2Proof.Machine.execSigr ins s
  | .smapShared ins => Sys2Proof.Machine.execSmapShared ins s
  | .smapPrivate ins => Sys2Proof.Machine.execSmapPrivate ins s
  | .smapInvalid ins => Sys2Proof.Machine.execSmapInvalid ins s
  | .twaitAbs ins => Sys2Proof.Machine.execTwaitAbs ins s
  | .twaitRel ins => Sys2Proof.Machine.execTwaitRel ins s
  | .tatAbs ins => Sys2Proof.Machine.execTatAbs ins s
  | .tatRel ins => Sys2Proof.Machine.execTatRel ins s
  | .tatDisarm ins => Sys2Proof.Machine.execTatDisarm ins s
  | .bopenGen ins => Sys2Proof.Machine.execBopenGen ins s
  | .bopenLearn ins => Sys2Proof.Machine.execBopenLearn ins s
  | .baddq ins => Sys2Proof.Machine.execBaddq ins s
  | .bseal ins => Sys2Proof.Machine.execBseal ins s
  | .bissue ins => Sys2Proof.Machine.execBissue ins s
  | .vbind ins => Sys2Proof.Machine.execVbind ins s
  | .vadd ins => Sys2Proof.Machine.execVadd ins s
  | .vsub ins => Sys2Proof.Machine.execVsub ins s
  | .vmul ins => Sys2Proof.Machine.execVmul ins s
  | .vmax ins => Sys2Proof.Machine.execVmax ins s
  | .vmin ins => Sys2Proof.Machine.execVmin ins s
  | .vcopy ins => Sys2Proof.Machine.execVcopy ins s
  | .vcvt ins => Sys2Proof.Machine.execVcvt ins s
  | .vredSum ins => Sys2Proof.Machine.execVredSum ins s
  | .vredMax ins => Sys2Proof.Machine.execVredMax ins s
  | .vredMin ins => Sys2Proof.Machine.execVredMin ins s
  | .vredArgmax ins => Sys2Proof.Machine.execVredArgmax ins s
  | .vprojMain ins => Sys2Proof.Machine.execVprojMain ins s
  | .vprojJet ins head => Sys2Proof.Machine.execVprojJet ins head s
  | .vmaskBits ins => Sys2Proof.Machine.execVmaskBits ins s
  | .vmaskGrammar ins => Sys2Proof.Machine.execVmaskGrammar ins s
  | .vmaskAllow ins => Sys2Proof.Machine.execVmaskAllow ins s
  | .vpenBias ins => Sys2Proof.Machine.execVpenBias ins s
  | .vpenPenalty ins => Sys2Proof.Machine.execVpenPenalty ins s
  | .vtemp ins => Sys2Proof.Machine.execVtemp ins s
  | .vtopk ins => Sys2Proof.Machine.execVtopk ins s
  | .vtopp ins => Sys2Proof.Machine.execVtopp ins s
  | .vgmx ins => Sys2Proof.Machine.execVgmx ins s
  | .vlse ins => Sys2Proof.Machine.execVlse ins s
  | .vlprob ins => Sys2Proof.Machine.execVlprob ins s
  | .vgradRow ins => Sys2Proof.Machine.execVgradRow ins s
  | .vgradBack ins => Sys2Proof.Machine.execVgradBack ins s
  | .emitToken ins => Sys2Proof.Machine.execEmitToken ins s
  | .emitFinal ins => Sys2Proof.Machine.execEmitFinal ins s
  | .wvpinPin ins => Sys2Proof.Machine.execWvpinPin ins s
  | .wvpinUnpin ins => Sys2Proof.Machine.execWvpinUnpin ins s
  | .trap ins => Sys2Proof.Machine.execTrap ins s
  | .halt ins => Sys2Proof.Machine.execHalt ins s
  | .quantumExpiry p => Sys2Proof.Machine.execQuantumExpiry p s
  | .itemDue p => Sys2Proof.Machine.execItemDue p s
  | .timerDue p => Sys2Proof.Machine.execTimerDue p s
  | .wakeDue p => Sys2Proof.Machine.execWakeDue p s
  | .heldItemMove p level => Sys2Proof.Machine.execHeldItemMove p level s
  | .semOpAtCell cell ids fails => Sys2Proof.Machine.execSemOpAtCell cell ids fails s
  | .waitExpiry cell => Sys2Proof.Machine.execWaitExpiry cell s
  | .satClr path p off => Sys2Proof.Machine.execSatClr path p off s
  | .realignArm path p n v => Sys2Proof.Machine.execRealignArm path p n v s
  | .manualSet src cell v => Sys2Proof.Machine.execManualSet src cell v s
  | .manualClearSat src cell => Sys2Proof.Machine.execManualClearSat src cell s
  | .coreGate p => Sys2Proof.Machine.execCoreGate p s
  | .xbArrive m => Sys2Proof.Machine.execXbArrive m s
  | .xbRelease m => Sys2Proof.Machine.execXbRelease m s
  | .data m => Sys2Proof.Machine.execData m s
  | .signal m => Sys2Proof.Machine.execSignal m s
  | .parkExpiry id => Sys2Proof.Machine.execParkExpiry id s
  | .echo m => Sys2Proof.Machine.execEcho m s
  | .echoLate g => Sys2Proof.Machine.execEchoLate g s
  | .rmWatchdog port => Sys2Proof.Machine.execRmWatchdog port s
  | .admitDescriptor p ecc => Sys2Proof.Machine.execAdmitDescriptor p ecc s
  | .admissionRecordHandoff p => Sys2Proof.Machine.execAdmissionRecordHandoff p s
  | .ledgerBalStage path v => Sys2Proof.Machine.execLedgerBalStage path v s
  | .ledgerBalCommit path v => Sys2Proof.Machine.execLedgerBalCommit path v s
  | .ledgerBoundWrite path floor v => Sys2Proof.Machine.execLedgerBoundWrite path floor v s
  | .modelCfgWrite path p reg v => Sys2Proof.Machine.execModelCfgWrite path p reg v s
  | .lpLoad path id => Sys2Proof.Machine.execLpLoad path id s
  | .lpUnload path id => Sys2Proof.Machine.execLpUnload path id s
  | .lpCmdDone => Sys2Proof.Machine.execLpCmdDone s
  | .flush path p => Sys2Proof.Machine.execFlush path p s
  | .backgroundEvict p => Sys2Proof.Machine.execBackgroundEvict p s
  | .sealProcessed p => Sys2Proof.Machine.execSealProcessed p s
  | .roleUpdate p => Sys2Proof.Machine.execRoleUpdate p s
  | .stepBoundary p => Sys2Proof.Machine.execStepBoundary p s
  | .idleBoundary p => Sys2Proof.Machine.execIdleBoundary p s
  | .alertDue p => Sys2Proof.Machine.execAlertDue p s
  | .alertPostRetry p => Sys2Proof.Machine.execAlertPostRetry p s
  | .deadlineEvent p slot => Sys2Proof.Machine.execDeadlineEvent p slot s
  | .drawSw path p on => Sys2Proof.Machine.execDrawSw path p on s
  | .drawMgmt path p on => Sys2Proof.Machine.execDrawMgmt path p on s
  | .drawStartEnd p => Sys2Proof.Machine.execDrawStartEnd p s
  | .drawRecoverEnd p => Sys2Proof.Machine.execDrawRecoverEnd p s
  | .drawResume p => Sys2Proof.Machine.execDrawResume p s
  | .hrow h => Sys2Proof.Machine.execHrow h s
  | .stageGrant => Sys2Proof.Machine.execStageGrant s
  | .planeQueueRoom p => Sys2Proof.Machine.execPlaneQueueRoom p s
  | .planePassStart => Sys2Proof.Machine.execPlanePassStart s
  | .planeUnitDone unit mismatch => Sys2Proof.Machine.execPlaneUnitDone unit mismatch s
  | .tileSpareSwap => Sys2Proof.Machine.execTileSpareSwap s
  | .planePassEnd => Sys2Proof.Machine.execPlanePassEnd s
  | .gramLoad path id => Sys2Proof.Machine.execGramLoad path id s
  | .gramUnload path id => Sys2Proof.Machine.execGramUnload path id s
  | .gramCmdDone => Sys2Proof.Machine.execGramCmdDone s
  | .bitRequest port bytes crcOk => Sys2Proof.Machine.execBitRequest port bytes crcOk s
  | .readProbeWord path => Sys2Proof.Machine.execReadProbeWord path s
  | .romRebuildDone => Sys2Proof.Machine.execRomRebuildDone s
  | .spillDrain p ring => Sys2Proof.Machine.execSpillDrain p ring s
  | .drainLate p ring => Sys2Proof.Machine.execDrainLate p ring s
  | .announce path p version => Sys2Proof.Machine.execAnnounce path p version s
  | .retire path p version => Sys2Proof.Machine.execRetire path p version s
  | .nfReport path p v => Sys2Proof.Machine.execNfReport path p v s
  | .abort path => Sys2Proof.Machine.execAbort path s
  | .clear path => Sys2Proof.Machine.execClear path s
  | .memResponse id resp => Sys2Proof.Machine.execMemResponse id resp s
  | .memWatchdog id => Sys2Proof.Machine.execMemWatchdog id s
  | .kdlHello chan credits => Sys2Proof.Machine.execKdlHello chan credits s
  | .kdlDone chan m => Sys2Proof.Machine.execKdlDone chan m s
  | .kdlError chan m => Sys2Proof.Machine.execKdlError chan m s
  | .kdlCreditReturn chan => Sys2Proof.Machine.execKdlCreditReturn chan s
  | .scrubPass findings romOk => Sys2Proof.Machine.execScrubPass findings romOk s
  | .coreStall p => Sys2Proof.Machine.execCoreStall p s
  | .coreFailoverDone p => Sys2Proof.Machine.execCoreFailoverDone p s
  | .sliceCopyDone slice => Sys2Proof.Machine.execSliceCopyDone slice s
  | .fltHead path p v => Sys2Proof.Machine.execFltHead path p v s
  | .efrHead path v => Sys2Proof.Machine.execEfrHead path v s
  | .droopTrip det => Sys2Proof.Machine.execDroopTrip det s
  | .droopHoldDone det => Sys2Proof.Machine.execDroopHoldDone det s
  | .droopReleaseStep det => Sys2Proof.Machine.execDroopReleaseStep det s
  | .budgetPeriod lpl total => Sys2Proof.Machine.execBudgetPeriod lpl total s
  | .sensorSample values => Sys2Proof.Machine.execSensorSample values s
  | .kick core => Sys2Proof.Machine.execKick core s
  | .mgmtWatchdog core => Sys2Proof.Machine.execMgmtWatchdog core s
  | .mgmtCoreFault core sram => Sys2Proof.Machine.execMgmtCoreFault core sram s
  | .bootLimitExpiry core => Sys2Proof.Machine.execBootLimitExpiry core s
  | .restart path => Sys2Proof.Machine.execRestart path s
  | .logMirror => Sys2Proof.Machine.execLogMirror s
  | .logKeepRetry => Sys2Proof.Machine.execLogKeepRetry s
  | .hlogHead path v => Sys2Proof.Machine.execHlogHead path v s
  | .stage path => Sys2Proof.Machine.execStage path s
  | .activateUcode path => Sys2Proof.Machine.execActivateUcode path s
  | .activateMgmt path => Sys2Proof.Machine.execActivateMgmt path s
  | .confirm path => Sys2Proof.Machine.execConfirm path s
  | .revert path => Sys2Proof.Machine.execRevert path s
  | .updCmdDone => Sys2Proof.Machine.execUpdCmdDone s
  | .levelSet path level => Sys2Proof.Machine.execLevelSet path level s
  | .negArriveSend => Sys2Proof.Machine.execNegArriveSend s
  | .negArrive m => Sys2Proof.Machine.execNegArrive m s
  | .negRelease m => Sys2Proof.Machine.execNegRelease m s
  | .levelEffective => Sys2Proof.Machine.execLevelEffective s
  | .stringsRead src space addr => Sys2Proof.Machine.execStringsRead src space addr s
  | .stringsWrite src space addr data => Sys2Proof.Machine.execStringsWrite src space addr data s
  | .jtagCaptureDr => Sys2Proof.Machine.execJtagCaptureDr s
  | .jtagUpdateDr bits => Sys2Proof.Machine.execJtagUpdateDr bits s
  | .onTimeEdge interval => Sys2Proof.Machine.execOnTimeEdge interval s
  | .jumpRomCheckDone crcOk => Sys2Proof.Machine.execJumpRomCheckDone crcOk s
  | .powerLoss => Sys2Proof.Machine.execPowerLoss s
  | .upBad chan => Sys2Proof.Machine.execUpBad chan s
  | .rmDrop port crcBad part => Sys2Proof.Machine.execRmDrop port crcBad part s
  | .hsCreditReturn port vc => Sys2Proof.Machine.execHsCreditReturn port vc s
  | .rmCreditReturn port cls => Sys2Proof.Machine.execRmCreditReturn port cls s
  | .jtagUpdateIr code => Sys2Proof.Machine.execJtagUpdateIr code s
  | .jtagTrst => Sys2Proof.Machine.execJtagTrst s

end Sys2Proof.Machine
end

