-- ==== Sys2Proof/Machine/Step.lean ====
section
/-! DEFINITION. One step of the block: the command at the front of the queue takes its effect, or, with none waiting, one tick of beat time passes (assumption log 4). -/

namespace Sys2Proof.Machine

open Sys2Proof

/-- One step. (DESIGN CHOICE, assumption logs 4, 91) -/
def step (s : State) : Host.Outcome State Fault Refusal :=
  match s.pending with
  | [] => .next s.tick
  | c :: rest => exec c { s with pending := rest }

/-- The state with a command put in front of its queue. (DESIGN CHOICE, assumption log 91) -/
def State.withFront (s : State) (c : Instr) : State := { s with pending := c :: s.pending }

/-- The state with the command that a table word spells in front of its queue: unchanged, since no word spells one. (DESIGN
CHOICE, assumption log 91) -/
def State.withFetchWord (s : State) (nbits w : Nat) : State :=
  match decodeTableWord nbits w with
  | some c => s.withFront c
  | none => s

end Sys2Proof.Machine
end

