-- ==== Sys2Proof/WellFormed.lean ====
section
/-! DEFINITION. Which commands are well formed: what a constructor's operands must satisfy beyond their types to be a message, a sample or a write that the spec describes. -/

namespace Sys2Proof

/-- A word that comes as one that names no instruction names none (R90). -/
def Ins.wf (i : Ins) : Bool := i.odd.all fun x => !assigned x.1.toNat x.2.toNat

/-- A message with no payload: BYTES is 0 (R551). -/
def RmMsg.bare (m : RmMsg) : Bool := decide (m.bytes = 0) && decide (m.payload = [])

/-- A hidden row carries whole payload flits for its BYTES (R546). -/
def HRowPkt.wf (h : HRowPkt) : Bool := decide (h.payload.length = (h.bytes.toNat + 63) / 64 * 64)

/-- The fields that R542 gives DONE: FLAGS [0], and no SEQ. -/
def KdlMsg.done (m : KdlMsg) : Bool := decide (m.flags &&& 0xFE#8 = 0) && decide (m.seq = 0)

/-- The fields that R542 gives ERROR: SEQ and a code in ARG0 [7:0]. -/
def KdlMsg.error (m : KdlMsg) : Bool := decide (m.flags = 0) && decide (m.arg1 = 0) && decide (m.arg0 &&& 0xFFFFFF00#32 = 0)

/-- The registers of MODEL_CFG_WRITE: WX_WEIR_BUDGET as 0, and CFG, CTX and LIVE of the eight profiles by their offsets (R224). -/
def profileReg (reg : Nat) : Bool :=
  decide (reg = 0) || (decide (0x40 ≤ reg) && decide (reg < 0xC0) && decide (reg % 4 = 0) && decide (reg % 16 ≠ 12))

/-- A command is well formed. -/
def Instr.wellFormed (c : Instr) : Bool :=
  match c with
  | .semOpAtCell _ ids _ => decide ids.Nodup
  | .xbArrive m => m.bare
  | .xbRelease m => m.bare
  | .data m => decide (1 ≤ m.bytes.toNat) && decide (m.bytes.toNat ≤ 4096) && decide (m.payload.length = m.bytes.toNat)
  | .signal m => m.what.bare
  | .echo m => m.bare
  | .modelCfgWrite _ _ reg _ => profileReg reg.toNat
  | .hrow h => h.wf
  | .bitRequest _ bytes _ => decide (bytes.length = 32)
  | .kdlDone _ m => m.done
  | .kdlError _ m => m.error
  | .budgetPeriod lpl total => decide (lpl < 2 ^ 16) && decide (total < 2 ^ 16)
  | .sensorSample x => decide (x.values.length = 112) && (x.values.all fun v => decide (v < 2 ^ 16)) && x.entries.all fun y => match y with
    | .note l => decide (l.length ≤ 36)
    | .sensor _ => true
  | .negArrive m => m.bare
  | .negRelease m => m.bare
  | .onTimeEdge interval => decide (1 ≤ interval)
  | .add i | .sub i | .iAnd i | .iOr i | .xor i | .sll i | .srl i | .sra i | .mul i | .mulhu i | .divu i | .remu i | .div i
  | .rem i | .min i | .max i | .minu i | .maxu i | .addi i | .subi i | .andi i | .ori i | .xori i | .slli i | .srli i | .srai i
  | .muli i | .divui i | .remui i | .divi i | .remi i | .mini i | .maxi i | .minui i | .maxui i | .ceq i | .cne i | .clt i
  | .cge i | .cltu i | .cgeu i | .ceqi i | .cnei i | .clti i | .cgei i | .cltui i | .cgeui i | .mfsr i | .mtsr i | .pand i
  | .por i | .pxor i | .pandn i | .lih i | .fadd i | .fsub i | .fmul i | .fdiv i | .fmin i | .fmax i | .fcvti i | .ftrunc i
  | .br i _ | .call i _ | .jr i | .lds i _ | .sts i _ | .ldd i _ | .std i _ | .rqld i | .rqst i | .rqcas i | .ledgRd i
  | .ledgChg i | .ledgTry i | .ledgCrd i | .enq i | .deq i | .dly i | .yield i | .yieldPrio i | .swait i | .swaitp i | .sadd i
  | .ssub i | .sbar i | .sigr i | .smapShared i | .smapPrivate i | .smapInvalid i | .twaitAbs i | .twaitRel i | .tatAbs i
  | .tatRel i | .tatDisarm i | .bopenGen i | .bopenLearn i | .baddq i | .bseal i | .bissue i | .vbind i | .vadd i | .vsub i
  | .vmul i | .vmax i | .vmin i | .vcopy i | .vcvt i | .vredSum i | .vredMax i | .vredMin i | .vredArgmax i | .vprojMain i
  | .vprojJet i _ | .vmaskBits i | .vmaskGrammar i | .vmaskAllow i | .vpenBias i | .vpenPenalty i | .vtemp i | .vtopk i
  | .vtopp i | .vgmx i | .vlse i | .vlprob i | .vgradRow i | .vgradBack i | .emitToken i | .emitFinal i | .wvpinPin i
  | .wvpinUnpin i | .trap i | .halt i => i.wf
  | .coldReset .. | .pllLock | .sramClearDone | .ucodeLoadDone .. | .warmResetPin | .warm .. | .warmResetComplete
  | .timecodeFrame .. | .beatLoss | .freeRunEdge | .masterEdge | .modeFollower .. | .modeMaster .. | .modeOff ..
  | .readBeatNowLo .. | .latchingRead .. | .registerWrite .. | .i2cPointerWrite .. | .i2cRead | .enableSet ..
  | .partitionStart .. | .enableClear .. | .partitionReset .. | .resetDeadline .. | .resetClearDone .. | .sqTail ..
  | .cancel .. | .cqHead .. | .trHead .. | .hostSignal .. | .ctxStart .. | .ctxStop .. | .ctxSave .. | .ctxRestore ..
  | .ctxReset .. | .ctxResume .. | .ctxCmdComplete .. | .quantumExpiry .. | .itemDue .. | .timerDue .. | .wakeDue ..
  | .heldItemMove .. | .waitExpiry .. | .satClr .. | .realignArm .. | .manualSet .. | .manualClearSat .. | .coreGate ..
  | .parkExpiry .. | .echoLate .. | .rmWatchdog .. | .admitDescriptor .. | .admissionRecordHandoff .. | .ledgerBalStage ..
  | .ledgerBalCommit .. | .ledgerBoundWrite .. | .lpLoad .. | .lpUnload .. | .lpCmdDone | .flush .. | .backgroundEvict ..
  | .sealProcessed .. | .roleUpdate .. | .stepBoundary .. | .idleBoundary .. | .alertDue .. | .alertPostRetry ..
  | .deadlineEvent .. | .drawSw .. | .drawMgmt .. | .drawStartEnd .. | .drawRecoverEnd .. | .drawResume .. | .stageGrant
  | .planeQueueRoom .. | .planePassStart | .planeUnitDone .. | .tileSpareSwap | .planePassEnd | .gramLoad .. | .gramUnload ..
  | .gramCmdDone | .readProbeWord .. | .romRebuildDone | .spillDrain .. | .drainLate .. | .announce .. | .retire ..
  | .nfReport .. | .abort .. | .clear .. | .memResponse .. | .memWatchdog .. | .kdlHello .. | .kdlCreditReturn ..
  | .scrubPass .. | .coreStall .. | .coreFailoverDone .. | .sliceCopyDone .. | .fltHead .. | .efrHead .. | .droopTrip ..
  | .droopHoldDone .. | .droopReleaseStep .. | .kick .. | .mgmtWatchdog .. | .mgmtCoreFault .. | .bootLimitExpiry ..
  | .restart .. | .logMirror | .logKeepRetry | .hlogHead .. | .stage .. | .activateUcode .. | .activateMgmt .. | .confirm ..
  | .revert .. | .updCmdDone | .levelSet .. | .negArriveSend | .levelEffective | .stringsRead .. | .stringsWrite ..
  | .jtagCaptureDr | .jtagUpdateDr .. | .jumpRomCheckDone .. | .powerLoss | .upBad .. | .rmDrop .. | .hsCreditReturn ..
  | .rmCreditReturn .. | .jtagUpdateIr .. | .jtagTrst => true

end Sys2Proof
end

