-- ==== Sys2Proof/Safety.lean ====
section
/-! DEFINITION. What counts as a safe run, in the terms that statements use: a step that completes, the states that the spec calls legal, and the conditions on a state and its operands under which a command has its own effect. -/

namespace Sys2Proof

/-- The commands that take every state of the block back to its power-on values: beat time does not survive them (R533, R560). -/
def Instr.dropsBeat : Instr → Bool
  | .coldReset _ => true
  | .powerLoss => true
  | _ => false

/-- The commands that may move beat time: the edges and frames of the beat unit (R29, R30, R38, R40, R42, R43). -/
def Instr.movesBeat : Instr → Bool
  | .timecodeFrame _ | .beatLoss | .freeRunEdge | .masterEdge | .onTimeEdge _ => true
  | _ => false

/-- The fields of an instruction obey R89 for three kinds. -/
def Ins.kinds (i : Ins) (d a b : Machine.OpKind) : Bool := d.good i.dst && a.good i.srca && b.good i.srcb

end Sys2Proof

namespace Sys2Proof.Machine

open Sys2Proof

/-- A command completes in a state: it takes its effect and the block goes on. -/
def Completes (c : Instr) (s : State) : Prop := ∃ t, exec c s = .next t

/-- The block goes on from a state: a step is neither a fault nor a refusal. -/
def State.GoesOn (s : State) : Prop := ∃ t, step s = .next t

/-- The legal states of the beat unit (R32, R33, R42, R44): at most 16 intervals, fewer than 16 outliers and fewer than 8
failed beats in a row; a stand-still and an edge that started a beat in LOCKED only, the wait for a first edge in MASTER
only, and a waiting change in a state whose row of R44 makes it wait. -/
def BeatUnit.legal (b : BeatUnit) : Prop :=
  b.intervals.length ≤ 16 ∧ b.outRun < 16 ∧ b.badRun < 8 ∧ (b.still = true → b.st = .locked) ∧
  (∀ d, b.edge = some d → d.started = true → b.st = .locked) ∧ (b.masterFirst = true → b.st = .master) ∧
  (b.waiting = some .master → b.st = .locked ∨ b.st = .free ∨ b.st = .expired) ∧
  (b.waiting = some .follower → b.st = .master) ∧ b.waiting ≠ some .off

/-! ## Instructions -/

/-- A context issues an instruction (R49, R93, R150): its partition is RUNNING and its core works, it holds the issue slot
with nothing outstanding and no stop pending, its fetch is good, and the guard reads 1, and the word names an instruction. -/
def State.issues (s : State) (i : Ins) : Prop :=
  (s.eng.part i.p).coreDown = false ∧ (s.eng.part i.p).coreLost = false ∧ s.eng.warm = false ∧ s.eng.running i.p = true ∧
  (s.eng.part i.p).slot = some i.c ∧ (s.eng.ctx i.p i.c).st = .running ∧ (s.eng.ctx i.p i.c).pend = none ∧
  (s.eng.ctx i.p i.c).stopReq = none ∧ s.eng.fetchBad i.p i.c = false ∧ (s.eng.ctx i.p i.c).pred i.pred.toNat = true ∧ i.odd = none

/-- Two contexts agree in every register of R63 and in their scratch. -/
def Ctx.sameRegs (x y : Ctx) : Prop :=
  y.s = x.s ∧ y.p = x.p ∧ y.v = x.v ∧ y.elen = x.elen ∧ y.fault = x.fault ∧ y.pc = x.pc ∧ y.semtab = x.semtab ∧ y.scratch = x.scratch

/-- An instruction completed with a scalar result (R75): s[r] holds v (s0 still 0), the program counter has advanced, and
nothing else of the context has changed. -/
def Ctx.wroteS (x y : Ctx) (r : Nat) (v : Dword) : Prop :=
  (∀ k, y.sreg k = if k = 0 then 0 else if k = r then v else x.sreg k) ∧ y.pc = x.pc + 8 ∧
  y.p = x.p ∧ y.v = x.v ∧ y.elen = x.elen ∧ y.fault = x.fault ∧ y.semtab = x.semtab ∧ y.scratch = x.scratch

/-- An instruction completed with a predicate result (R75): p[r] holds v (p0 still 1). -/
def Ctx.wroteP (x y : Ctx) (r : Nat) (v : Bool) : Prop :=
  (∀ k, k < 8 → y.pred k = if k = 0 then true else if k = r then v else x.pred k) ∧ y.pc = x.pc + 8 ∧
  y.s = x.s ∧ y.v = x.v ∧ y.elen = x.elen ∧ y.fault = x.fault ∧ y.semtab = x.semtab ∧ y.scratch = x.scratch

/-- The registers that a change of the issue slot may write: PREEMPTS, SWITCHES, and the power of a core that ungates (R151,
R165, R498). -/
def slotRegs (p : Nat) : List Nat := [Reg.schedPreempts p, Reg.schedSwitches p, Reg.pwrGated, Reg.pwrStatus, Reg.pwrLent]

/-- What an instruction of context c of partition p leaves alone when its effect is on its own context only: memory,
outstanding transactions, cells, the request table, ledgers, the plane, outputs, every other partition, the registers of
every other context, and every window register but those that a change of the issue slot writes. -/
def Eng.frame (e t : Eng) (p c : Nat) : Prop :=
  t.mem = e.mem ∧ t.txns = e.txns ∧ t.cells = e.cells ∧ t.travel = e.travel ∧ t.rqt = e.rqt ∧ t.reqs = e.reqs ∧ t.ledgers = e.ledgers ∧
  t.planeq = e.planeq ∧ t.out = e.out ∧ t.xfers = e.xfers ∧ t.pages = e.pages ∧ t.nodes = e.nodes ∧
  (∀ q, q ≠ p → t.part q = e.part q) ∧ (∀ d, d ≠ c → Ctx.sameRegs (e.ctx p d) (t.ctx p d)) ∧
  (t.part p).items = (e.part p).items ∧ (t.part p).delays = (e.part p).delays ∧ (t.part p).steps = (e.part p).steps ∧
  (t.part p).batch = (e.part p).batch ∧ ∀ a, a ∉ slotRegs p → t.rd a = e.rd a

/-- What a command of partition p leaves alone when its effect is on that partition only: memory, outstanding transactions,
cells, the request table, ledgers, the plane, outputs, every other partition, and every window register but those listed. -/
def Eng.outside (e t : Eng) (p : Nat) (l : List Nat) : Prop :=
  t.mem = e.mem ∧ t.txns = e.txns ∧ t.cells = e.cells ∧ t.travel = e.travel ∧ t.rqt = e.rqt ∧ t.reqs = e.reqs ∧ t.ledgers = e.ledgers ∧
  t.planeq = e.planeq ∧ t.out = e.out ∧ t.xfers = e.xfers ∧ t.pages = e.pages ∧ t.nodes = e.nodes ∧
  (∀ q, q ≠ p → t.part q = e.part q) ∧ ∀ a, a ∉ l → t.rd a = e.rd a

/-- The issue slot is held by a context of the most urgent level (R150): a running one whose priority no context that could
issue before exceeds in urgency. -/
def Eng.mostUrgent (e t : Eng) (p : Nat) : Prop :=
  ∃ d, (t.part p).slot = some d ∧ (t.ctx p d).st = .running ∧ ∀ k, k < 16 → (e.ctx p k).canIssue = true → t.prio p d ≤ t.prio p k

/-- A cell at which a command acts alone: its slice works, no operation shares the cycle and its owner loads no version
(R175, R435, R479). -/
def Eng.freeCell (e : Eng) (n : Nat) : Prop :=
  e.cellHeld n = false ∧ e.joinedAt n = [] ∧ ∀ p, e.cellOwner n = some p → ∀ k, k < 4 → (e.vslot p k).st ≠ vsLoading

/-- A free cell at which nothing waits (R173). -/
def Eng.plainCell (e : Eng) (n : Nat) : Prop := e.freeCell n ∧ (e.cell n).queue = []

/-- A context has left its instruction outstanding (R94, R172): RUNNING and every register as it was. -/
def Ctx.waitsFor (x y : Ctx) (k : Pend) : Prop := y.st = .running ∧ y.pend = some k ∧ Ctx.sameRegs x y

/-- An instruction without a result completed (R75): the program counter has advanced and nothing else of the context has
changed. -/
def Ctx.advanced (x y : Ctx) : Prop := y.pc = x.pc + 8 ∧ x.sameRegs { y with pc := x.pc }

/-- A waiting or delayed context has completed its instruction with a status (R125, R130, R164). -/
def Ctx.wokeWith (x y : Ctx) (r : Nat) (v : Dword) : Prop := (y.st = .ready ∨ y.st = .running) ∧ x.wroteS y r v

/-- An instruction completed with a scalar result and a predicate result (R75, R122): nothing else of the context has changed. -/
def Ctx.wroteSP (x y : Ctx) (r : Nat) (v : Dword) (q : Nat) (f : Bool) : Prop :=
  (∀ k, y.sreg k = if k = 0 then 0 else if k = r then v else x.sreg k) ∧
  (∀ k, k < 8 → y.pred k = if k = 0 then true else if k = q then f else x.pred k) ∧ y.pc = x.pc + 8 ∧
  y.v = x.v ∧ y.elen = x.elen ∧ y.fault = x.fault ∧ y.semtab = x.semtab ∧ y.scratch = x.scratch

/-- No byte of memory outside the partition's next place in its fault ring (R486) differs. -/
def Eng.onlyFaultRec (e t : Eng) (p : Nat) : Prop :=
  ∀ a, (∀ k, k < 64 → a % 2 ^ 64 ≠ (e.pair (Reg.intFltBaseLo p) (Reg.intFltBaseHi p) +
    e.fld (Reg.intFltTail p) 31 0 % 2 ^ e.fld (Reg.intFltCfg p) 4 0 * 64 + k) % 2 ^ 64) → t.byte a = e.byte a

/-- A context has faulted at its instruction (R56, R96): FAULTED, the program counter where it was, fault holding kind,
operand and detail, and no other register changed. -/
def Ctx.faultedWith (x y : Ctx) (f : Dword) : Prop :=
  y.st = .faulted ∧ y.fault = f ∧ y.pc = x.pc ∧ y.s = x.s ∧ y.p = x.p ∧ y.v = x.v ∧ y.elen = x.elen ∧ y.semtab = x.semtab ∧
  y.scratch = x.scratch

/-- Stored register words in their canonical form: addresses strictly rising, and no word that an unlisted address reads as (R578). -/
def regsWf : KMap Word → Bool
  | [] => true
  | (a, v) :: r => decide (v ≠ resetWord a) && (r.all fun x => decide (a < x.1)) && regsWf r

/-- What every step keeps of the engine: sparse data in its one canonical form; every balance within the bounds of R209 and R213;
no version number in two slots of a partition (R434); at most one ACTIVE management core (R504). -/
def Eng.sound (e : Eng) : Prop :=
  regsWf e.regs = true ∧ Memory.wf e.mem = true ∧ kwf Cell.zero e.cells = true ∧ kwf 0 e.rqt = true ∧ kwf Req.none e.reqs = true ∧
  kwf none e.ledgers = true ∧ kwf Group.fresh e.groups = true ∧
  (∀ i, -((e.ledger i).floor : Int) ≤ (e.ledger i).bal ∧ (e.ledger i).bal ≤ (e.ledger i).cap) ∧
  (∀ p m n, m < 4 → n < 4 → m ≠ n → (e.vslot p m).st ≠ vsEmpty → (e.vslot p n).st ≠ vsEmpty → (e.vslot p m).version ≠ (e.vslot p n).version) ∧
  ¬((e.core 0).role = .active ∧ (e.core 1).role = .active)

/-- The functions of the ALU register group in the arithmetic of R76 and R111. -/
def aluTable : List ((Ins → Instr) × (Dword → Dword → Dword)) :=
  [(.add, fun a b => a + b), (.sub, fun a b => a - b), (.iAnd, fun a b => a &&& b), (.iOr, fun a b => a ||| b), (.xor, fun a b => a ^^^ b),
   (.sll, fun a b => a <<< (b.toNat % 64)), (.srl, fun a b => a >>> (b.toNat % 64)), (.sra, fun a b => a.sshiftRight (b.toNat % 64)),
   (.mul, fun a b => a * b), (.mulhu, fun a b => ((a.setWidth 128 * b.setWidth 128) >>> 64).setWidth 64),
   (.divu, fun a b => if b = 0 then BitVec.allOnes 64 else a / b), (.remu, fun a b => if b = 0 then a else a % b),
   (.div, fun a b => if b = 0 then BitVec.allOnes 64 else a.sdiv b), (.rem, fun a b => if b = 0 then a else a.srem b),
   (.min, fun a b => if a.sle b then a else b), (.max, fun a b => if a.sle b then b else a),
   (.minu, fun a b => if a ≤ b then a else b), (.maxu, fun a b => if a ≤ b then b else a)]

/-- The functions of the ALU immediate group: the same map without MULHU. -/
def aluImmTable : List ((Ins → Instr) × (Dword → Dword → Dword)) :=
  [(.addi, fun a b => a + b), (.subi, fun a b => a - b), (.andi, fun a b => a &&& b), (.ori, fun a b => a ||| b), (.xori, fun a b => a ^^^ b),
   (.slli, fun a b => a <<< (b.toNat % 64)), (.srli, fun a b => a >>> (b.toNat % 64)), (.srai, fun a b => a.sshiftRight (b.toNat % 64)),
   (.muli, fun a b => a * b), (.divui, fun a b => if b = 0 then BitVec.allOnes 64 else a / b),
   (.remui, fun a b => if b = 0 then a else a % b), (.divi, fun a b => if b = 0 then BitVec.allOnes 64 else a.sdiv b),
   (.remi, fun a b => if b = 0 then a else a.srem b), (.mini, fun a b => if a.sle b then a else b),
   (.maxi, fun a b => if a.sle b then b else a), (.minui, fun a b => if a ≤ b then a else b), (.maxui, fun a b => if a ≤ b then b else a)]

/-- The relations of the compares (R112): equal, not equal, and less or not less, signed and unsigned. -/
def cmpTable : List ((Ins → Instr) × (Ins → Instr) × (Dword → Dword → Bool)) :=
  [(.ceq, .ceqi, fun a b => decide (a = b)), (.cne, .cnei, fun a b => decide (a ≠ b)),
   (.clt, .clti, fun a b => decide (a.toInt < b.toInt)), (.cge, .cgei, fun a b => decide (b.toInt ≤ a.toInt)),
   (.cltu, .cltui, fun a b => decide (a.toNat < b.toNat)), (.cgeu, .cgeui, fun a b => decide (b.toNat ≤ a.toNat))]

/-- The relations of the predicate group (R112). -/
def predTable : List ((Ins → Instr) × (Bool → Bool → Bool)) :=
  [(.pand, fun a b => a && b), (.por, fun a b => a || b), (.pxor, fun a b => a != b), (.pandn, fun a b => a && !b)]

/-- What the tables of R109 give one instruction: MAJOR, MINOR, the kinds of DST, SRCA and SRCB (R89), the bits of EXT [31:0] that
have a meaning (R91), and OPERAND of a further ILLEGAL that its MINOR, MOD or IMM raises (R96, R114, R115, R118, R127, R139,
R146). -/
structure InsRow where
  op : Ins → Instr
  major : Nat
  minor : Nat
  dst : OpKind
  srca : OpKind
  srcb : OpKind
  ext : Nat
  bad : Ins → Option Nat

/-- OPERAND of the ILLEGAL that a word of this instruction raises, none where it is legal (R89, R91, R96, R98). -/
def InsRow.illegal (r : InsRow) (i : Ins) : Option Nat :=
  if r.bad i = some 0 then some 0
  else if r.dst.good i.dst = false then some 1
  else if r.srca.good i.srca = false then some 2
  else if r.srcb.good i.srcb = false then some 3
  else if i.ext.toNat &&& (0xFFFFFFFF ^^^ r.ext) ≠ 0 then some 5
  else r.bad i

/-- Instructions of one MAJOR with the same fields, by MINOR. -/
def insGroup (major : Nat) (d a b : OpKind) (ext : Nat) (l : List (Nat × (Ins → Instr))) : List InsRow :=
  l.map fun x => ⟨x.2, major, x.1, d, a, b, ext, fun _ => none⟩

/-- The MINOR of a load or a store (R115): SIZE, SIGNED of a load only, and STORE as the instruction has it. -/
def memBad (store : Bool) (minor : BitVec 8) (_ : Ins) : Option Nat :=
  if 16 ≤ minor.toNat ∨ minor.getLsbD 3 ≠ store ∨ (store = true ∧ minor.getLsbD 2 = true) then some 0 else none

/-- The instructions whose word has a plain MINOR, MOD and IMM (R109 to R147). -/
def insPlain : List InsRow :=
  insGroup 0x01 .s .s .s 0 [(0x00, .add), (0x01, .sub), (0x02, .iAnd), (0x03, .iOr), (0x04, .xor), (0x05, .sll), (0x06, .srl),
      (0x07, .sra), (0x08, .mul), (0x09, .mulhu), (0x0A, .divu), (0x0B, .remu), (0x0C, .div), (0x0D, .rem), (0x0E, .min), (0x0F, .max),
      (0x10, .minu), (0x11, .maxu)] ++
  insGroup 0x02 .s .s .unused 0xFFFFFFFF [(0x00, .addi), (0x01, .subi), (0x02, .andi), (0x03, .ori), (0x04, .xori), (0x05, .slli),
      (0x06, .srli), (0x07, .srai), (0x08, .muli), (0x0A, .divui), (0x0B, .remui), (0x0C, .divi), (0x0D, .remi), (0x0E, .mini),
      (0x0F, .maxi), (0x10, .minui), (0x11, .maxui)] ++
  insGroup 0x03 .p .s .s 0 [(0x00, .ceq), (0x01, .cne), (0x02, .clt), (0x03, .cge), (0x04, .cltu), (0x05, .cgeu)] ++
  insGroup 0x04 .p .s .unused 0xFFFFFFFF [(0x00, .ceqi), (0x01, .cnei), (0x02, .clti), (0x03, .cgei), (0x04, .cltui), (0x05, .cgeui)] ++
  insGroup 0x06 .p .p .p 0 [(0x00, .pand), (0x01, .por), (0x02, .pxor), (0x03, .pandn)] ++
  insGroup 0x07 .s .s .unused 0xFFFFFFFF [(0x00, .lih)] ++
  insGroup 0x08 .s .s .s 0 [(0x00, .fadd), (0x01, .fsub), (0x02, .fmul), (0x03, .fdiv), (0x04, .fmin), (0x05, .fmax)] ++
  insGroup 0x08 .s .s .unused 0 [(0x06, .fcvti), (0x07, .ftrunc)] ++
  insGroup 0x12 .s .s .unused 0 [(0x00, .jr)] ++
  insGroup 0x1B .s .s .s 0 [(0x00, .ledgRd), (0x01, .ledgChg), (0x02, .ledgTry), (0x03, .ledgCrd)] ++
  insGroup 0x1C .s .s .unused 0x1F000000 [(0x00, .enq)] ++
  insGroup 0x1D .s .unused .p 0x1F000000 [(0x00, .deq)] ++
  insGroup 0x1E .s .s .s 0x1F000000 [(0x00, .dly)] ++
  insGroup 0x1F .unused .unused .unused 0 [(0x00, .yield)] ++
  insGroup 0x1F .unused .unused .unused 0x1F000000 [(0x01, .yieldPrio)] ++
  insGroup 0x20 .s .s .s 0xFFF [(0x00, .swait), (0x01, .swaitp)] ++
  insGroup 0x21 .s .s .unused 0xFFF [(0x00, .sadd)] ++
  insGroup 0x22 .s .s .unused 0xFFF [(0x00, .ssub)] ++
  insGroup 0x23 .s .s .s 0xFFF [(0x00, .sbar)] ++
  insGroup 0x25 .unused .s .unused 0xFFF [(0x00, .smapShared), (0x01, .smapPrivate), (0x02, .smapInvalid)] ++
  insGroup 0x26 .s .s .s 0 [(0x00, .twaitAbs), (0x01, .twaitRel)] ++
  insGroup 0x27 .s .s .s 0 [(0x02, .tatDisarm)] ++
  insGroup 0x27 .s .s .s 0xFFF [(0x00, .tatAbs), (0x01, .tatRel)] ++
  insGroup 0x28 .unused .unused .unused 0 [(0x00, .bopenGen), (0x01, .bopenLearn)] ++
  insGroup 0x29 .s .s .s 0 [(0x00, .baddq)] ++
  insGroup 0x2A .s .unused .unused 0 [(0x00, .bseal)] ++
  insGroup 0x2B .unused .s .unused 0 [(0x00, .bissue)] ++
  insGroup 0x2D .v .v .unused 0 [(0x05, .vcopy)] ++
  insGroup 0x2D .v .v .v 0 [(0x00, .vadd), (0x01, .vsub), (0x02, .vmul), (0x03, .vmax), (0x04, .vmin)] ++
  insGroup 0x2E .v .v .s 0x01000000 [(0x00, .vcvt)] ++
  insGroup 0x2F .s .v .unused 0 [(0x00, .vredSum), (0x01, .vredMax), (0x02, .vredMin), (0x03, .vredArgmax)] ++
  insGroup 0x30 .unused .s .s 0 [(0x00, .vprojMain)] ++
  insGroup 0x31 .v .unused .s 0 [(0x01, .vmaskGrammar), (0x02, .vmaskAllow)] ++
  insGroup 0x31 .v .v .unused 0 [(0x00, .vmaskBits)] ++
  insGroup 0x32 .v .v .s 0 [(0x01, .vpenPenalty)] ++
  insGroup 0x32 .v .v .unused 0 [(0x00, .vpenBias)] ++
  insGroup 0x33 .v .s .unused 0 [(0x00, .vtemp)] ++
  insGroup 0x34 .v .s .unused 0 [(0x00, .vtopk)] ++
  insGroup 0x35 .v .s .unused 0 [(0x00, .vtopp)] ++
  insGroup 0x36 .s .v .s 0 [(0x00, .vgmx)] ++
  insGroup 0x37 .s .v .unused 0 [(0x00, .vlse)] ++
  insGroup 0x38 .s .v .s 0 [(0x00, .vlprob)] ++
  insGroup 0x39 .unused .s .s 0 [(0x01, .vgradBack)] ++
  insGroup 0x39 .v .s .s 0 [(0x00, .vgradRow)] ++
  insGroup 0x3C .unused .s .s 0 [(0x00, .emitToken)] ++
  insGroup 0x3D .unused .s .s 0 [(0x00, .wvpinPin)] ++
  insGroup 0x3D .unused .s .unused 0 [(0x01, .wvpinUnpin)] ++
  insGroup 0x3E .unused .unused .unused 0 [(0x01, .halt)] ++
  insGroup 0x3E .unused .unused .unused 0xFFFFFFFF [(0x00, .trap)]

/-- Every instruction of the set, with the values that a load's or store's MINOR, a branch's OFFSET40 and a JET head give (R109 to R147). -/
def insTable (minor : BitVec 8) (off : BitVec 40) (head : Fin 8) : List InsRow :=
  let rq := fun i : Ins => if i.ext.toNat % 8 = 0 ∧ i.ext.toNat ≤ 184 then none else some 5
  insPlain ++
  [⟨.mfsr, 0x05, 0x00, .s, .unused, .unused, 0xFF000000, fun i => if i.mod ≤ 3 then none else some 5⟩,
   ⟨.mtsr, 0x05, 0x01, .unused, .s, .unused, 0xFF000000, fun i => if i.mod = 0 ∨ i.mod = 3 then none else some 5⟩,
   ⟨fun i => .br i off, 0x10, 0x00, .unused, .unused, .unused, 0xFFFFFFFF, fun _ => none⟩,
   ⟨fun i => .call i off, 0x11, 0x00, .s, .unused, .unused, 0xFFFFFFFF, fun _ => none⟩,
   ⟨fun i => .lds i minor, 0x14, minor.toNat, .s, .s, .unused, 0xFFFFFFFF, memBad false minor⟩,
   ⟨fun i => .sts i minor, 0x14, minor.toNat, .unused, .s, .s, 0xFFFFFFFF, memBad true minor⟩,
   ⟨fun i => .ldd i minor, 0x15, minor.toNat, .s, .s, .unused, 0xFFFFFFFF, memBad false minor⟩,
   ⟨fun i => .std i minor, 0x15, minor.toNat, .unused, .s, .s, 0xFFFFFFFF, memBad true minor⟩,
   ⟨.rqld, 0x18, 0x00, .s, .s, .unused, 0xFFFFFFFF, rq⟩,
   ⟨.rqst, 0x19, 0x00, .unused, .s, .s, 0xFFFFFFFF, rq⟩,
   ⟨.rqcas, 0x1A, 0x00, .s, .s, .s, 0xFFFFFFFF, rq⟩,
   ⟨.sigr, 0x24, 0x00, .unused, .s, .s, 0x01FFFFFF, fun i => if i.ext.getLsbD 24 = false ∧ i.imm24 ≠ 0 then some 5 else none⟩,
   ⟨.vbind, 0x2C, 0x00, .v, .s, .s, 0xFF0000FF, fun i => if 4 < i.mod ∨ 0x0D < i.imm24 % 256 then some 5 else none⟩,
   ⟨fun i => .vprojJet i head, 0x30, head.val + 1, .unused, .s, .s, 0, fun _ => none⟩,
   ⟨.emitFinal, 0x3C, 0x01, .unused, .s, .s, 0xFF000000, fun i => if i.mod = 0x07 ∨ i.mod = 0x08 ∨ i.mod = 0x09 then none else some 5⟩]

/-- The float group (R113) with its functions on binary32 bits. -/
def floatTable : List ((Ins → Instr) × (Nat → Nat → Nat)) :=
  [(.fadd, Machine.fadd), (.fsub, Machine.fsub), (.fmul, Machine.fmul), (.fdiv, Machine.fdiv), (.fmin, Machine.fmin), (.fmax, Machine.fmax)]

/-! ## Vector instructions -/

/-- The operands of a vector instruction may be used (R81, R83, R101, R102): every check passes, elen is not 0, every element
has its place, and the host refuses none. -/
def Eng.vGood (e : Eng) (i : Ins) (ops : List VOp) (l : List Loc) : Prop :=
  let x := e.ctx i.p i.c
  (∀ o, o ∈ ops → o.bad x = false ∧ e.vRange i.p x.elen.toNat o (x.vh o.num) = none) ∧ x.elen ≠ 0 ∧
  (ops.map fun o => e.vLoc i.p x.elen.toNat (x.vh o.num)) = l.map some ∧
  ∀ z, z ∈ ops.zip l → e.vRefused i.p x.elen.toNat z.1 (x.vh z.1.num) z.2 = none

/-- A vector instruction completed, writing values to v[dst]: memory and the scratch hold what the conversion of R87 stores
there, every register of the context but the program counter is as it was, and so is every other kind of state. -/
def Eng.vWrote (e t : Eng) (i : Ins) (l : Loc) (rnd : Nat → Option Word) (v : List Nat) : Prop :=
  let x := e.ctx i.p i.c
  let w := e.vWrite i.p i.c (x.vh i.dst.toNat) l rnd v
  t.mem = w.mem ∧ x.advanced { (t.ctx i.p i.c) with scratch := x.scratch } ∧ (t.ctx i.p i.c).scratch = (w.ctx i.p i.c).scratch ∧
  t.txns = e.txns ∧ t.cells = e.cells ∧ t.rqt = e.rqt ∧ t.ledgers = e.ledgers ∧ t.planeq = e.planeq ∧ t.out = e.out ∧
  (∀ q, q ≠ i.p → t.part q = e.part q) ∧ ∀ a, a ∉ slotRegs i.p → t.rd a = e.rd a

/-- A vector instruction with what the spec gives it: whether its fields obey R89, its operands, whether SRCB names a
request, whether it needs the jump matrices, and its result. -/
structure VSpec (α : Type) where
  op : Instr
  fields : Bool
  ops : List VOp
  req : Bool
  rom : Bool
  res : α

/-- VALU, VCOPY and VCVT (R140, R141): the destination first, and the elements before conversion. -/
def Eng.elemTable (e : Eng) (i : Ins) (l : List Loc) : List (VSpec (List Nat)) :=
  let two := [vDst i false okFloat, vSrcA i okFloat, vSrcB i okFloat]
  let one := [vDst i false okFloat, vSrcA i okFloat]
  let a := e.vArg i i.srca.toNat l 1
  let b := e.vArg i i.srcb.toNat l 2
  [⟨.vadd i, i.kinds .v .v .v, two, false, false, List.zipWith fadd a b⟩, ⟨.vsub i, i.kinds .v .v .v, two, false, false, List.zipWith fsub a b⟩,
   ⟨.vmul i, i.kinds .v .v .v, two, false, false, List.zipWith fmul a b⟩, ⟨.vmax i, i.kinds .v .v .v, two, false, false, List.zipWith fmax a b⟩,
   ⟨.vmin i, i.kinds .v .v .v, two, false, false, List.zipWith fmin a b⟩, ⟨.vcopy i, i.kinds .v .v .unused, one, false, false, a.map fcanon⟩,
   ⟨.vcvt i, i.kinds .v .v .s, one, false, false, a.map fcanon⟩]

/-- The instructions that rewrite a row v[dst] by their operands and parameters (R141, R142, R351, R352). -/
def Eng.rowTable (e : Eng) (i : Ins) (l : List Loc) : List (VSpec (List Nat)) :=
  let z := e.vArg i i.dst.toNat l 0
  let m := e.vArg i i.srca.toNat l 1
  let sp := e.sampP i.p ((e.reqB i).getD 0)
  let a := (e.sa i).toNat
  [⟨.vmaskBits i, i.kinds .v .v .unused, [vDst i true okRow, vSrcA i okBit], false, false, rowMask (fun k => decide (m.getD k 0 = 1)) z⟩,
   ⟨.vpenBias i, i.kinds .v .v .unused, [vDst i true okRow, vSrcA i okFp32], false, false, rowBias (fun k => m.getD k 0) z⟩,
   ⟨.vpenPenalty i, i.kinds .v .v .s, [vDst i true okRow, vSrcA i okBit], true, false,
     rowPenalty sp.rep sp.pres (fun k => decide (m.getD k 0 = 1)) z⟩,
   ⟨.vtemp i, i.kinds .v .s .unused, [vDst i true okRow], false, false, rowTemp (a % 2 ^ 32) z⟩,
   ⟨.vtopk i, i.kinds .v .s .unused, [vDst i true okRow], false, false, rowTopk (a % 2 ^ 21) z⟩,
   ⟨.vtopp i, i.kinds .v .s .unused, [vDst i true okRow], false, false, rowTopp (a % 2 ^ 32) z⟩,
   ⟨.vgradRow i, i.kinds .v .s .s, [vDst i true okRow], false, false, rowGrad ((e.sb i).toNat % 2 ^ 32) (a % 2 ^ 20) z⟩]

/-- The instructions that reduce a row v[srca] to s[dst] (R106, R107, R141, R353, R580). -/
def Eng.redTable (e : Eng) (i : Ins) (l : List Loc) : List (VSpec Nat) :=
  let z := e.vArg i i.srca.toNat l 0
  let slot := (e.reqB i).getD 0
  [⟨.vredSum i, i.kinds .s .v .unused, [vSrcA i okFloat], false, false, fcanon (reduceD fadd z)⟩,
   ⟨.vredMax i, i.kinds .s .v .unused, [vSrcA i okFloat], false, false, fcanon (reduceD fmax z)⟩,
   ⟨.vredMin i, i.kinds .s .v .unused, [vSrcA i okFloat], false, false, fcanon (reduceD fmin z)⟩,
   ⟨.vredArgmax i, i.kinds .s .v .unused, [vSrcA i okFloat], false, false, fcanon (rowArgmax z).1 + (rowArgmax z).2 * 2 ^ 32⟩,
   ⟨.vlse i, i.kinds .s .v .unused, [vSrcA i okRow], false, false, rowLse z⟩,
   ⟨.vgmx i, i.kinds .s .v .s, [vSrcA i okRow], true, true,
     ((rowDraw (e.noise slot (e.drawPos i.p slot) z.length) z).map fun k => k % 2 ^ 20).getD (2 ^ 63)⟩]

end Sys2Proof.Machine
end

