-- ==== Sys2Proof/Certificates/Slice0/Obligations.lean ====
section
/-! DEFINITION. The statements for the provers, chapter by chapter of the spec. Each is a property of every state unless it names a reset state. -/

open Sys2Proof Sys2Proof.Machine

/-- Beat time never decreases in a step, and only edges and frames of the beat unit move it by more than a tick. Rests on R25, R26. Rests on the model's choices of assumption log 4. -/
def Obligations.BeatTimeNeverDecreases : Prop :=
  ∀ s t : State, step s = .next t → (∀ c, s.pending.head? = some c → c.dropsBeat = false) →
    s.beat.time ≤ t.beat.time ∧ (s.pending = [] → t.beat.time ≤ s.beat.time + 1) ∧
    ∀ c, s.pending.head? = some c → c.movesBeat = false → t.beat.time = s.beat.time

/-- Every step keeps the beat unit legal. Rests on R32, R33, R42, R44. -/
def Obligations.BeatUnitStaysLegal : Prop :=
  ∀ s t : State, s.beat.legal → step s = .next t → t.beat.legal

/-- A LOCKED follower starts the predicted beat at the edge, its frame confirms it, jumps or is rejected; a lost edge enters FREE, which expires. Rests on R29, R30, R32, R34, R40, R41, R533. Rests on the model's choices of assumption log 11. -/
def Obligations.LockedEdgesAndFrames : Prop :=
  (∀ (s : State) (n : Nat), s.eng.bit Reg.glbStatus 31 = true → s.beat.st = .locked → s.beat.edge = none → s.beat.still = false → s.outOfRange = false → s.beat.waiting = none →
    ∃ t, exec (.onTimeEdge n) s = .next t ∧ t.beat.time = (s.beat.beat + 1) * 256 + s.tickAfter 0 ∧ t.beat.st = .locked ∧
      t.beat.edge = some ⟨n, s.beat.prevValid, true⟩ ∧ t.eng.regs = s.eng.regs ∧ t.eng.mem = s.eng.mem ∧ t.flash = s.flash) ∧
  ((∀ (s : State) (n : Nat) (f : BitVec 96), s.eng.bit Reg.glbStatus 31 = false →
    exec (.onTimeEdge n) s = .next s ∧ exec (.timecodeFrame f) s = .next s) ∧
  ∀ (s : State) (f : BitVec 96) (d : Edge), s.eng.bit Reg.glbStatus 31 = true → s.beat.st = .locked → s.beat.edge = some d → d.started = true → s.beat.still = false →
    s.outOfRange = false →
    (frameGood f = true → bitsOf f.toNat 87 40 = s.beat.beat →
      ∃ t, exec (.timecodeFrame f) s = .next t ∧ t.beat.edge = none ∧
        t.beat.time = s.beat.time ∧ t.beat.st = .locked ∧ t.beat.badRun = 0 ∧ t.eng.fld Reg.beatMasterId 15 0 = bitsOf f.toNat 31 16) ∧
    (frameGood f = true → s.beat.beat < bitsOf f.toNat 87 40 → f.getLsbD 38 = true →
      ∃ t, exec (.timecodeFrame f) s = .next t ∧ t.beat.edge = none ∧
        t.beat.time = bitsOf f.toNat 87 40 * 256 + t.tickAfter frameCycles ∧ t.eng.bit Reg.beatEvent 3 = true) ∧
    (frameGood f = false ∨ bitsOf f.toNat 87 40 < s.beat.beat ∨ (s.beat.beat < bitsOf f.toNat 87 40 ∧ f.getLsbD 38 = false) →
      ∃ t, exec (.timecodeFrame f) s = .next t ∧ t.beat.edge = none ∧
        t.beat.time = s.beat.time ∧ t.eng.bit Reg.beatEvent 4 = true ∧
        (s.beat.badRun < 7 → t.beat.st = .locked) ∧ (s.beat.badRun = 7 → t.beat.st = .free ∧ t.eng.bit Reg.beatEvent 0 = true))) ∧
  ((∀ s : State, s.beat.st = .locked → s.beat.edge = none → s.beat.still = false → s.beat.time % 256 = 255 →
    ∃ t, exec .beatLoss s = .next t ∧ t.beat.st = .free ∧ t.beat.time = (s.beat.beat + 1) * 256 + 32 ∧ t.eng.bit Reg.beatEvent 0 = true) ∧
  (∀ s : State, s.beat.st = .free ∨ s.beat.st = .expired → s.beat.waiting = none →
    ∃ t, exec .freeRunEdge s = .next t ∧ t.beat.time = (s.beat.beat + 1) * 256 ∧
      t.eng.fld Reg.beatFreeCount 12 0 = min (s.eng.fld Reg.beatFreeCount 12 0 + 1) 4096 ∧
      (s.beat.st = .free → s.eng.fld Reg.beatFreeCount 12 0 < 4095 → t.beat.st = .free) ∧
      (s.beat.st = .free → s.eng.fld Reg.beatFreeCount 12 0 = 4095 → t.beat.st = .expired ∧ t.eng.bit Reg.beatEvent 2 = true)))

/-- Every step keeps stored data canonical, ledgers within their bounds, version numbers distinct and at most one core ACTIVE. Rests on R50, R209, R213, R221, R434, R504, R505, R520, R574. -/
def Obligations.EveryStepKeepsTheEngineSound : Prop :=
  ∀ s t : State, s.eng.sound → step s = .next t → t.eng.sound

/-- A master edge starts a beat and, while wx_ready_o is high, sends a frame that every follower accepts. Rests on R28, R29, R43, R533, R579. Rests on the model's choices of assumption log 92. -/
def Obligations.MasterEdgeStartsBeatAndSendsFrame : Prop :=
  (∀ s : State, s.beat.st = .master → s.beat.waiting = none →
    let start := (s.eng.rd Reg.beatMasterStartLo).toNat + s.eng.fld Reg.beatMasterStartHi 15 0 * 2 ^ 32
    ∃ t n, exec .masterEdge s = .next t ∧ t.beat.time = n * 256 ∧ t.beat.masterFirst = false ∧
      t.eng.out = s.eng.out ++ (if s.eng.bit Reg.glbStatus 31 then [.frame (masterFrame n (s.eng.fld Reg.beatOwnId 15 0))] else []) ∧
      (s.beat.masterFirst = false → n = s.beat.beat + 1) ∧
      (s.beat.masterFirst = true → s.beat.time ≤ start * 256 → n = start) ∧
      (s.beat.masterFirst = true → start * 256 < s.beat.time → n = s.beat.beat + 1)) ∧
  ∀ beat id : Nat, beat < 2 ^ 48 → id < 2 ^ 16 →
    frameGood (masterFrame beat id) = true ∧ bitsOf (masterFrame beat id).toNat 87 40 = beat ∧
    bitsOf (masterFrame beat id).toNat 31 16 = id ∧ (masterFrame beat id).getLsbD 38 = false ∧ (masterFrame beat id).getLsbD 39 = false

/-- Writes of MODE act as R44 lists, and never move beat time. Rests on R44, R25. -/
def Obligations.ModeWritesFollowTheirTable : Prop :=
  ∀ s : State, s.eng.windowOpen = true →
    (∃ f m o, exec (.modeFollower .host) s = .next f ∧ exec (.modeMaster .host) s = .next m ∧ exec (.modeOff .host) s = .next o ∧
      f.beat.time = s.beat.time ∧ m.beat.time = s.beat.time ∧ o.beat.time = s.beat.time) ∧
    (s.beat.st = .idle → ∃ f, exec (.modeFollower .host) s = .next f ∧ f.beat.st = .acquire) ∧
    (s.beat.st = .idle ∨ s.beat.st = .acquire → ∃ m, exec (.modeMaster .host) s = .next m ∧ m.beat.st = .master ∧ m.beat.masterFirst = true) ∧
    (s.beat.st = .locked ∨ s.beat.st = .free ∨ s.beat.st = .expired → s.beat.waiting = none →
      ∃ m, exec (.modeMaster .host) s = .next m ∧ m.beat.st = s.beat.st ∧ m.beat.waiting = some .master ∧ m.eng.fld Reg.beatCtrl 1 0 = 2) ∧
    (s.beat.st = .master → s.beat.waiting = none →
      ∃ f, exec (.modeFollower .host) s = .next f ∧ f.beat.st = .master ∧ f.beat.waiting = some .follower ∧ f.eng.fld Reg.beatCtrl 1 0 = 1) ∧
    ((∀ p, p < 32 → s.eng.pstate p = psDisabled) →
      ∃ o, exec (.modeOff .host) s = .next o ∧ o.beat.st = .idle ∧ o.eng.fld Reg.beatCtrl 1 0 = 0) ∧
    ((∃ p, p < 32 ∧ s.eng.pstate p ≠ psDisabled) →
      ∃ o, exec (.modeOff .host) s = .next o ∧ o.beat.st = s.beat.st ∧ o.eng.bit Reg.beatEvent 6 = true)

/-- ENABLE is checked, leaves the partition pending, starts it when its conditions hold, and withdraws or resets it when cleared. Rests on R39, R52, R55, R60, R62, R418. -/
def Obligations.EnablingStartsAndEndsAPartition : Prop :=
  (∀ (s : State) (p : Fin 32), s.eng.windowOpen = true → s.eng.pstate p.val = psDisabled → s.eng.bit (Reg.partCtrl p.val) 0 = false →
    (s.eng.enableGood p.val = true → ∃ t, exec (.enableSet .host p) s = .next t ∧ t.eng.pstate p.val = psDisabled ∧
      t.eng.bit (Reg.partStatus p.val) 2 = true ∧ t.eng.bit (Reg.partCtrl p.val) 0 = true) ∧
    (s.eng.enableGood p.val = false → ∃ t, exec (.enableSet .host p) s = .next t ∧ t.eng.pstate p.val = psDisabled ∧
      t.eng.bit (Reg.partCtrl p.val) 0 = false ∧ t.eng.bit (Reg.partEvent p.val) 1 = true)) ∧
  (∀ (s : State) (p : Fin 32),
    (s.eng.startReady s.beat p.val = true → s.eng.deny = [] → s.eng.heldRings p.val = [] →
      ∃ t, exec (.partitionStart p) s = .next t ∧ t.eng.pstate p.val = psRunning ∧ t.eng.bit (Reg.partStatus p.val) 2 = false ∧
        t.eng.num (s.eng.headerAddr p.val none) 4 = hdOnline) ∧
    (s.eng.startReady s.beat p.val = false → exec (.partitionStart p) s = .next s)) ∧
  (∀ (s : State) (p : Fin 32), s.eng.windowOpen = true →
    (∃ t, exec (.enableClear .host p) s = .next t ∧ t.eng.bit (Reg.partCtrl p.val) 0 = false) ∧
    (s.eng.pstate p.val = psDisabled →
      ∃ t, exec (.enableClear .host p) s = .next t ∧ t.eng.pstate p.val = psDisabled ∧ t.eng.bit (Reg.partStatus p.val) 2 = false) ∧
    (s.eng.pstate p.val = psRunning ∨ s.eng.pstate p.val = psHalted →
      ∃ t, exec (.enableClear .host p) s = .next t ∧ t.eng.pstate p.val = psResetting))

/-- A partition reset stops contexts, abandons steps at its deadline, clears and ends DISABLED. Rests on R60, R61, R62, R562, R564. Rests on the model's choices of assumption log 122. -/
def Obligations.PartitionResetPhases : Prop :=
  (∀ (s : State) (p : Fin 32), s.eng.windowOpen = true →
    (s.eng.pstate p.val ≠ psResetting →
      ∃ t, exec (.partitionReset .host p) s = .next t ∧ t.eng.pstate p.val = psResetting ∧
        (t.eng.part p.val).resetAt = s.beat.time + 256 * max 1 (s.eng.fld (Reg.partResetTimeout p.val) 15 0) ∧
        ((∀ n, s.eng.joinedAt n ≠ [] → ∀ w, w ∈ (s.eng.cell n).queue → w.part ≠ p.val) →
        ∀ c, c < 16 → (s.eng.ctx p.val c).st = .ready ∨ (s.eng.ctx p.val c).st = .waiting ∨ (s.eng.ctx p.val c).st = .delayed →
          s.eng.mustWait p.val c = false → (t.eng.ctx p.val c).st = .stopped)) ∧
    (s.eng.pstate p.val = psResetting → exec (.partitionReset .host p) s = .next { s with eng := { s.eng with resp := ⟨true, 0⟩ } })) ∧
  (∀ (s : State) (p : Fin 32), s.eng.warm = true →
    ∃ t, exec (.partitionReset .host p) s = .next t ∧ t.eng.pstate p.val = s.eng.pstate p.val ∧ t.eng.resp = ⟨false, 0⟩ ∧
      t.eng.bit (Reg.partEvent p.val) 1 = true) ∧
  (∀ (s : State) (p : Fin 32), s.eng.pstate p.val = psResetting → (s.eng.part p.val).resetPhase3 = false →
    (s.eng.part p.val).resetAt ≤ s.beat.time →
    ∃ t, exec (.resetDeadline p) s = .next t ∧ (t.eng.part p.val).resetPhase3 = true ∧ (t.eng.part p.val).steps = []) ∧
  (∀ (s : State) (p : Fin 32), s.eng.pstate p.val = psResetting → (s.eng.part p.val).resetPhase3 = true → s.eng.spoutBusy p.val = false →
    s.eng.ctxsQuiet p.val = true → (s.eng.part p.val).coreDown = false → s.eng.bit (Reg.partCtrl p.val) 0 = false →
    ∃ t, exec (.resetClearDone p) s = .next t ∧ t.eng.pstate p.val = psDisabled ∧ t.eng.bit (Reg.partEvent p.val) 0 = true ∧
      (∀ c, t.eng.ctx p.val c = Ctx.cleared) ∧
      (∀ n, s.eng.inRange p.val s.eng.semBase s.eng.semSize n = true → t.eng.cell n = Cell.zero) ∧
      (t.eng.part p.val).nextStep = 0 ∧ t.eng.liveSlots p.val = [] ∧ t.eng.ledgers = s.eng.ledgers)

/-- Context commands act on their context or complete with ERR 0x1, and every completion raises CMD_DONE. Rests on R65, R66, R68, R79, R80, R487, R562, R564. Rests on the model's choices of assumption log 122. -/
def Obligations.ContextCommandsAct : Prop :=
  (∀ (s : State) (p : Fin 32) (c : Fin 16), s.eng.windowOpen = true → s.eng.pstate p.val ≠ psResetting →
    s.eng.bit (Reg.partCtxCmd p.val) 31 = false →
    ((s.eng.ctx p.val c.val).st = .free → ∃ t, exec (.ctxStart .host p c) s = .next t ∧ t.eng.bit (Reg.partCtxCmd p.val) 31 = true ∧
        (t.eng.ctx p.val c.val).pc.toNat = s.eng.entryPc p.val ∧ (t.eng.ctx p.val c.val).sreg 1 = BitVec.ofNat 64 c.val ∧ (∀ k, k ≠ 1 → (t.eng.ctx p.val c.val).sreg k = 0) ∧
        (t.eng.ctx p.val c.val).p = 0 ∧ (∀ k, (t.eng.ctx p.val c.val).vh k = VHandle.unbound) ∧ (t.eng.ctx p.val c.val).elen = 0 ∧
        (t.eng.ctx p.val c.val).fault = 0 ∧ (t.eng.ctx p.val c.val).semtab = [] ∧ (t.eng.ctx p.val c.val).scratch = []) ∧
    ((s.eng.ctx p.val c.val).st ≠ .free → ∃ t, exec (.ctxStart .host p c) s = .next t ∧ t.eng.bit (Reg.partCtxCmd p.val) 31 = true ∧
      t.eng.ctx p.val c.val = s.eng.ctx p.val c.val ∧ (t.eng.part p.val).cmd = some (1, c.val, 1)) ∧
    ((s.eng.ctx p.val c.val).st = .ready ∨ (s.eng.ctx p.val c.val).st = .waiting ∨ (s.eng.ctx p.val c.val).st = .delayed →
      s.eng.mustWait p.val c.val = false → ∃ t, exec (.ctxStop .host p c) s = .next t ∧ t.eng.bit (Reg.partCtxCmd p.val) 31 = true ∧
        (t.eng.ctx p.val c.val).st = .stopped) ∧
    (s.eng.mustWait p.val c.val = false → ∃ t, exec (.ctxReset .host p c) s = .next t ∧
      t.eng.bit (Reg.partCtxCmd p.val) 31 = true ∧ t.eng.ctx p.val c.val = Ctx.cleared) ∧
    ((s.eng.ctx p.val c.val).st = .stopped → ∃ t, exec (.ctxResume .host p c) s = .next t ∧ t.eng.bit (Reg.partCtxCmd p.val) 31 = true ∧
      Ctx.sameRegs (s.eng.ctx p.val c.val) (t.eng.ctx p.val c.val) ∧
      ((t.eng.ctx p.val c.val).st = .ready ∨ (t.eng.ctx p.val c.val).st = .running)) ∧
    ((s.eng.ctx p.val c.val).st ≠ .stopped → ∃ t, exec (.ctxResume .host p c) s = .next t ∧ t.eng.bit (Reg.partCtxCmd p.val) 31 = true ∧
      t.eng.ctx p.val c.val = s.eng.ctx p.val c.val ∧ (t.eng.part p.val).cmd = some (6, c.val, 1)) ∧
    (∀ st op n, (st, op, n) ∈ [(CtxSt.free, Instr.ctxStop .host p c, 2), (.stopped, .ctxStop .host p c, 2), (.faulted, .ctxStop .host p c, 2),
        (.saved, .ctxStop .host p c, 2), (.free, .ctxSave .host p c, 3), (.saved, .ctxSave .host p c, 3), (.ready, .ctxRestore .host p c, 4),
        (.running, .ctxRestore .host p c, 4), (.waiting, .ctxRestore .host p c, 4), (.delayed, .ctxRestore .host p c, 4),
        (.stopped, .ctxRestore .host p c, 4), (.faulted, .ctxRestore .host p c, 4)] → (s.eng.ctx p.val c.val).st = st →
      ∃ t, exec op s = .next t ∧ t.eng.bit (Reg.partCtxCmd p.val) 31 = true ∧
        t.eng.ctx p.val c.val = s.eng.ctx p.val c.val ∧ (t.eng.part p.val).cmd = some (n, c.val, 1))) ∧
  (∀ (s : State) (p : Fin 32) (c : Fin 16), s.eng.warm = true →
    ∀ op, op ∈ [Instr.ctxStart .host p c, .ctxStop .host p c, .ctxSave .host p c, .ctxRestore .host p c, .ctxReset .host p c, .ctxResume .host p c] →
      ∃ t, exec op s = .next t ∧ t.eng.ctx p.val c.val = s.eng.ctx p.val c.val ∧ t.eng.resp = ⟨false, 0⟩ ∧
        t.eng.bit (Reg.partEvent p.val) 1 = true) ∧
  (∀ (s : State) (p : Fin 32), (s.eng.part p.val).coreDown = true → exec (.ctxCmdComplete p) s = .next s) ∧
  (∀ (s : State) (p : Fin 32) (op c err : Nat), (s.eng.part p.val).cmd = some (op, c, err) → (s.eng.part p.val).coreDown = false → err < 16 →
    err ≠ 0 ∨ ((op = 1 ∨ op = 2 ∨ op = 5 ∨ op = 6) ∧ (s.eng.ctx p.val c).stopReq = none) →
    ∃ t, exec (.ctxCmdComplete p) s = .next t ∧ t.eng.bit (Reg.partCtxCmd p.val) 31 = false ∧
      t.eng.fld (Reg.partCtxCmd p.val) 19 16 = err ∧ t.eng.bit (Reg.partEvent p.val) 6 = true)

/-- SAVE and RESTORE begin in the background; their completion writes, or checks and loads, the save area. Rests on R66, R69, R70, R71, R72, R581. -/
def Obligations.SaveWritesTheAreaAndRestoreReadsIt : Prop :=
  (∀ (s : State) (p : Fin 32) (c : Fin 16), s.eng.windowOpen = true → s.eng.pstate p.val ≠ psResetting →
    s.eng.bit (Reg.partCtxCmd p.val) 31 = false →
    ((s.eng.ctx p.val c.val).st = .ready → ∃ t, exec (.ctxSave .host p c) s = .next t ∧ t.eng.bit (Reg.partCtxCmd p.val) 31 = true ∧
      (t.eng.ctx p.val c.val).st = .stopped ∧ (t.eng.ctx p.val c.val).saveSt = .ready ∧
      t.eng.pair (Reg.partCtxProgressLo p.val) (Reg.partCtxProgressHi p.val) = 5 * 2 ^ 48) ∧
    ((s.eng.ctx p.val c.val).st = .free → ∃ t, exec (.ctxRestore .host p c) s = .next t ∧ t.eng.bit (Reg.partCtxCmd p.val) 31 = true ∧
      (t.eng.ctx p.val c.val) = (s.eng.ctx p.val c.val) ∧ (t.eng.part p.val).cmd = some (4, c.val, 0) ∧
      t.eng.pair (Reg.partCtxProgressLo p.val) (Reg.partCtxProgressHi p.val) = 5 * 2 ^ 48)) ∧
  (∀ (s : State) (p : Fin 32) (c : Fin 16), (s.eng.part p.val).cmd = some (3, c.val, 0) → (s.eng.part p.val).coreDown = false → (s.eng.ctx p.val c.val).stopReq = none →
    s.eng.deny = [] →
    ∃ t, exec (.ctxCmdComplete p) s = .next t ∧ (t.eng.ctx p.val c.val).st = .saved ∧ t.eng.fld (Reg.partCtxCmd p.val) 19 16 = 0 ∧
      t.eng.bytes (s.eng.saveAddr p.val c.val) saveSize = s.eng.saveArea s.beat p.val c.val ∧
      ∀ a, (∀ k, k < saveSize → a % 2 ^ 64 ≠ (s.eng.saveAddr p.val c.val + k) % 2 ^ 64) → t.eng.byte a = s.eng.byte a) ∧
  (∀ (s : State) (p : Fin 32) (c : Fin 16), (s.eng.part p.val).cmd = some (4, c.val, 0) → (s.eng.part p.val).coreDown = false → (s.eng.ctx p.val c.val).stopReq = none →
    s.eng.deny = [] → s.eng.restoreErr p.val (s.eng.bytes (s.eng.saveAddr p.val c.val) saveSize) ≠ 0 →
    ∃ t, exec (.ctxCmdComplete p) s = .next t ∧ t.eng.ctx p.val c.val = Ctx.cleared ∧ t.eng.bit (Reg.partEvent p.val) 5 = true ∧
      t.eng.fld (Reg.partCtxCmd p.val) 19 16 = s.eng.restoreErr p.val (s.eng.bytes (s.eng.saveAddr p.val c.val) saveSize) ∧
      t.eng.mem = s.eng.mem)

/-- A context read from the save area that SAVE writes has the registers it was saved with. Rests on R69, R70, R71, R72, R73. -/
def Obligations.SaveAreaRoundTrip : Prop :=
  ∀ (b : BeatUnit) (e : Eng) (p c : Nat), p < 32 → c < 16 →
    (∀ r, r < 32 → (ctxOfArea (e.saveArea b p c)).sreg r = (e.ctx p c).sreg r) ∧
    (∀ r, r < 8 → (ctxOfArea (e.saveArea b p c)).pred r = (e.ctx p c).pred r) ∧
    (∀ r, r < 16 → (ctxOfArea (e.saveArea b p c)).vh r = (e.ctx p c).vh r) ∧
    (ctxOfArea (e.saveArea b p c)).elen = (e.ctx p c).elen ∧ (ctxOfArea (e.saveArea b p c)).fault = (e.ctx p c).fault ∧
    (ctxOfArea (e.saveArea b p c)).pc = (e.ctx p c).pc ∧
    (∀ k, k < 4096 → kget SemEnt.invalid (ctxOfArea (e.saveArea b p c)).semtab k = kget SemEnt.invalid (e.ctx p c).semtab k) ∧
    (∀ k, k < 8192 → kget 0 (ctxOfArea (e.saveArea b p c)).scratch k = kget 0 (e.ctx p c).scratch k) ∧
    (e.saveArea b p c).length = saveSize ∧
    ((e.ctx p c).semSpan ≤ e.semSize p → (CtxSt.ofSaved (e.ctx p c).saveSt.code).isSome = true →
      e.restoreErr p (e.saveArea b p c) = 0)

/-- Every ALU instruction, register or immediate, writes its function of its operands and nothing else. Rests on R75, R76, R89, R111. Rests on the model's choices of assumption log 6. -/
def Obligations.AluGroupResults : Prop :=
  (∀ op, op ∈ aluTable → ∀ (s : State) (i : Ins), s.issues i → i.ext = 0 →
    ∃ t, exec (op.1 i) s = .next t ∧ t.beat = s.beat ∧ t.flash = s.flash ∧ s.eng.frame t.eng i.p i.c ∧
      (s.eng.ctx i.p i.c).wroteS (t.eng.ctx i.p i.c) i.dst.toNat
        (op.2 ((s.eng.ctx i.p i.c).sreg i.srca.toNat) ((s.eng.ctx i.p i.c).sreg i.srcb.toNat))) ∧
  (∀ op, op ∈ aluImmTable → ∀ (s : State) (i : Ins), s.issues i → i.srcb = 0 →
    ∃ t, exec (op.1 i) s = .next t ∧ t.beat = s.beat ∧ t.flash = s.flash ∧ s.eng.frame t.eng i.p i.c ∧
      (s.eng.ctx i.p i.c).wroteS (t.eng.ctx i.p i.c) i.dst.toNat (op.2 ((s.eng.ctx i.p i.c).sreg i.srca.toNat) (i.ext.signExtend 64)))

/-- Compares and predicate instructions write one predicate, float instructions one binary32, and nothing else. Rests on R75, R86, R89, R107, R112, R113. -/
def Obligations.ComparePredicateAndFloatResults : Prop :=
  ((∀ op, op ∈ cmpTable → ∀ (s : State) (i : Ins), s.issues i → i.dst.toNat < 8 →
    (i.ext = 0 → ∃ t, exec (op.1 i) s = .next t ∧ t.beat = s.beat ∧ t.flash = s.flash ∧ s.eng.frame t.eng i.p i.c ∧
      (s.eng.ctx i.p i.c).wroteP (t.eng.ctx i.p i.c) i.dst.toNat
        (op.2.2 ((s.eng.ctx i.p i.c).sreg i.srca.toNat) ((s.eng.ctx i.p i.c).sreg i.srcb.toNat))) ∧
    (i.srcb = 0 → ∃ t, exec (op.2.1 i) s = .next t ∧ t.beat = s.beat ∧ t.flash = s.flash ∧ s.eng.frame t.eng i.p i.c ∧
      (s.eng.ctx i.p i.c).wroteP (t.eng.ctx i.p i.c) i.dst.toNat (op.2.2 ((s.eng.ctx i.p i.c).sreg i.srca.toNat) (i.ext.signExtend 64)))) ∧
  (∀ op, op ∈ predTable → ∀ (s : State) (i : Ins), s.issues i → i.dst.toNat < 8 → i.srca.toNat < 8 → i.srcb.toNat < 8 → i.ext = 0 →
    ∃ t, exec (op.1 i) s = .next t ∧ t.beat = s.beat ∧ t.flash = s.flash ∧ s.eng.frame t.eng i.p i.c ∧
      (s.eng.ctx i.p i.c).wroteP (t.eng.ctx i.p i.c) i.dst.toNat
        (op.2 ((s.eng.ctx i.p i.c).pred i.srca.toNat) ((s.eng.ctx i.p i.c).pred i.srcb.toNat)))) ∧
  ((∀ op, op ∈ floatTable → ∀ (s : State) (i : Ins), s.issues i → i.ext = 0 →
    ∃ t, exec (op.1 i) s = .next t ∧ s.eng.frame t.eng i.p i.c ∧
      (s.eng.ctx i.p i.c).wroteS (t.eng.ctx i.p i.c) i.dst.toNat
        (BitVec.ofNat 64 (op.2 (((s.eng.ctx i.p i.c).sreg i.srca.toNat).toNat % 2 ^ 32) (((s.eng.ctx i.p i.c).sreg i.srcb.toNat).toNat % 2 ^ 32)))) ∧
  (∀ (s : State) (i : Ins), s.issues i → i.ext = 0 → i.srcb = 0 →
    (∃ t, exec (.fcvti i) s = .next t ∧ s.eng.frame t.eng i.p i.c ∧
      (s.eng.ctx i.p i.c).wroteS (t.eng.ctx i.p i.c) i.dst.toNat (BitVec.ofNat 64 (f32OfInt ((s.eng.ctx i.p i.c).sreg i.srca.toNat).toInt))) ∧
    (∃ t, exec (.ftrunc i) s = .next t ∧ s.eng.frame t.eng i.p i.c ∧
      (s.eng.ctx i.p i.c).wroteS (t.eng.ctx i.p i.c) i.dst.toNat
        (BitVec.ofInt 64 (f32ToInt64 (((s.eng.ctx i.p i.c).sreg i.srca.toNat).toNat % 2 ^ 32))))) ∧
  (∀ op, op ∈ floatTable → ∀ a b : Nat, a < 2 ^ 32 → b < 2 ^ 32 → op.2 a b < 2 ^ 32 ∧ (unF32 (op.2 a b) = .nan → op.2 a b = 0x7FC00000)) ∧
  ∀ n : Int, n.natAbs ≤ 2 ^ 24 → f32ToInt64 (f32OfInt n) = n)

/-- MFSR reads and MTSR writes the special registers of R77; elen outside its range faults. Rests on R77, R78, R79, R114, R46. -/
def Obligations.SpecialRegisterMoves : Prop :=
  (∀ (s : State) (i : Ins), s.issues i → i.srca = 0 → i.srcb = 0 → i.imm24 = 0 → i.mod ≤ 3 →
    ∃ t, exec (.mfsr i) s = .next t ∧ s.eng.frame t.eng i.p i.c ∧
      (s.eng.ctx i.p i.c).wroteS (t.eng.ctx i.p i.c) i.dst.toNat
        (if i.mod = 0 then (s.eng.ctx i.p i.c).elen.setWidth 64
         else if i.mod = 1 then BitVec.ofNat 64 (s.eng.fld Reg.mgmtLevel 15 0 * 2 ^ 16 + i.p * 16 + i.c)
         else if i.mod = 2 then BitVec.ofNat 64 s.beat.stamp else (s.eng.ctx i.p i.c).fault)) ∧
  (∀ (s : State) (i : Ins), s.issues i → i.dst = 0 → i.srcb = 0 → i.imm24 = 0 →
    (i.mod = 3 → ∃ t, exec (.mtsr i) s = .next t ∧ s.eng.frame t.eng i.p i.c ∧ (t.eng.ctx i.p i.c).pc = (s.eng.ctx i.p i.c).pc + 8 ∧
      (t.eng.ctx i.p i.c).fault = (s.eng.ctx i.p i.c).sreg i.srca.toNat ∧ (t.eng.ctx i.p i.c).s = (s.eng.ctx i.p i.c).s ∧
      (t.eng.ctx i.p i.c).elen = (s.eng.ctx i.p i.c).elen) ∧
    (i.mod = 0 → 1 ≤ ((s.eng.ctx i.p i.c).sreg i.srca.toNat).toNat → ((s.eng.ctx i.p i.c).sreg i.srca.toNat).toNat ≤ 1048576 →
      ∃ t, exec (.mtsr i) s = .next t ∧ s.eng.frame t.eng i.p i.c ∧ (t.eng.ctx i.p i.c).pc = (s.eng.ctx i.p i.c).pc + 8 ∧
        (t.eng.ctx i.p i.c).elen.toNat = ((s.eng.ctx i.p i.c).sreg i.srca.toNat).toNat ∧
        (t.eng.ctx i.p i.c).fault = (s.eng.ctx i.p i.c).fault ∧ (t.eng.ctx i.p i.c).s = (s.eng.ctx i.p i.c).s) ∧
    (i.mod = 0 → ((s.eng.ctx i.p i.c).sreg i.srca.toNat).toNat = 0 ∨ 1048576 < ((s.eng.ctx i.p i.c).sreg i.srca.toNat).toNat →
      ∃ t, exec (.mtsr i) s = .next t ∧ (s.eng.ctx i.p i.c).faultedWith (t.eng.ctx i.p i.c)
        (BitVec.ofNat 64 (0x07 * 2 ^ 56 + 2 * 2 ^ 52 + ((s.eng.ctx i.p i.c).sreg i.srca.toNat).toNat % 2 ^ 48))))

/-- LIH, BR, CALL and JR have the effects that R112 writes out. Rests on R112. -/
def Obligations.BranchesMoveTheProgramCounter : Prop :=
  ∀ (s : State) (i : Ins) (off : BitVec 40), s.issues i →
    (i.srcb = 0 → ∃ t, exec (.lih i) s = .next t ∧ s.eng.frame t.eng i.p i.c ∧
      (s.eng.ctx i.p i.c).wroteS (t.eng.ctx i.p i.c) i.dst.toNat
        (((s.eng.ctx i.p i.c).sreg i.srca.toNat &&& 0xFFFFFFFF#64) ||| (i.ext.setWidth 64 <<< 32))) ∧
    (i.dst = 0 → i.srca = 0 → i.srcb = 0 → ∃ t, exec (.br i off) s = .next t ∧ s.eng.frame t.eng i.p i.c ∧
      (t.eng.ctx i.p i.c).pc = (s.eng.ctx i.p i.c).pc + 8 * off.signExtend 64 ∧ (t.eng.ctx i.p i.c).s = (s.eng.ctx i.p i.c).s) ∧
    (i.srca = 0 → i.srcb = 0 → ∃ t, exec (.call i off) s = .next t ∧ s.eng.frame t.eng i.p i.c ∧
      (t.eng.ctx i.p i.c).pc = (s.eng.ctx i.p i.c).pc + 8 * off.signExtend 64 ∧
      ∀ k, (t.eng.ctx i.p i.c).sreg k = if k = 0 then 0 else if k = i.dst.toNat then (s.eng.ctx i.p i.c).pc + 8 else (s.eng.ctx i.p i.c).sreg k) ∧
    (i.srcb = 0 → i.ext = 0 → ∃ t, exec (.jr i) s = .next t ∧ s.eng.frame t.eng i.p i.c ∧
      (t.eng.ctx i.p i.c).pc = (s.eng.ctx i.p i.c).sreg i.srca.toNat ∧
      ∀ k, (t.eng.ctx i.p i.c).sreg k = if k = 0 then 0 else if k = i.dst.toNat then (s.eng.ctx i.p i.c).pc + 8 else (s.eng.ctx i.p i.c).sreg k)

/-- An instruction whose guard reads 0 has no effect other than advancing the program counter; ILLEGAL is raised whatever the guard reads. Formalises R93. -/
def Obligations.GuardOffOnlyAdvances : Prop :=
  ∀ (minor : BitVec 8) (off : BitVec 40) (head : Fin 8) (r : InsRow), r ∈ insTable minor off head →
    ∀ (s : State) (i : Ins), s.issues { i with pred := 0 } → (s.eng.ctx i.p i.c).pred i.pred.toNat = false →
      (r.illegal i = none →
        exec (r.op i) s = .next { s with eng := s.eng.finish s.beat i.p i.c id } ∧
        s.eng.frame (s.eng.finish s.beat i.p i.c id) i.p i.c ∧
        Ctx.sameRegs { (s.eng.ctx i.p i.c) with pc := (s.eng.ctx i.p i.c).pc + 8 } ((s.eng.finish s.beat i.p i.c id).ctx i.p i.c)) ∧
      (∀ o, r.illegal i = some o → ∃ t, exec (r.op i) s = .next t ∧ (s.eng.ctx i.p i.c).faultedWith (t.eng.ctx i.p i.c)
        (BitVec.ofNat 64 (0x02 * 2 ^ 56 + o * 2 ^ 52 + r.major * 256 + r.minor)))

/-- A field that breaks R89, a reserved bit of EXT, a reserved MINOR, MOD or IMM, and a word naming no instruction raise ILLEGAL and change no register but fault. Rests on R89, R90, R91, R96, R97, R98. -/
def Obligations.ReservedBitsRaiseIllegal : Prop :=
  (∀ (minor : BitVec 8) (off : BitVec 40) (head : Fin 8) (r : InsRow), r ∈ insTable minor off head → ∀ (s : State) (i : Ins) (o : Nat),
    s.issues { i with pred := 0 } → r.illegal i = some o →
    ∃ t, exec (r.op i) s = .next t ∧ t.eng.cells = s.eng.cells ∧ s.eng.onlyFaultRec t.eng i.p ∧
      (s.eng.ownsBatch i.p i.c = false → t.eng.rqt = s.eng.rqt) ∧
      (s.eng.ctx i.p i.c).faultedWith (t.eng.ctx i.p i.c) (BitVec.ofNat 64 (0x02 * 2 ^ 56 + o * 2 ^ 52 + r.major * 256 + r.minor)) ∧
      t.eng.bit (Reg.partEvent i.p) 4 = true) ∧
  (∀ (s : State) (p : Fin 32) (c : Fin 16) (w : BitVec 64), s.issues { Ins.ofWord p c w with pred := 0 } →
    assigned (wordMajor w).toNat (wordMinor w).toNat = false →
    ∃ t, exec (Instr.ofWord p c w) s = .next t ∧ t.eng.cells = s.eng.cells ∧ s.eng.onlyFaultRec t.eng p.val ∧
      (s.eng.ownsBatch p.val c.val = false → t.eng.rqt = s.eng.rqt) ∧
      (s.eng.ctx p.val c.val).faultedWith (t.eng.ctx p.val c.val)
        (BitVec.ofNat 64 (0x02 * 2 ^ 56 + (wordMajor w).toNat * 256 + (wordMinor w).toNat)) ∧
      t.eng.bit (Reg.partEvent p.val) 4 = true)

/-- LDS reads and STS writes the context scratch at the sum of base and offset; a bad access raises SCRATCH. Rests on R101, R115, R116. -/
def Obligations.ScratchAccesses : Prop :=
  ∀ (s : State) (i : Ins) (minor : BitVec 8), s.issues i → minor.toNat < 16 →
    (minor.getLsbD 3 = false → i.srcb = 0 →
      (scratchBad (memAddr s.eng i) (memSize minor) = false → ∃ t, exec (.lds i minor) s = .next t ∧ s.eng.frame t.eng i.p i.c ∧
        (s.eng.ctx i.p i.c).wroteS (t.eng.ctx i.p i.c) i.dst.toNat (loadValue (memSize minor) (minor.getLsbD 2)
          (ofLe ((List.range (memSize minor)).map fun k => kget 0 (s.eng.ctx i.p i.c).scratch (memAddr s.eng i + k))))) ∧
      (scratchBad (memAddr s.eng i) (memSize minor) = true → ∃ t, exec (.lds i minor) s = .next t ∧
        (s.eng.ctx i.p i.c).faultedWith (t.eng.ctx i.p i.c) (BitVec.ofNat 64 (0x04 * 2 ^ 56 + 2 * 2 ^ 52 + memAddr s.eng i % 2 ^ 48)))) ∧
    (minor.getLsbD 3 = true → minor.getLsbD 2 = false → i.dst = 0 → scratchBad (memAddr s.eng i) (memSize minor) = true →
      ∃ t, exec (.sts i minor) s = .next t ∧
        (s.eng.ctx i.p i.c).faultedWith (t.eng.ctx i.p i.c) (BitVec.ofNat 64 (0x04 * 2 ^ 56 + 2 * 2 ^ 52 + memAddr s.eng i % 2 ^ 48))) ∧
    (minor.getLsbD 3 = true → minor.getLsbD 2 = false → i.dst = 0 → scratchBad (memAddr s.eng i) (memSize minor) = false →
      ∃ t, exec (.sts i minor) s = .next t ∧ s.eng.frame t.eng i.p i.c ∧ (t.eng.ctx i.p i.c).s = (s.eng.ctx i.p i.c).s ∧
        (t.eng.ctx i.p i.c).pc = (s.eng.ctx i.p i.c).pc + 8 ∧
        (t.eng.ctx i.p i.c).scr (memAddr s.eng i) (memSize minor) =
          ((s.eng.ctx i.p i.c).sreg i.srcb.toNat).toNat % 2 ^ (8 * memSize minor) ∧
        ∀ a, a < 8192 → a < memAddr s.eng i ∨ memAddr s.eng i + memSize minor ≤ a →
          kget 0 (t.eng.ctx i.p i.c).scratch a = kget 0 (s.eng.ctx i.p i.c).scratch a)

/-- LDD and STD send one transaction for the address that they compute and wait; nothing is stored yet. Rests on R94, R101, R102, R116. -/
def Obligations.DeviceAccessesGoOutOnce : Prop :=
  ∀ (s : State) (i : Ins) (minor : BitVec 8), s.issues i → minor.toNat < 16 →
    (minor.getLsbD 3 = false → i.srcb = 0 → memAddr s.eng i % memSize minor = 0 →
      ∃ t, exec (.ldd i minor) s = .next t ∧ t.eng.mem = s.eng.mem ∧ (t.eng.ctx i.p i.c).pend = some .mem ∧
        (t.eng.ctx i.p i.c).st = .running ∧ Ctx.sameRegs (s.eng.ctx i.p i.c) (t.eng.ctx i.p i.c) ∧
        t.eng.txns = s.eng.txns ++ [⟨s.eng.nextId, i.p, memAddr s.eng i, s.eng.memPort (memAddr s.eng i),
          .load i.p i.c (memSize minor) (minor.getLsbD 2) i.dst⟩]) ∧
    (minor.getLsbD 3 = true → minor.getLsbD 2 = false → i.dst = 0 → memAddr s.eng i % memSize minor = 0 →
      ∃ t, exec (.std i minor) s = .next t ∧ t.eng.mem = s.eng.mem ∧ (t.eng.ctx i.p i.c).pend = some .mem ∧
        (t.eng.ctx i.p i.c).st = .running ∧ Ctx.sameRegs (s.eng.ctx i.p i.c) (t.eng.ctx i.p i.c) ∧
        t.eng.txns = s.eng.txns ++ [⟨s.eng.nextId, i.p, memAddr s.eng i, s.eng.memPort (memAddr s.eng i),
          .store i.p i.c (leBytes (memSize minor) ((s.eng.ctx i.p i.c).sreg i.srcb.toNat).toNat)⟩]) ∧
    (∀ op, (op = Instr.ldd i minor ∧ minor.getLsbD 3 = false ∧ i.srcb = 0) ∨
        (op = Instr.std i minor ∧ minor.getLsbD 3 = true ∧ minor.getLsbD 2 = false ∧ i.dst = 0) → memAddr s.eng i % memSize minor ≠ 0 →
      ∃ t, exec op s = .next t ∧ t.eng.txns = s.eng.txns ∧ s.eng.onlyFaultRec t.eng i.p ∧
        (s.eng.ctx i.p i.c).faultedWith (t.eng.ctx i.p i.c) (BitVec.ofNat 64 (0x05 * 2 ^ 56 + 2 * 2 ^ 52 + memAddr s.eng i % 2 ^ 48)))

/-- A response completes a load or a store; a store that draws an error has not been made. Rests on R102, R116, R463, R535, R581. -/
def Obligations.ResponsesCompleteDeviceAccesses : Prop :=
  (∀ (s : State) (id : Nat) (r : MemResp), (∀ t, t ∈ s.eng.txns → t.id ≠ id) → exec (.memResponse id r) s = .next s) ∧
  (∀ (s : State) (x : Txn) (p c n : Nat) (sgn : Bool) (dst : BitVec 5), (s.eng.txns.find? fun t => decide (t.id = x.id)) = some x →
    x.kind = .load p c n sgn dst → (s.eng.ctx p c).st = .running → (s.eng.ctx p c).stopReq = none →
    (∃ t, exec (.memResponse x.id .okay) s = .next t ∧ t.eng.mem = s.eng.mem ∧
      (s.eng.ctx p c).wroteS (t.eng.ctx p c) dst.toNat (loadValue n sgn (s.eng.num x.addr n)) ∧ ∀ y, y ∈ t.eng.txns → y.id ≠ x.id) ∧
    (∀ r, r = .slverr ∨ r = .decerr ∨ r = .exokay → ∃ t, exec (.memResponse x.id r) s = .next t ∧ s.eng.onlyFaultRec t.eng p ∧
      (s.eng.ctx p c).faultedWith (t.eng.ctx p c) (BitVec.ofNat 64 (0x05 * 2 ^ 56 + 2 * 2 ^ 52 + x.addr % 2 ^ 48)))) ∧
  (∀ (s : State) (x : Txn) (p c : Nat) (d : List Byte), (s.eng.txns.find? fun t => decide (t.id = x.id)) = some x →
    x.kind = .store p c d → d.length ≤ 8 → (s.eng.ctx p c).st = .running → (s.eng.ctx p c).stopReq = none →
    (∃ t, exec (.memResponse x.id .okay) s = .next t ∧ t.eng.bytes x.addr d.length = d ∧
      (∀ a, (∀ k, k < d.length → a % 2 ^ 64 ≠ (x.addr + k) % 2 ^ 64) → t.eng.byte a = s.eng.byte a) ∧
      (t.eng.ctx p c).s = (s.eng.ctx p c).s ∧ (t.eng.ctx p c).pc = (s.eng.ctx p c).pc + 8) ∧
    ∀ r, r = .slverr ∨ r = .decerr ∨ r = .exokay → ∃ t, exec (.memResponse x.id r) s = .next t ∧ s.eng.onlyFaultRec t.eng p ∧
      (s.eng.ctx p c).faultedWith (t.eng.ctx p c) (BitVec.ofNat 64 (0x05 * 2 ^ 56 + 2 * 2 ^ 52 + x.addr % 2 ^ 48)))

/-- RQLD, RQST and RQCAS act on the word of the entry that a good handle names; a bad handle raises REQUEST. Rests on R118, R119, R221. -/
def Obligations.RequestTableInstructions : Prop :=
  ∀ (s : State) (i : Ins), s.issues i → i.ext.toNat % 8 = 0 → i.ext.toNat ≤ 184 →
    (∀ n, s.eng.slotOf i.p (((s.eng.ctx i.p i.c).sreg i.srca.toNat).toNat % 2 ^ 32) = some n →
      (i.srcb = 0 → ∃ t, exec (.rqld i) s = .next t ∧ s.eng.frame t.eng i.p i.c ∧
        (s.eng.ctx i.p i.c).wroteS (t.eng.ctx i.p i.c) i.dst.toNat (s.eng.rqw n (i.ext.toNat / 8))) ∧
      (rqWritable (i.ext.toNat / 8) = true → rqReservedBad (i.ext.toNat / 8) ((s.eng.ctx i.p i.c).sreg i.srcb.toNat).toNat = false →
        (i.dst = 0 → ∃ t, exec (.rqst i) s = .next t ∧ t.eng.rqw n (i.ext.toNat / 8) = (s.eng.ctx i.p i.c).sreg i.srcb.toNat ∧
          (∀ m w, w < 24 → m ≠ n ∨ w ≠ i.ext.toNat / 8 → t.eng.rqw m w = s.eng.rqw m w) ∧ t.eng.mem = s.eng.mem ∧
          (t.eng.ctx i.p i.c).s = (s.eng.ctx i.p i.c).s ∧ (t.eng.ctx i.p i.c).pc = (s.eng.ctx i.p i.c).pc + 8) ∧
        (∃ t, exec (.rqcas i) s = .next t ∧ t.eng.mem = s.eng.mem ∧
          t.eng.rqw n (i.ext.toNat / 8) = (if s.eng.rqw n (i.ext.toNat / 8) = (s.eng.ctx i.p i.c).sreg i.dst.toNat
            then (s.eng.ctx i.p i.c).sreg i.srcb.toNat else s.eng.rqw n (i.ext.toNat / 8)) ∧
          (∀ m w, w < 24 → m ≠ n ∨ w ≠ i.ext.toNat / 8 → t.eng.rqw m w = s.eng.rqw m w) ∧
          (s.eng.ctx i.p i.c).wroteS (t.eng.ctx i.p i.c) i.dst.toNat (s.eng.rqw n (i.ext.toNat / 8))))) ∧
    (s.eng.slotOf i.p (((s.eng.ctx i.p i.c).sreg i.srca.toNat).toNat % 2 ^ 32) = none →
      ∀ op, (op = Instr.rqld i ∧ i.srcb = 0) ∨ (op = Instr.rqst i ∧ i.dst = 0) ∨ op = Instr.rqcas i →
        ∃ t, exec op s = .next t ∧ (s.eng.ownsBatch i.p i.c = false → t.eng.rqt = s.eng.rqt) ∧ (s.eng.ctx i.p i.c).faultedWith (t.eng.ctx i.p i.c)
          (BitVec.ofNat 64 (0x0A * 2 ^ 56 + 2 * 2 ^ 52 + ((s.eng.ctx i.p i.c).sreg i.srca.toNat).toNat % 2 ^ 32)))

/-- LEDG reads, charges, tries and credits one ledger, clamped at its bounds. Rests on R120, R209, R210, R213. Rests on the model's choices of assumption log 121. -/
def Obligations.LedgerInstructions : Prop :=
  ∀ (s : State) (i : Ins), s.issues i → i.ext = 0 →
    let idx := s.eng.ledBase i.p + ((s.eng.ctx i.p i.c).sreg i.srca.toNat).toNat
    let l := s.eng.ledger idx
    let amt : Int := (((s.eng.ctx i.p i.c).sreg i.srcb.toNat).toNat % 2 ^ 32 : Nat)
    (((s.eng.ctx i.p i.c).sreg i.srca.toNat).toNat < s.eng.ledSize i.p → -(l.floor : Int) ≤ l.bal → l.bal ≤ (l.cap : Int) →
      i.joins = false → (∀ o, o ∈ s.eng.ledJoined → o.ledger ≠ idx) →
      (∃ t, exec (.ledgRd i) s = .next t ∧ s.eng.frame t.eng i.p i.c ∧
        (s.eng.ctx i.p i.c).wroteS (t.eng.ctx i.p i.c) i.dst.toNat (BitVec.ofInt 64 l.bal)) ∧
      (∃ t, exec (.ledgChg i) s = .next t ∧ (t.eng.ledger idx).bal = max (-(l.floor : Int)) (l.bal - amt) ∧
        (∀ j, j ≠ idx → t.eng.ledger j = s.eng.ledger j) ∧ t.eng.mem = s.eng.mem ∧
        (s.eng.ctx i.p i.c).wroteS (t.eng.ctx i.p i.c) i.dst.toNat (BitVec.ofInt 64 (max (-(l.floor : Int)) (l.bal - amt)))) ∧
      (∃ t, exec (.ledgTry i) s = .next t ∧ (t.eng.ledger idx).bal = (if amt ≤ l.bal then max (-(l.floor : Int)) (l.bal - amt) else l.bal) ∧
        (∀ j, j ≠ idx → t.eng.ledger j = s.eng.ledger j) ∧ t.eng.mem = s.eng.mem ∧
        (s.eng.ctx i.p i.c).wroteS (t.eng.ctx i.p i.c) i.dst.toNat (if amt ≤ l.bal then 1 else 0)) ∧
      (∃ t, exec (.ledgCrd i) s = .next t ∧ (t.eng.ledger idx).bal = min (l.cap : Int) (l.bal + amt) ∧
        (∀ j, j ≠ idx → t.eng.ledger j = s.eng.ledger j) ∧ t.eng.mem = s.eng.mem ∧
        (s.eng.ctx i.p i.c).wroteS (t.eng.ctx i.p i.c) i.dst.toNat (BitVec.ofInt 64 (min (l.cap : Int) (l.bal + amt))))) ∧
    (((s.eng.ctx i.p i.c).sreg i.srca.toNat).toNat < s.eng.ledSize i.p → i.joins = true →
      ∀ op k, (op, k) ∈ [(Instr.ledgRd i, LedgKind.rd), (Instr.ledgChg i, .chg), (Instr.ledgTry i, .try_), (Instr.ledgCrd i, .crd)] →
      ∃ t, exec op s = .next t ∧ t.eng.ledgers = s.eng.ledgers ∧ (s.eng.ctx i.p i.c).waitsFor (t.eng.ctx i.p i.c) .ledger ∧
        t.eng.ledJoined = s.eng.ledJoined ++ [⟨idx, i.p, i.c, i.dst.toNat, k, if k = .rd then 0 else amt.toNat⟩]) ∧
    (s.eng.ledSize i.p ≤ ((s.eng.ctx i.p i.c).sreg i.srca.toNat).toNat →
      ∀ op, op = Instr.ledgRd i ∨ op = Instr.ledgChg i ∨ op = Instr.ledgTry i ∨ op = Instr.ledgCrd i →
      ∃ t, exec op s = .next t ∧ t.eng.ledgers = s.eng.ledgers ∧ (s.eng.ctx i.p i.c).faultedWith (t.eng.ctx i.p i.c)
        (BitVec.ofNat 64 (0x0B * 2 ^ 56 + 2 * 2 ^ 52 + ((s.eng.ctx i.p i.c).sreg i.srca.toNat).toNat % 2 ^ 48)))

/-- TRAP and HALT enter STOPPED at the next instruction; only TRAP writes fault and raises CTX_FAULT. Formalises R99. -/
def Obligations.TrapAndHaltStopTheContext : Prop :=
  ∀ (s : State) (i : Ins), s.issues i → i.dst = 0 → i.srca = 0 → i.srcb = 0 →
    (∃ t, exec (.trap i) s = .next t ∧ (t.eng.ctx i.p i.c).st = .stopped ∧ (t.eng.ctx i.p i.c).pc = (s.eng.ctx i.p i.c).pc + 8 ∧
      (t.eng.ctx i.p i.c).fault = BitVec.ofNat 64 (0x01 * 2 ^ 56 + i.ext.toNat) ∧ (t.eng.ctx i.p i.c).s = (s.eng.ctx i.p i.c).s ∧
      t.eng.bit (Reg.partEvent i.p) 4 = true ∧
      (s.eng.bit Reg.glbStatus 31 = true → s.eng.deny = [] →
        ringRoom (s.eng.fld (Reg.intFltCfg i.p) 4 0) (s.eng.fld (Reg.intFltHead i.p) 31 0) (s.eng.fld (Reg.intFltTail i.p) 31 0) = true →
        t.eng.byte (s.eng.pair (Reg.intFltBaseLo i.p) (Reg.intFltBaseHi i.p) +
          s.eng.fld (Reg.intFltTail i.p) 31 0 % 2 ^ s.eng.fld (Reg.intFltCfg i.p) 4 0 * 64 + 1) = 0x01#8)) ∧
    (i.ext = 0 → ∃ t, exec (.halt i) s = .next t ∧ (t.eng.ctx i.p i.c).st = .stopped ∧
      (t.eng.ctx i.p i.c).pc = (s.eng.ctx i.p i.c).pc + 8 ∧ (t.eng.ctx i.p i.c).fault = (s.eng.ctx i.p i.c).fault ∧
      (t.eng.ctx i.p i.c).s = (s.eng.ctx i.p i.c).s ∧ t.eng.mem = s.eng.mem ∧ t.eng.rd (Reg.partEvent i.p) = s.eng.rd (Reg.partEvent i.p))

/-- ENQ, DEQ, DLY, YIELD and YIELD with a priority act on the ready lists, the delay lists and the issue slot. Rests on R122, R149, R150, R151, R154, R155, R156, R157, R158. -/
def Obligations.SchedulingInstructions : Prop :=
  ∀ (s : State) (i : Ins), s.issues i → i.imm24 = 0 →
    (i.mod < 32 → i.srcb = 0 →
      ((s.eng.part i.p).itemsAt i.mod).length < 256 → ∃ t, exec (.enq i) s = .next t ∧ s.eng.outside t.eng i.p (slotRegs i.p) ∧
        (s.eng.ctx i.p i.c).wroteS (t.eng.ctx i.p i.c) i.dst.toNat 0 ∧ (t.eng.part i.p).delays = (s.eng.part i.p).delays ∧
        ∀ l, (t.eng.part i.p).itemsAt l =
          if l = i.mod then (s.eng.part i.p).itemsAt l ++ [(s.eng.ctx i.p i.c).sreg i.srca.toNat] else (s.eng.part i.p).itemsAt l) ∧
    (i.mod < 32 → i.srcb = 0 →
      256 ≤ ((s.eng.part i.p).itemsAt i.mod).length → ∃ t, exec (.enq i) s = .next t ∧
        s.eng.outside t.eng i.p (slotRegs i.p ++ [Reg.schedEvent i.p, Reg.schedFullCount i.p]) ∧ t.eng.bit (Reg.schedEvent i.p) 0 = true ∧
        (s.eng.ctx i.p i.c).wroteS (t.eng.ctx i.p i.c) i.dst.toNat 1 ∧ (t.eng.part i.p).items = (s.eng.part i.p).items) ∧
    (i.mod < 32 → i.srca = 0 → i.srcb.toNat < 8 → (∀ l, l ≤ i.mod → (s.eng.part i.p).itemsAt l = []) →
      ∃ t, exec (.deq i) s = .next t ∧ s.eng.frame t.eng i.p i.c ∧
        (s.eng.ctx i.p i.c).wroteSP (t.eng.ctx i.p i.c) i.dst.toNat 0 i.srcb.toNat false) ∧
    (∀ l, i.mod < 32 → i.srca = 0 → i.srcb.toNat < 8 → l ≤ i.mod → (s.eng.part i.p).itemsAt l ≠ [] →
      (∀ m, m < l → (s.eng.part i.p).itemsAt m = []) →
      ∃ t k v, exec (.deq i) s = .next t ∧ s.eng.outside t.eng i.p (slotRegs i.p) ∧ ((s.eng.part i.p).itemsAt l)[k]? = some v ∧
        (t.eng.part i.p).delays = (s.eng.part i.p).delays ∧
        (s.eng.ctx i.p i.c).wroteSP (t.eng.ctx i.p i.c) i.dst.toNat v i.srcb.toNat true ∧
        ∀ m, (t.eng.part i.p).itemsAt m = if m = l then ((s.eng.part i.p).itemsAt l).eraseIdx k else (s.eng.part i.p).itemsAt m) ∧
    (i.mod < 32 → (s.eng.part i.p).dlUsed < 32752 → ∃ t, exec (.dly i) s = .next t ∧ (t.eng.part i.p).items = (s.eng.part i.p).items ∧
      s.eng.outside t.eng i.p (slotRegs i.p) ∧
      (s.eng.ctx i.p i.c).wroteS (t.eng.ctx i.p i.c) i.dst.toNat 0 ∧ (t.eng.part i.p).dlSeq = (s.eng.part i.p).dlSeq + 1 ∧
      (t.eng.part i.p).delays = (s.eng.part i.p).delays ++ [⟨((s.eng.ctx i.p i.c).sreg i.srcb.toNat).toNat % 2 ^ 56,
        (s.eng.part i.p).dlSeq, (s.eng.part i.p).emptiest, false, .item ((s.eng.ctx i.p i.c).sreg i.srca.toNat) i.mod⟩]) ∧
    (i.mod < 32 → 32752 ≤ (s.eng.part i.p).dlUsed → ∃ t, exec (.dly i) s = .next t ∧ (t.eng.part i.p).items = (s.eng.part i.p).items ∧
      t.eng.bit (Reg.schedEvent i.p) 1 = true ∧
      (s.eng.ctx i.p i.c).wroteS (t.eng.ctx i.p i.c) i.dst.toNat 1 ∧ (t.eng.part i.p).delays = (s.eng.part i.p).delays) ∧
    (i.mod = 0 → i.dst = 0 → i.srca = 0 → i.srcb = 0 → ∃ t, exec (.yield i) s = .next t ∧ s.eng.frame t.eng i.p i.c ∧
      Ctx.sameRegs { (s.eng.ctx i.p i.c) with pc := (s.eng.ctx i.p i.c).pc + 8 } (t.eng.ctx i.p i.c) ∧ s.eng.mostUrgent t.eng i.p) ∧
    (i.mod < 32 → i.dst = 0 → i.srca = 0 → i.srcb = 0 → ∃ t, exec (.yieldPrio i) s = .next t ∧
      s.eng.outside t.eng i.p (Reg.schedPrio i.p (i.c / 4) :: slotRegs i.p) ∧ t.eng.prio i.p i.c = i.mod ∧
      (∀ d, d < 16 → d ≠ i.c → t.eng.prio i.p d = s.eng.prio i.p d) ∧
      Ctx.sameRegs { (s.eng.ctx i.p i.c) with pc := (s.eng.ctx i.p i.c).pc + 8 } (t.eng.ctx i.p i.c) ∧ s.eng.mostUrgent t.eng i.p)

/-- Quantum expiry, due items, held items, due timers and due wakes. Rests on R130, R131, R151, R156, R159, R160, R161. -/
def Obligations.SchedulerEvents : Prop :=
  (∀ (s : State) (p : Fin 32) (c d : Nat), (s.eng.part p).slot = some c → s.eng.running p = true → s.eng.fld (Reg.schedCtrl p) 31 16 ≠ 0 →
    (s.eng.ctx p c).busyIns = false → (s.eng.part p).coreDown = false → (s.eng.part p).coreLost = false → d < 16 → d ≠ c →
    (s.eng.ctx p d).canIssue = true → s.eng.prio p d = s.eng.prio p c →
    ∃ t, exec (.quantumExpiry p) s = .next t ∧ s.eng.outside t.eng p (slotRegs p) ∧ s.eng.mostUrgent t.eng p ∧
      ((t.eng.part p).slot ≠ some c → t.eng.fld (Reg.schedPreempts p) 31 0 = (s.eng.fld (Reg.schedPreempts p) 31 0 + 1) % 2 ^ 32) ∧
      ((t.eng.part p).slot = some c → t.eng.fld (Reg.schedPreempts p) 31 0 = s.eng.fld (Reg.schedPreempts p) 31 0)) ∧
  (∀ (s : State) (p : Fin 32) (d : DlEnt), (s.eng.part p).dlNext s.beat.time = some d →
    (∀ v l, d.act = .item v l → ((s.eng.part p).itemsAt l).length < 256 →
      ∃ t, exec (.itemDue p) s = .next t ∧ s.eng.outside t.eng p [Reg.schedEvent p, Reg.schedStallCount p] ∧
        (t.eng.part p).itemsAt l = (s.eng.part p).itemsAt l ++ [v] ∧
        (t.eng.part p).delays = (s.eng.part p).delays.filter (fun x => decide (x ≠ d)) ∧
        (s.eng.fld (Reg.schedLagLimit p) 15 0 + d.key < s.beat.time → t.eng.bit (Reg.schedEvent p) 3 = true)) ∧
    (∀ v l, d.act = .item v l → 256 ≤ ((s.eng.part p).itemsAt l).length →
      ∃ t, exec (.itemDue p) s = .next t ∧ s.eng.outside t.eng p [Reg.schedEvent p, Reg.schedStallCount p] ∧
        (t.eng.part p).items = (s.eng.part p).items ∧ t.eng.bit (Reg.schedEvent p) 2 = true ∧
        { d with held := true } ∈ (t.eng.part p).delays) ∧
    (∀ n k tok, d.act = .timer n k tok → s.eng.plainCell n → ∃ t, exec (.timerDue { what := p }) s = .next t ∧
      (t.eng.part p).delays = (s.eng.part p).delays.filter (fun x => decide (x ≠ d)) ∧
      (t.eng.cell n).count.toNat = min ((s.eng.cell n).count.toNat + k.toNat) (2 ^ 32 - 1) ∧ ∀ m, m ≠ n → t.eng.cell m = s.eng.cell m) ∧
    (∀ c sl dst, d.act = .wake c sl dst → (s.eng.ctx p c).st = .delayed → (∀ k, sl = some k → s.beat.time ≤ d.key + k.toNat) →
      ∃ t, exec (.wakeDue p) s = .next t ∧ (t.eng.part p).delays = (s.eng.part p).delays.filter (fun x => decide (x ≠ d)) ∧
        (s.eng.ctx p c).wokeWith (t.eng.ctx p c) dst.toNat 0) ∧
    (∀ c k dst, d.act = .wake c (some k) dst → (s.eng.ctx p c).st = .delayed → d.key + k.toNat < s.beat.time →
      ∃ t, exec (.wakeDue p) s = .next t ∧ (t.eng.part p).delays = (s.eng.part p).delays.filter (fun x => decide (x ≠ d)) ∧
        (dst ≠ 0 → (s.eng.ctx p c).wokeWith (t.eng.ctx p c) dst.toNat 2) ∧
        (dst = 0 → (s.eng.ctx p c).faultedWith (t.eng.ctx p c) (BitVec.ofNat 64 (0x09 * 2 ^ 56 + 0x1000))))) ∧
  ∀ (s : State) (p l : Fin 32) (d : DlEnt) (v : Dword), d.act = .item v l → d.held = true → (s.eng.part p).delays = [d] →
    ((s.eng.part p).itemsAt l).length < 256 →
    ∃ t, exec (.heldItemMove p l) s = .next t ∧ (t.eng.part p).itemsAt l = (s.eng.part p).itemsAt l ++ [v] ∧ (t.eng.part p).delays = []

/-- TWAIT delays its context until its time; TAT arms and disarms timers on the delay lists. Rests on R130, R131, R157, R158. -/
def Obligations.DelaysAndTimers : Prop :=
  ∀ (s : State) (i : Ins), s.issues i →
    let x := s.eng.ctx i.p i.c
    let q := s.eng.part i.p
    let sl := if i.srcb = 0 then none else some (x.sreg i.srcb.toNat)
    let a := (x.sreg i.srca.toNat).toNat
    let v := kget SemEnt.invalid x.semtab i.vid
    (i.ext = 0 → ∀ op key, (op = Instr.twaitAbs i ∧ key = a % 2 ^ 56) ∨ (op = Instr.twaitRel i ∧ key = s.beat.time + a) →
      ∃ t, exec op s = .next t ∧ s.eng.outside t.eng i.p (slotRegs i.p) ∧ (t.eng.ctx i.p i.c).st = .delayed ∧
        x.sameRegs (t.eng.ctx i.p i.c) ∧ (t.eng.part i.p).slot ≠ some i.c ∧
        (t.eng.part i.p).delays = q.delays ++ [⟨key, q.dlSeq, q.emptiest, false, .wake i.c sl i.dst⟩]) ∧
    (i.ext.toNat < 4096 → v.valid = true → v.off.toNat < s.eng.semSize i.p →
      ∀ op key, (op = Instr.tatAbs i ∧ key = a % 2 ^ 56) ∨ (op = Instr.tatRel i ∧ key = s.beat.time + a) →
      (q.dlUsed < 32752 → ∃ t tok, exec op s = .next t ∧ s.eng.outside t.eng i.p (slotRegs i.p) ∧ tok ≠ 0 ∧
        x.wroteS (t.eng.ctx i.p i.c) i.dst.toNat tok ∧ (t.eng.part i.p).delays = q.delays ++
          [⟨key, q.dlSeq, q.emptiest, false, .timer (s.eng.semBase i.p + v.off.toNat) ((x.sreg i.srcb.toNat).setWidth 32) tok⟩]) ∧
      (32752 ≤ q.dlUsed → ∃ t, exec op s = .next t ∧ x.wroteS (t.eng.ctx i.p i.c) i.dst.toNat 0 ∧
        (t.eng.part i.p).delays = q.delays ∧ t.eng.bit (Reg.schedEvent i.p) 1 = true)) ∧
    (i.ext = 0 → (∃ d n k, d ∈ q.delays ∧ d.act = .timer n k (x.sreg i.srca.toNat)) →
      ∃ t, exec (.tatDisarm i) s = .next t ∧ s.eng.outside t.eng i.p (slotRegs i.p) ∧ x.wroteS (t.eng.ctx i.p i.c) i.dst.toNat 1 ∧
        ∀ d, d ∈ (t.eng.part i.p).delays ↔ d ∈ q.delays ∧ ∀ n k, d.act ≠ .timer n k (x.sreg i.srca.toNat)) ∧
    (i.ext = 0 → (∀ d n k, d ∈ q.delays → d.act ≠ .timer n k (x.sreg i.srca.toNat)) →
      ∃ t, exec (.tatDisarm i) s = .next t ∧ s.eng.outside t.eng i.p (slotRegs i.p) ∧ x.wroteS (t.eng.ctx i.p i.c) i.dst.toNat 0 ∧
        (t.eng.part i.p).delays = q.delays)

/-- The semaphore instructions send their operation to the cell of their virtual id; SMAP writes the virtual table. Rests on R53, R123, R124, R126, R127, R128, R171, R172, R177. Rests on the model's choices of assumption logs 104, 16. -/
def Obligations.SemaphoreInstructions : Prop :=
  ∀ (s : State) (i : Ins), s.issues i →
    let x := s.eng.ctx i.p i.c
    let v := kget SemEnt.invalid x.semtab i.vid
    let a : Word := (x.sreg i.srca.toNat).setWidth 32
    let span := (x.sreg i.srcb.toNat).toNat % 2 ^ 48
    let w := fun (k : WKind) (n : Nat) => CellOp.wait ⟨i.p, i.c, k, n, 0, false, i.dst, BitVec.ofNat 12 i.vid, false⟩ span
    (i.ext.toNat < 4096 → ∀ op o, (op = Instr.swait i ∧ o = w .take a.toNat) ∨ (op = Instr.swaitp i ∧ o = w .peek a.toNat) ∨
        (op = Instr.sbar i ∧ o = w .bar (max 1 a.toNat)) ∨ (i.srcb = 0 ∧ op = Instr.sadd i ∧ o = .sadd i.p i.c i.dst a) ∨
        (i.srcb = 0 ∧ op = Instr.ssub i ∧ o = .ssub i.p i.c i.dst a) →
      (v.valid = true → v.off.toNat < s.eng.semSize i.p → ∃ t, exec op s = .next t ∧ x.waitsFor (t.eng.ctx i.p i.c) .cell ∧
        t.eng.travel = s.eng.travel ++ [⟨s.eng.nextId, s.eng.semBase i.p + v.off.toNat, o⟩] ∧ t.eng.cells = s.eng.cells ∧
        t.eng.mem = s.eng.mem ∧ (t.eng.part i.p).slot = some i.c) ∧
      (v.valid = false → ∃ t, exec op s = .next t ∧ t.eng.travel = s.eng.travel ∧ t.eng.cells = s.eng.cells ∧
        x.faultedWith (t.eng.ctx i.p i.c) (BitVec.ofNat 64 (0x08 * 2 ^ 56 + 5 * 2 ^ 52 + i.vid)))) ∧
    (i.ext.toNat < 4096 → i.dst = 0 → i.srcb = 0 → ∀ op y, (op = Instr.smapShared i ∧ y = ⟨true, false, (x.sreg i.srca.toNat).setWidth 16⟩) ∨
        (op = Instr.smapPrivate i ∧ y = ⟨true, true, (x.sreg i.srca.toNat).setWidth 16⟩) ∨ (op = Instr.smapInvalid i ∧ y = SemEnt.invalid) →
      y = SemEnt.invalid ∨ y.off.toNat < s.eng.semSize i.p →
      ∃ t, exec op s = .next t ∧ s.eng.frame t.eng i.p i.c ∧ (t.eng.ctx i.p i.c).s = x.s ∧ (t.eng.ctx i.p i.c).pc = x.pc + 8 ∧
        ∀ n, kget SemEnt.invalid (t.eng.ctx i.p i.c).semtab n = if n = i.vid then y else kget SemEnt.invalid x.semtab n) ∧
    (i.dst = 0 → i.mod ≤ 1 → (i.mod = 0 → i.imm24 = 0) → s.eng.rmHeld = [] → ∃ t m, exec (.sigr i) s = .next t ∧
      x.advanced (t.eng.ctx i.p i.c) ∧ t.eng.cells = s.eng.cells ∧
      m.flags = (if i.mod = 1 then 4#8 else 0#8) ∧ m.dst = BitVec.ofNat 16 (x.sreg i.srca.toNat).toNat ∧
      m.part.val = bitsOf (x.sreg i.srca.toNat).toNat 20 16 ∧ m.offset = BitVec.ofNat 16 (bitsOf (x.sreg i.srca.toNat).toNat 47 32) ∧
      m.tag = BitVec.ofNat 24 i.imm24 ∧ m.body = BitVec.ofNat 128 ((x.sreg i.srcb.toNat).toNat % 2 ^ 32) ∧ m.payload = [] ∧
      m.src = BitVec.ofNat 16 (s.eng.fld Reg.syncEngineId 15 0) ∧
      ((∃ q, s.eng.rmPortFor 2 1 = some q ∧ t.eng.rmHeld = [] ∧ t.eng.out = s.eng.out ++ [.rm q 0x81 m] ∧
        kget 0 t.eng.rmCredit (4 * q + 2) + 1 = kget 0 s.eng.rmCredit (4 * q + 2)) ∨
       (s.eng.rmPortFor 2 1 = none ∧ t.eng.rmHeld = [(0x81, m)] ∧ t.eng.out = s.eng.out)))

/-- An operation that reaches a cell takes effect, completes or queues; a wait that reaches its deadline leaves its cell. Rests on R125, R126, R169, R172, R173, R174, R175, R176, R177, R178. -/
def Obligations.OperationsActAndWaitsExpireAtTheirCell : Prop :=
  (∀ (s : State) (cell : BitVec 16) (id p c : Nat) (o : CellOp) (dst : BitVec 5),
    s.eng.plainCell cell.toNat → (s.eng.ctx p c).stopReq = none → (s.eng.ctx p c).st = .running → p < 32 → c < 16 →
    (s.eng.travel.filter fun t => decide (t.cell = cell.toNat) && [id].contains t.id) = [⟨id, cell.toNat, o⟩] →
    let x := s.eng.ctx p c
    let k := s.eng.cell cell.toNat
    let runs := fun (P : State → Prop) => ∃ t, exec (.semOpAtCell { what := cell } [id] false) s = .next t ∧ P t ∧
      (t.eng.travel = s.eng.travel.filter fun y => !(decide (y.cell = cell.toNat) && [id].contains y.id)) ∧
      ∀ m, m ≠ cell.toNat → t.eng.cell m = s.eng.cell m
    (∀ a, o = .sadd p c dst a →
      let up : Cell := ⟨BitVec.ofNat 32 (min (k.count.toNat + a.toNat) (2 ^ 32 - 1)), k.sat || decide (2 ^ 32 ≤ k.count.toNat + a.toNat), []⟩
      runs fun t => t.eng.cell cell.toNat = up ∧
        x.wroteS (t.eng.ctx p c) dst.toNat (BitVec.ofNat 64 (up.count.toNat + if up.sat then 2 ^ 32 else 0))) ∧
    (∀ a, o = .ssub p c dst a →
      let dn : Cell := ⟨BitVec.ofNat 32 (k.count.toNat - a.toNat), k.sat || decide (k.count.toNat < a.toNat), []⟩
      runs fun t => t.eng.cell cell.toNat = dn ∧
        x.wroteS (t.eng.ctx p c) dst.toNat (BitVec.ofNat 64 (dn.count.toNat + if dn.sat then 2 ^ 32 else 0))) ∧
    (∀ w span, o = .wait w span → w.part = p → w.ctx = c → w.dst = dst → w.fwd = false → (w.kind = .bar → w.n ≠ 0 ∧ s.eng.xbAt p cell.toNat = none) →
      let q : Cell := if w.kind = .bar then ⟨BitVec.ofNat 32 (min (k.count.toNat + 1) (2 ^ 32 - 1)), k.sat || decide (k.count.toNat = 2 ^ 32 - 1), []⟩ else k
      (w.n ≤ q.count.toNat → runs fun t => x.wroteS (t.eng.ctx p c) dst.toNat 0 ∧ t.eng.cell cell.toNat =
        { q with count := match w.kind with
                          | .take => BitVec.ofNat 32 (q.count.toNat - w.n)
                          | .peek => q.count
                          | .bar => 0 }) ∧
      (q.count.toNat < w.n → 0 < span → runs fun t => (t.eng.ctx p c).st = .waiting ∧ x.sameRegs (t.eng.ctx p c) ∧
        t.eng.cell cell.toNat = { q with queue := [{ w with deadline := s.beat.time + span, once := false }] }) ∧
      (q.count.toNat < w.n → span = 0 → dst ≠ 0 → runs fun t => x.wroteS (t.eng.ctx p c) dst.toNat 2 ∧ (t.eng.cell cell.toNat).queue = [] ∧
        (t.eng.cell cell.toNat).count = if w.kind = .bar then q.count - 1 else q.count))) ∧
  (∀ (s : State) (cell : BitVec 16) (w : Wait), s.eng.freeCell cell.toNat → (s.eng.cell cell.toNat).queue = [w] → w.part < 32 → w.ctx < 16 →
    (s.eng.ctx w.part w.ctx).st = .waiting → (s.eng.ctx w.part w.ctx).stopReq = none → w.fwd = false → w.once = false →
    (s.eng.cell cell.toNat).count.toNat < w.n →
    (s.beat.time < w.deadline → exec (.waitExpiry cell) s = .next s) ∧
    (w.deadline ≤ s.beat.time → ∃ t, exec (.waitExpiry cell) s = .next t ∧ (t.eng.cell cell.toNat).queue = [] ∧
      (t.eng.cell cell.toNat).count.toNat = (s.eng.cell cell.toNat).count.toNat - (if w.kind = .bar then 1 else 0) ∧
      t.eng.bit (Reg.syncEvent w.part) 1 = true ∧ (∀ m, m ≠ cell.toNat → t.eng.cell m = s.eng.cell m) ∧
      t.eng.rd (Reg.syncToLastId w.part) = BitVec.ofNat 32 (cell.toNat * 65536 + w.ctx * 4096 + w.vid.toNat) ∧
      t.eng.fld (Reg.syncToCount w.part) 31 0 = min (s.eng.fld (Reg.syncToCount w.part) 31 0 + 1) (2 ^ 32 - 1) ∧
      (w.dst ≠ 0 → (s.eng.ctx w.part w.ctx).wokeWith (t.eng.ctx w.part w.ctx) w.dst.toNat 2) ∧
      (w.dst = 0 → (s.eng.ctx w.part w.ctx).faultedWith (t.eng.ctx w.part w.ctx) (BitVec.ofNat 64 (0x09 * 2 ^ 56 + w.vid.toNat)))))

/-- Host signals, manual writes, cleared flags, armed realignment entries and core gating. Rests on R59, R169, R170, R192, R193, R195, R196, R197, R528. -/
def Obligations.CellsSetByHostHandAndRealignment : Prop :=
  (∀ (s : State) (p : Fin 32) (v : Word), s.eng.windowOpen = true → s.eng.running p = true →
    (bitsOf v.toNat 31 16 ≠ 0 → bitsOf v.toNat 15 0 < s.eng.semSize p →
      ∃ t, exec (.hostSignal p v) s = .next t ∧ t.eng.cells = s.eng.cells ∧ t.eng.mem = s.eng.mem ∧
        t.eng.travel = s.eng.travel ++ [⟨s.eng.nextId, s.eng.semBase p + bitsOf v.toNat 15 0, .add (BitVec.ofNat 32 (bitsOf v.toNat 31 16))⟩]) ∧
    (bitsOf v.toNat 31 16 = 0 ∨ s.eng.semSize p ≤ bitsOf v.toNat 15 0 →
      ∃ t, exec (.hostSignal p v) s = .next t ∧ t.eng.cells = s.eng.cells ∧ t.eng.mem = s.eng.mem ∧
        t.eng.travel = s.eng.travel ∧ t.eng.bit (Reg.partEvent p) 2 = true ∧ t.eng.fld (Reg.partDbDrop p) 31 0 = min (s.eng.fld (Reg.partDbDrop p) 31 0 + 1) (2 ^ 32 - 1))) ∧
  (∀ (s : State) (src : StringsSrc) (cell : BitVec 16) (v : Word), s.eng.mayString src = true → s.eng.plainCell cell.toNat →
    ∃ t u, exec (.manualSet src { what := cell } v) s = .next t ∧ exec (.manualClearSat src { what := cell }) s = .next u ∧
      t.eng.cell cell.toNat = ⟨v, false, []⟩ ∧ u.eng.cell cell.toNat = ⟨(s.eng.cell cell.toNat).count, false, []⟩ ∧
      (∀ m, m ≠ cell.toNat → t.eng.cell m = s.eng.cell m ∧ u.eng.cell m = s.eng.cell m) ∧
      t.eng.fld Reg.syncManualCount 31 0 = min (s.eng.fld Reg.syncManualCount 31 0 + 1) (2 ^ 32 - 1) ∧
      u.eng.fld Reg.syncManualCount 31 0 = min (s.eng.fld Reg.syncManualCount 31 0 + 1) (2 ^ 32 - 1) ∧
      t.eng.fld Reg.dbgWrites 31 0 = min (s.eng.fld Reg.dbgWrites 31 0 + 2) (2 ^ 32 - 1) ∧
      u.eng.fld Reg.dbgWrites 31 0 = min (s.eng.fld Reg.dbgWrites 31 0 + 1) (2 ^ 32 - 1)) ∧
  (∀ (s : State) (path : Path) (p : Fin 32) (off : BitVec 16), s.eng.gate path (Reg.syncSatClr p) = .pass →
    s.eng.cellHeld (s.eng.semBase p + off.toNat) = false → ∃ t, exec (.satClr path p off) s = .next t ∧ t.eng.regs = s.eng.regs ∧ ∀ m, t.eng.cell m =
      if m = s.eng.semBase p + off.toNat ∧ off.toNat < s.eng.semSize p then { s.eng.cell m with sat := false } else s.eng.cell m) ∧
  (∀ (s : State) (path : Path) (p : Fin 32) (n : Fin 16) (v : Word), s.eng.gate path (Reg.syncRaCell p n) = .pass →
    s.eng.bit (Reg.syncRaCell p n) 31 = false → v.getLsbD 31 = true →
    ∃ t, exec (.realignArm path p n v) s = .next t ∧ t.eng.cells = s.eng.cells ∧ t.eng.rd (Reg.syncRaCell p n) = v &&& 0x8000FFFF#32 ∧
      kget Realign.off (t.eng.part p).realigns n = ⟨true, (s.eng.cell (s.eng.semBase p + bitsOf v.toNat 15 0)).count, 0, 0⟩) ∧
  ∀ (s : State) (p : Fin 32), s.eng.gated p = false → s.eng.fld (Reg.syncCtrl p) 15 0 ≠ 0xFFFF →
    (∀ c, c < 16 → (s.eng.ctx p c).canIssue = false ∧ (s.eng.ctx p c).pend = none) →
    (∃ c, c < 16 ∧ ((s.eng.ctx p c).st = .waiting ∨ (s.eng.ctx p c).st = .delayed)) →
    ∃ t, exec (.coreGate p) s = .next t ∧ t.eng.gated p = true ∧ t.eng.parts = s.eng.parts ∧
      kget 0 t.eng.loans p = if s.eng.bit Reg.pwrCtrl 8 then s.eng.lend else 0

/-- Arrivals, releases, signals and data packets of other engines act on their entries, cells and transfers. Rests on R180, R181, R182, R184, R186, R188, R189, R190, R198, R552, R553. Rests on the model's choices of assumption log 38. -/
def Obligations.BarriersAndSignalsAcrossEngines : Prop :=
  (∀ (s : State) (m : RmMsg) (k : Nat) (w : Wait), s.eng.bit Reg.glbStatus 31 = true → s.eng.homeEntry m = some k →
    s.eng.isVerdict m.part k = false →
    let r := Reg.syncXbStatus m.part k
    (arriveClean m false = false → ∃ t, exec (.xbArrive m) s = .next t ∧ t.eng.cells = s.eng.cells ∧ t.eng.fld r 15 0 = s.eng.fld r 15 0 ∧
      t.eng.fld (Reg.syncRejCount m.part) 31 0 = min (s.eng.fld (Reg.syncRejCount m.part) 31 0 + 1) (2 ^ 32 - 1) ∧
      t.eng.bit (Reg.syncEvent m.part) 5 = true) ∧
    (arriveClean m false = true → s.eng.fld r 15 0 + 1 < s.eng.fld (Reg.syncXbCount m.part k) 15 0 →
      ∃ t, exec (.xbArrive m) s = .next t ∧ t.eng.fld r 15 0 = s.eng.fld r 15 0 + 1 ∧ t.eng.fld r 31 30 = 2 ∧
        t.eng.cells = s.eng.cells ∧ t.eng.out = s.eng.out) ∧
    (arriveClean m false = true → s.eng.fld r 15 0 + 1 = s.eng.fld (Reg.syncXbCount m.part k) 15 0 → s.eng.rmHeld = [] → s.eng.rmPortFor 3 1 = none →
      s.eng.freeCell (s.eng.xbCell m.part k) → (s.eng.cell (s.eng.xbCell m.part k)).queue = [w] → w.kind = .bar → w.fwd = true → s.beat.time < w.deadline →
      (s.eng.ctx w.part w.ctx).st = .waiting → (s.eng.cell (s.eng.xbCell m.part k)).count.toNat < (s.eng.xb m.part k).p →
      ∃ t, exec (.xbArrive m) s = .next t ∧ t.eng.rd r = 0 ∧ (t.eng.cell (s.eng.xbCell m.part k)).queue = [] ∧
        (s.eng.ctx w.part w.ctx).wokeWith (t.eng.ctx w.part w.ctx) w.dst.toNat 0 ∧
        ∃ g, t.eng.rmHeld = [(0xC2, g)] ∧ g.flags = 0x10#8 ∧ g.part = m.part ∧ g.offset = m.offset ∧
          g.dst.toNat = s.eng.fld (Reg.syncXbCount m.part k) 31 16)) ∧
  (∀ (s : State) (m : RmMsg), s.eng.bit Reg.glbStatus 31 = true →
    (m.src.toNat = s.eng.fld Reg.syncEngineId 15 0 → exec (.xbRelease m) s = .next s) ∧
    (m.src.toNat ≠ s.eng.fld Reg.syncEngineId 15 0 → s.eng.memberEntries m = [] → ∃ t, exec (.xbRelease m) s = .next t ∧
      t.eng.cells = s.eng.cells ∧ t.eng.fld Reg.syncRejGlobal 31 0 = min (s.eng.fld Reg.syncRejGlobal 31 0 + 1) (2 ^ 32 - 1)) ∧
    (∀ p k, m.src.toNat ≠ s.eng.fld Reg.syncEngineId 15 0 → (p, k) ∈ s.eng.memberEntries m → releaseClean m (s.eng.isVerdict p k) = false →
      ∃ t, exec (.xbRelease m) s = .next t ∧ t.eng.cells = s.eng.cells ∧
        t.eng.fld (Reg.syncRejCount m.part) 31 0 = min (s.eng.fld (Reg.syncRejCount m.part) 31 0 + 1) (2 ^ 32 - 1)) ∧
    (∀ p k w, m.src.toNat ≠ s.eng.fld Reg.syncEngineId 15 0 → s.eng.memberEntries m = [(p, k)] → s.eng.isVerdict p k = false →
      releaseClean m false = true → s.eng.freeCell (s.eng.xbCell p k) → (s.eng.cell (s.eng.xbCell p k)).queue = [w] → w.kind = .bar → w.fwd = true → s.beat.time < w.deadline →
      (s.eng.ctx w.part w.ctx).st = .waiting → (s.eng.cell (s.eng.xbCell p k)).count.toNat < (s.eng.xb p k).p →
      ∃ t, exec (.xbRelease m) s = .next t ∧ t.eng.fld (Reg.syncXbStatus p k) 31 30 = 0 ∧
        (t.eng.cell (s.eng.xbCell p k)).queue = [] ∧ (s.eng.ctx w.part w.ctx).wokeWith (t.eng.ctx w.part w.ctx) w.dst.toNat 0)) ∧
  (∀ (s : State) (m : RmMsg), s.eng.bit Reg.glbStatus 31 = true → s.eng.sigIn = [] → s.eng.dataIn = [] →
    let a : Word := BitVec.ofNat 32 m.body.toNat
    let n := s.eng.semBase m.part + m.offset.toNat
    let ok := s.eng.running m.part = true ∧ m.offset.toNat < s.eng.semSize m.part ∧ a ≠ 0
    (ok → signalClean m = true → m.flags.getLsbD 2 = false → s.eng.plainCell n → ∃ t, exec (.signal { what := m }) s = .next t ∧
      (t.eng.cell n).count.toNat = min ((s.eng.cell n).count.toNat + a.toNat) (2 ^ 32 - 1) ∧ ∀ j, j ≠ n → t.eng.cell j = s.eng.cell j) ∧
    (ok → signalClean m = true → m.flags.getLsbD 2 = true → s.eng.xfer? (xferKey m.src m.tag) = none → s.eng.parked.length < 256 →
      ∃ t, exec (.signal { what := m }) s = .next t ∧ t.eng.cells = s.eng.cells ∧ t.eng.parked = s.eng.parked ++
        [⟨s.eng.nextId, xferKey m.src m.tag, m.src.toNat, m.part, m.offset.toNat, a, s.beat.time, m.port⟩]) ∧
    (ok → signalClean m = true → m.flags.getLsbD 2 = true → s.eng.xfer? (xferKey m.src m.tag) = none → 256 ≤ s.eng.parked.length →
      ∃ t, exec (.signal { what := m }) s = .next t ∧ t.eng.cells = s.eng.cells ∧ t.eng.parked = s.eng.parked ∧ t.eng.sigIn = [(m, s.beat.time)]) ∧
    (¬ ok ∨ signalClean m = false → ∃ t, exec (.signal { what := m }) s = .next t ∧ t.eng.cells = s.eng.cells ∧ t.eng.parked = s.eng.parked ∧
      t.eng.fld (Reg.syncRejCount m.part) 31 0 = min (s.eng.fld (Reg.syncRejCount m.part) 31 0 + 1) (2 ^ 32 - 1) ∧
      t.eng.bit (Reg.syncEvent m.part) 5 = true) ∧
    (dataClean m = true → m.payload ≠ [] → m.payload.length ≤ 4096 → m.bytes.toNat = m.payload.length → m.flags.getLsbD 0 = false →
      s.eng.xfer? (xferKey m.src m.tag) = none → s.eng.xfers.length < 1024 →
      ∃ t, exec (.data m) s = .next t ∧ t.eng.mem = s.eng.mem ∧
        t.eng.xfer? (xferKey m.src m.tag) = some ⟨xferKey m.src m.tag, m.part, bitsOf m.body.toNat 63 32, 0, m.flags.getLsbD 1, false, none, false⟩ ∧
        t.eng.txns = s.eng.txns ++ [⟨s.eng.nextId, m.part, bitsOf m.body.toNat 127 64, s.eng.memPort (bitsOf m.body.toNat 127 64),
          .data m.part (xferKey m.src m.tag) m.payload⟩]) ∧
    (dataClean m = true → m.payload ≠ [] → m.payload.length ≤ 4096 → m.bytes.toNat = m.payload.length → s.eng.xfer? (xferKey m.src m.tag) = none →
      1024 ≤ s.eng.xfers.length → ∃ t, exec (.data m) s = .next t ∧ t.eng.xfers = s.eng.xfers ∧ t.eng.txns = s.eng.txns ∧ t.eng.dataIn = [m]) ∧
    (dataClean m = false → m.payload ≠ [] → m.payload.length ≤ 4096 → m.bytes.toNat = m.payload.length →
      ∃ t, exec (.data m) s = .next t ∧ t.eng.xfers = s.eng.xfers ∧ t.eng.txns = s.eng.txns ∧ t.eng.dataIn = [] ∧
        t.eng.fld (Reg.syncRejCount m.part) 31 0 = min (s.eng.fld (Reg.syncRejCount m.part) 31 0 + 1) (2 ^ 32 - 1))) ∧
  ∀ (s : State) (x : Parked), (s.eng.parked.find? fun y => decide (y.id = x.id)) = some x →
    x.at_ + max 1 (s.eng.fld Reg.syncParkLimit 15 0) * 256 ≤ s.beat.time → s.eng.sigIn = [] → s.eng.dataIn = [] →
    ∃ t, exec (.parkExpiry x.id) s = .next t ∧ (t.eng.parked = s.eng.parked.filter fun y => decide (y.id ≠ x.id)) ∧
      t.eng.cells = s.eng.cells ∧ t.eng.bit (Reg.syncEvent x.part) 6 = true ∧
      t.eng.fld (Reg.syncParkDrops x.part) 31 0 = min (s.eng.fld (Reg.syncParkDrops x.part) 31 0 + 1) (2 ^ 32 - 1)

/-- A descriptor taken from the submission ring advances SQ_HEAD and leaves one admission record, admitted or rejected. Rests on R201, R202, R203, R206, R207, R217, R218. -/
def Obligations.AdmissionTakesDescriptorsInOrder : Prop :=
  (∀ (s : State) (p : Fin 32) (ecc : Ecc),
    let head := s.eng.fld (door p 4) 31 0
    let a := s.eng.pair (Reg.admSqBaseLo p) (Reg.admSqBaseHi p) + 128 * (head % 2 ^ s.eng.fld (Reg.admSqSize p) 4 0)
    (s.eng.fld (door p 0) 31 0 = head ∨ s.eng.admTurn ≠ some p.val → exec (.admitDescriptor p ecc) s = .next s) ∧
    (s.eng.admTurn = some p.val → s.eng.refused (some p) false a 128 = true →
      ∃ t, exec (.admitDescriptor p ecc) s = .next t ∧ t.eng.fld (door p 4) 31 0 = head ∧ t.eng.bit (Reg.admEvent p) 4 = true ∧
        t.eng.pstate p = psHalted ∧ t.eng.rqt = s.eng.rqt ∧ t.eng.ledgers = s.eng.ledgers) ∧
    (s.eng.admTurn = some p.val → s.eng.refused (some p) false a 128 = false → (s.eng.part p).srcFails = 0 →
      ∃ t r x, exec (.admitDescriptor p ecc) s = .next t ∧ t.eng.fld (door p 4) 31 0 = (head + 1) % 2 ^ 32 ∧
        (t.eng.part p).admRec = some (r, x) ∧ fieldAt r 4 4 = head ∧
        ((t.eng.fld (Reg.admAdmitted p) 31 0 = (s.eng.fld (Reg.admAdmitted p) 31 0 + 1) % 2 ^ 32 ∧
          t.eng.fld (Reg.admRejected p) 31 0 = s.eng.fld (Reg.admRejected p) 31 0) ∨
         (t.eng.fld (Reg.admAdmitted p) 31 0 = s.eng.fld (Reg.admAdmitted p) 31 0 ∧
          t.eng.fld (Reg.admRejected p) 31 0 = (s.eng.fld (Reg.admRejected p) 31 0 + 1) % 2 ^ 32 ∧ t.eng.bit (Reg.admEvent p) 0 = true)) ∧
        (ecc = .uncorrectable 0 → t.eng.fld (Reg.admLastReject p) 31 24 = 0x0D ∧ t.eng.fld (Reg.admLastReject p) 19 0 = 0x01 ∧
          t.eng.bit (Reg.admEvent p) 3 = true ∧ t.eng.rqt = s.eng.rqt ∧ t.eng.ledgers = s.eng.ledgers) ∧
        ((∀ n, ecc ≠ .uncorrectable n) → crcGood (s.eng.bytes a 128) = false → t.eng.fld (Reg.admLastReject p) 31 24 = 0x0B ∧
          t.eng.fld (Reg.admLastReject p) 19 0 = 0x7C ∧ t.eng.rqt = s.eng.rqt ∧ t.eng.ledgers = s.eng.ledgers))) ∧
  ∀ (s : State) (p : Fin 32) (l : List Byte), (s.eng.part p).admRec = some (l, none) →
    ((s.eng.part p).cq.queue = [] → s.eng.ringFree p none = true → ∃ t y, exec (.admissionRecordHandoff p) s = .next t ∧
      (t.eng.part p).admRec = none ∧ t.eng.txns = s.eng.txns ++ [y] ∧ y.addr = s.eng.recAddr p none (s.eng.part p).cq.next ∧
      y.kind = .record p none (s.eng.part p).cq.next ⟨l, none, none, none, none, (s.eng.part p).admSince, (s.eng.part p).admLate⟩) ∧
    ((s.eng.part p).cq.queue ≠ [] ∨ s.eng.ringFree p none = false → exec (.admissionRecordHandoff p) s = .next s)

/-- SQ_TAIL, CQ_HEAD, TR_HEAD and CANCEL accept what their rules allow and drop and count the rest. Rests on R59, R199, R222, R415, R422, R424. -/
def Obligations.DoorbellIndicesAndCancellation : Prop :=
  ∀ (s : State) (p : Fin 32) (v : Word), s.eng.windowOpen = true → s.eng.running p = true →
    let drops := fun (t : State) => t.eng.fld (Reg.partDbDrop p) 31 0 = min (s.eng.fld (Reg.partDbDrop p) 31 0 + 1) (2 ^ 32 - 1) ∧
      t.eng.bit (Reg.partEvent p) 2 = true ∧ t.eng.parts = s.eng.parts ∧ t.eng.mem = s.eng.mem
    let head := s.eng.fld (door p 4) 31 0
    let new := (v.toNat + 2 ^ 32 - head) % 2 ^ 32
    let now := (s.eng.fld (door p 0) 31 0 + 2 ^ 32 - head) % 2 ^ 32
    (new ≤ 2 ^ s.eng.fld (Reg.admSqSize p) 4 0 → now ≤ new → ∃ t, exec (.sqTail p v) s = .next t ∧
      t.eng.rd (door p 0) = v ∧ t.eng.parts = s.eng.parts ∧ t.eng.fld (Reg.partDbDrop p) 31 0 = s.eng.fld (Reg.partDbDrop p) 31 0) ∧
    (2 ^ s.eng.fld (Reg.admSqSize p) 4 0 < new → ∃ t, exec (.sqTail p v) s = .next t ∧
      drops t ∧ t.eng.rd (door p 0) = s.eng.rd (door p 0) ∧ t.eng.bit (Reg.admEvent p) 2 = true) ∧
    (new < now → ∃ t, exec (.sqTail p v) s = .next t ∧ drops t ∧ t.eng.rd (door p 0) = s.eng.rd (door p 0)) ∧
    (headMoves (s.eng.ringHead p none) (s.eng.part p).cq.tail v.toNat = true →
      ∃ t, exec (.cqHead p v) s = .next t ∧ t.eng.rd (door p 0x10) = v) ∧
    (headMoves (s.eng.ringHead p none) (s.eng.part p).cq.tail v.toNat = false →
      ∃ t, exec (.cqHead p v) s = .next t ∧ drops t ∧ t.eng.rd (door p 0x10) = s.eng.rd (door p 0x10)) ∧
    (∀ n : Fin 256, ((s.eng.tring n).held = true → (s.eng.tring n).part = p → (s.eng.tring n).left = false →
        headMoves (s.eng.ringHead p (some n)) (s.eng.tring n).ring.tail v.toNat = true → ∃ t, exec (.trHead p n v) s = .next t ∧
          t.eng.rd (door p (0x1000 + 4 * n.val)) = v ∧ (t.eng.tring n).held = true) ∧
      ((s.eng.tring n).held = true → (s.eng.tring n).part = p → (s.eng.tring n).left = true → (s.eng.tring n).ring.queue = [] →
        (s.eng.tring n).ring.next = (s.eng.tring n).ring.tail → v.toNat = (s.eng.tring n).ring.tail →
        ∃ t, exec (.trHead p n v) s = .next t ∧ (t.eng.tring n).held = false) ∧
      ((s.eng.tring n).held = false → ∃ t, exec (.trHead p n v) s = .next t ∧ drops t)) ∧
    (bitsOf v.toNat 31 27 ≠ p → ∃ t, exec (.cancel p v) s = .next t ∧ t.eng.rqt = s.eng.rqt ∧ drops t ∧ t.eng.reqs = s.eng.reqs) ∧
    (∀ n, bitsOf v.toNat 31 27 = p → s.eng.slotOf p v.toNat = some n → ∃ t, exec (.cancel p v) s = .next t ∧ t.eng.rqt = s.eng.rqt ∧
      (t.eng.req n).cancel = true ∧ (∀ m, m ≠ n → t.eng.req m = s.eng.req m) ∧
      t.eng.fld (Reg.admCancelCount p) 31 0 = (s.eng.fld (Reg.admCancelCount p) 31 0 + if (s.eng.req n).cancel then 0 else 1) % 2 ^ 32) ∧
    (bitsOf v.toNat 31 27 = p → s.eng.slotOf p v.toNat = none → ∃ t, exec (.cancel p v) s = .next t ∧ t.eng.rqt = s.eng.rqt ∧
      t.eng.reqs = s.eng.reqs ∧ t.eng.bit (Reg.admEvent p) 1 = true ∧
      t.eng.fld (Reg.admStaleCount p) 31 0 = min (s.eng.fld (Reg.admStaleCount p) 31 0 + 1) (2 ^ 32 - 1))

/-- The ledger window stages, commits and bounds one balance; profile and budget writes make the plan of R216. Rests on R209, R213, R216, R225, R226, R290. -/
def Obligations.LedgerWindowAndProfiles : Prop :=
  (∀ (s : State) (path : Path) (v : Word),
    (s.eng.gate path Reg.admLedgerBalLo = .pass → ∃ t, exec (.ledgerBalStage path v) s = .next t ∧ t.eng.balStaged = v ∧
      t.eng.ledgers = s.eng.ledgers ∧ t.eng.regs = s.eng.regs) ∧
    (s.eng.gate path Reg.admLedgerBalHi = .pass → (∀ o, o ∈ s.eng.ledJoined → o.ledger ≠ s.eng.ledSel) → ∃ t, exec (.ledgerBalCommit path v) s = .next t ∧ t.eng.balStaged = s.eng.balStaged ∧
      ∀ i, t.eng.ledger i = if i = s.eng.ledSel then (s.eng.ledger i).clamp (signed 40 (v.toNat % 256 * 2 ^ 32 + s.eng.balStaged.toNat))
        else s.eng.ledger i) ∧
    (s.eng.gate path Reg.admLedgerCap = .pass → ∃ t, exec (.ledgerBoundWrite path false v) s = .next t ∧
      ∀ i, t.eng.ledger i = if i = s.eng.ledSel then { s.eng.ledger i with
        cap := v.toNat, bal := max (-((s.eng.ledger i).floor : Int)) (min (v.toNat : Int) (s.eng.ledger i).bal) } else s.eng.ledger i) ∧
    (s.eng.gate path Reg.admLedgerFloor = .pass → ∃ t, exec (.ledgerBoundWrite path true v) s = .next t ∧
      ∀ i, t.eng.ledger i = if i = s.eng.ledSel then { s.eng.ledger i with
        floor := v.toNat, bal := max (-(v.toNat : Int)) (min ((s.eng.ledger i).cap : Int) (s.eng.ledger i).bal) } else s.eng.ledger i)) ∧
  (∀ (s : State) (path : Path) (p : Fin 32) (v : Word), s.eng.gate path (Reg.weirBudget p) = .pass →
    (1 ≤ v.toNat % 2 ^ 15 → v.toNat % 2 ^ 15 ≤ 16384 →
      ∃ t, exec (.modelCfgWrite path p 0 v) s = .next t ∧ t.eng.fld (Reg.weirBudget p) 14 0 = v.toNat % 2 ^ 15) ∧
    (v.toNat % 2 ^ 15 = 0 ∨ 16384 < v.toNat % 2 ^ 15 → ∃ t, exec (.modelCfgWrite path p 0 v) s = .next t ∧
      t.eng.rd (Reg.weirBudget p) = s.eng.rd (Reg.weirBudget p) ∧ t.eng.bit (Reg.partEvent p) 1 = true)) ∧
  ∀ (s : State) (path : Path) (p : Fin 32) (m : Fin 8) (v : Word), s.eng.gate path (Reg.admModelCfg p m) = .pass →
    (s.eng.liveOf p m ≠ [] → ∃ t, exec (.modelCfgWrite path p (BitVec.ofNat 8 (0x40 + 16 * m.val)) v) s = .next t ∧
      t.eng.rd (Reg.admModelCfg p m) = s.eng.rd (Reg.admModelCfg p m) ∧ t.eng.bit (Reg.partEvent p) 1 = true) ∧
    (s.eng.liveOf p m = [] → v.getLsbD 31 = true → bitsOf v.toNat 30 28 < 5 → 1 ≤ bitsOf v.toNat 8 0 → bitsOf v.toNat 8 0 ≤ 256 →
        let h := 128 * bitsOf v.toNat 8 0
        let f := bitsOf v.toNat 30 28
        let n := 16777216 / (if f ≤ 1 then h else if f = 2 then 2 * h else h + h / 32)
        let tb := s.eng.fld (Reg.weirBudget p) 14 0
        ∃ t, exec (.modelCfgWrite path p (BitVec.ofNat 8 (0x40 + 16 * m.val)) v) s = .next t ∧ t.eng.rd (Reg.admModelCfg p m) = v &&& 0xFF0001FF#32 ∧
        t.eng.fld (Reg.admRowCap p m) 17 0 = (if tb ≤ 2 * n then tb else 2 * n) ∧
        t.eng.fld (Reg.admPlan p m) 31 30 = (if tb ≤ n then 0 else if tb ≤ 2 * n then 1 else 2))

/-- Learned prefixes load and unload; FLUSH unlinks the trees; eviction frees the least recently used page. Rests on R231, R233, R250, R251, R252, R253, R257, R262. -/
def Obligations.BasinCommandsAct : Prop :=
  (∀ (s : State) (path : Path) (id : BitVec 16), s.eng.gate path Reg.pageLpCmd = .pass →
    (s.eng.bit Reg.pageLpCmd 31 = true → ∃ t u, exec (.lpLoad path id) s = .next t ∧ exec (.lpUnload path id) s = .next u ∧
      t.eng.lps = s.eng.lps ∧ t.eng.lpCmd = s.eng.lpCmd ∧ t.eng.regs = s.eng.regs ∧
      u.eng.lps = s.eng.lps ∧ u.eng.lpCmd = s.eng.lpCmd ∧ u.eng.regs = s.eng.regs) ∧
    (s.eng.bit Reg.pageLpCmd 31 = false → kget 0 s.eng.lps id.toNat = 0 → (s.eng.lpCheck id.toNat).1 = true →
      ∃ t, exec (.lpLoad path id) s = .next t ∧ t.eng.bit Reg.pageLpCmd 31 = true ∧ t.eng.lpCmd = some (1, id.toNat, 0) ∧
        t.eng.lps = s.eng.lps ∧ kget [] t.eng.lpPages id.toNat = (s.eng.lpCheck id.toNat).2) ∧
    (s.eng.bit Reg.pageLpCmd 31 = false → kget 0 s.eng.lps id.toNat = 1 →
      (∃ u, exec (.lpUnload path id) s = .next u ∧ u.eng.bit Reg.pageLpCmd 31 = true ∧ u.eng.lpCmd = some (2, id.toNat, 0) ∧
        kget 0 u.eng.lps id.toNat = 2) ∧
      ∃ t, exec (.lpLoad path id) s = .next t ∧ t.eng.lpCmd = some (1, id.toNat, 1) ∧ t.eng.lps = s.eng.lps)) ∧
  (∀ (s : State) (id : Nat),
    (s.eng.lpCmd = some (1, id, 0) → ∃ t, exec .lpCmdDone s = .next t ∧ t.eng.bit Reg.pageLpCmd 31 = false ∧
      t.eng.fld Reg.pageLpCmd 30 28 = 0 ∧ kget 0 t.eng.lps id = 1 ∧
      ∀ g, (t.eng.page g).ref = (s.eng.page g).ref + (kget [] s.eng.lpPages id).count g) ∧
    (s.eng.lpCmd = some (2, id, 0) → (∀ g, g ∈ kget [] s.eng.lpPages id → (s.eng.page g).ref = 1) →
      ∃ t, exec .lpCmdDone s = .next t ∧ t.eng.bit Reg.pageLpCmd 31 = false ∧ kget 0 t.eng.lps id = 0 ∧ t.eng.lpCmd = none) ∧
    (s.eng.lpCmd = some (2, id, 0) → (∃ g, g ∈ kget [] s.eng.lpPages id ∧ (s.eng.page g).ref ≠ 1) → exec .lpCmdDone s = .next s)) ∧
  (∀ (s : State) (path : Path) (p : Fin 32) (n r : Nat), s.eng.gate path (Reg.pageCtrl p) = .pass → s.eng.level1s p = [n] →
    (s.eng.node n).parent = r → (s.eng.node r).root = true → (s.eng.node n).kids = [] → (s.eng.node n).page = none → n ≠ r →
    ∃ t, exec (.flush path p) s = .next t ∧ t.eng.node n = Node.free ∧ (t.eng.node r).kids = (s.eng.node r).kids.erase n ∧
      t.eng.pages = s.eng.pages) ∧
  ∀ (s : State) (p : Fin 32) (n g : Nat) (l : List Nat),
    (s.eng.fld (Reg.pageWatermark p) 23 0 ≤ s.eng.freeCount p → exec (.backgroundEvict p) s = .next s) ∧
    (s.eng.freeCount p < s.eng.fld (Reg.pageWatermark p) 23 0 → (s.eng.part p).lru = n :: l → (s.eng.node n).page = some g →
      (s.eng.node n).parent ≠ n → (s.eng.node (s.eng.node n).parent).root = true → (s.eng.page g).ref = 1 →
      (∀ h, h ∈ (s.eng.part p).freePages → h ≠ g) →
      ∃ t, exec (.backgroundEvict p) s = .next t ∧ t.eng.node n = Node.free ∧ (t.eng.page g).ref = 0 ∧
        (t.eng.part p).freePages = (s.eng.part p).freePages ++ [g] ∧ (t.eng.part p).lru = l ∧
        t.eng.fld (Reg.pageEvictions p) 31 0 = (s.eng.fld (Reg.pageEvictions p) 31 0 + 1) % 2 ^ 32)

/-- BOPEN opens one batch with its limits captured; BADDQ grants rows within its limits or refuses with a reason. Rests on R133, R134, R137, R264, R265, R266, R267. Rests on the model's choices of assumption logs 46, 105. -/
def Obligations.BatchesOpenAndTakeRequests : Prop :=
  ∀ (s : State) (i : Ins), s.issues i → i.ext = 0 →
    let q := s.eng.part i.p
    let x := s.eng.ctx i.p i.c
    let h := (x.sreg i.srca.toNat).toNat % 2 ^ 32
    let w := (x.sreg i.srcb.toNat).toNat
    (∀ op kind, (op = Instr.bopenGen i ∧ kind = false) ∨ (op = Instr.bopenLearn i ∧ kind = true) → i.dst = 0 → i.srca = 0 → i.srcb = 0 →
      (q.batch = none → ∃ t bt, exec op s = .next t ∧ (t.eng.part i.p).batch = some bt ∧ bt.learning = kind ∧ bt.owner = i.c ∧
        bt.runs = [] ∧ bt.tb = s.eng.fld (Reg.weirBudget i.p) 14 0 ∧ bt.chunk = s.eng.fld (Reg.weirChunk i.p) 14 0 ∧
        bt.gcap = s.eng.fld (Reg.weirGcap i.p) 14 0 ∧ bt.roles.map (fun r => r.1) = s.eng.dispChans i.p ∧
        s.eng.outside t.eng i.p (slotRegs i.p) ∧ x.advanced (t.eng.ctx i.p i.c)) ∧
      (q.batch ≠ none → ∃ t, exec op s = .next t ∧ x.faultedWith (t.eng.ctx i.p i.c) (BitVec.ofNat 64 (0x0C * 2 ^ 56 + 2)))) ∧
    (s.eng.slotOf i.p h = none → ∃ t, exec (.baddq i) s = .next t ∧
      x.faultedWith (t.eng.ctx i.p i.c) (BitVec.ofNat 64 (0x0A * 2 ^ 56 + 2 * 2 ^ 52 + h))) ∧
    (∀ n bt, s.eng.slotOf i.p h = some n → q.batch = some bt → bt.owner = i.c →
      (∀ r, s.eng.refusal n = some r → ∃ t, exec (.baddq i) s = .next t ∧ s.eng.frame t.eng i.p i.c ∧
        x.wroteS (t.eng.ctx i.p i.c) i.dst.toNat (BitVec.ofNat 64 (r * 2 ^ 32))) ∧
      (s.eng.refusal n = none → ∃ t reason rows, exec (.baddq i) s = .next t ∧
        x.wroteS (t.eng.ctx i.p i.c) i.dst.toNat (BitVec.ofNat 64 (reason * 2 ^ 32 + rows)) ∧
        ((reason = 0 ∧ 1 ≤ rows ∧ rows ≤ s.eng.natural n bt.chunk bt.seg ∧ (w = 0 ∨ rows ≤ w) ∧
          rows ≤ s.eng.limitRoom i.p bt n (s.eng.rmodel n) (s.eng.rphase n) ∧ t.eng.rstate n = rsActive ∧ (t.eng.req n).inBatch = true ∧
          ∃ r bu, (t.eng.part i.p).batch = some bu ∧ bu.runs = bt.runs ++ [r] ∧ r.slot = n ∧ r.rows = rows) ∨
         ((reason = 1 ∨ reason = 6) ∧ rows = 0 ∧ (t.eng.part i.p).batch = some bt ∧ t.eng.rstate n = s.eng.rstate n))))

/-- BSEAL numbers and queues the step, defers or discards; processing and BISSUE send its descriptors. Rests on R135, R136, R273, R275, R278, R279, R280, R539. -/
def Obligations.BatchesSealAndIssue : Prop :=
  (∀ (s : State) (i : Ins) (bt : Batch), s.issues i → i.ext = 0 → i.srca = 0 → i.srcb = 0 → (s.eng.part i.p).batch = some bt → bt.owner = i.c →
    let x := s.eng.ctx i.p i.c
    (2 ≤ (s.eng.part i.p).steps.length → ∃ t, exec (.bseal i) s = .next t ∧ s.eng.frame t.eng i.p i.c ∧
      x.wroteS (t.eng.ctx i.p i.c) i.dst.toNat (BitVec.ofNat 64 (2 ^ 56))) ∧
    ((s.eng.part i.p).steps.length < 2 → bt.runs ≠ [] ∨ (s.eng.part i.p).aged ≠ [] ∨ bt.reserved ≠ [] → ∃ t st l, exec (.bseal i) s = .next t ∧
      x.wroteS (t.eng.ctx i.p i.c) i.dst.toNat (BitVec.ofNat 64 (s.eng.part i.p).nextStep) ∧ (t.eng.part i.p).batch = none ∧
      (t.eng.part i.p).steps = (s.eng.part i.p).steps ++ [st] ∧ st.num = (s.eng.part i.p).nextStep ∧ st.learning = bt.learning ∧
      st.runs.map (fun r => r.slot) = bt.runs.map (fun r => r.slot) ++ l ∧ (t.eng.part i.p).nextStep = (st.num + 1) % 2 ^ 48 ∧
      t.eng.seals = s.eng.seals ++ [(i.p, st.num)] ∧
      t.eng.fld (Reg.weirSealed i.p) 31 0 = (s.eng.fld (Reg.weirSealed i.p) 31 0 + 1) % 2 ^ 32) ∧
    ((s.eng.part i.p).steps.length < 2 → bt.runs = [] → (s.eng.part i.p).aged = [] → bt.reserved = [] → ∃ t, exec (.bseal i) s = .next t ∧
      x.wroteS (t.eng.ctx i.p i.c) i.dst.toNat (BitVec.ofNat 64 (2 * 2 ^ 56)) ∧ (t.eng.part i.p).batch = none ∧
      (t.eng.part i.p).steps = (s.eng.part i.p).steps)) ∧
  (∀ (s : State) (p : Fin 32) (num : Nat) (rest : List (Nat × Nat)) (st : Step), s.eng.seals = (p.val, num) :: rest →
    s.eng.stepOf p num = some st → st.issued = false →
    ∃ t, exec (.sealProcessed p) s = .next t ∧ t.eng.seals = rest ∧ t.eng.stepOf p num = some { st with proc := true } ∧
      t.eng.fld Reg.weirSeals 31 0 = (s.eng.fld Reg.weirSeals 31 0 + 1) % 2 ^ 32) ∧
  ∀ (s : State) (i : Ins) (st : Step) (g : StepGrp), s.issues i → i.ext = 0 → i.dst = 0 → i.srcb = 0 →
    let x := s.eng.ctx i.p i.c
    let num := (x.sreg i.srca.toNat).toNat
    (s.eng.stepOf i.p num = none → ∃ t, exec (.bissue i) s = .next t ∧
      x.faultedWith (t.eng.ctx i.p i.c) (BitVec.ofNat 64 (0x0C * 2 ^ 56 + 2 * 2 ^ 52 + 4))) ∧
    (s.eng.stepOf i.p num = some st → st.issued = true → ∃ t, exec (.bissue i) s = .next t ∧
      x.faultedWith (t.eng.ctx i.p i.c) (BitVec.ofNat 64 (0x0C * 2 ^ 56 + 2 * 2 ^ 52 + 5))) ∧
    (s.eng.stepOf i.p num = some st → st.issued = false → st.proc = false → ∃ t, exec (.bissue i) s = .next t ∧
      x.waitsFor (t.eng.ctx i.p i.c) .issue ∧ t.eng.out = s.eng.out) ∧
    (s.eng.stepOf i.p num = some st → (∀ y, y ∈ (s.eng.part i.p).steps → y.num = num → y = st) → st.issued = false → st.proc = true →
      st.queued = false → st.groups = [g] → g.chan < 64 → s.eng.kdlq = [] → (s.eng.chan (s.eng.phys g.chan)).up = true →
      (s.eng.chan (s.eng.phys g.chan)).failed = false →
      (s.eng.stepDescs i.p st g).length < (s.eng.chan (s.eng.phys g.chan)).credits →
      ∃ t, exec (.bissue i) s = .next t ∧
        t.eng.out = s.eng.out ++ (s.eng.stepDescs i.p st g).map (fun d => Out.kdl (s.eng.phys g.chan) d) ∧
        (t.eng.chan (s.eng.phys g.chan)).credits + (s.eng.stepDescs i.p st g).length = (s.eng.chan (s.eng.phys g.chan)).credits ∧
        (t.eng.ctx i.p i.c).pend = none ∧ x.advanced (t.eng.ctx i.p i.c))

/-- A role update moves the prefill groups by at most one within their bounds, after the dwell, by the smoothed share. Rests on R276, R277. Rests on the model's choices of assumption log 45. -/
def Obligations.RoleBalanceFollowsDemand : Prop :=
  ∀ (s : State) (p : Fin 32),
    let role := s.eng.rd (Reg.weirRole p)
    let el := (s.eng.liveSlots p).filter fun n => s.eng.eligible n
    let chunk := s.eng.fld (Reg.weirChunk p) 14 0
    let lp := (el.filter fun n => decide (s.eng.rphase n = phPrefill)).foldl (fun k n => k + s.eng.natural n chunk 0) 0
    let ld := (el.filter fun n => decide (s.eng.rphase n = phDecode)).foldl (fun k n => k + s.eng.natural n chunk 0) 0
    let g := (s.eng.dispChans p).length
    let np := s.eng.fld (Reg.weirRoleStatus p) 14 8
    let f := s.eng.fld (Reg.weirRoleStatus p) 31 16
    let lo := bitsOf role.toNat 6 0
    let hi := g - bitsOf role.toNat 14 8
    let hyst := bitsOf role.toNat 23 16
    let dwelt := (s.eng.part p).roleBeat + max 16 (s.eng.fld (Reg.weirDwell p) 15 0) ≤ s.beat.beat
    (s.eng.pstate p ≠ psDisabled → s.beat.time = s.beat.entered → bitsOf role.toNat 31 30 = 1 → (s.eng.part p).roleAt ≤ s.beat.beat → lo ≤ hi →
      ∃ t np' f', exec (.roleUpdate p) s = .next t ∧ t.eng.fld (Reg.weirRoleStatus p) 14 8 = np' ∧
        t.eng.fld (Reg.weirRoleStatus p) 31 16 = f' ∧ lo ≤ np' ∧ np' ≤ hi ∧
        (lp + ld = 0 → f' = f) ∧ (0 < lp + ld → (f' : Int) = f + ((65536 * lp / (lp + ld) : Nat) - (f : Int)) / 8) ∧
        (lo ≤ np → np ≤ hi → np' ≠ np → dwelt ∧ t.eng.bit (Reg.weirEvent p) 0 = true ∧ (t.eng.part p).roleBeat = s.beat.beat) ∧
        (lo ≤ np → np < hi → dwelt → 65536 * np + 32768 + 256 * hyst ≤ f' * g → np' = np + 1) ∧
        (lo < np → np ≤ hi → dwelt → f' * g + 32768 + 256 * hyst ≤ 65536 * np → np' = np - 1) ∧
        (lo ≤ np → np = hi → 65536 * np + 32768 + 256 * hyst ≤ f' * g → np' = np) ∧
        (np = lo → np ≤ hi → f' * g + 32768 + 256 * hyst ≤ 65536 * np → np' = np) ∧
        (lo ≤ np → np ≤ hi → f' * g < 65536 * np + 32768 + 256 * hyst → 65536 * np < f' * g + 32768 + 256 * hyst → np' = np)) ∧
    (s.eng.pstate p = psDisabled ∨ s.beat.time ≠ s.beat.entered ∨ bitsOf role.toNat 31 30 ≠ 1 ∨ s.beat.beat < (s.eng.part p).roleAt → exec (.roleUpdate p) s = .next s)

/-- A boundary takes effect for a request in the order of R20, and updates the requests of its step. Rests on R15, R16, R17, R18, R20, R220, R287, R304, R306, R308, R420. Rests on the model's choices of assumption log 114. -/
def Obligations.BoundariesRetirePauseAndUpdate : Prop :=
  (∀ (s : State) (p : Fin 32) (n : Nat), s.eng.running p = true → (s.eng.part p).steps = [] → s.eng.idleSlots p = [n] →
    (s.eng.req n).early = Events.none → (s.eng.req n).termEv = none → (s.eng.req n).inStep = none → (s.eng.req n).inBatch = false → (s.eng.part p).srcFails = 0 →
    let gone := fun (status : Nat) => ∃ t y q, exec (.idleBoundary p) s = .next t ∧ (t.eng.req n).live = false ∧
      (t.eng.part p).freed = (s.eng.part p).freed ++ [n] ∧ kget 0 t.eng.gens n = kget 0 s.eng.gens n + 1 ∧
      (∀ w, w < 24 → t.eng.rqw n w = 0) ∧
      (s.eng.rring n = none → (s.eng.part p).cq.queue = [] → s.eng.ringFree p none = true → t.eng.txns = s.eng.txns ++ [y] ∧
        y.kind = .record p none (s.eng.part p).cq.next q ∧ fieldAt q.bytes 0 4 = s.eng.rhandle n ∧ fieldAt q.bytes 0x12 1 = status)
    ((s.eng.req n).cancel = true → gone 0x02) ∧
    ((s.eng.req n).cancel = false → s.eng.deadlineHit s.beat n = true → s.eng.rqf n 6 63 63 = 1 → gone 0x03) ∧
    ((s.eng.req n).cancel = false → s.eng.deadlineHit s.beat n = false → (s.eng.req n).faultEv = none → (s.eng.req n).verEv = false →
      (s.eng.req n).pinEv = none → (s.eng.req n).live = true → (s.eng.req n).pauseEv = true →
      s.eng.rstate n ≠ rsPaused → ∃ t, exec (.idleBoundary p) s = .next t ∧ t.eng.rstate n = rsPaused ∧ (t.eng.req n).pauseEv = false ∧ (t.eng.req n).live = true ∧
        (t.eng.req n).alert = none)) ∧
  (∀ (s : State) (p : Fin 32), s.eng.pstate p = psHalted → (s.eng.part p).steps = [] →
    ∃ t, exec (.idleBoundary p) s = .next t ∧ t.eng.reqs = s.eng.reqs ∧ t.eng.rqt = s.eng.rqt) ∧
  ∀ (s : State) (p : Fin 32) (st : Step) (rest : List Step), (s.eng.part p).steps = st :: rest →
    (s.eng.cutReached p st = false → exec (.stepBoundary p) s = .next s) ∧
    ((s.eng.part p).idleDue = false → exec (.idleBoundary p) s = .next s) ∧
    (s.eng.batchReady p st = true → (∃ r, r ∈ st.recs ∧ r.handed = false ∧ s.eng.rring r.slot = none) →
      ∃ u, (s.eng.flushRecs s.beat p st.num).stepOf p st.num = some u ∧ u.batched = true ∧ ∀ r, r ∈ u.recs → r.handed = true) ∧
    (s.eng.cutReached p st = true → s.eng.pstate p ≠ psResetting → st.slots.Nodup →
      (∀ y, y ∈ rest → y.num ≠ st.num) →
      ∃ t, exec (.stepBoundary p) s = .next t ∧ (t.eng.part p).steps.map (fun y => y.num) = rest.map (fun y => y.num) ∧
        ∀ r, r ∈ st.runs → r.slot ≠ deadSlot → (t.eng.req r.slot).live = true →
          (t.eng.req r.slot).inStep = none ∧
          (s.eng.rstate r.slot = rsActive → t.eng.rstate r.slot = rsWaiting ∨ t.eng.rstate r.slot = rsPaused) ∧
          t.eng.rgenerated r.slot = (s.eng.rgenerated r.slot + (st.tokensOf r.slot).length) % 2 ^ 32 ∧
          (s.eng.fld (Reg.wlcCtrl p) 1 0 = 0 → (s.eng.req r.slot).pinEv = none → (s.eng.req r.slot).early.pin = none → r.phase ≠ phDecode →
            r.slot ∉ st.badLearn → (∀ l, l ∈ st.lists → l.slot ≠ r.slot) →
            t.eng.rprefilled r.slot = (s.eng.rprefilled r.slot + r.rows) % 2 ^ 32))

/-- Alerts post, deadlines raise their event, and drawdown begins, ends and resumes its requests. Rests on R299, R300, R301, R302, R307, R308, R310, R311. -/
def Obligations.LatencyEventsAndDrawdown : Prop :=
  (∀ (s : State) (p : Fin 32) (n : Nat) (a : Alert), (s.eng.req n).alert = some a →
    let lv := s.eng.fld (Reg.latCtrl p) 20 16
    let item : Dword := BitVec.ofNat 64 (s.eng.rhandle n + a.kind * 2 ^ 32)
    (s.eng.running p = true → s.eng.listFull p lv = false →
      (s.eng.dueAlert s.beat p = some (n, a) → (s.eng.part p).alertHeld = [] → s.eng.rstate n = rsWaiting → (s.eng.req n).inBatch = false →
        (s.eng.req n).inStep = none → ∃ t, exec (.alertDue p) s = .next t ∧ (t.eng.part p).itemsAt lv = (s.eng.part p).itemsAt lv ++ [item] ∧
          (t.eng.req n).alert = none ∧ t.eng.fld (Reg.latAlerts p) 31 0 = (s.eng.fld (Reg.latAlerts p) 31 0 + 1) % 2 ^ 32) ∧
      ((s.eng.part p).alertHeld = [n] → a.fallen = true → ∃ t, exec (.alertPostRetry p) s = .next t ∧ (t.eng.part p).alertHeld = [] ∧
        (t.eng.part p).itemsAt lv = (s.eng.part p).itemsAt lv ++ [item] ∧ (t.eng.req n).alert = none)) ∧
    (s.eng.running p = true → s.eng.dueAlert s.beat p = some (n, a) → s.eng.rstate n ≠ rsWaiting →
      ∃ t, exec (.alertDue p) s = .next t ∧ t.eng.parts = s.eng.parts ∧ (t.eng.req n).alert = some { a with fallen := true })) ∧
  (∀ (s : State) (p : Fin 32) (n : BitVec 17), n.toNat ∈ s.eng.liveSlots p → (s.eng.req n.toNat).deadlineArmed = true →
    (s.eng.rdeadline n.toNat ≤ s.beat.time → ∃ t, exec (.deadlineEvent p n) s = .next t ∧ (t.eng.req n.toNat).deadlineEv = true ∧
      (t.eng.req n.toNat).deadlineArmed = false ∧ ∀ m, m ≠ n.toNat → t.eng.req m = s.eng.req m) ∧
    (s.beat.time < s.eng.rdeadline n.toNat → exec (.deadlineEvent p n) s = .next s)) ∧
  (∀ (s : State) (path : Path) (p : Fin 32), s.eng.gate path (Reg.latDrawCtrl p) = .pass →
    let lv := s.eng.fld (Reg.latDrawCtrl p) 20 16
    (s.eng.drawActive p = false → ∃ t, exec (.drawSw path p true) s = .next t ∧ t.eng.drawActive p = true ∧ t.eng.bit (Reg.latDrawCtrl p) 0 = true ∧
      (t.eng.part p).drawLevel = lv ∧ ∀ n, n ∈ s.eng.liveSlots p →
        (t.eng.req n).pauseEv = ((s.eng.req n).pauseEv || (decide (lv ≤ s.eng.rprio n) && decide (s.eng.rstate n ≠ rsPaused)))) ∧
    (s.eng.drawActive p = true → s.eng.fld (Reg.latDrawStatus p) 30 28 = 0 → ∃ t, exec (.drawSw path p false) s = .next t ∧
      t.eng.drawActive p = false ∧ (t.eng.part p).resuming = true ∧ (t.eng.part p).resumeAt = s.beat.beat + 1 ∧
      ∀ n, n ∈ s.eng.liveSlots p → (t.eng.req n).pauseEv = false) ∧
    (∀ on, (path ≠ .mgmt → ∃ t, exec (.drawMgmt path p on) s = .next t ∧ t.eng.regs = s.eng.regs ∧ t.eng.parts = s.eng.parts) ∧
      (path = .mgmt → ∃ t, exec (.drawMgmt path p on) s = .next t ∧ t.eng.bit (Reg.latDrawCtrl p) 1 = on ∧
        t.eng.bit (Reg.latDrawStatus p) 28 = on))) ∧
  (∀ (s : State) (p : Fin 32),
    (s.eng.bit (Reg.latDrawStatus p) 29 = true → s.eng.startLive s.beat p = false →
      ∃ t, exec (.drawStartEnd p) s = .next t ∧ t.eng.bit (Reg.latDrawStatus p) 29 = false ∧ t.eng.rqt = s.eng.rqt) ∧
    (s.eng.startLive s.beat p = true → exec (.drawStartEnd p) s = .next s) ∧
    (s.eng.bit (Reg.latDrawStatus p) 30 = true → s.eng.recoverLive s.beat p = false →
      ∃ t, exec (.drawRecoverEnd p) s = .next t ∧ t.eng.bit (Reg.latDrawStatus p) 30 = false ∧ t.eng.rqt = s.eng.rqt) ∧
    (s.eng.recoverLive s.beat p = true → exec (.drawRecoverEnd p) s = .next s)) ∧
  ∀ (s : State) (p : Fin 32), (s.eng.part p).resuming = true → s.eng.drawActive p = false → (s.eng.part p).resumeAt ≤ s.beat.beat →
    (s.eng.liveByOrder p).Nodup →
    (s.beat.time ≠ s.beat.entered → exec (.drawResume p) s = .next s) ∧ (s.beat.time = s.beat.entered →
    let paused := (s.eng.liveByOrder p).filter fun n => decide (s.eng.rstate n = rsPaused)
    let per := s.eng.fld (Reg.latDrawResume p) 15 0
    (per = 0 → ∃ t, exec (.drawResume p) s = .next t ∧ (t.eng.part p).resumeAt = s.beat.beat + 1 ∧ t.eng.reqs = s.eng.reqs ∧
      (t.eng.part p).resuming = false ∧ ∀ n, n ∈ paused → t.eng.rstate n = rsWaiting) ∧
    (per ≠ 0 → ∃ t, exec (.drawResume p) s = .next t ∧ (t.eng.part p).resumeAt = s.beat.beat + 1 ∧ t.eng.reqs = s.eng.reqs ∧
      (∀ n, n ∈ paused.take per → t.eng.rstate n = rsWaiting) ∧ (∀ n, n ∈ paused.drop per → t.eng.rstate n = rsPaused) ∧
        ((t.eng.part p).resuming = true ↔ per < paused.length)))

/-- VPROJ and VGRAD BACK check their descriptor, then queue one operation, or wait while the queue is full. Rests on R137, R143, R322, R323, R327, R329, R344, R375. Rests on the model's choices of assumption log 55. -/
def Obligations.PlaneQueuesOperations : Prop :=
  (∀ (s : State) (i : Ins) (op : Instr) (head : Nat) (back : Bool), s.issues i → i.dst = 0 → i.ext = 0 →
    (op = .vprojMain i ∧ head = 0 ∧ back = false ∨ (∃ h : Fin 8, op = .vprojJet i h ∧ head = h.val + 1 ∧ back = false) ∨
      op = .vgradBack i ∧ head = 0 ∧ back = true) →
    let x := s.eng.ctx i.p i.c
    let num := (x.sreg i.srca.toNat).toNat
    let a := (x.sreg i.srcb.toNat).toNat
    let d := headDesc a (s.eng.bytes a 64)
    (s.eng.stepOf i.p num = none → ∃ t, exec op s = .next t ∧
      x.faultedWith (t.eng.ctx i.p i.c) (BitVec.ofNat 64 (0x0C * 2 ^ 56 + 2 * 2 ^ 52 + 4))) ∧
    (∀ st, s.eng.stepOf i.p num = some st → st.passes = 2 → st.grouped = true → ∃ t, exec op s = .next t ∧
      x.faultedWith (t.eng.ctx i.p i.c) (BitVec.ofNat 64 (0x0C * 2 ^ 56 + 2 * 2 ^ 52 + 8))) ∧
    (∀ st, s.eng.stepOf i.p num = some st → st.passes ≠ 2 ∨ st.grouped = false →
      (a % 64 ≠ 0 ∨ s.eng.refused (some i.p) false a 64 = true ∨ crcGood (s.eng.bytes a 64) = false ∨ d.fmt < 2 ∨ 9 < d.fmt ∨ d.gfmt = 3 ∨
        s.eng.bit (Reg.admModelCfg i.p d.profile) 31 = false ∨ d.hidden ≠ s.eng.hdim i.p d.profile ∨ d.vocab = 0 ∨ d.waddr % 4096 ≠ 0 ∨
        d.laddr % 4096 ≠ 0 ∨ (d.learn = true ∧ d.write = false) ∨ (d.write = true ∧ d.lstride * 4096 < 4 * d.vocab) ∨
        (back = true ∧ (d.aux = 0 ∨ d.aux % 4096 ≠ 0))) →
      ∃ t, exec op s = .next t ∧ x.faultedWith (t.eng.ctx i.p i.c) (BitVec.ofNat 64 (0x05 * 2 ^ 56 + 3 * 2 ^ 52 + a % 2 ^ 48))) ∧
    (s.eng.opBad i.p num a head back = none →
      (s.eng.planeWait = [] → s.eng.planeq.length < 64 →
        (s.eng.deny = [] ∨ ∀ st r, s.eng.stepOf i.p num = some st → r ∈ st.runs → r.sampled = false) →
        ∃ t o, exec op s = .next t ∧ o.part = i.p ∧ o.step = num ∧ o.head = head ∧
        o.back = back ∧ o.desc = d ∧ o.passesDone = [] ∧ x.advanced (t.eng.ctx i.p i.c) ∧
        ∀ st, s.eng.stepOf i.p num = some st → s.eng.opPasses st o ≠ [] → t.eng.planeq = s.eng.planeq ++ [o] ∧
          t.eng.cells = s.eng.cells ∧ t.eng.rqt = s.eng.rqt ∧
          (head ≠ 0 ∨ back = true ∨ (∀ r, r ∈ st.runs → r.sampled = false) → t.eng.mem = s.eng.mem)) ∧
      (s.eng.planeWait ≠ [] ∨ 64 ≤ s.eng.planeq.length → ∃ t o, exec op s = .next t ∧ x.waitsFor (t.eng.ctx i.p i.c) .plane ∧
        t.eng.planeq = s.eng.planeq ∧ t.eng.planeWait = s.eng.planeWait ++ [(i.p, i.c, o)] ∧ o.step = num ∧ o.head = head ∧ o.back = back ∧
        o.desc = d ∧ t.eng.bit Reg.lplEvent 3 = true))) ∧
  ∀ (s : State) (p : Fin 32) (c : Nat) (o : PlaneOp), (s.eng.planeWait.find? fun w => decide (w.1 = p.val)) = some (p.val, c, o) →
    (64 ≤ s.eng.planeq.length → exec (.planeQueueRoom p) s = .next s) ∧
    (∀ st, s.eng.planeq.length < 64 → s.eng.stepOf p o.step = some st → o.part = p.val → (s.eng.ctx p c).stopReq = none →
      (s.eng.deny = [] ∨ ∀ r, r ∈ st.runs → r.sampled = false) →
      (st.passes ≠ 2 ∨ st.grouped = false → s.eng.opPasses st o ≠ [] →
        ∃ t, exec (.planeQueueRoom p) s = .next t ∧ t.eng.planeq = s.eng.planeq ++ [o] ∧ (s.eng.ctx p c).advanced (t.eng.ctx p c) ∧
          t.eng.planeWait = s.eng.planeWait.filter fun w => decide (w.2.2.id ≠ o.id)) ∧
      (st.passes = 2 → st.grouped = true → ∃ t, exec (.planeQueueRoom p) s = .next t ∧ t.eng.planeq = s.eng.planeq ∧
        (s.eng.ctx p c).faultedWith (t.eng.ctx p c) (BitVec.ofNat 64 (0x0C * 2 ^ 56 + 2 * 2 ^ 52 + 8))))

/-- Rows are staged under whole reservations, eligible passes start, units compute or are repeated, and passes end. Rests on R319, R321, R325, R328, R331, R334, R337, R475, R547, R548. -/
def Obligations.PlaneRunsPasses : Prop :=
  (∀ (s : State) (h : HRowPkt) (st : Step) (r : Run), s.eng.bit Reg.glbStatus 31 = true → s.eng.hsFailed h.port.val = false → h.crcOk = true →
    s.eng.stageq = [] → s.eng.hrowHeld = [] → s.eng.stepOf h.part h.step.toNat = some st → st.runAt h.row.toNat = some r →
    (s.eng.hrowBad h = true → ∃ t, exec (.hrow h) s = .next t ∧ t.eng.parts = s.eng.parts ∧
      t.eng.fld Reg.glbHsDrop 15 0 = min (s.eng.fld Reg.glbHsDrop 15 0 + 1) 65535) ∧
    (s.eng.hrowBad h = false →
      (r.pass ∈ st.granted ∨ s.eng.stageUsed + s.eng.granules h.part st r.pass ≤ 256 →
        ∃ t st', exec (.hrow h) s = .next t ∧ t.eng.stepOf h.part h.step.toNat = some st' ∧ st'.hidRow h.row.toNat = some (h.payload.take h.bytes.toNat) ∧
          r.pass ∈ st'.granted ∧ t.eng.stageq = [] ∧ t.eng.hrowHeld = []) ∧
      (r.pass ∉ st.granted → 256 < s.eng.stageUsed + s.eng.granules h.part st r.pass →
        ∃ t, exec (.hrow h) s = .next t ∧ t.eng.parts = s.eng.parts ∧ t.eng.stageq = [(h.part.val, h.step.toNat, r.pass)] ∧ t.eng.hrowHeld = [h]))) ∧
  (∀ (s : State) (p num pass : Nat) (rest : List (Nat × Nat × Nat)) (st : Step), s.eng.stageq = (p, num, pass) :: rest → s.eng.stepOf p num = some st →
    (s.eng.stageUsed + s.eng.granules p st pass ≤ 256 →
      ∃ t st', exec .stageGrant s = .next t ∧ t.eng.stepOf p num = some st' ∧ pass ∈ st'.granted) ∧
    (256 < s.eng.stageUsed + s.eng.granules p st pass → ∃ t, exec .stageGrant s = .next t ∧ t.eng.stageq = s.eng.stageq ∧ t.eng.parts = s.eng.parts)) ∧
  (∀ s : State,
    (s.eng.planeCur ≠ none ∨ s.eng.planeStop ≠ none ∨ s.eng.tileDown ≠ [] ∨ s.eng.nextPass = none → exec .planePassStart s = .next s) ∧
    ∀ id k o st, (s.eng.planeq.map fun y => y.id).Nodup → s.eng.planeCur = none → s.eng.planeStop = none → s.eng.tileDown = [] →
      s.eng.nextPass = some (id, k) → s.eng.opOf id = some o → s.eng.stepOf o.part o.step = some st → o.head ≤ 8 →
      k ∈ st.granted ∧ (∀ x, x ∈ (s.eng.passRows st o k).take 64 → (st.hidRow x).isSome = true) ∧
      ∃ t, exec .planePassStart s = .next t ∧ t.eng.planeCur = some (id, k) ∧ t.eng.fld Reg.lplStatus 31 31 = 1 ∧
        t.eng.fld Reg.lplLastOp 31 27 = o.part % 32 ∧ t.eng.fld Reg.lplLastOp 15 0 = o.step % 65536) ∧
  (∀ (s : State) (o : PlaneOp) (st : Step) (k unit : Nat), s.eng.running? = some (o, st, k) → s.eng.passPresent st o k = true →
    unit ∈ o.round → unit ∉ o.units → s.eng.tileDown = [] → s.eng.planeStop = none →
    (∃ t o', exec (.planeUnitDone unit false) s = .next t ∧ t.eng.opOf o.id = some o' ∧ o'.units = o.units ++ [unit] ∧
      (s.eng.deny = [] → o.back = false → o.desc.write = false → t.eng.mem = s.eng.mem ∧
        ∀ x, x ∈ s.eng.passRows st o k → kget [] o'.z (unit * 2 ^ 20 + x) = s.eng.unitLogits o unit ((st.hidRow x).getD [])) ∧
      (∀ x, s.eng.deny = [] → o.back = false → o.desc.write = true → s.eng.passRows st o k = [x] → ∀ a v, v < 2 ^ 32 →
        (s.eng.unitLogits o unit ((st.hidRow x).getD [])).length < 2 ^ 20 →
        (∃ j, (s.eng.unitLogits o unit ((st.hidRow x).getD []))[j]? = some v ∧ a = o.logitAt (s.eng.rankOf st o x) ((o.unitRange unit).1) + 4 * j) →
        a + 4 ≤ 2 ^ 64 → t.eng.num a 4 = v)) ∧
    (let l := (s.eng.tileOf (s.eng.passRows st o k).length o unit).1
     ((unit, l) ∉ o.redo → ∃ t o', exec (.planeUnitDone unit true) s = .next t ∧ t.eng.opOf o.id = some o' ∧ o'.redo = o.redo ++ [(unit, l)] ∧
      o'.units = o.units ∧ o'.round = o.round ∧ t.eng.bit Reg.lplEvent 0 = true ∧ (s.eng.deny = [] → t.eng.mem = s.eng.mem) ∧
      t.eng.fld Reg.lplResidueCount 31 0 = min (s.eng.fld Reg.lplResidueCount 31 0 + 1) (2 ^ 32 - 1) ∧
      t.eng.fld Reg.lplReexecCount 31 0 = min (s.eng.fld Reg.lplReexecCount 31 0 + 1) (2 ^ 32 - 1)) ∧
     ((unit, l) ∈ o.redo → ∃ t, exec (.planeUnitDone unit true) s = .next t ∧ t.eng.bit Reg.lplEvent 0 = true ∧ t.eng.bit Reg.lplEvent 1 = true ∧
      (s.eng.fld Reg.intSpares 31 24 ≠ 0 → t.eng.tileDown = [(l, unit)] ∧ t.eng.fld Reg.lplStatus 7 0 = s.eng.fld Reg.lplStatus 7 0) ∧
      (s.eng.fld Reg.intSpares 31 24 = 0 → t.eng.tileDown = [] ∧
        ((∃ v, v ∈ o.round.erase unit ∧ v ∉ o.units) → t.eng.tileGone = s.eng.tileGone ++ [l] ∧
          t.eng.fld Reg.lplStatus 7 0 = s.eng.fld Reg.lplStatus 7 0) ∧
        ((∀ v, v ∈ o.round.erase unit → v ∈ o.units) → t.eng.tileGone = [] ∧
          t.eng.fld Reg.lplStatus 7 0 = s.eng.fld Reg.lplStatus 7 0 - (s.eng.tileGone.length + 1)))))) ∧
  (∀ (s : State) (l u : Nat) (rest : List (Nat × Nat)), s.eng.tileDown = (l, u) :: rest → s.eng.fld Reg.intSpares 31 24 ≠ 0 →
    ∃ t, exec .tileSpareSwap s = .next t ∧
    t.eng.tileDown = rest ∧ t.eng.fld Reg.intSpares 31 24 + 1 = s.eng.fld Reg.intSpares 31 24 ∧
    t.eng.physTile l = 128 + (8 - s.eng.fld Reg.intSpares 31 24) ∧ ∀ m, m ≠ l → t.eng.physTile m = s.eng.physTile m) ∧
  ∀ (s : State) (o : PlaneOp) (st : Step) (k : Nat), s.eng.running? = some (o, st, k) →
    (o.back = false ∧ s.eng.passRows st o k ≠ [] ∧ (∃ u, u < o.unitCount ∧ u ∉ o.units) → exec .planePassEnd s = .next s) ∧
    ((∀ u, u < o.unitCount → u ∈ o.units) → s.eng.passPresent st o k = true → s.eng.tileDown = [] → s.eng.planeStop = none → (∀ x, x ∈ o.redo → x.1 ∈ o.units) →
      s.eng.romWait = false →
      ∃ t, exec .planePassEnd s = .next t ∧ t.eng.planeCur = none ∧ t.eng.fld Reg.lplStatus 31 31 = 0 ∧
        (let r := if o.back then Reg.lplBacks else Reg.lplProjs
         t.eng.fld r 31 0 = (s.eng.fld r 31 0 + 1) % 2 ^ 32) ∧
        (o.head = 0 → s.eng.passesLeft st o = [k] → ∀ x, x ∈ t.eng.planeq → x.id ≠ o.id) ∧
        (∀ x, x ∈ t.eng.planeq → x.id = o.id → k ∈ x.passesDone))

/-- VBIND sets its handle; elementwise and row instructions write their converted result to v[dst] alone. Rests on R75, R81, R83, R84, R86, R87, R139, R141, R142, R351, R352, R359. Rests on the model's choices of assumption logs 108, 109. -/
def Obligations.VectorInstructionsWriteTheirRow : Prop :=
  (∀ (s : State) (i : Ins) (l : List Loc) (o : VSpec (List Nat)), s.issues i → i.ext = 0 →
    o ∈ s.eng.elemTable i l ++ s.eng.rowTable i l → o.fields = true →
    let x := s.eng.ctx i.p i.c
    let penBad := (s.eng.sampP i.p ((s.eng.reqB i).getD 0)).penActive = true ∧ s.eng.penOn i.p = false
    (s.eng.vGood i o.ops l → (o.req = true → (s.eng.reqB i).isSome = true) → (o.op = .vpenPenalty i → ¬ penBad) →
      ∃ t, exec o.op s = .next t ∧ s.eng.vWrote t.eng i (l.getD 0 (.scratch 0)) (fun _ => none) o.res) ∧
    (s.eng.vGood i o.ops l → (s.eng.reqB i).isSome = true → o.op = .vpenPenalty i → penBad →
      ∃ t, exec o.op s = .next t ∧ t.eng.fld (Reg.smpLastErr i.p) 7 0 = 8 ∧
        x.faultedWith (t.eng.ctx i.p i.c) (BitVec.ofNat 64 (0x0A * 2 ^ 56 + 3 * 2 ^ 52 + (s.eng.sb i).toNat % 2 ^ 32))) ∧
    (∀ y, (o.ops.find? fun z => z.bad x) = some y → ∃ t, exec o.op s = .next t ∧
      x.faultedWith (t.eng.ctx i.p i.c) (BitVec.ofNat 64 (0x06 * 2 ^ 56 + y.field * 2 ^ 52 + y.num))) ∧
    ((o.ops.find? fun z => z.bad x) = none → o.req = false → x.elen = 0 → ∃ t, exec o.op s = .next t ∧
      x.faultedWith (t.eng.ctx i.p i.c) (BitVec.ofNat 64 (0x07 * 2 ^ 56))) ∧
    ((∀ y, y ∈ o.ops → y.bad x = false ∧ s.eng.vRange i.p x.elen.toNat y (x.vh y.num) = none) → (o.req = true → (s.eng.reqB i).isSome = true) →
      x.elen ≠ 0 → (∃ y, y ∈ o.ops ∧ s.eng.vLoc i.p x.elen.toNat (x.vh y.num) = none) →
      ∃ t, exec o.op s = .next t ∧ x.waitsFor (t.eng.ctx i.p i.c) (.rows o.op) ∧ t.eng.mem = s.eng.mem)) ∧
  (∀ (s : State) (i : Ins) (op : Instr) (f : Nat → Nat → Nat) (k : Nat), s.issues i → i.ext = 0 → i.kinds .v .v .v = true →
    (op, f) ∈ [(Instr.vadd i, fadd), (.vsub i, fsub), (.vmul i, fmul), (.vmax i, fmax), (.vmin i, fmin)] →
    let x := s.eng.ctx i.p i.c
    let at_ := fun (y : Ctx) (n : BitVec 5) => ofLe ((List.range 4).map fun j => kget 0 y.scratch ((x.vh n.toNat).base.toNat + 4 * k + j))
    (∀ n, n ∈ [i.dst, i.srca, i.srcb] → (x.vh n.toNat).space = 1 ∧ (x.vh n.toNat).fmt = 1 ∧ (x.vh n.toNat).base.toNat % 4 = 0 ∧
      x.elen.toNat ≤ (x.vh n.toNat).count.toNat ∧ (x.vh n.toNat).base.toNat + 4 * x.elen.toNat ≤ 8192) →
    k < x.elen.toNat → ∃ t, exec op s = .next t ∧ at_ (t.eng.ctx i.p i.c) i.dst = f (at_ x i.srca) (at_ x i.srcb)) ∧
  (∀ (s : State) (i : Ins) (l : List Loc), s.issues i → i.ext = 2 ^ 24 → i.kinds .v .v .s = true → s.eng.romWait = false →
    s.eng.vGood i [vDst i false okFloat, vSrcA i okFloat] l →
    ∃ t, exec (.vcvt i) s = .next t ∧ s.eng.vWrote t.eng i (l.getD 0 (.scratch 0))
      (fun k => (rillRow (s.eng.sb i) 0 rpRound 0 0 (s.eng.ctx i.p i.c).elen.toNat)[k]?) ((s.eng.vArg i i.srca.toNat l 1).map fcanon)) ∧
  (∀ (s : State) (i : Ins) (l : List Loc) (n : Nat), s.issues i → i.ext = 0 → i.kinds .v .unused .s = true → s.eng.reqB i = some n →
    s.eng.vGood i [vDst i true okRow] l →
    let x := s.eng.ctx i.p i.c
    let z := s.eng.vArg i i.dst.toNat l 0
    (∀ g, s.eng.rgram n = some g → s.eng.maskSmall i.p x.elen.toNat = false → s.eng.deny = [] →
      ∃ t, exec (.vmaskGrammar i) s = .next t ∧ s.eng.vWrote t.eng i (l.getD 0 (.scratch 0)) (fun _ => none) (rowMask (s.eng.maskBit i.p n) z)) ∧
    (s.eng.rgram n = none → ∃ t m, exec (.vmaskGrammar i) s = .next t ∧
      s.eng.vWrote t.eng i (l.getD 0 (.scratch 0)) (fun _ => none) (rowMask m z)) ∧
    (∀ g, s.eng.rgram n = some g → s.eng.maskSmall i.p x.elen.toNat = true → ∃ t, exec (.vmaskGrammar i) s = .next t ∧
      x.faultedWith (t.eng.ctx i.p i.c) (BitVec.ofNat 64 (0x0A * 2 ^ 56 + 3 * 2 ^ 52 + (s.eng.sb i).toNat % 2 ^ 32))) ∧
    (∀ y, s.eng.auxRead i.p n = .inl y →
      let small := s.eng.rgram n ≠ none ∧ s.eng.maskSmall i.p x.elen.toNat = true
      let penBad := (s.eng.sampP i.p n).penActive = true ∧ s.eng.penOn i.p = false
      (¬ small → ¬ penBad →
        ∃ t, exec (.vmaskAllow i) s = .next t ∧ s.eng.vWrote t.eng i (l.getD 0 (.scratch 0)) (fun _ => none) (rowMask (fun k => y.allow.contains k) z)) ∧
      (small ∨ penBad → ∃ t, exec (.vmaskAllow i) s = .next t ∧
        (small → t.eng.fld (Reg.smpLastErr i.p) 7 0 = 7) ∧ (¬ small → t.eng.fld (Reg.smpLastErr i.p) 7 0 = 8) ∧
        x.faultedWith (t.eng.ctx i.p i.c) (BitVec.ofNat 64 (0x0A * 2 ^ 56 + 3 * 2 ^ 52 + (s.eng.sb i).toNat % 2 ^ 32)))) ∧
    (∀ code, s.eng.auxRead i.p n = .inr code → ∃ t, exec (.vmaskAllow i) s = .next t ∧ t.eng.fld (Reg.smpLastErr i.p) 7 0 = code % 256 ∧
      x.faultedWith (t.eng.ctx i.p i.c) (BitVec.ofNat 64 (0x0A * 2 ^ 56 + 3 * 2 ^ 52 + (s.eng.sb i).toNat % 2 ^ 32)))) ∧
  ∀ (s : State) (i : Ins), s.issues i → i.dst.toNat < 16 →
    let x := s.eng.ctx i.p i.c
    let h : VHandle := ⟨BitVec.ofNat 8 i.mod, BitVec.ofNat 8 i.imm24, x.sreg i.srca.toNat, (x.sreg i.srcb.toNat).setWidth 32⟩
    (i.mod ≤ 4 → i.imm24 ≤ 0x0D → (i.mod = 0 ∨ s.eng.bindBad i.p h = none) → ∃ t, exec (.vbind i) s = .next t ∧ s.eng.frame t.eng i.p i.c ∧
      x.advanced { (t.eng.ctx i.p i.c) with v := x.v } ∧
      ∀ k, (t.eng.ctx i.p i.c).vh k = if k = i.dst.toNat then (if i.mod = 0 then VHandle.unbound else h) else x.vh k) ∧
    (4 < i.mod ∨ 0x0D < i.imm24 → ∃ t, exec (.vbind i) s = .next t ∧
      x.faultedWith (t.eng.ctx i.p i.c) (BitVec.ofNat 64 (0x02 * 2 ^ 56 + 5 * 2 ^ 52 + 0x2C00))) ∧
    (∀ f, 1 ≤ i.mod → i.mod ≤ 4 → i.imm24 ≤ 0x0D → s.eng.bindBad i.p h = some f → ∃ t, exec (.vbind i) s = .next t ∧
      x.faultedWith (t.eng.ctx i.p i.c) (BitVec.ofNat 64 (0x06 * 2 ^ 56 + f * 2 ^ 52 + i.dst.toNat)))

/-- Reductions, log-sum-exp, log-probability and the draw write one scalar, in the canonical order. Rests on R81, R106, R107, R141, R353, R399, R580. Rests on the model's choices of assumption logs 107, 110. -/
def Obligations.ReductionsAndDrawsWriteAScalar : Prop :=
  (∀ (s : State) (i : Ins) (l : List Loc) (o : VSpec Nat), s.issues i → i.ext = 0 → o ∈ s.eng.redTable i l → o.fields = true →
    let x := s.eng.ctx i.p i.c
    (s.eng.vGood i o.ops l → (o.req = true → (s.eng.reqB i).isSome = true) → (o.rom = true → s.eng.romWait = false) →
      ∃ t, exec o.op s = .next t ∧ s.eng.frame t.eng i.p i.c ∧ x.wroteS (t.eng.ctx i.p i.c) i.dst.toNat (BitVec.ofNat 64 o.res)) ∧
    (∀ y, (o.ops.find? fun z => z.bad x) = some y → ∃ t, exec o.op s = .next t ∧
      x.faultedWith (t.eng.ctx i.p i.c) (BitVec.ofNat 64 (0x06 * 2 ^ 56 + y.field * 2 ^ 52 + y.num))) ∧
    ((o.ops.find? fun z => z.bad x) = none → o.req = true → s.eng.reqB i = none → ∃ t, exec o.op s = .next t ∧
      x.faultedWith (t.eng.ctx i.p i.c) (BitVec.ofNat 64 (0x0A * 2 ^ 56 + 3 * 2 ^ 52 + (s.eng.sb i).toNat % 2 ^ 32))) ∧
    (s.eng.vGood i o.ops l → (o.req = true → (s.eng.reqB i).isSome = true) → o.rom = true → s.eng.romWait = true →
      ∃ t, exec o.op s = .next t ∧ x.waitsFor (t.eng.ctx i.p i.c) (.rows o.op))) ∧
  ∀ (s : State) (i : Ins) (l : List Loc), s.issues i → i.ext = 0 → i.kinds .s .v .s = true → s.eng.vGood i [vSrcA i okRow] l →
    let x := s.eng.ctx i.p i.c
    let z := s.eng.vArg i i.srca.toNat l 0
    let tok := (x.sreg i.srcb.toNat).toNat % 2 ^ 20
    (tok < x.elen.toNat → ∃ t, exec (.vlprob i) s = .next t ∧ s.eng.frame t.eng i.p i.c ∧
      x.wroteS (t.eng.ctx i.p i.c) i.dst.toNat (BitVec.ofNat 64 (fsub (z.getD tok 0) (rowLse z)))) ∧
    (x.elen.toNat ≤ tok → ∃ t, exec (.vlprob i) s = .next t ∧
      x.faultedWith (t.eng.ctx i.p i.c) (BitVec.ofNat 64 (0x06 * 2 ^ 56 + 2 * 2 ^ 52 + i.srca.toNat)))

/-- EMIT stages one record with the token, position and status of R355, or raises or drops as R348 and R368 state. Rests on R146, R348, R355, R368, R385. Rests on the model's choices of assumption log 61. -/
def Obligations.EmitStagesOneRecord : Prop :=
  (∀ (s : State) (i : Ins) (op : Instr) (final : Option Nat), s.issues i → i.dst = 0 →
    (op = .emitToken i ∧ i.ext = 0 ∧ final = none ∨
      op = .emitFinal i ∧ i.imm24 = 0 ∧ final = some i.mod ∧ (i.mod = 9 ∨ i.mod = 8 ∨ i.mod = 7)) →
    let x := s.eng.ctx i.p i.c
    let h := (x.sreg i.srca.toNat).toNat % 2 ^ 32
    let w := (x.sreg i.srcb.toNat).toNat
    (s.eng.slotOf i.p h = none → ∃ t, exec op s = .next t ∧
      x.faultedWith (t.eng.ctx i.p i.c) (BitVec.ofNat 64 (0x0A * 2 ^ 56 + 2 * 2 ^ 52 + h))) ∧
    (∀ n, s.eng.slotOf i.p h = some n → (s.eng.req n).inStep = none → ∃ t, exec op s = .next t ∧
      x.faultedWith (t.eng.ctx i.p i.c) (BitVec.ofNat 64 (0x0C * 2 ^ 56 + 2 * 2 ^ 52 + 6))) ∧
    ∀ n num st r, s.eng.slotOf i.p h = some n → (s.eng.req n).inStep = some num → s.eng.stepOf i.p num = some st → st.runOf n = some r →
      let mine := st.recs.filter fun y => decide (y.slot = n)
      let k := s.eng.rgenerated n + (st.tokensOf n).length
      (st.program = false → ∃ t, exec op s = .next t ∧
        x.faultedWith (t.eng.ctx i.p i.c) (BitVec.ofNat 64 (0x0C * 2 ^ 56 + 2 * 2 ^ 52 + 9))) ∧
      (st.program = true → (∃ y, y ∈ mine ∧ y.terminal = true) → ∃ t, exec op s = .next t ∧ x.advanced (t.eng.ctx i.p i.c) ∧
        t.eng.bit (Reg.smpEvent i.p) 4 = true ∧ t.eng.stepOf i.p num = some st) ∧
      (st.program = true → (∀ y, y ∈ mine → y.terminal = false) → 9 ≤ mine.length → ∃ t, exec op s = .next t ∧
        x.faultedWith (t.eng.ctx i.p i.c) (BitVec.ofNat 64 (0x0C * 2 ^ 56 + 2 * 2 ^ 52 + 7))) ∧
      ∀ acc y, st.program = true → (∀ z, z ∈ mine → z.terminal = false) → mine.length < 9 → s.eng.rgram n = none →
        r.pathOf none [] (st.tokensOf n ++ [0]) = some acc → s.eng.auxRead i.p n = .inl y →
        (s.eng.part i.p).srcFails = 0 →
        ((s.eng.sampP i.p n).penActive = true → s.eng.penOn i.p = true) →
        ∃ t st' q, exec op s = .next t ∧ x.advanced (t.eng.ctx i.p i.c) ∧ t.eng.stepOf i.p num = some st' ∧ st'.recs.length = st.recs.length + 1 ∧
          st'.recs.getLast? = some q ∧ q.slot = n ∧ q.pos = s.eng.rpromptLen n + k ∧ fieldAt q.bytes 0 4 = s.eng.rhandle n % 2 ^ 32 ∧
          fieldAt q.bytes 4 4 = q.pos % 2 ^ 32 ∧
          (bitsOf w 31 20 ≠ 0 → q.hasToken = false ∧ q.terminal = true ∧ fieldAt q.bytes 8 4 = 0xFFFFF ∧ fieldAt q.bytes 0x12 1 = 0x0C) ∧
          (bitsOf w 31 20 = 0 → q.hasToken = true ∧ q.token = bitsOf w 19 0 ∧ fieldAt q.bytes 8 4 = bitsOf w 19 0 ∧ fieldAt q.bytes 0xC 4 = bitsOf w 63 32 ∧
            (let sp := s.eng.sampP i.p n
             let stops := sp.stop = some (bitsOf w 19 0) ∨ y.stops.contains (bitsOf w 19 0) = true
             let full := s.eng.rmaxNew n ≤ k + 1 ∨ s.eng.fld (Reg.admModelCtx i.p (s.eng.rmodel n)) 20 0 ≤ s.eng.rpromptLen n + (k + 1)
             (stops → fieldAt q.bytes 0x12 1 = 9 ∧ q.terminal = true) ∧ (¬ stops → full → fieldAt q.bytes 0x12 1 = 8 ∧ q.terminal = true) ∧
             (¬ stops → ¬ full → fieldAt q.bytes 0x12 1 = final.getD 0 ∧ q.terminal = final.isSome)))) ∧
  ∀ (s : State) (i : Ins), s.issues i → i.dst = 0 → (i.imm24 ≠ 0 ∨ (i.mod ≠ 9 ∧ i.mod ≠ 8 ∧ i.mod ≠ 7)) → ∃ t, exec (.emitFinal i) s = .next t ∧
    (s.eng.ctx i.p i.c).faultedWith (t.eng.ctx i.p i.c) (BitVec.ofNat 64 (0x02 * 2 ^ 56 + 5 * 2 ^ 52 + 0x3C01))

/-- The words of consecutive elements, stepped once each, are the words that a jump to each element gives. Rests on R392, R395, R397, R398. -/
def Obligations.ConsecutiveWordsAreSteps : Prop :=
  ∀ (k1 k2 : BitVec 64) (purpose pos i n : Nat), purpose < 16 → pos < 2 ^ 48 → i + n ≤ 2 ^ 40 →
    rillRow k1 k2 purpose pos i n = ((List.range n).map fun k => rillWord k1 k2 purpose pos (i + k)) ∧
    rillAt k1 k2 purpose pos (i + 1) = rillStep (rillAt k1 k2 purpose pos i)

/-- An accepted bit request is answered with its mask bits, a bad one is rejected and counted, and a probe reads one word. Rests on R400, R401, R402, R410, R485, R546. Rests on the model's choices of assumption logs 34, 87. -/
def Obligations.BitRequestsAreAnsweredInOrder : Prop :=
  (∀ (s : State) (port : Fin 8) (bytes : List Byte) (crcOk : Bool), s.eng.bit Reg.glbStatus 31 = true → s.eng.hsFailed port.val = false →
    let req := padTo 32 bytes
    let p := fieldAt req 0 1
    let n := fieldAt req 1 1
    let good := bitResponse req 0 (bitPayload req (s.eng.rngKey1 p n) (s.eng.rngKey2 p n))
    (s.eng.bitBad req crcOk = false → s.eng.romWait = false → s.eng.hsHeld = [] → ceilDiv good.length 64 ≤ kget 0 s.eng.hsCredit (2 * port.val + 1) →
      ∃ t, exec (.bitRequest port bytes crcOk) s = .next t ∧ t.eng.out = s.eng.out ++ [.hs port.val 1 good] ∧ t.eng.parts = s.eng.parts ∧
        t.eng.fld (Reg.rngSvcBits p) 31 0 = (s.eng.fld (Reg.rngSvcBits p) 31 0 + fieldAt req 0x18 2) % 2 ^ 32) ∧
    (s.eng.bitBad req crcOk = false → s.eng.romWait = true → ∃ t, exec (.bitRequest port bytes crcOk) s = .next t ∧ t.eng.out = s.eng.out ∧
      t.eng.bitq = s.eng.bitq ++ [(port.val, req, some (s.eng.rngKey1 p n, s.eng.rngKey2 p n))] ∧ t.eng.regs = s.eng.regs) ∧
    (s.eng.bitBad req crcOk = true → ∃ t, exec (.bitRequest port bytes crcOk) s = .next t ∧ t.eng.parts = s.eng.parts ∧
      (p < 32 → t.eng.bit (Reg.rngEvent p) 0 = true ∧ t.eng.fld (Reg.rngSvcRej p) 31 0 = min (s.eng.fld (Reg.rngSvcRej p) 31 0 + 1) (2 ^ 32 - 1)) ∧
      (32 ≤ p → t.eng.fld Reg.rngSvcRejGlobal 31 0 = min (s.eng.fld Reg.rngSvcRejGlobal 31 0 + 1) (2 ^ 32 - 1)) ∧
      ((∀ x, x ∈ s.eng.bitq → x.1 ≠ port.val) → s.eng.hsHeld = [] → 1 ≤ kget 0 s.eng.hsCredit (2 * port.val + 1) →
        t.eng.out = s.eng.out ++ [.hs port.val 1 (bitResponse req 1 [])]) ∧
      ((∃ x, x ∈ s.eng.bitq ∧ x.1 = port.val) → t.eng.out = s.eng.out ∧ t.eng.bitq = s.eng.bitq ++ [(port.val, req, none)]))) ∧
  (∀ (s : State) (req : List Byte) (port : Nat) (k1 k2 : Dword), s.eng.romWait = true → s.eng.bitq = [(port, req, some (k1, k2))] →
    s.eng.hsHeld = [] → s.eng.hsFailed port = false →
    ceilDiv (bitResponse req 0 (bitPayload req k1 k2)).length 64 ≤ kget 0 s.eng.hsCredit (2 * port + 1) → port < 8 →
    ∃ t, exec .romRebuildDone s = .next t ∧ t.eng.romWait = false ∧ t.eng.bitq = [] ∧
      t.eng.out = s.eng.out ++ [.hs port 1 (bitResponse req 0 (bitPayload req k1 k2))]) ∧
  (∀ s : State, s.eng.romWait = false → exec .romRebuildDone s = .next s) ∧
  ∀ (s : State) (path : Path), s.eng.readOpen path Reg.rngProbeWord = true → ∃ t, exec (.readProbeWord path) s = .next t ∧
    t.eng.resp = ⟨true, rillWord (BitVec.ofNat 64 (s.eng.pair Reg.rngProbeK1Lo Reg.rngProbeK1Hi))
      (BitVec.ofNat 64 (s.eng.pair Reg.rngProbeK2Lo Reg.rngProbeK2Hi)) (s.eng.fld Reg.rngProbePosHi 31 28)
      (s.eng.pair Reg.rngProbePosLo Reg.rngProbePosHi % 2 ^ 48) (s.eng.pair Reg.rngProbeIdxLo Reg.rngProbeIdxHi % 2 ^ 40)⟩ ∧
    t.eng.regs = s.eng.regs ∧ t.eng.out = s.eng.out ∧ t.eng.parts = s.eng.parts

/-- Grammar commands set BUSY, complete with their ERR code, and give and take residence. Rests on R369, R370, R371, R374. -/
def Obligations.GrammarsLoadAndUnload : Prop :=
  (∀ (s : State) (path : Path) (id : BitVec 10) (load : Bool), s.eng.gate path Reg.smpGramCmd = .pass →
    let c := if load then Instr.gramLoad path id else Instr.gramUnload path id
    let g := s.eng.gram id.toNat
    let a := s.eng.pair Reg.smpGramAddrLo Reg.smpGramAddrHi
    (s.eng.bit Reg.smpGramCmd 31 = true → g.st ≠ 2 → ∃ t, exec c s = .next t ∧ t.eng.regs = s.eng.regs ∧ t.eng.grams = s.eng.grams ∧
      t.eng.gramCmd = s.eng.gramCmd) ∧
    (s.eng.bit Reg.smpGramCmd 31 = true → g.st = 2 → ∃ t, exec c s = .next t ∧ t.eng.fld Reg.smpGramCmd 30 28 = 6 ∧
      t.eng.bit Reg.smpGramCmd 31 = true ∧ t.eng.grams = s.eng.grams ∧ t.eng.gramCmd = s.eng.gramCmd) ∧
    (s.eng.bit Reg.smpGramCmd 31 = false → ∃ t err n m, exec c s = .next t ∧ t.eng.bit Reg.smpGramCmd 31 = true ∧
      t.eng.fld Reg.smpGramCmd 9 0 = id.toNat ∧ t.eng.gramCmd = some (if load then 1 else 2, id.toNat, err, n, m) ∧ t.eng.mem = s.eng.mem ∧
      t.eng.parts = s.eng.parts ∧ (∀ k, k ≠ id.toNat → t.eng.gram k = s.eng.gram k) ∧
      (g.st = 2 → err = 6) ∧ (load = true → g.st = 1 → err = 1) ∧ (load = false → g.st = 0 → err = 1) ∧
      (load = true → g.st = 0 → err = (s.eng.gramCheck a).1 ∧ (err = 0 → t.eng.gram id.toNat = ⟨0, s.eng.rd Reg.smpGramParts, a⟩)) ∧
      (load = false → g.st = 1 → err = 0 ∧ (t.eng.gram id.toNat).st = 2) ∧
      (err ≠ 0 → t.eng.gram id.toNat = g))) ∧
  ∀ (s : State) (op id err n m : Nat), s.eng.gramCmd = some (op, id, err, n, m) → op = 1 ∨ op = 2 → err < 8 →
    (op = 2 → err = 0 → s.eng.gramInUse id = true → exec .gramCmdDone s = .next s) ∧
    (op = 1 ∨ err ≠ 0 ∨ s.eng.gramInUse id = false → ∃ t, exec .gramCmdDone s = .next t ∧ t.eng.gramCmd = none ∧
      t.eng.bit Reg.smpGramCmd 31 = false ∧ t.eng.fld Reg.smpGramCmd 30 28 = err ∧ (∀ k, k ≠ id → t.eng.gram k = s.eng.gram k) ∧
      (err ≠ 0 → t.eng.gram id = s.eng.gram id) ∧
      (err = 0 → op = 1 → (t.eng.gram id).st = 1 ∧ (t.eng.gram id).parts = (s.eng.gram id).parts ∧ (t.eng.gram id).addr = (s.eng.gram id).addr) ∧
      (err = 0 → op = 2 → t.eng.gram id = Gram.none) ∧
      t.eng.fld Reg.smpGramResident 10 0 = (t.eng.grams.filter fun x => decide (x.2.st = 1)).length % 2 ^ 11)

/-- Records reach their rings and count as written in order, lateness counts once, watchdogs fail a port, and credits release what waits. Rests on R415, R416, R422, R425, R427, R449, R466, R480, R537, R545, R550, R553. Rests on the model's choices of assumption log 75. -/
def Obligations.RecordsDrainAndPortsFail : Prop :=
  (∀ (s : State) (p : Fin 32) (ring : Option (Fin 256)), s.eng.deny = [] →
    let r := ring.map fun n => n.val
    let g := s.eng.ring p r
    (∀ n, ring = some n → (s.eng.tring n.val).held = false ∨ (s.eng.tring n.val).part ≠ p.val → exec (.spillDrain p ring) s = .next s) ∧
    ((∀ n, ring = some n → (s.eng.tring n.val).held = true ∧ (s.eng.tring n.val).part = p.val) →
      (s.eng.ringFree p r = false → ∃ t, exec (.spillDrain p ring) s = .next t ∧ t.eng.txns = s.eng.txns ∧ t.eng.ring p r = g ∧ t.eng.mem = s.eng.mem) ∧
      (∀ x rest, g.queue = x :: rest → s.eng.ringFree p r = true → ∃ t y l, exec (.spillDrain p ring) s = .next t ∧
        t.eng.txns = s.eng.txns ++ y :: l ∧ y.part = p.val ∧ y.addr = s.eng.recAddr p r g.next ∧ y.kind = .record p r g.next { x with spill := none } ∧
        (t.eng.ring p r).tail = g.tail))) ∧
  (∀ (s : State) (y : Txn) (p idx : Nat) (r : Option Nat) (x : QRec), p < 32 → s.eng.deny = [] →
    (s.eng.txns.find? fun z => decide (z.id = y.id)) = some y → y.kind = .record p r idx x → (s.eng.ring p r).tail = idx → (s.eng.ring p r).acked = [] →
    (∀ n, r = some n → (s.eng.tring n).left = false) →
    ∃ t, exec (.memResponse y.id .okay) s = .next t ∧ (t.eng.ring p r).tail = (idx + 1) % 2 ^ 32 ∧ (t.eng.ring p r).acked = [] ∧
      t.eng.fld (Reg.spoutRecords p) 31 0 = (s.eng.fld (Reg.spoutRecords p) 31 0 + 1) % 2 ^ 32 ∧
      (∀ k m, x.batch = some (k, m) → k < 2 ^ 31 → (k + 1 = m → t.eng.bit (Reg.spoutEvent p) 0 = true) ∧
        (k + 1 < m → t.eng.bit (Reg.spoutEvent p) 0 = s.eng.bit (Reg.spoutEvent p) 0)) ∧ t.eng.txns = s.eng.txns.filter fun z => decide (z.id ≠ y.id)) ∧
  (∀ (s : State) (p : Fin 32) (ring : Option (Fin 256)),
    let r := ring.map fun n => n.val
    let g := s.eng.ring p r
    let bound := s.eng.fld (Reg.spoutDrain p) 15 0
    let due := fun x : QRec => x.late = false ∧ bound ≠ 0 ∧ x.since + 256 * bound ≤ s.beat.time
    let q := s.eng.part p
    let admDue := ring = none ∧ q.admRec ≠ none ∧ q.admLate = false ∧ bound ≠ 0 ∧ q.admSince + 256 * bound ≤ s.beat.time
    let flying := fun y : Txn => ∃ x, y.kind = .record p r g.tail x
    let counted := fun t : State => t.eng.fld (Reg.spoutDrainLate p) 31 0 = min (s.eng.fld (Reg.spoutDrainLate p) 31 0 + 1) (2 ^ 32 - 1) ∧
      t.eng.bit (Reg.spoutEvent p) 2 = true
    ((∀ y, y ∈ s.eng.txns → ¬ flying y) →
      (g.queue = [] → ¬ admDue → exec (.drainLate p ring) s = .next s) ∧
      (g.queue = [] → admDue → ∃ t, exec (.drainLate p ring) s = .next t ∧ counted t ∧ (t.eng.part p).admLate = true ∧
        (t.eng.part p).admRec = q.admRec) ∧
      (∀ x rest, g.queue = x :: rest → (due x → ∃ t, exec (.drainLate p ring) s = .next t ∧ counted t ∧
        (t.eng.ring p r).queue = { x with late := true } :: rest) ∧ (¬ due x → exec (.drainLate p ring) s = .next s))) ∧
    (∀ y x, s.eng.txns = [y] → y.kind = .record p r g.tail x →
      (due x → ∃ t, exec (.drainLate p ring) s = .next t ∧ counted t ∧ t.eng.txns = [{ y with kind := .record p r g.tail { x with late := true } }]) ∧
      (¬ due x → exec (.drainLate p ring) s = .next s))) ∧
  (∀ (s : State) (y : Txn), (s.eng.txns.find? fun z => decide (z.id = y.id)) = some y → y.port < 16 →
    (∃ q, q < 16 ∧ q ≠ y.port ∧ s.eng.bit Reg.glbPortFailed (16 + q) = false) →
    ∃ t, exec (.memWatchdog (.txn y.id)) s = .next t ∧ t.eng.bit Reg.glbEvent 1 = true ∧ t.eng.bit Reg.glbPortFailed (16 + y.port) = true ∧
      t.eng.txns.map (fun z => (z.addr, z.kind)) = s.eng.txns.map (fun z => (z.addr, z.kind)) ∧ ∀ z, z ∈ t.eng.txns → z.port ≠ y.port) ∧
  (∀ (s : State) (port : Fin 16), (s.eng.bit Reg.glbPortFailed (16 + port.val) = true → exec (.memWatchdog (.read port)) s = .next s) ∧
    ((∃ q, q < 16 ∧ q ≠ port.val ∧ s.eng.bit Reg.glbPortFailed (16 + q) = false) →
      let fails := fun c => ∃ t, exec c s = .next t ∧ t.eng.bit Reg.glbPortFailed (16 + port.val) = true ∧
        (c = .memWatchdog (.read port) → t.eng.bit Reg.glbEvent 1 = true) ∧
        t.eng.txns.map (fun z => (z.addr, z.kind)) = s.eng.txns.map (fun z => (z.addr, z.kind)) ∧ ∀ z, z ∈ t.eng.txns → z.port ≠ port.val
      fails (.memWatchdog (.check port)) ∧
      (s.eng.bit Reg.glbPortFailed (16 + port.val) = false → fails (.memWatchdog (.read port))))) ∧
  (∀ (s : State) (port : Fin 4),
    (s.eng.rmHeld = [] ∨ s.eng.rmFailed port.val = true → exec (.rmWatchdog { port := port }) s = .next s) ∧
    (∃ t, exec (.rmWatchdog { port := port, check := true }) s = .next t ∧ t.eng.rmFailed port.val = true) ∧
    (s.eng.rmHeld ≠ [] → s.eng.rmFailed port.val = false → ∃ t, exec (.rmWatchdog { port := port }) s = .next t ∧ t.eng.bit Reg.glbEvent 1 = true ∧
      t.eng.rmFailed port.val = true) ∧
    ∀ p : Fin 32, s.eng.bit Reg.glbStatus 31 = true → s.eng.rmFailed port.val = false →
      (∃ t, exec (.rmDrop port true p) s = .next t ∧ t.eng.fld Reg.glbRmDrop 31 0 = min (s.eng.fld Reg.glbRmDrop 31 0 + 1) (2 ^ 32 - 1)) ∧
      ∃ t, exec (.rmDrop port false p) s = .next t ∧ t.eng.bit (Reg.syncEvent p) 5 = true ∧
        t.eng.fld (Reg.syncRejCount p) 31 0 = min (s.eng.fld (Reg.syncRejCount p) 31 0 + 1) (2 ^ 32 - 1)) ∧
  (∀ (s : State) (port cls : Fin 4), s.eng.bit Reg.glbStatus 31 = true →
    let k := kget 0 s.eng.rmCredit (4 * port.val + cls.val)
    (s.eng.rmHeld = [] → s.eng.updNext = none → ∃ t, exec (.rmCreditReturn port cls) s = .next t ∧
      kget 0 t.eng.rmCredit (4 * port.val + cls.val) = k + 1 ∧ t.eng.out = s.eng.out) ∧
    (∀ n, s.eng.rmHeld = [] → s.eng.updNext = some n → cls = 0 → (∀ q, q < 4 → kget 0 s.eng.rmCredit (4 * q) = 0) → s.eng.rmFailed port.val = false →
      ∃ t m, exec (.rmCreditReturn port cls) s = .next t ∧ Out.rm port.val 0x02 m ∈ t.eng.out ∧ (t.eng.group n).next = (s.eng.group n).next + 1 ∧
        kget 0 t.eng.rmCredit (4 * port.val) = 0) ∧
    (∀ kind m, s.eng.rmHeld = [(kind, m)] → s.eng.updNext = none → kind / 64 = cls.val → s.eng.rmFailed port.val = false → rmFlits m ≤ k + 1 →
      ∃ t q, exec (.rmCreditReturn port cls) s = .next t ∧ t.eng.rmHeld = [] ∧ t.eng.out = s.eng.out ++ [.rm q.val kind { m with port := q }])) ∧
  ∀ (s : State) (port : Fin 8) (vc : Fin 2), s.eng.bit Reg.glbStatus 31 = true →
    let k := kget 0 s.eng.hsCredit (2 * port.val + vc.val)
    (s.eng.hsHeld = [] → ∃ t, exec (.hsCreditReturn port vc) s = .next t ∧ kget 0 t.eng.hsCredit (2 * port.val + vc.val) = k + 1 ∧
      t.eng.out = s.eng.out) ∧
    (∀ l, s.eng.hsHeld = [(port.val, vc.val, l)] → s.eng.hsFailed port.val = false → ceilDiv l.length 64 ≤ k + 1 →
      ∃ t, exec (.hsCreditReturn port vc) s = .next t ∧ t.eng.hsHeld = [] ∧ t.eng.out = s.eng.out ++ [.hs port.val vc.val l])

/-- ANNOUNCE and RETIRE move version slots with the ERR codes of R434, WVPIN marks its request, NF_REPORT keeps the lowest layer. Rests on R147, R432, R434, R436, R439, R445. -/
def Obligations.VersionCommandsAndPins : Prop :=
  (∀ (s : State) (path : Path) (p : Fin 32) (v : BitVec 16), s.eng.gate path (Reg.wlcVerCmd p) = .pass →
    let layers := s.eng.fld (Reg.wlcFanCfg p) 28 16
    let cell := s.eng.fld (Reg.wlcFanCfg p) 15 0
    let holds := fun n => n < 4 ∧ (s.eng.vslot p n).st ≠ vsEmpty ∧ (s.eng.vslot p n).version = v.toNat
    let done := fun (t : State) (err : Nat) => t.eng.bit (Reg.wlcVerCmd p) 31 = false ∧ t.eng.fld (Reg.wlcVerCmd p) 30 28 = err ∧
      t.eng.fld (Reg.wlcVerCmd p) 15 0 = v.toNat ∧ t.eng.bit (Reg.wlcEvent p) 2 = true ∧ (err ≠ 0 → t.eng.parts = s.eng.parts)
    ((∀ n, n < 4 → (s.eng.vslot p n).st ≠ vsEmpty) → ∃ t, exec (.announce path p v) s = .next t ∧ done t 1) ∧
    (∀ n, n < 4 → (s.eng.vslot p n).st = vsEmpty → (∀ m, m < n → (s.eng.vslot p m).st ≠ vsEmpty) →
      (v = 0xFFFF ∨ (∃ m, holds m) → ∃ t, exec (.announce path p v) s = .next t ∧ done t 2) ∧
      (v ≠ 0xFFFF → (∀ m, ¬ holds m) →
        (layers = 0 ∨ 4096 < layers ∨ s.eng.semSize p ≤ cell → ∃ t, exec (.announce path p v) s = .next t ∧ done t 3) ∧
        (1 ≤ layers → layers ≤ 4096 → cell < s.eng.semSize p →
          (s.eng.running p = false → ∃ t, exec (.announce path p v) s = .next t ∧ done t 5) ∧
          (s.eng.running p = true → ∃ t, exec (.announce path p v) s = .next t ∧ done t 0 ∧ (t.eng.vslot p n).version = v.toNat ∧
            (t.eng.vslot p n).layers = layers ∧ (t.eng.vslot p n).cell = cell ∧
            ((s.eng.cell (s.eng.semBase p + cell)).queue = [] → (s.eng.cell (s.eng.semBase p + cell)).count.toNat < layers → (t.eng.vslot p n).st = vsLoading))))) ∧
    ((∀ n, ¬ holds n) → ∃ t, exec (.retire path p v) s = .next t ∧ done t 4) ∧
    (∀ n, holds n → (∀ m, holds m → m = n) →
      ((s.eng.vslot p n).st = vsDraining → ∃ t, exec (.retire path p v) s = .next t ∧ done t 4) ∧
      ((s.eng.vslot p n).st ≠ vsDraining → s.eng.running p = false → ∃ t, exec (.retire path p v) s = .next t ∧ done t 5) ∧
      ((s.eng.vslot p n).st = vsLoading → s.eng.running p = true → ∃ t, exec (.retire path p v) s = .next t ∧ done t 0 ∧
        (t.eng.vslot p n).st = vsEmpty ∧ t.eng.cells = s.eng.cells) ∧
      ((s.eng.vslot p n).st = vsResident → s.eng.running p = true → ∃ t, exec (.retire path p v) s = .next t ∧ done t 0 ∧
        ((t.eng.vslot p n).st = vsDraining ∨ (t.eng.vslot p n).st = vsEmpty) ∧ t.eng.resident p v.toNat = false ∧
        ∀ m, m ∈ s.eng.liveSlots p → s.eng.rversion m = v.toNat → (t.eng.req m).verEv = true))) ∧
  (∀ (s : State) (i : Ins), s.issues i → i.ext = 0 → i.dst = 0 →
    let x := s.eng.ctx i.p i.c
    let h := (x.sreg i.srca.toNat).toNat % 2 ^ 32
    let v := (x.sreg i.srcb.toNat).toNat % 2 ^ 16
    let noReq := fun c => ∃ t, exec c s = .next t ∧ x.faultedWith (t.eng.ctx i.p i.c) (BitVec.ofNat 64 (0x0A * 2 ^ 56 + 2 * 2 ^ 52 + h))
    let marks := fun c n (k : Option Nat) => ∃ t, exec c s = .next t ∧ x.advanced (t.eng.ctx i.p i.c) ∧ (t.eng.req n).pinEv = some k ∧
      (∀ m, m ≠ n → t.eng.req m = s.eng.req m) ∧ t.eng.rqt = s.eng.rqt
    (s.eng.slotOf i.p h = none → noReq (.wvpinPin i) ∧ (i.srcb = 0 → noReq (.wvpinUnpin i))) ∧
    ∀ n, s.eng.slotOf i.p h = some n → (s.eng.resident i.p v = true → marks (.wvpinPin i) n (some v)) ∧
      (s.eng.resident i.p v = false → ∃ t, exec (.wvpinPin i) s = .next t ∧
        x.faultedWith (t.eng.ctx i.p i.c) (BitVec.ofNat 64 (0x0D * 2 ^ 56 + 3 * 2 ^ 52 + v))) ∧ (i.srcb = 0 → marks (.wvpinUnpin i) n none)) ∧
  ∀ (s : State) (path : Path) (p : Fin 32) (v : Word), s.eng.gate path (Reg.wlcNfReport p) = .pass →
    let old := s.eng.fld (Reg.wlcNfStatus p) 11 0
    ∃ t, exec (.nfReport path p v) s = .next t ∧ t.eng.bit (Reg.wlcNfStatus p) 31 = true ∧
      t.eng.fld (Reg.wlcNfStatus p) 11 0 = (if s.eng.bit (Reg.wlcNfStatus p) 31 then min old (v.toNat % 4096) else v.toNat % 4096)

/-- An echo answers its command, a skewed one suspends its group, a third miss fails it, and ABORT and CLEAR return it to IDLE. Rests on R450, R451, R452, R453, R553. Rests on the model's choices of assumption log 37. -/
def Obligations.EchoesAnswerUpdates : Prop :=
  (∀ (s : State) (m : RmMsg), s.eng.bit Reg.glbStatus 31 = true → echoClean m = false →
    ∃ t, exec (.echo m) s = .next t ∧ t.eng.groups = s.eng.groups ∧ t.eng.rmHeld = s.eng.rmHeld ∧ t.eng.bit (Reg.syncEvent m.part) 5 = true ∧
      t.eng.fld (Reg.syncRejCount m.part) 31 0 = min (s.eng.fld (Reg.syncRejCount m.part) 31 0 + 1) (2 ^ 32 - 1)) ∧
  (∀ (s : State) (m : RmMsg), s.eng.bit Reg.glbStatus 31 = true → echoClean m = true →
    let n := bitsOf m.body.toNat 127 116
    let layer := bitsOf m.body.toNat 115 104
    let shard := bitsOf m.body.toNat 103 94
    let got := bitsOf m.body.toNat 63 32
    let g := s.eng.group n
    let idx := (layer - g.base.toNat) * g.nsh + shard
    let live := g.st = gsIssuing ∨ g.st = gsSuspended
    let answers := g.base.toNat ≤ layer ∧ shard < g.nsh ∧ ∃ u, u ∈ g.unans ∧ u.idx = idx
    let skew := fun (t : State) => t.eng.bit (Reg.wlcEvent g.part) 5 = true ∧
      t.eng.fld (Reg.wlcSkews g.part) 31 0 = min (s.eng.fld (Reg.wlcSkews g.part) 31 0 + 1) (2 ^ 32 - 1) ∧ (t.eng.group n).step = g.step
    (¬ live ∨ (m.body.toNat.testBit 80 = true ∧ shard ∉ g.resync) ∨ (m.body.toNat.testBit 80 = false ∧ ¬ answers) →
      ∃ t, exec (.echo m) s = .next t ∧ t.eng.groups = s.eng.groups ∧ t.eng.rmHeld = s.eng.rmHeld ∧
        t.eng.fld Reg.wlcStaleEcho 31 0 = min (s.eng.fld Reg.wlcStaleEcho 31 0 + 1) (2 ^ 32 - 1)) ∧
    (live → m.body.toNat.testBit 80 = false → answers →
      (got = g.step.toNat → ∃ t, exec (.echo m) s = .next t ∧ (t.eng.group n).step = g.step ∧
        (g.st = gsIssuing → g.total ≤ g.next → g.resync = [] → (∀ u, u ∈ g.unans → u.idx = idx) →
          (t.eng.group n).st = gsIdle ∧ (t.eng.group n).outstanding = 0) ∧
        ((∃ u, u ∈ g.unans ∧ u.idx ≠ idx) → (t.eng.group n).st = g.st ∧
          ∃ l, (t.eng.group n).unans = (g.unans.filter fun u => decide (u.idx ≠ idx)) ++ l ∧ (g.total ≤ g.next → l = []))) ∧
      (got ≠ g.step.toNat → kget 0 g.misses shard ≠ 3 → ∃ t, exec (.echo m) s = .next t ∧ skew t ∧ (t.eng.group n).st = gsSuspended ∧
        shard ∈ (t.eng.group n).resync ∧ (t.eng.group n).next = g.next)) ∧
    (live → m.body.toNat.testBit 80 = true → shard ∈ g.resync →
      (got = g.step.toNat → ∃ t, exec (.echo m) s = .next t ∧ (t.eng.group n).step = g.step ∧
        ((g.next < g.total ∨ g.unans ≠ [] ∨ g.resync ≠ [shard]) → (t.eng.group n).st = gsIssuing ∧ (t.eng.group n).resync = g.resync.erase shard) ∧
        (g.total ≤ g.next → g.unans = [] → g.resync = [shard] → (t.eng.group n).st = gsIdle)) ∧
      (got ≠ g.step.toNat → ∃ t, exec (.echo m) s = .next t ∧ skew t ∧
        (kget 0 g.misses shard = 2 → (t.eng.group n).st = gsFailed ∧ t.eng.bit (Reg.wlcEvent g.part) 8 = true) ∧
        (kget 0 g.misses shard ≠ 2 → (t.eng.group n).st = gsSuspended ∧ kget 0 (t.eng.group n).misses shard = kget 0 g.misses shard + 1)))) ∧
  (∀ (s : State) (path : Path), s.eng.gate path Reg.wlcGrpCmd = .pass →
    let n := s.eng.fld Reg.wlcGrpSel 11 0
    let g := s.eng.group n
    let cleared := fun c => ∃ t, exec c s = .next t ∧ (t.eng.group n).st = gsIdle ∧ (t.eng.group n).outstanding = 0 ∧ (t.eng.group n).step = g.step ∧
      (t.eng.group n).cfg = g.cfg
    let kept := fun c => ∃ t, exec c s = .next t ∧ t.eng.groups = s.eng.groups ∧ t.eng.rmHeld = s.eng.rmHeld ∧ t.eng.regs = s.eng.regs
    (g.st ≠ gsIdle → cleared (.abort path)) ∧ (g.st = gsIdle → kept (.abort path)) ∧
    (g.st = gsFailed → cleared (.clear path)) ∧ (g.st ≠ gsFailed → kept (.clear path))) ∧
  ∀ (s : State) (k : BitVec 12),
    let g := s.eng.group k.toNat
    let lim := s.eng.fld (Reg.wlcEchoLimit g.part) 15 0
    let due := fun u : Unans => u.late = false ∧ u.sent + 256 * lim ≤ s.beat.time
    (lim ≠ 0 → (∃ u, u ∈ g.unans ∧ due u) → ∃ t, exec (.echoLate k) s = .next t ∧ t.eng.bit (Reg.wlcEvent g.part) 7 = true ∧
      (∀ u, u ∈ (t.eng.group k.toNat).unans → u.late = false → s.beat.time < u.sent + 256 * lim) ∧
      (t.eng.group k.toNat).st = g.st ∧ (t.eng.group k.toNat).step = g.step) ∧
    (lim = 0 ∨ (∀ u, u ∈ g.unans → ¬ due u) → exec (.echoLate k) s = .next s)

/-- HELLO brings a channel up with its credits, DONE marks a group, ERROR sends again, and discarded messages fail the channel. Rests on R286, R478, R481, R482, R539, R542, R543, R544, R565. Rests on the model's choices of assumption logs 32, 89. -/
def Obligations.ChannelsComeUpReportAndFail : Prop :=
  (∀ (s : State) (chan : Fin 68) (credits : Word), s.eng.bit Reg.glbStatus 31 = true → (s.eng.chan chan.val).failed = false → s.eng.kdlq = [] →
    let n := credits.toNat
    let k := s.eng.chan chan.val
    let c := Instr.kdlHello chan credits
    (2 ≤ n → n ≤ 256 → (∀ p, p < 32 → (s.eng.part p).steps = []) → ∃ t, exec c s = .next t ∧
      t.eng.chan chan.val = ⟨true, n, n, 0, false⟩ ∧ t.eng.out = s.eng.out ∧ (k.up = true → t.eng.bit Reg.glbEvent 3 = true) ∧
      (k.up = false → t.eng.bit Reg.glbEvent 2 = true ∧
        t.eng.bit (if chan.val < 32 then Reg.glbKdlUpLo else if chan.val < 64 then Reg.glbKdlUpMid else Reg.glbKdlUpHi) (chan.val % 32) = true)) ∧
    (∀ p st g, 2 ≤ n → n ≤ 256 → k.up = true → s.eng.logicalOf chan.val = some g.chan → p < 32 → (s.eng.part p).steps = [st] →
      (∀ q, q ≠ p → (s.eng.part q).steps = []) → st.queued = true → st.groups = [g] → g.done = false → (s.eng.stepDescs p st g).length < n →
      ∃ t, exec c s = .next t ∧ t.eng.out = s.eng.out ++ (s.eng.stepDescs p st g).map (fun d => Out.kdl chan.val d)) ∧
    (n < 2 ∨ 256 < n → k.badRun = 0 → ∃ t, exec c s = .next t ∧ t.eng.chan chan.val = { k with badRun := 1 } ∧
      t.eng.fld Reg.glbKdlErr 31 16 = min (s.eng.fld Reg.glbKdlErr 31 16 + 1) 65535) ∧
    (k.up = true → k.credits < k.limit → ∃ t, exec (.kdlCreditReturn chan) s = .next t ∧ t.eng.chan chan.val = { k with credits := k.credits + 1 }) ∧
    (k.up = false ∨ k.limit ≤ k.credits → exec (.kdlCreditReturn chan) s = .next s)) ∧
  (∀ (s : State) (chan : Fin 68), s.eng.bit Reg.glbStatus 31 = true →
    let k := s.eng.chan chan.val
    (k.failed = true → exec (.upBad chan) s = .next s) ∧
    (k.failed = false → k.badRun = 0 → ∃ t, exec (.upBad chan) s = .next t ∧ t.eng.chan chan.val = { k with badRun := 1 } ∧
      t.eng.fld Reg.glbKdlErr 31 16 = min (s.eng.fld Reg.glbKdlErr 31 16 + 1) 65535) ∧
    (k.failed = false → 1 ≤ k.badRun → ∃ t, exec (.upBad chan) s = .next t ∧ (t.eng.chan chan.val).failed = true ∧ (t.eng.chan chan.val).up = false ∧
      t.eng.bit Reg.glbEvent 3 = true ∧
      (∀ c q, s.eng.logicalOf chan.val = some c → s.eng.spareChan = some q → t.eng.phys c = q ∧
        t.eng.fld Reg.intSpares 15 8 = s.eng.fld Reg.intSpares 15 8 - 1 ∧ t.eng.bit Reg.intEvent 4 = true) ∧
      (∀ c, s.eng.logicalOf chan.val = some c → s.eng.spareChan = none → c ∈ t.eng.chanLost))) ∧
  ∀ (s : State) (chan : Fin 68) (m : KdlMsg), s.eng.bit Reg.glbStatus 31 = true → (s.eng.chan chan.val).failed = false →
    let key := (m.chan.toNat, m.part.val, m.step.toNat)
    let done := Instr.kdlDone chan m
    let err := Instr.kdlError chan m
    let discarded := fun c => ∃ t, exec c s = .next t ∧ t.eng.fld Reg.glbKdlErr 31 16 = min (s.eng.fld Reg.glbKdlErr 31 16 + 1) 65535 ∧
      ((s.eng.chan chan.val).badRun = 0 → t.eng.parts = s.eng.parts ∧ t.eng.abOwed = s.eng.abOwed)
    (m.flags &&& 0xFE ≠ 0 ∨ m.seq ≠ 0 → discarded done) ∧
    (m.flags = 1 → m.seq = 0 → (s.eng.logicalOf chan.val = some m.chan.toNat → key ∉ s.eng.abOwed) → discarded done) ∧
    (m.flags = 1 → m.seq = 0 → s.eng.logicalOf chan.val = some m.chan.toNat → key ∈ s.eng.abOwed →
      ∃ t, exec done s = .next t ∧ t.eng.abOwed = s.eng.abOwed.erase key ∧ t.eng.parts = s.eng.parts ∧ t.eng.regs = s.eng.regs) ∧
    (m.flags = 0 → m.seq = 0 → (∀ st g, s.eng.namedGroup chan.val m = some (st, g) → g.done = true) → discarded done) ∧
    (∀ st g, m.flags = 0 → m.seq = 0 → s.eng.namedGroup chan.val m = some (st, g) → g.done = false →
      ∃ t st', exec done s = .next t ∧ t.eng.stepOf m.part m.step.toNat = some st' ∧ (∀ x, x ∈ st'.groups → x.chan = g.chan → x.done = true) ∧
        (t.eng.chan chan.val).badRun = 0 ∧ t.eng.fld Reg.glbKdlErr 31 16 = s.eng.fld Reg.glbKdlErr 31 16) ∧
    (m.flags ≠ 0 ∨ m.arg1 ≠ 0 ∨ (m.arg0 ≠ 1 ∧ m.arg0 ≠ 2) ∨ (∀ st g, s.eng.namedGroup chan.val m = some (st, g) → g.done = true) → discarded err) ∧
    (∀ st g, m.flags = 0 → m.arg1 = 0 → m.arg0 = 1 ∨ m.arg0 = 2 → s.eng.namedGroup chan.val m = some (st, g) → g.done = false →
      let counted := fun (t : State) => t.eng.fld Reg.glbKdlErr 15 0 = min (s.eng.fld Reg.glbKdlErr 15 0 + 1) 65535
      (1 ≤ g.errs → ∃ t, exec err s = .next t ∧ counted t ∧ (t.eng.chan chan.val).failed = true) ∧
      (g.errs = 0 → s.eng.kdlq = [] → st.queued = true → st.groups = [g] → (s.eng.chan chan.val).up = true →
        (s.eng.stepDescs m.part st g).length < (s.eng.chan chan.val).credits →
        ∃ t, exec err s = .next t ∧ counted t ∧
          t.eng.out = s.eng.out ++ (s.eng.stepDescs m.part st g).map (fun d => Out.kdl chan.val d)))

/-- Scrub findings and passes, failures of cores and slices, fault rings, droop, the budget controller and the sensors. Rests on R405, R470, R471, R472, R473, R477, R479, R482, R486, R493, R496, R499. Rests on the model's choices of assumption logs 102, 118. -/
def Obligations.IntegrityAndPowerCommandsAct : Prop :=
  (∀ (s : State) (ok : Bool), s.eng.scrubEnds s.beat = false → exec (.scrubPass [] ok) s = .next s) ∧
  (∀ (s : State) (l : List ScrubFinding) (ok : Bool), s.eng.fld Reg.glbStatus 3 0 ≤ 1 → exec (.scrubPass l ok) s = .next s) ∧
  (∀ (s : State) (t : Nat), s.eng.bit Reg.intScrub 31 = false ∨ (s.eng.scrubAt = some t ∧ s.beat.time < t + 256 * 1024) →
    s.eng.scrubEnds s.beat = false) ∧
  (∀ (s : State) (ok : Bool), 2 ≤ s.eng.fld Reg.glbStatus 3 0 → s.eng.scrubEnds s.beat = true → ∃ t, exec (.scrubPass [] ok) s = .next t ∧
    t.eng.pair Reg.intScrubProgLo Reg.intScrubProgHi = 1000 * 2 ^ 54 + 4 * 2 ^ 48 + Config.sramWords % 2 ^ 48 ∧
    t.eng.bit Reg.rngStatus 31 = ok ∧ t.eng.romWait = (s.eng.romWait || !ok) ∧
    (ok = false → t.eng.bit Reg.rngEventG 1 = true ∧ t.eng.bit Reg.intEvent 0 = true)) ∧
  (∀ (s : State) (bank row : Nat) (stuck : Bool), 2 ≤ s.eng.fld Reg.glbStatus 3 0 →
    let n := (s.eng.scrubErrs.filter fun x => decide (x = (bank, row))).length + 1
    let spares := s.eng.bit Reg.intScrub 31 = true ∧ s.eng.bit Reg.intCtrl 0 = true ∧
      (stuck = true ∨ max 1 (s.eng.fld Reg.intCeLimit 7 0) ≤ n)
    ∃ t, exec (.scrubPass [.corrected bank row stuck] true) s = .next t ∧ t.eng.bit Reg.intEvent 1 = true ∧
      t.eng.fld Reg.intCeCount 31 0 = min (s.eng.fld Reg.intCeCount 31 0 + 1) (2 ^ 32 - 1) ∧
      (spares → s.eng.freeRows bank ≠ 0 → kget 0 t.eng.rowsSpared bank = kget 0 s.eng.rowsSpared bank + 1 ∧ t.eng.bit Reg.intEvent 3 = true) ∧
      (spares → s.eng.freeRows bank = 0 → t.eng.rowsSpared = s.eng.rowsSpared ∧ t.eng.bit Reg.intEvent 5 = true) ∧
      (¬ spares → t.eng.rowsSpared = s.eng.rowsSpared)) ∧
  (∀ (s : State)  (c : BitVec 16) (r : BitVec 17) (w : Fin 24) (d : BitVec 13) (p : Fin 32), 2 ≤ s.eng.fld Reg.glbStatus 3 0 →
    ∀ u, u ∈ [UeAt.refetched, .core p, .cell c, .request r w, .ledger d, .partition p, .engine] →
      ∃ t, exec (.scrubPass [.uncorrectable u] true) s = .next t ∧ t.eng.bit Reg.intEvent 2 = true ∧
        t.eng.fld Reg.intUeCount 31 0 = min (s.eng.fld Reg.intUeCount 31 0 + 1) (2 ^ 32 - 1) ∧
        (u = .cell c → t.eng.cell c.toNat = { s.eng.cell c.toNat with count := 0, sat := true }) ∧
        (u = .request r w → 24 * r.toNat + w.val ∈ t.eng.rqtBad ∧ ((s.eng.req r.toNat).live = true → (t.eng.req r.toNat).faultEv = some stEngineFault)) ∧
        (u = .ledger d → t.eng.ledger d.toNat = (s.eng.ledger d.toNat).clamp 0) ∧
        (u = .partition p → s.eng.running p = true → t.eng.pstate p = psHalted)) ∧
  (∀ (s : State) (n : Fin 32), 2 ≤ s.eng.fld Reg.glbStatus 3 0 → s.eng.scrubEnds s.beat = false →
    let c := Instr.scrubPass [.slice n] true
    (n.val ∈ s.eng.sliceHold ∨ n.val ∈ s.eng.sliceWait ∨ n.val ∈ s.eng.sliceLost → exec c s = .next s) ∧
    (n.val ∉ s.eng.sliceHold → n.val ∉ s.eng.sliceWait → n.val ∉ s.eng.sliceLost →
      (s.eng.sliceHold ≠ [] → ∃ t, exec c s = .next t ∧ t.eng.sliceWait = s.eng.sliceWait ++ [n.val] ∧ t.eng.cells = s.eng.cells) ∧
      (s.eng.sliceHold = [] → s.eng.fld Reg.intSpares 7 0 ≠ 0 → ∃ t, exec c s = .next t ∧ t.eng.sliceHold = [n.val] ∧
        t.eng.fld Reg.intSpares 7 0 = s.eng.fld Reg.intSpares 7 0 - 1 ∧ t.eng.bit Reg.intEvent 4 = true) ∧
      (s.eng.sliceHold = [] → s.eng.fld Reg.intSpares 7 0 = 0 → ∃ t, exec c s = .next t ∧ n.val ∈ t.eng.sliceLost ∧
        ∀ p, p ∈ s.eng.sliceOwners n.val → t.eng.pstate p ≠ psRunning))) ∧
  (∀ (s : State) (p : Fin 32) (residue : Bool), s.eng.running p = true → (s.eng.part p).coreDown = false → (s.eng.part p).coreLost = false →
    (residue = false → ∃ c, c < 16 ∧ (s.eng.ctx p c).canIssue = true) →
    (residue = true → ∃ c, c < 16 ∧ (s.eng.ctx p c).st = .running) →
    ((∃ k, k < 32 ∧ (s.eng.part k).coreDown = true) → ∃ t, exec (.coreStall { core := p, residue := residue }) s = .next t ∧ (t.eng.part p).coreDown = true ∧
      t.eng.coreWait = s.eng.coreWait ++ [p.val] ∧ t.eng.regs = s.eng.regs) ∧
    ((∀ k, k < 32 → (s.eng.part k).coreDown = false) →
      (s.eng.fld Reg.intSpares 23 16 ≠ 0 → ∃ t, exec (.coreStall { core := p, residue := residue }) s = .next t ∧
        (t.eng.part p).coreDown = true ∧ (t.eng.part p).ctxs = (s.eng.part p).ctxs ∧
        t.eng.fld Reg.intSpares 23 16 = s.eng.fld Reg.intSpares 23 16 - 1 ∧ t.eng.bit Reg.intEvent 4 = true) ∧
      (s.eng.fld Reg.intSpares 23 16 = 0 → ∃ t, exec (.coreStall { core := p, residue := residue }) s = .next t ∧
        (t.eng.part p).coreLost = true ∧ t.eng.pstate p = psHalted))) ∧
  (∀ (s : State) (p : Fin 32), (∀ c, c < 16 → (s.eng.ctx p c).canIssue = false) → exec (.coreStall { core := p }) s = .next s) ∧
  (∀ (s : State) (p : Fin 32), ((s.eng.part p).coreDown = false ∨ p.val ∈ s.eng.coreWait → exec (.coreFailoverDone p) s = .next s) ∧
    ((s.eng.part p).coreDown = true → s.eng.coreWait = [] → ∃ t, exec (.coreFailoverDone p) s = .next t ∧ (t.eng.part p).coreDown = false ∧
      ∀ c, Ctx.sameRegs (s.eng.ctx p c) (t.eng.ctx p c)) ∧
    (∀ q : Fin 32, q ≠ p → (s.eng.part p).coreDown = true → s.eng.coreWait = [q.val] → s.eng.running q = true → ∃ t, exec (.coreFailoverDone p) s = .next t ∧
      (t.eng.part p).coreDown = false ∧ t.eng.coreWait = [] ∧ (s.eng.fld Reg.intSpares 23 16 ≠ 0 → (t.eng.part q).coreDown = true) ∧
      (s.eng.fld Reg.intSpares 23 16 = 0 → (t.eng.part q).coreLost = true ∧ t.eng.pstate q = psHalted))) ∧
  (∀ (s : State) (n : Fin 32), (n.val ∉ s.eng.sliceHold → exec (.sliceCopyDone n) s = .next s) ∧
    (n.val ∈ s.eng.sliceHold → s.eng.sliceWait = [] → (∀ m, m / 2048 = n.val → s.eng.joinedAt m = [] ∧ (s.eng.cell m).queue = []) →
        (∀ p k, p < 32 → k < 4 → (s.eng.vslot p k).st ≠ vsLoading) →
      ∃ t, exec (.sliceCopyDone n) s = .next t ∧ n.val ∉ t.eng.sliceHold ∧ t.eng.cells = s.eng.cells)) ∧
  (∀ (s : State) (path : Path) (p : Fin 32) (v : Word),
    (s.eng.gate path (Reg.intFltHead p) = .pass →
      (headGood (s.eng.fld (Reg.intFltHead p) 31 0) (s.eng.fld (Reg.intFltTail p) 31 0) v.toNat = true →
        ∃ t, exec (.fltHead path p v) s = .next t ∧ t.eng.rd (Reg.intFltHead p) = v) ∧
      (headGood (s.eng.fld (Reg.intFltHead p) 31 0) (s.eng.fld (Reg.intFltTail p) 31 0) v.toNat = false →
        ∃ t, exec (.fltHead path p v) s = .next t ∧ t.eng.rd (Reg.intFltHead p) = s.eng.rd (Reg.intFltHead p) ∧ t.eng.bit (Reg.partEvent p) 1 = true)) ∧
    (s.eng.gate path Reg.intEfrHead = .pass → ∃ t, exec (.efrHead path v) s = .next t ∧
      t.eng.rd Reg.intEfrHead = if headGood (s.eng.fld Reg.intEfrHead 31 0) (s.eng.fld Reg.intEfrTail 31 0) v.toNat then v else s.eng.rd Reg.intEfrHead)) ∧
  (∀ (s : State) (det : Fin 64), let d := fun (x : State) => kget Droop.quiet x.eng.droops det.val
    (2 ≤ s.eng.fld Reg.glbStatus 3 0 → ∃ t, exec (.droopTrip det) s = .next t ∧
      (d t).st = .hold ∧ (d t).s = 8 ∧ (d t).trips.toNat = min ((d s).trips.toNat + 1) (2 ^ 32 - 1) ∧ t.eng.bit Reg.pwrEvent 0 = true ∧
      (∀ k, k ≠ det.val → kget Droop.quiet t.eng.droops k = kget Droop.quiet s.eng.droops k) ∧
      ∀ dom, dom ∈ droopDomains det.val → t.eng.domainS dom ≤ 8) ∧
    (s.eng.fld Reg.glbStatus 3 0 ≤ 1 → exec (.droopTrip det) s = .next s) ∧
    ((d s).st = .hold → ∃ u, exec (.droopHoldDone det) s = .next u ∧ d u = (d s).rise) ∧
    ((d s).st = .release → ∃ w, exec (.droopReleaseStep det) s = .next w ∧ d w = (d s).rise) ∧
    ((d s).st ≠ .hold → exec (.droopHoldDone det) s = .next s) ∧ ((d s).st ≠ .release → exec (.droopReleaseStep det) s = .next s) ∧
    ((d s).rise).s = (d s).s + 1 ∧ ((d s).rise.st = .idle ↔ 15 ≤ (d s).s)) ∧
  (∀ (s : State) (lpl total : Nat), s.eng.fld Reg.glbStatus 3 0 ≤ 1 → ∀ v : SensSample, exec (.budgetPeriod lpl total) s = .next s ∧ exec (.sensorSample v) s = .next s) ∧
  (∀ (s : State) (lpl total : Nat), lpl ≠ 0 → 2 ≤ s.eng.fld Reg.glbStatus 3 0 → ∃ t, exec (.budgetPeriod lpl total) s = .next t ∧ t.eng.budget = s.eng.fld Reg.pwrLplBudget 15 0 ∧
    t.eng.fld Reg.pwrMeas 15 0 = lpl % 65536 ∧ t.eng.fld Reg.pwrMeas 31 16 = total % 65536 ∧
    t.eng.fld Reg.pwrStatus 20 16 = if s.eng.critical then s.eng.minDuty
      else dutyNext (s.eng.fld Reg.pwrStatus 20 16) (t.eng.perBeff (s.eng.fld Reg.pwrStatus 20 16) (lpl * 10)) s.eng.minDuty) ∧
  ∀ (s : State) (v : SensSample), 2 ≤ s.eng.fld Reg.glbStatus 3 0 → ∃ t, exec (.sensorSample v) s = .next t ∧
    (∀ k, k < sensorCount → kget 0 t.eng.sens k = BitVec.ofNat 16 (v.values.getD k 0)) ∧
    (t.eng.fld Reg.pwrTherm 15 8 ≤ t.eng.hottest → t.eng.fld Reg.pwrStatus 20 16 = t.eng.minDuty ∧ t.eng.bit Reg.pwrEvent 3 = true) ∧
    (t.eng.hottest < t.eng.fld Reg.pwrTherm 15 8 → t.eng.fld Reg.pwrStatus 20 16 = s.eng.fld Reg.pwrStatus 20 16 ∧
      (t.eng.fld Reg.pwrTherm 23 16 < t.eng.hottest → t.eng.bit Reg.pwrEvent 2 = true))

/-- Kicks, failures, failed boots and RESTART move the roles of the two cores, and never make both ACTIVE. Rests on R491, R504, R505, R506, R507, R508, R516, R518, R520, R529. Rests on the model's choices of assumption log 81. -/
def Obligations.ManagementCoresTakeOver : Prop :=
  (∀ (s : State) (c : Fin 2), let k := s.eng.core c.val
    let o := otherCore c.val
    (k.role ≠ .booting → exec (.kick c) s = .next s ∧ exec (.bootLimitExpiry c) s = .next s) ∧
    (k.role = .booting ∨ k.role = .failed → exec (.mgmtWatchdog c) s = .next s) ∧
    (∀ sram, k.role = .failed → exec (.mgmtCoreFault c sram) s = .next s) ∧
    (k.role = .booting → 4 ≤ s.eng.fld Reg.glbStatus 3 0 →
      (s.eng.activeCore = none → ∃ t, exec (.kick c) s = .next t ∧ (t.eng.core c.val).role = .active ∧ (t.eng.core c.val).fails = 0 ∧
        t.eng.bit Reg.mgmtStatus 31 = false ∧ t.eng.fld Reg.mgmtStatus (25 + 2 * c.val) (24 + 2 * c.val) = 1 ∧
        (s.eng.fld Reg.glbStatus 3 0 = 4 → t.eng.fld Reg.glbStatus 3 0 = 5)) ∧
      (s.eng.activeCore = some o → (∀ u, s.eng.upd = some u → u.waitKick = false) →
        ∃ t, exec (.kick c) s = .next t ∧ (t.eng.core c.val).role = .standby ∧ t.eng.core o = s.eng.core o) ∧
      (∀ u, s.eng.activeCore = some o → s.eng.upd = some u → u.waitKick = true →
        ∃ t, exec (.kick c) s = .next t ∧ (t.eng.core c.val).role = .active ∧ t.eng.core o = ⟨.booting, 0, u.slot, 0⟩ ∧
          t.eng.upd = some { u with waitKick := false })) ∧
    (∀ sram, s.eng.fld Reg.glbStatus 3 0 ≤ 1 → exec (.mgmtCoreFault c sram) s = .next s) ∧
    (∀ f, f = Instr.mgmtWatchdog c ∨ f = .mgmtCoreFault c false ∨ f = .mgmtCoreFault c true → 2 ≤ s.eng.fld Reg.glbStatus 3 0 →
      (k.role = .active → (s.eng.core o).role = .standby → ∃ t, exec f s = .next t ∧ (t.eng.core o).role = .active ∧
        t.eng.core c.val = ⟨.booting, 0, s.bootPick, 0⟩ ∧ t.eng.upd = none ∧ t.eng.bit Reg.mgmtEvent 0 = true ∧ t.eng.bit Reg.mgmtEvent 1 = true ∧
        t.eng.fld Reg.mgmtStatus 15 0 = min (s.eng.fld Reg.mgmtStatus 15 0 + 1) 65535) ∧
      (k.role = .active → (s.eng.core o).role = .booting ∨ (s.eng.core o).role = .failed → ∃ t, exec f s = .next t ∧
        t.eng.core c.val = ⟨.booting, 0, s.bootPick, 0⟩ ∧ t.eng.core o = s.eng.core o ∧ t.eng.upd = none ∧
        t.eng.bit Reg.mgmtStatus 31 = true ∧ t.eng.bit Reg.mgmtEvent 1 = true) ∧
      (k.role = .standby → ∃ t, exec f s = .next t ∧ t.eng.core c.val = ⟨.booting, 0, s.bootPick, 0⟩ ∧
        t.eng.core o = s.eng.core o ∧ t.eng.upd = s.eng.upd)) ∧
    (∀ f, f = Instr.bootLimitExpiry c ∨ f = .mgmtCoreFault c false ∨ f = .mgmtCoreFault c true → k.role = .booting →
      4 ≤ s.eng.fld Reg.glbStatus 3 0 →
      ((∀ u, s.eng.upd = some u → u.waitKick = false) →
        (k.fails < 2 → ∃ t, exec f s = .next t ∧ t.eng.core c.val = ⟨.booting, k.fails + 1, k.slot, 0⟩ ∧ t.eng.core o = s.eng.core o) ∧
        (2 ≤ k.fails → ∃ t, exec f s = .next t ∧ (t.eng.core c.val).role = .failed ∧ t.eng.core o = s.eng.core o ∧
          ((s.eng.core o).role = .failed → t.eng.bit Reg.mgmtEvent 2 = true ∧ t.eng.bit Reg.mgmtStatus 31 = true ∧ t.eng.bit Reg.mgmtEvent 1 = true))) ∧
      (∀ u, s.eng.upd = some u → u.waitKick = true → ∃ t, exec f s = .next t ∧ t.eng.core c.val = ⟨.booting, 0, s.bootPick, 0⟩ ∧
        t.eng.upd = none ∧ t.eng.bit Reg.mgmtUpdCmd 31 = false ∧ t.eng.fld Reg.mgmtUpdCmd 30 28 = 6 ∧ t.eng.bit Reg.mgmtEvent 6 = true))) ∧
  (∀ s : State, s.bootPick = if s.imageGood s.flash.bootSlot = false ∧ (s.flash.slot (1 - s.flash.bootSlot)).st = .confirmed then 1 - s.flash.bootSlot
    else s.flash.bootSlot) ∧
  (∀ (s : State) (path : Path), s.eng.gate path Reg.mgmtCtrl = .pass → ∃ t, exec (.restart path) s = .next t ∧ t.eng.upd = none ∧
    (∀ c, c < 2 → t.eng.core c = ⟨.booting, 0, s.bootPick, 0⟩) ∧ t.eng.bit Reg.mgmtStatus 31 = true ∧ t.eng.bit Reg.mgmtEvent 1 = true) ∧
  ∀ (s t : State) (c : Fin 2) (path : Path) (i : Instr),
    i ∈ [Instr.kick c, .mgmtWatchdog c, .mgmtCoreFault c false, .mgmtCoreFault c true, .bootLimitExpiry c, .restart path, .updCmdDone] →
    ¬((s.eng.core 0).role = .active ∧ (s.eng.core 1).role = .active) → exec i s = .next t →
    ¬((t.eng.core 0).role = .active ∧ (t.eng.core 1).role = .active)

/-- The log is mirrored and drained in order, and AGREED changes by a write or by negotiation at its beat. Rests on R511, R512, R513, R515, R516, R523, R524, R525, R526, R553. -/
def Obligations.LogFlowsAndLevelsAgree : Prop :=
  (∀ s : State, s.eng.activeCore = none → exec .logMirror s = .next s) ∧
  (∀ s : State, s.eng.activeCore ≠ none → let e := s.eng
    let m := e.fld Reg.mgmtLogMirrored 31 0
    let wait := e.log.filter fun l => !e.mirrored l.seq
    ((∀ l, wait.head? = some l → l.seq = m) → (wait = [] → e.fld Reg.mgmtLogSeq 31 0 = m) →
      ∃ t, exec .logMirror s = .next t ∧ t.eng.fld Reg.mgmtLogMirrored 31 0 = e.fld Reg.mgmtLogSeq 31 0 ∧
        t.flash = ({ s.flash with
          log := (s.flash.log ++ wait).drop ((s.flash.log ++ wait).length - flashLogSlots)
          logPos := (s.flash.logPos + wait.length) % flashLogSlots } : Flash).saved) ∧
    (∀ l, wait.head? = some l → l.seq ≠ m → e.logHeld = [] → e.logOcc < logSlots → e.mirrored (e.fld Reg.mgmtLogSeq 31 0) = false →
      ∃ t, exec .logMirror s = .next t ∧ (t.flash.log.getLast?).map (fun x => (x.seq, x.type, x.src, x.payload)) =
        some (e.fld Reg.mgmtLogSeq 31 0, 0x14, 1, leBytes 4 m ++ leBytes 4 ((l.seq + 2 ^ 32 - 1) % 2 ^ 32)))) ∧
  (∀ (s : State) (l : LogEnt) (r : List LogEnt), s.eng.logHeld = l :: r →
    (logSlots ≤ s.eng.logOcc → exec .logKeepRetry s = .next s) ∧
    (s.eng.logOcc < logSlots → s.eng.fld Reg.mgmtHlogCfg 4 0 = 0 → ∃ t, exec .logKeepRetry s = .next t ∧ t.eng.logHeld = r ∧
      t.eng.log = s.eng.log ++ [{ l with seq := s.eng.fld Reg.mgmtLogSeq 31 0 }] ∧
      t.eng.fld Reg.mgmtLogSeq 31 0 = (s.eng.fld Reg.mgmtLogSeq 31 0 + 1) % 2 ^ 32)) ∧
  (∀ (s : State) (path : Path) (v : Word), s.eng.gate path Reg.mgmtHlogHead = .pass → ∃ t, exec (.hlogHead path v) s = .next t ∧
    t.eng.rd Reg.mgmtHlogHead = if headGood (s.eng.fld Reg.mgmtHlogHead 31 0) (s.eng.fld Reg.mgmtHlogTail 31 0) v.toNat then v
      else s.eng.rd Reg.mgmtHlogHead) ∧
  (∀ (s : State) (l : BitVec 16), s.eng.hasActive = true → ∃ t, exec (.levelSet .mgmt l) s = .next t ∧ t.eng.agreed = s.eng.agreed ∧
    t.eng.levelSet = if s.eng.bit Reg.mgmtNegCfg 31 = false ∧ l.toNat ≤ s.eng.supported then some (l.toNat, s.beat.beat + 1) else s.eng.levelSet) ∧
  (∀ (s : State) (l n : Nat), l < 65536 →
    (s.eng.nego.pend = none → s.eng.levelSet = some (l, n) → n ≤ s.beat.beat → s.eng.bit Reg.mgmtNegCfg 31 = false → l ≤ s.eng.supported →
      ∃ t, exec .levelEffective s = .next t ∧ t.eng.agreed = l ∧ t.eng.levelSet = none ∧ (l ≠ s.eng.agreed → t.eng.bit Reg.mgmtEvent 7 = true)) ∧
    (s.eng.levelSet = none → s.eng.nego.pend = some (l, n) →
      (s.beat.time < n * 256 → exec .levelEffective s = .next s) ∧
      (n * 256 ≤ s.beat.time → ∃ t, exec .levelEffective s = .next t ∧ t.eng.agreed = l ∧ t.eng.nego.pend = none ∧
        t.eng.rd Reg.mgmtNegEffLo = 0 ∧ t.eng.rd Reg.mgmtNegEffHi = 0))) ∧
  (∀ s : State, let period := max 1 (s.eng.fld Reg.mgmtNegTime 31 16)
    let r := s.beat.beat / period % 2 ^ 32
    (s.eng.bit Reg.mgmtNegCfg 31 = false ∨ s.beat.time ≠ s.beat.entered ∨ s.beat.beat / period ≤ s.beat.before / period ∨ s.eng.nego.sent = s.beat.beat + 1 ∨ s.eng.bit Reg.glbStatus 31 = false →
      exec .negArriveSend s = .next s) ∧
    (∀ q, s.eng.bit Reg.mgmtNegCfg 31 = true → s.beat.time = s.beat.entered → s.beat.before / period < s.beat.beat / period → s.eng.nego.sent ≠ s.beat.beat + 1 → s.eng.bit Reg.glbStatus 31 = true →
      s.eng.bit Reg.mgmtNegCfg 30 = false → s.eng.rmHeld = [] → s.eng.rmPortFor 3 1 = some q →
      ∃ t, exec .negArriveSend s = .next t ∧ t.eng.nego.sent = s.beat.beat + 1 ∧
        t.eng.out = s.eng.out ++ [.rm q 0xC1 { s.eng.rmHeader 8 (s.eng.fld Reg.mgmtNegCfg 15 0) 0 0 0 (r * 2 ^ 32 + s.eng.supported) with port := Fin.ofNat 4 q }])) ∧
  (∀ (s : State) (m : RmMsg), s.eng.bit Reg.glbStatus 31 = true → s.eng.bit Reg.mgmtNegCfg 31 = true →
    let e := s.eng
    let rejected := fun c => ∃ t, exec c s = .next t ∧ t.eng.nego = e.nego ∧ t.eng.agreed = e.agreed ∧
      t.eng.fld (Reg.syncRejCount m.part) 31 0 = min (e.fld (Reg.syncRejCount m.part) 31 0 + 1) (2 ^ 32 - 1)
    (negArriveClean m = false → e.bit Reg.mgmtNegCfg 30 = true → rejected (.negArrive m)) ∧
    (negReleaseClean m = false → m.src.toNat ≠ e.fld Reg.syncEngineId 15 0 → rejected (.negRelease m))) ∧
  (∀ (s : State) (m : RmMsg), s.eng.bit Reg.glbStatus 31 = true → s.eng.bit Reg.mgmtNegCfg 31 = true →
    let e := s.eng
    let r := bitsOf m.body.toNat 63 32
    let l := bitsOf m.body.toNat 15 0
    let n := e.fld Reg.mgmtNegStatus 31 16
    let need := e.fld Reg.mgmtNegCount 15 0
    let low := if n = 0 then l else min e.nego.lowest l
    let eff := s.beat.beat + e.fld Reg.mgmtNegTime 15 0
    (e.bit Reg.mgmtNegCfg 30 = true → negArriveClean m = true →
      (r < e.nego.round → exec (.negArrive m) s = .next s) ∧
      (r = e.nego.round → n + 1 < need → ∃ t, exec (.negArrive m) s = .next t ∧ t.eng.fld Reg.mgmtNegStatus 31 16 = n + 1 ∧ t.eng.nego.lowest = low) ∧
      (e.nego.round < r → 1 < need → ∃ t, exec (.negArrive m) s = .next t ∧ t.eng.fld Reg.mgmtNegStatus 31 16 = 1 ∧ t.eng.nego.lowest = l ∧
        t.eng.nego.round = r ∧ t.eng.fld Reg.mgmtNegStatus 15 0 = r % 65536 ∧ (n ≠ 0 → t.eng.bit Reg.mgmtEvent 8 = true)) ∧
      (r = e.nego.round → need ≤ n + 1 → n < 65535 → e.fld Reg.mgmtNegTime 15 0 ≠ 0 → eff < 2 ^ 48 → ∃ t, exec (.negArrive m) s = .next t ∧
        t.eng.fld Reg.mgmtNegStatus 31 16 = 0 ∧ t.eng.agreed = e.agreed ∧
        t.eng.nego.pend = if low = e.agreed then e.nego.pend else some (low, eff))) ∧
    (m.src.toNat ≠ e.fld Reg.syncEngineId 15 0 → negReleaseClean m = true →
      let lv := bitsOf m.body.toNat 127 112
      let ef := bitsOf m.body.toNat 111 64
      (ef = 0 → exec (.negRelease m) s = .next s) ∧
      (ef ≠ 0 → ef * 256 < s.beat.time → ∃ t, exec (.negRelease m) s = .next t ∧ (lv < e.agreed → t.eng.bit Reg.mgmtEvent 9 = true) ∧
        t.eng.agreed = lv ∧ t.eng.bit Reg.mgmtEvent 8 = true) ∧
      (ef ≠ 0 → s.beat.time ≤ ef * 256 → ∃ t, exec (.negRelease m) s = .next t ∧ (lv < e.agreed → t.eng.bit Reg.mgmtEvent 9 = true) ∧
        t.eng.agreed = e.agreed ∧ t.eng.nego.pend = some (lv, ef)))) 

/-- Update commands check, act when they complete, and report their ERR. Rests on R507, R508, R516, R517, R518, R519, R520, R522, R581. Rests on the model's choices of assumption log 81. -/
def Obligations.UpdateCommandsStageActivateConfirmRevert : Prop :=
  (∀ (s : State) (path : Path), s.eng.gate path Reg.mgmtUpdCmd = .pass → let e := s.eng
    let slot := e.fld Reg.mgmtUpdCmd 0 0
    (e.bit Reg.mgmtUpdCmd 31 = true → ∀ i, i ∈ [Instr.stage path, .activateUcode path, .activateMgmt path, .confirm path, .revert path] →
      exec i s = .next { s with eng := { e with resp := ⟨true, 0⟩ } }) ∧
    (e.bit Reg.mgmtUpdCmd 31 = false → e.activeCore = none →
      ∀ x, x ∈ [(Instr.stage path, 1), (.activateUcode path, 2), (.activateMgmt path, 3), (.confirm path, 4), (.revert path, 5)] →
        ∃ t, exec x.1 s = .next t ∧ t.flash = s.flash ∧ t.eng.upd = some ⟨x.2, slot, 7, false, []⟩ ∧ t.eng.bit Reg.mgmtUpdCmd 31 = true) ∧
    (e.bit Reg.mgmtUpdCmd 31 = false → e.activeCore ≠ none →
      (∃ t, exec (.stage path) s = .next t ∧ t.eng.bit Reg.mgmtUpdCmd 31 = true ∧
        t.eng.upd = some ⟨1, s.flash.nonBoot, if s.stageErr.1 = 0 ∧ s.flash.nonBoot ∈ s.flash.bad then 6 else s.stageErr.1, false, s.stageErr.2⟩ ∧
        t.eng.pair Reg.mgmtUpdProgLo Reg.mgmtUpdProgHi = 2 * 2 ^ 48 ∧ t.flash.slot s.flash.bootSlot = s.flash.slot s.flash.bootSlot ∧
        (s.stageErr.1 = 0 → (t.flash.slot s.flash.nonBoot).st = .incomplete) ∧ (s.stageErr.1 ≠ 0 → t.flash = s.flash)) ∧
      (∃ t, exec (.activateUcode path) s = .next t ∧ t.flash = s.flash ∧ t.eng.upd = some ⟨2, slot,
        if s.flash.holds slot 1 = false then 1 else if slot ∈ s.flash.bad then 6 else if e.bankUsed 0 = true ∧ e.bankUsed 1 = true then 7 else 0, false, []⟩) ∧
      (∃ t, exec (.confirm path) s = .next t ∧ t.flash = s.flash ∧
        t.eng.upd = some ⟨4, slot, if (s.flash.slot slot).st = .staged then 0 else 1, false, []⟩) ∧
      (∃ t, exec (.revert path) s = .next t ∧ t.flash = s.flash ∧ t.eng.upd = some ⟨5, slot,
        if ∃ p, p ∈ e.updParts ∧ kget none e.banks (1 - e.fld Reg.mgmtUcodeBank p p) = none then 7 else 0, false, []⟩) ∧
      (∀ a, e.activeCore = some a →
        (s.flash.holds slot 0 = false → ∃ t, exec (.activateMgmt path) s = .next t ∧ t.eng.upd = some ⟨3, slot, 1, false, []⟩ ∧ t.eng.mcores = e.mcores) ∧
        (s.flash.holds slot 0 = true → (e.core (otherCore a)).role ≠ .standby →
          ∃ t, exec (.activateMgmt path) s = .next t ∧ t.eng.upd = some ⟨3, slot, 6, false, []⟩ ∧ t.eng.mcores = e.mcores) ∧
        (s.flash.holds slot 0 = true → (e.core (otherCore a)).role = .standby →
          ∃ t, exec (.activateMgmt path) s = .next t ∧ t.eng.upd = some ⟨3, slot, 0, true, []⟩ ∧ t.eng.core a = e.core a ∧
            t.eng.core (otherCore a) = ⟨.booting, 0, slot, 0⟩)))) ∧
  (∀ s : State, (s.eng.upd = none → exec .updCmdDone s = .next s) ∧
    (∀ u, s.eng.upd = some u → u.waitKick = true → exec .updCmdDone s = .next s) ∧
    (∀ u, s.eng.upd = some u → u.waitKick = false → u.err < 8 → ∃ t, exec .updCmdDone s = .next t ∧ t.eng.upd = none ∧
      t.eng.bit Reg.mgmtUpdCmd 31 = false ∧ t.eng.fld Reg.mgmtUpdCmd 30 28 = u.err ∧ s.flash.minSvn ≤ t.flash.minSvn ∧
      (u.err ≠ 0 → t.eng.bit Reg.mgmtEvent 6 = true ∧ t.flash = s.flash ∧ t.eng.banks = s.eng.banks) ∧
      (u.err = 0 → t.eng.bit Reg.mgmtEvent 5 = true ∧
        (u.op = 1 → t.flash.slot u.slot = { s.flash.slot u.slot with st := .staged, image := u.image } ∧
          t.flash.slot (1 - u.slot) = s.flash.slot (1 - u.slot)) ∧
        (u.op = 2 → kget none t.eng.banks (if s.eng.bankUsed 0 then 1 else 0) =
          some (imgContract (s.flash.slot u.slot).image, imgBuild (s.flash.slot u.slot).image)) ∧
        (u.op = 4 → t.flash.slot u.slot = { s.flash.slot u.slot with st := .confirmed, gen := (s.flash.slot (1 - u.slot)).gen + 1 } ∧
          t.flash.minSvn = max s.flash.minSvn (imgSvn (s.flash.slot u.slot).image)) ∧
        (u.op = 2 ∨ u.op = 5 → ∀ p, p ∈ s.eng.updParts →
          (s.eng.pstate p = psDisabled → t.eng.fld Reg.mgmtUcodeBank p p = 1 - s.eng.fld Reg.mgmtUcodeBank p p) ∧
          (s.eng.pstate p ≠ psDisabled → p ∈ t.eng.bankSwitch ∧ t.eng.fld Reg.mgmtUcodeBank p p = s.eng.fld Reg.mgmtUcodeBank p p)))))

/-- Start-up moves through its phases; cold, warm and power-loss resets leave the state that R560 and R561 give. Rests on R45, R214, R418, R437, R491, R521, R533, R559, R560, R561, R562, R564. Rests on the model's choices of assumption logs 31, 84. -/
def Obligations.StartUpAndResetsLeaveTheirState : Prop :=
  (∀ (s : State) (on : Bool), ∃ t, exec (.coldReset on) s = .next t ∧ t.beat = BeatUnit.cold ∧ t.flash = s.flash ∧
    t.eng.rd Reg.glbResetCause = (if on then 8 else 1) ∧ t.eng.fld Reg.glbStatus 3 0 = 1 ∧ t.eng.readyOut = false ∧
    (∀ a, a ≠ Reg.glbResetCause → a ≠ Reg.glbStatus → t.eng.rd a = resetWord a) ∧ (∀ c, c < 2 → t.eng.core c = ⟨.booting, 0, t.bootPick, 0⟩) ∧
    t.eng.parts = [] ∧ t.eng.cells = [] ∧ t.eng.reqs = [] ∧ t.eng.ledgers = [] ∧ t.eng.chans = [] ∧ t.eng.txns = [] ∧
    (on = true ∨ s.eng.bit Reg.glbStatus 31 = false → t.eng.mem = s.eng.mem) ∧
    (∀ p, p < 32 → on = false → s.eng.bit Reg.glbStatus 31 = true → s.eng.deny = [] → s.eng.pstate p ≠ psDisabled →
      (∀ q, q < 32 → q ≠ p → s.eng.pstate q = psDisabled) → s.eng.heldRings p = [] →
      t.eng.num (s.eng.headerAddr p none) 4 = hdAbsent)) ∧
  (∀ s : State, ∃ t, exec .powerLoss s = .next t ∧ t.beat = BeatUnit.cold ∧ t.flash = s.flash ∧ t.eng.mem = s.eng.mem ∧
    (∀ a, t.eng.rd a = resetWord a) ∧ t.eng.parts = [] ∧ t.eng.cells = [] ∧ t.eng.reqs = []) ∧
  (∀ s : State, let ph := s.eng.fld Reg.glbStatus 3 0
    (∀ x, x ∈ [(Instr.pllLock, decide (ph ≤ 1), 2), (.sramClearDone, decide (ph = 2), 3), (.jumpRomCheckDone true, decide (ph = 3), 4),
        (.jumpRomCheckDone false, decide (ph = 3), 4), (.ucodeLoadDone true, decide (ph = 5), 7), (.ucodeLoadDone false, decide (ph = 5), 15)] →
      (x.2.1 = false → exec x.1 s = .next s) ∧
      (x.2.1 = true → ∃ t, exec x.1 s = .next t ∧ t.eng.fld Reg.glbStatus 3 0 = x.2.2 ∧ t.flash = s.flash)) ∧
    (ph = 3 → ∃ t u, exec (.jumpRomCheckDone true) s = .next t ∧ exec (.jumpRomCheckDone false) s = .next u ∧
      t.eng.bit Reg.rngStatus 31 = true ∧ u.eng.bit Reg.rngStatus 31 = false ∧ u.eng.romWait = true) ∧
    (ph = 5 → ∃ t u, exec (.ucodeLoadDone true) s = .next t ∧ exec (.ucodeLoadDone false) s = .next u ∧
      t.eng.readyOut = true ∧ t.eng.bit Reg.mgmtUpdStatus 26 = true ∧ u.eng.readyOut = s.eng.readyOut ∧
      kget none t.eng.banks 0 = some (imgContract (s.flash.slot s.flash.bootSlot).image, imgBuild (s.flash.slot s.flash.bootSlot).image))) ∧
  (∀ (s : State) (path : Path), let ask := [(Instr.warmResetPin, (2 : Word))] ++ (if s.eng.gate path Reg.glbReset = .pass then [(.warm path, 4)] else [])
    ∀ x, x ∈ ask →
      (s.eng.fld Reg.glbStatus 3 0 ≠ 7 → ∃ t, exec x.1 s = .next t ∧ t.beat = s.beat ∧ t.flash = s.flash ∧
        t.eng.regs = s.eng.regs ∧ t.eng.parts = s.eng.parts ∧ t.eng.mem = s.eng.mem) ∧
      (s.eng.fld Reg.glbStatus 3 0 = 7 → ∃ t, exec x.1 s = .next t ∧ t.beat = s.beat ∧ t.flash = s.flash ∧ t.eng.readyOut = false ∧
        t.eng.fld Reg.glbStatus 3 0 = 8 ∧ t.eng.rd Reg.glbResetCause = x.2 ∧ t.eng.warm = true ∧
        t.eng.fld Reg.glbWarmCount 31 0 = min (s.eng.fld Reg.glbWarmCount 31 0 + 1) (2 ^ 32 - 1) ∧
        ∀ p, p < 32 → (t.eng.part p).steps = [] ∧ (t.eng.part p).batch = none ∧ t.eng.pstate p = psDisabled)) ∧
  (∀ s : State, s.eng.warm = false ∨ s.eng.txns ≠ [] → exec .warmResetComplete s = .next s) ∧
  ∀ s : State, s.eng.warm = true → s.eng.txns = [] → (s.eng.regs.map fun x => x.1).Nodup →
    ∃ t, exec .warmResetComplete s = .next t ∧ t.beat = s.beat ∧ t.flash = s.flash ∧ t.eng.warm = false ∧ t.eng.readyOut = true ∧
      t.eng.fld Reg.glbStatus 3 0 = 7 ∧ t.eng.bit Reg.glbEvent 0 = true ∧ t.eng.ledgers = s.eng.ledgers ∧
      (∀ p, p < 32 → t.eng.pstate p = psDisabled ∧ t.eng.liveSlots p = [] ∧ ∀ k, k < 4 → (t.eng.vslot p k).st = vsEmpty) ∧
      (∀ n, t.eng.cell n = Cell.zero) ∧ (∀ c, (t.eng.chan c).up = false) ∧
      ∀ a r, regRow a = some r → (∀ p, p < 32 → a ≠ Reg.partCtrl p) →
        t.eng.rd a &&& BitVec.ofNat 32 r.rws = s.eng.rd a &&& BitVec.ofNat 32 r.rws

/-- Right after reset every register reads its reset word, and nothing waits, runs or is stored. Rests on R32, R45, R48, R64, R74, R169, R197, R523, R530, R560, R565, R578. -/
def Obligations.ResetStateIsAsTheSpecGives : Prop :=
  State.reset.pending = [] ∧ State.reset.beat.st = .idle ∧ State.reset.beat.time = 0 ∧ State.reset.beat.legal ∧
  (∀ a, State.reset.eng.rd a = resetWord a) ∧ Memory.wf State.reset.eng.mem = true ∧ (∀ a, State.reset.eng.byte a = 0) ∧
  (∀ p c, State.reset.eng.ctx p c = Ctx.cleared) ∧ Ctx.cleared.st = .free ∧ (∀ k, Ctx.cleared.sreg k = 0) ∧ Ctx.cleared.pc = 0 ∧
  Ctx.cleared.fault = 0 ∧ (∀ n, State.reset.eng.cell n = ⟨0, false, []⟩) ∧ (∀ p, State.reset.eng.liveSlots p = []) ∧
  State.reset.eng.txns = [] ∧ (∀ p, (State.reset.eng.part p).steps = []) ∧ (∀ c, (State.reset.eng.chan c).up = false) ∧
  (∀ p, p < 32 → State.reset.eng.pstate p = psDisabled ∧ State.reset.eng.bit (Reg.partStatus p) 2 = false) ∧
  State.reset.eng.fld Reg.glbStatus 3 0 = 0 ∧ State.reset.eng.readyOut = false ∧ (∀ c, (State.reset.eng.core c).role = .booting) ∧
  State.reset.eng.agreed = 0x0300 ∧ State.reset.eng.fld Reg.mgmtLevel 31 16 = 0x0300 ∧
  State.reset.flash.slotA.st = .empty ∧ State.reset.flash.slotB.st = .empty ∧ State.reset.eng.sound

/-- Accesses of the window by register writes, latching reads, Strings, the I2C port and the TAP. Rests on R8, R47, R527, R528, R531, R534, R556, R557, R562, R569, R572, R575. Rests on the model's choices of assumption logs 79, 78. -/
def Obligations.WindowReadsAndWrites : Prop :=
  (∀ (s : State) (path : Path) (a : BitVec 22) (v : Word),
    (∀ full : Bool, full = false ∨ a.toNat % 4 ≠ 0 → exec (.registerWrite path a v full) s = .next { s with eng := { s.eng with resp := ⟨false, 0⟩ } }) ∧
    (a.toNat % 4 ≠ 0 → exec (.latchingRead path a) s = .next { s with eng := { s.eng with resp := ⟨false, 0⟩ } }) ∧
    (a.toNat % 4 = 0 → a.toNat < 0x200000 → regRow a.toNat = none →
      exec (.registerWrite path a v true) s =
        .next { s with eng := { s.eng with resp := ⟨decide (s.eng.gate path a.toNat ≠ .slverr), 0⟩ } }) ∧
    (s.eng.gate path Reg.glbScratch = .pass → ∃ t, exec (.registerWrite path (BitVec.ofNat 22 Reg.glbScratch) v true) s = .next t ∧
      t.eng.rd Reg.glbScratch = v ∧ t.eng.resp = ⟨true, 0⟩ ∧ t.beat = s.beat ∧ t.eng.parts = s.eng.parts ∧ t.eng.mem = s.eng.mem ∧
      ∀ b, b ≠ Reg.glbScratch → t.eng.rd b = s.eng.rd b) ∧
    (s.eng.gate path Reg.beatEvent = .pass → ∃ t, exec (.registerWrite path (BitVec.ofNat 22 Reg.beatEvent) v true) s = .next t ∧
      t.eng.rd Reg.beatEvent = s.eng.rd Reg.beatEvent &&& ~~~(v &&& 0x1FF) ∧ ∀ b, b ≠ Reg.beatEvent → t.eng.rd b = s.eng.rd b) ∧
    (a.toNat % 4 = 0 → latches a.toNat = true → latched a.toNat = false → s.eng.readOpen path a.toNat = true →
      ∃ t, exec (.latchingRead path a) s = .next t ∧ t.eng.resp = ⟨true, s.regValue a.toNat⟩ ∧
        t.readWord path (a.toNat + 4) = s.regValue (a.toNat + 4) ∧ t.eng.regs = s.eng.regs ∧ t.eng.mem = s.eng.mem ∧
        ∀ q, q ≠ path → t.readWord q (a.toNat + 4) = s.readWord q (a.toNat + 4)) ∧
    (s.eng.readOpen path Reg.beatNowLo = true → ∃ t, exec (.readBeatNowLo path) s = .next t ∧
      t.eng.resp = ⟨true, BitVec.ofNat 32 s.beat.stamp⟩ ∧ t.readWord path Reg.beatNowHi = BitVec.ofNat 32 (s.beat.stamp / 2 ^ 32))) ∧
  (∀ (s : State) (l : List Byte), (l.length ≠ 4 → exec (.i2cPointerWrite l) s = .next s) ∧
    (l.length = 4 → ∃ t, exec (.i2cPointerWrite l) s = .next t ∧ t.eng.i2cPtr = ofLe l % 2 ^ 22) ∧
    ∃ t, exec .i2cRead s = .next t ∧ t.eng.i2cPtr = (s.eng.i2cPtr + 4) % 2 ^ 22 ∧ t.eng.regs = s.eng.regs ∧
      t.eng.out = s.eng.out ++ [.i2c (if s.eng.i2cPtr % 4 = 0 then s.readWord .i2c s.eng.i2cPtr else 0)]) ∧
  (∀ (s : State) (code : BitVec 8) (x : BitVec 160),
    (∃ t u w, exec (.jtagUpdateIr code) s = .next t ∧ exec .jtagTrst s = .next u ∧ exec .jtagCaptureDr s = .next w ∧
      t.eng.jtagIr = (if code = irIdcode ∨ code = irStrings then code else irBypass) ∧ u.eng.jtagIr = irIdcode ∧
      t.eng.regs = s.eng.regs ∧ u.eng.regs = s.eng.regs ∧ w.eng.regs = s.eng.regs ∧ w.eng.jtagIr = s.eng.jtagIr ∧
      (s.eng.jtagIr = irIdcode → w.eng.jtagDr = Config.idcode.zeroExtend 160) ∧
      (s.eng.jtagIr = irStrings → s.eng.bit Reg.dbgCtrl 0 = false → w.eng.jtagDr = 0) ∧
      (s.eng.jtagIr = irStrings → s.eng.bit Reg.dbgCtrl 0 = true → bitsOf w.eng.jtagDr.toNat 31 0 = (s.eng.rd Reg.dbgCmd).toNat ∧
        bitsOf w.eng.jtagDr.toNat 95 32 = s.eng.pair Reg.dbgAddrLo Reg.dbgAddrHi ∧
        bitsOf w.eng.jtagDr.toNat 159 96 = s.eng.pair Reg.dbgDataLo Reg.dbgDataHi)) ∧
    (s.eng.jtagIr ≠ irStrings ∨ s.eng.bit Reg.dbgCtrl 0 = false ∨ s.eng.bit Reg.dbgCmd 31 = true →
      ∃ t, exec (.jtagUpdateDr x) s = .next t ∧ t.eng.regs = s.eng.regs ∧ t.eng.cells = s.eng.cells ∧ t.eng.parts = s.eng.parts) ∧
    (s.eng.jtagIr = irStrings → s.eng.bit Reg.dbgCtrl 0 = true → s.eng.bit Reg.dbgCmd 31 = false → bitsOf x.toNat 25 24 = 0 →
      ∃ t, exec (.jtagUpdateDr x) s = .next t ∧ t.eng.pair Reg.dbgDataLo Reg.dbgDataHi = bitsOf x.toNat 159 96 ∧
        t.eng.pair Reg.dbgAddrLo Reg.dbgAddrHi = bitsOf x.toNat 95 32 ∧ t.eng.fld Reg.dbgCmd 17 16 = bitsOf x.toNat 17 16 ∧
        t.eng.rd Reg.dbgWrites = s.eng.rd Reg.dbgWrites)) ∧
  ∀ (s : State) (src : StringsSrc) (space : BitVec 2) (addr data : Dword),
    (s.eng.mayString src = false → exec (.stringsRead src space addr) s = .next s ∧ exec (.stringsWrite src space addr data) s = .next s) ∧
    (s.eng.mayString src = true → ∃ t, exec (.stringsRead src space addr) s = .next t ∧ t.eng.fld Reg.dbgCmd 30 28 = s.eng.strReadErr space addr ∧
      t.eng.fld Reg.dbgCmd 17 16 = space.toNat ∧ t.eng.rd Reg.dbgWrites = s.eng.rd Reg.dbgWrites ∧
      (strRqt space addr = false → s.eng.strReadErr space addr = strAddrErr space addr) ∧
      (strRqt space addr = true → lowWord addr < 24 * 131072 → s.strValue src space addr = kget 0 s.eng.rqt (lowWord addr) ∧
        s.eng.strReadErr space addr = if lowWord addr ∈ s.eng.rqtBad then 4 else 0) ∧
      (s.eng.strReadErr space addr = 0 → t.eng.rd Reg.dbgDataLo = (s.strValue src space addr).truncate 32) ∧
      (space ≠ 0 → s.eng.strReadErr space addr = 0 → t.eng.pair Reg.dbgDataLo Reg.dbgDataHi = (s.strValue src space addr).toNat)) ∧
    (s.eng.mayString src = true → strRqt space addr = true → lowWord addr < 24 * 131072 → ∃ t, exec (.stringsWrite src space addr data) s = .next t ∧
      kget 0 t.eng.rqt (lowWord addr) = data ∧ lowWord addr ∉ t.eng.rqtBad ∧ t.eng.fld Reg.dbgCmd 30 28 = 0 ∧
      (∀ n, n ≠ lowWord addr → kget 0 t.eng.rqt n = kget 0 s.eng.rqt n) ∧
      t.eng.fld Reg.dbgWrites 31 0 = min (s.eng.fld Reg.dbgWrites 31 0 + 1) (2 ^ 32 - 1)) ∧
    (s.eng.mayString src = true → space = 2 → strAddrErr space addr = 0 → (s.eng.ctx (mirrorPart addr) (mirrorCtx addr)).st ≠ .stopped →
      (s.eng.ctx (mirrorPart addr) (mirrorCtx addr)).st ≠ .faulted →
      ∃ t, exec (.stringsWrite src space addr data) s = .next t ∧ t.eng.fld Reg.dbgCmd 30 28 = 3 ∧ t.eng.parts = s.eng.parts ∧
        t.eng.rd Reg.dbgWrites = s.eng.rd Reg.dbgWrites) ∧
    (s.eng.mayString src = true → space = 0 → addr = BitVec.ofNat 64 Reg.glbScratch → s.eng.fld Reg.mgmtHlogCfg 4 0 = 0 →
      s.eng.logHeld = [] → s.eng.logOcc < logSlots →
      ∃ t, exec (.stringsWrite src space addr data) s = .next t ∧ t.eng.rd Reg.glbScratch = data.truncate 32 ∧
        t.eng.fld Reg.dbgCmd 30 28 = 0 ∧ t.eng.fld Reg.dbgWrites 31 0 = min (s.eng.fld Reg.dbgWrites 31 0 + 1) (2 ^ 32 - 1) ∧
        t.eng.fld Reg.dbgStatus 1 0 = src.log ∧ t.eng.log.length = s.eng.log.length + 1 ∧
        (t.eng.log.getLast?).map (fun l => (l.type, l.src, l.payload)) = some (0x07, src.log,
          leBytes 4 0 ++ leBytes 8 addr.toNat ++ leBytes 8 (s.eng.rd Reg.glbScratch).toNat ++ leBytes 8 (data.truncate 32 : Word).toNat))

/-- A step takes the command at the front of the queue with the queue's rest, and ticks when none waits. Rests on R25, R571. -/
def Obligations.AStepRunsTheFrontCommand : Prop :=
  (∀ (c : Instr) (rest : List Instr) (s : State), step { s with pending := c :: rest } = exec c { s with pending := rest }) ∧
  ∀ s : State, s.pending = [] → step s = .next s.tick

/-- Every command of every row answers a next state from every state, leaves the queue to the sender, and an issued instruction acts. Rests on R534, R571. -/
def Obligations.EveryCommandCompletes : Prop :=
  (∀ (c : Instr) (s : State), ∃ t, exec c s = .next t ∧ t.pending = s.pending) ∧
  (∀ s : State, ∃ t, step s = .next t ∧ t.pending = s.pending.tail) ∧
  (∀ (s : State) (minor : BitVec 8) (off : BitVec 40) (head : Fin 8) (r : InsRow) (i : Ins), r ∈ insTable minor off head →
    r.major ≠ 0x10 → r.major ≠ 0x11 → r.major ≠ 0x12 → s.issues i → ∃ t, exec (r.op i) s = .next t ∧
      let x := s.eng.ctx i.p i.c
      let y := t.eng.ctx i.p i.c
      y.pc ≠ x.pc ∨ y.st ≠ .running ∨ y.pend ≠ none) ∧
  ∀ (s : State) (path : Path) (a : BitVec 22) (v : Word) (code : BitVec 8), ∃ t u w x y,
    exec (.registerWrite path a v false) s = .next t ∧ t.eng.resp = ⟨false, 0⟩ ∧
    exec .i2cRead s = .next u ∧ u.eng.i2cPtr = (s.eng.i2cPtr + 4) % 2 ^ 22 ∧
    exec (.jtagUpdateIr code) s = .next w ∧ w.eng.jtagIr = (if code = irIdcode ∨ code = irStrings then code else irBypass) ∧
    exec (.coldReset true) s = .next x ∧ x.eng.fld Reg.glbStatus 3 0 = 1 ∧ x.eng.rd Reg.glbResetCause = 8 ∧
    exec .powerLoss s = .next y ∧ ∀ b, y.eng.rd b = resetWord b
end

