-- ==== Sys2Proof/Laws/KMap.lean ====
section
/-! SUPPORT. Sparse data: a read after a write to the same key gives the value written, a write leaves every other key alone, and a write keeps the canonical form. -/

namespace Sys2Proof.Machine

variable {α : Type}

theorem kget_kdel_self (d : α) (m : KMap α) (n : Nat) : kget d (kdel m n) n = d := by
  induction m with
  | nil => rfl
  | cons x r ih =>
    obtain ⟨k, v⟩ := x
    by_cases h : k = n
    · simp [kdel, h] at ih ⊢; exact ih
    · simp [kdel, h, kget] at ih ⊢; exact ih

theorem kget_kdel_ne (d : α) (m : KMap α) {n k : Nat} (h : k ≠ n) : kget d (kdel m n) k = kget d m k := by
  induction m with
  | nil => rfl
  | cons x r ih =>
    obtain ⟨j, v⟩ := x
    by_cases hj : j = n
    · subst hj; simp [kdel, kget, Ne.symm h] at ih ⊢; exact ih
    · by_cases hk : j = k
      · subst hk; simp [kdel, h, kget]
      · simp [kdel, hj, kget, hk] at ih ⊢; exact ih

theorem kget_kins_self (d : α) (m : KMap α) (n : Nat) (v : α) (hn : ∀ e ∈ m, e.1 ≠ n) :
    kget d (kins n v m) n = v := by
  induction m with
  | nil => simp [kins, kget]
  | cons x r ih =>
    obtain ⟨k, w⟩ := x
    have hk : k ≠ n := hn (k, w) (by simp)
    by_cases hlt : n < k
    · simp [kins, hlt, kget]
    · simp only [kins, hlt, if_false, kget, hk]
      exact ih fun e he => hn e (by simp [he])

theorem kget_kins_ne (d : α) (m : KMap α) {n k : Nat} (v : α) (h : k ≠ n) : kget d (kins n v m) k = kget d m k := by
  induction m with
  | nil => simp [kins, kget, Ne.symm h]
  | cons x r ih =>
    obtain ⟨j, w⟩ := x
    by_cases hlt : n < j
    · simp [kins, hlt, kget, Ne.symm h]
    · by_cases hj : j = k
      · subst hj; simp [kins, hlt, kget]
      · simp [kins, hlt, kget, hj, ih]

theorem mem_kdel_ne {m : KMap α} {n : Nat} {e : Nat × α} (h : e ∈ kdel m n) : e.1 ≠ n := by
  simp [kdel] at h; exact h.2

/-- A read after a write to the same key. -/
@[simp] theorem kget_kset_self [DecidableEq α] (d : α) (m : KMap α) (n : Nat) (v : α) : kget d (kset d m n v) n = v := by
  by_cases h : v = d
  · simp [kset, h, kget_kdel_self]
  · simp only [kset, h, if_false]
    exact kget_kins_self d _ n v fun e he => mem_kdel_ne he

/-- A write leaves every other key alone. -/
theorem kget_kset_ne [DecidableEq α] (d : α) (m : KMap α) {n k : Nat} (v : α) (h : k ≠ n) :
    kget d (kset d m n v) k = kget d m k := by
  by_cases hv : v = d
  · simp [kset, hv, kget_kdel_ne d m h]
  · simp [kset, hv, kget_kins_ne d _ v h, kget_kdel_ne d m h]

/-- A change at a key. -/
@[simp] theorem kget_kmod_self [DecidableEq α] (d : α) (m : KMap α) (n : Nat) (f : α → α) :
    kget d (kmod d m n f) n = f (kget d m n) := kget_kset_self d m n _

/-- A change leaves every other key alone. -/
theorem kget_kmod_ne [DecidableEq α] (d : α) (m : KMap α) {n k : Nat} (f : α → α) (h : k ≠ n) :
    kget d (kmod d m n f) k = kget d m k := kget_kset_ne d m _ h

theorem mem_kins {m : KMap α} {n : Nat} {v : α} {e : Nat × α} (h : e ∈ kins n v m) : e = (n, v) ∨ e ∈ m := by
  induction m with
  | nil => simpa [kins] using h
  | cons x r ih =>
    obtain ⟨k, w⟩ := x
    by_cases hlt : n < k
    · simpa [kins, hlt] using h
    · simp [kins, hlt] at h
      rcases h with h | h
      · exact Or.inr (by simp [h])
      · rcases ih h with h | h
        · exact Or.inl h
        · exact Or.inr (by simp [h])

theorem kwf_kdel [DecidableEq α] (d : α) (m : KMap α) (n : Nat) (h : kwf d m = true) : kwf d (kdel m n) = true := by
  induction m with
  | nil => rfl
  | cons x r ih =>
    obtain ⟨k, v⟩ := x
    simp only [kwf, Bool.and_eq_true, decide_eq_true_eq, List.all_eq_true] at h
    obtain ⟨⟨hv, hk⟩, hr⟩ := h
    by_cases hn : k = n
    · simpa [kdel, hn] using ih hr
    · have : kdel ((k, v) :: r) n = (k, v) :: kdel r n := by simp [kdel, hn]
      rw [this]
      simp only [kwf, Bool.and_eq_true, decide_eq_true_eq, List.all_eq_true]
      exact ⟨⟨hv, fun e he => hk e (List.mem_filter.mp he).1⟩, ih hr⟩

theorem kwf_kins [DecidableEq α] (d : α) (m : KMap α) (n : Nat) (v : α) (hv : v ≠ d) (hn : ∀ e ∈ m, e.1 ≠ n)
    (h : kwf d m = true) : kwf d (kins n v m) = true := by
  induction m with
  | nil => simp [kins, kwf, hv]
  | cons x r ih =>
    obtain ⟨k, w⟩ := x
    have hkn : k ≠ n := hn (k, w) (by simp)
    have h0 := h
    simp only [kwf, Bool.and_eq_true, decide_eq_true_eq, List.all_eq_true] at h
    obtain ⟨⟨hw, hk⟩, hr⟩ := h
    by_cases hlt : n < k
    · simp only [kins, hlt, if_true]
      rw [kwf, h0]
      simp only [Bool.and_true, Bool.and_eq_true, decide_eq_true_eq, List.all_eq_true, List.mem_cons]
      refine ⟨hv, ?_⟩
      rintro e (rfl | he)
      · exact hlt
      · exact Nat.lt_trans hlt (hk e he)
    · simp only [kins, hlt, if_false, kwf, Bool.and_eq_true, decide_eq_true_eq, List.all_eq_true]
      refine ⟨⟨hw, ?_⟩, ih (fun e he => hn e (by simp [he])) hr⟩
      intro e he
      rcases mem_kins he with rfl | he
      · show k < n; omega
      · exact hk e he

/-- A write keeps the canonical form. -/
theorem kwf_kset [DecidableEq α] (d : α) (m : KMap α) (n : Nat) (v : α) (h : kwf d m = true) :
    kwf d (kset d m n v) = true := by
  by_cases hv : v = d
  · simpa [kset, hv] using kwf_kdel d m n h
  · simp only [kset, hv, if_false]
    exact kwf_kins d _ n v hv (fun e he => mem_kdel_ne he) (kwf_kdel d m n h)

end Sys2Proof.Machine
end

