-- ==== Sys2Proof/Laws/State.lean ====
section
/-! SUPPORT. One small lemma for each field of the state under each of its plain updates, so that later proofs never unfold a record update. -/

namespace Sys2Proof.Machine

open Sys2Proof

@[simp] theorem State.onEng_pending (s : State) (f : BeatUnit → Eng → Eng) : (s.onEng f).pending = s.pending := rfl
@[simp] theorem State.onEng_beat (s : State) (f : BeatUnit → Eng → Eng) : (s.onEng f).beat = s.beat := rfl
@[simp] theorem State.onEng_flash (s : State) (f : BeatUnit → Eng → Eng) : (s.onEng f).flash = s.flash := rfl
@[simp] theorem State.onEng_eng (s : State) (f : BeatUnit → Eng → Eng) : (s.onEng f).eng = f s.beat s.eng := rfl
@[simp] theorem State.onPort_pending (s : State) (f : BeatUnit → Eng → Eng) : (s.onPort f).pending = s.pending := rfl
@[simp] theorem State.onPort_beat (s : State) (f : BeatUnit → Eng → Eng) : (s.onPort f).beat = s.beat := rfl
@[simp] theorem State.onPort_flash (s : State) (f : BeatUnit → Eng → Eng) : (s.onPort f).flash = s.flash := rfl
@[simp] theorem State.withFront_beat (s : State) (c : Instr) : (s.withFront c).beat = s.beat := rfl
@[simp] theorem State.withFront_eng (s : State) (c : Instr) : (s.withFront c).eng = s.eng := rfl
@[simp] theorem State.withFront_flash (s : State) (c : Instr) : (s.withFront c).flash = s.flash := rfl
@[simp] theorem State.withFront_pending (s : State) (c : Instr) : (s.withFront c).pending = c :: s.pending := rfl

@[simp] theorem Eng.wr_mem (e : Eng) (a : Nat) (v : Word) : (e.wr a v).mem = e.mem := rfl
@[simp] theorem Eng.wr_deny (e : Eng) (a : Nat) (v : Word) : (e.wr a v).deny = e.deny := rfl
@[simp] theorem Eng.wr_txns (e : Eng) (a : Nat) (v : Word) : (e.wr a v).txns = e.txns := rfl
@[simp] theorem Eng.wr_out (e : Eng) (a : Nat) (v : Word) : (e.wr a v).out = e.out := rfl
@[simp] theorem Eng.wr_nextId (e : Eng) (a : Nat) (v : Word) : (e.wr a v).nextId = e.nextId := rfl
@[simp] theorem Eng.wr_free (e : Eng) (a : Nat) (v : Word) : (e.wr a v).free = e.free := rfl
@[simp] theorem Eng.wr_resp (e : Eng) (a : Nat) (v : Word) : (e.wr a v).resp = e.resp := rfl
@[simp] theorem Eng.wr_latch (e : Eng) (a : Nat) (v : Word) : (e.wr a v).latch = e.latch := rfl
@[simp] theorem Eng.wr_parts (e : Eng) (a : Nat) (v : Word) : (e.wr a v).parts = e.parts := rfl
@[simp] theorem Eng.wr_cells (e : Eng) (a : Nat) (v : Word) : (e.wr a v).cells = e.cells := rfl
@[simp] theorem Eng.wr_travel (e : Eng) (a : Nat) (v : Word) : (e.wr a v).travel = e.travel := rfl
@[simp] theorem Eng.wr_joined (e : Eng) (a : Nat) (v : Word) : (e.wr a v).joined = e.joined := rfl
@[simp] theorem Eng.wr_ledJoined (e : Eng) (a : Nat) (v : Word) : (e.wr a v).ledJoined = e.ledJoined := rfl
@[simp] theorem Eng.wr_sliceHold (e : Eng) (a : Nat) (v : Word) : (e.wr a v).sliceHold = e.sliceHold := rfl
@[simp] theorem Eng.wr_sliceWait (e : Eng) (a : Nat) (v : Word) : (e.wr a v).sliceWait = e.sliceWait := rfl
@[simp] theorem Eng.wr_coreWait (e : Eng) (a : Nat) (v : Word) : (e.wr a v).coreWait = e.coreWait := rfl
@[simp] theorem Eng.wr_sliceLost (e : Eng) (a : Nat) (v : Word) : (e.wr a v).sliceLost = e.sliceLost := rfl
@[simp] theorem Eng.wr_coreMap (e : Eng) (a : Nat) (v : Word) : (e.wr a v).coreMap = e.coreMap := rfl
@[simp] theorem Eng.wr_sliceMap (e : Eng) (a : Nat) (v : Word) : (e.wr a v).sliceMap = e.sliceMap := rfl
@[simp] theorem Eng.wr_xfers (e : Eng) (a : Nat) (v : Word) : (e.wr a v).xfers = e.xfers := rfl
@[simp] theorem Eng.wr_parked (e : Eng) (a : Nat) (v : Word) : (e.wr a v).parked = e.parked := rfl
@[simp] theorem Eng.wr_sigIn (e : Eng) (a : Nat) (v : Word) : (e.wr a v).sigIn = e.sigIn := rfl
@[simp] theorem Eng.wr_dataIn (e : Eng) (a : Nat) (v : Word) : (e.wr a v).dataIn = e.dataIn := rfl
@[simp] theorem Eng.wr_chans (e : Eng) (a : Nat) (v : Word) : (e.wr a v).chans = e.chans := rfl
@[simp] theorem Eng.wr_chanMap (e : Eng) (a : Nat) (v : Word) : (e.wr a v).chanMap = e.chanMap := rfl
@[simp] theorem Eng.wr_chanLost (e : Eng) (a : Nat) (v : Word) : (e.wr a v).chanLost = e.chanLost := rfl
@[simp] theorem Eng.wr_rmCredit (e : Eng) (a : Nat) (v : Word) : (e.wr a v).rmCredit = e.rmCredit := rfl
@[simp] theorem Eng.wr_hsCredit (e : Eng) (a : Nat) (v : Word) : (e.wr a v).hsCredit = e.hsCredit := rfl
@[simp] theorem Eng.wr_rmTurn (e : Eng) (a : Nat) (v : Word) : (e.wr a v).rmTurn = e.rmTurn := rfl
@[simp] theorem Eng.wr_hsTurn (e : Eng) (a : Nat) (v : Word) : (e.wr a v).hsTurn = e.hsTurn := rfl
@[simp] theorem Eng.wr_rmHeld (e : Eng) (a : Nat) (v : Word) : (e.wr a v).rmHeld = e.rmHeld := rfl
@[simp] theorem Eng.wr_hsHeld (e : Eng) (a : Nat) (v : Word) : (e.wr a v).hsHeld = e.hsHeld := rfl
@[simp] theorem Eng.wr_i2cPtr (e : Eng) (a : Nat) (v : Word) : (e.wr a v).i2cPtr = e.i2cPtr := rfl
@[simp] theorem Eng.wr_jtagIr (e : Eng) (a : Nat) (v : Word) : (e.wr a v).jtagIr = e.jtagIr := rfl
@[simp] theorem Eng.wr_jtagDr (e : Eng) (a : Nat) (v : Word) : (e.wr a v).jtagDr = e.jtagDr := rfl
@[simp] theorem Eng.wr_warm (e : Eng) (a : Nat) (v : Word) : (e.wr a v).warm = e.warm := rfl
@[simp] theorem Eng.wr_mcores (e : Eng) (a : Nat) (v : Word) : (e.wr a v).mcores = e.mcores := rfl
@[simp] theorem Eng.wr_log (e : Eng) (a : Nat) (v : Word) : (e.wr a v).log = e.log := rfl
@[simp] theorem Eng.wr_logHeld (e : Eng) (a : Nat) (v : Word) : (e.wr a v).logHeld = e.logHeld := rfl
@[simp] theorem Eng.wr_upd (e : Eng) (a : Nat) (v : Word) : (e.wr a v).upd = e.upd := rfl
@[simp] theorem Eng.wr_nego (e : Eng) (a : Nat) (v : Word) : (e.wr a v).nego = e.nego := rfl
@[simp] theorem Eng.wr_levelSet (e : Eng) (a : Nat) (v : Word) : (e.wr a v).levelSet = e.levelSet := rfl
@[simp] theorem Eng.wr_banks (e : Eng) (a : Nat) (v : Word) : (e.wr a v).banks = e.banks := rfl
@[simp] theorem Eng.wr_bankSwitch (e : Eng) (a : Nat) (v : Word) : (e.wr a v).bankSwitch = e.bankSwitch := rfl
@[simp] theorem Eng.wr_sens (e : Eng) (a : Nat) (v : Word) : (e.wr a v).sens = e.sens := rfl
@[simp] theorem Eng.wr_sampled (e : Eng) (a : Nat) (v : Word) : (e.wr a v).sampled = e.sampled := rfl
@[simp] theorem Eng.wr_droops (e : Eng) (a : Nat) (v : Word) : (e.wr a v).droops = e.droops := rfl
@[simp] theorem Eng.wr_activity (e : Eng) (a : Nat) (v : Word) : (e.wr a v).activity = e.activity := rfl
@[simp] theorem Eng.wr_loans (e : Eng) (a : Nat) (v : Word) : (e.wr a v).loans = e.loans := rfl
@[simp] theorem Eng.wr_rowsSpared (e : Eng) (a : Nat) (v : Word) : (e.wr a v).rowsSpared = e.rowsSpared := rfl
@[simp] theorem Eng.wr_ledgers (e : Eng) (a : Nat) (v : Word) : (e.wr a v).ledgers = e.ledgers := rfl
@[simp] theorem Eng.wr_refilled (e : Eng) (a : Nat) (v : Word) : (e.wr a v).refilled = e.refilled := rfl
@[simp] theorem Eng.wr_balStaged (e : Eng) (a : Nat) (v : Word) : (e.wr a v).balStaged = e.balStaged := rfl
@[simp] theorem Eng.wr_rqt (e : Eng) (a : Nat) (v : Word) : (e.wr a v).rqt = e.rqt := rfl
@[simp] theorem Eng.wr_gens (e : Eng) (a : Nat) (v : Word) : (e.wr a v).gens = e.gens := rfl
@[simp] theorem Eng.wr_reqs (e : Eng) (a : Nat) (v : Word) : (e.wr a v).reqs = e.reqs := rfl
@[simp] theorem Eng.wr_groups (e : Eng) (a : Nat) (v : Word) : (e.wr a v).groups = e.groups := rfl
@[simp] theorem Eng.wr_pages (e : Eng) (a : Nat) (v : Word) : (e.wr a v).pages = e.pages := rfl
@[simp] theorem Eng.wr_nodes (e : Eng) (a : Nat) (v : Word) : (e.wr a v).nodes = e.nodes := rfl
@[simp] theorem Eng.wr_lps (e : Eng) (a : Nat) (v : Word) : (e.wr a v).lps = e.lps := rfl
@[simp] theorem Eng.wr_lpPages (e : Eng) (a : Nat) (v : Word) : (e.wr a v).lpPages = e.lpPages := rfl
@[simp] theorem Eng.wr_lpCmd (e : Eng) (a : Nat) (v : Word) : (e.wr a v).lpCmd = e.lpCmd := rfl
@[simp] theorem Eng.wr_seals (e : Eng) (a : Nat) (v : Word) : (e.wr a v).seals = e.seals := rfl
@[simp] theorem Eng.wr_kdlq (e : Eng) (a : Nat) (v : Word) : (e.wr a v).kdlq = e.kdlq := rfl
@[simp] theorem Eng.wr_planeq (e : Eng) (a : Nat) (v : Word) : (e.wr a v).planeq = e.planeq := rfl
@[simp] theorem Eng.wr_planeCur (e : Eng) (a : Nat) (v : Word) : (e.wr a v).planeCur = e.planeCur := rfl
@[simp] theorem Eng.wr_planeStop (e : Eng) (a : Nat) (v : Word) : (e.wr a v).planeStop = e.planeStop := rfl
@[simp] theorem Eng.wr_tileGone (e : Eng) (a : Nat) (v : Word) : (e.wr a v).tileGone = e.tileGone := rfl
@[simp] theorem Eng.wr_abOwed (e : Eng) (a : Nat) (v : Word) : (e.wr a v).abOwed = e.abOwed := rfl
@[simp] theorem Eng.wr_trings (e : Eng) (a : Nat) (v : Word) : (e.wr a v).trings = e.trings := rfl
@[simp] theorem Eng.wr_grams (e : Eng) (a : Nat) (v : Word) : (e.wr a v).grams = e.grams := rfl
@[simp] theorem Eng.wr_gramCmd (e : Eng) (a : Nat) (v : Word) : (e.wr a v).gramCmd = e.gramCmd := rfl
@[simp] theorem Eng.wr_romWait (e : Eng) (a : Nat) (v : Word) : (e.wr a v).romWait = e.romWait := rfl
@[simp] theorem Eng.wr_bitq (e : Eng) (a : Nat) (v : Word) : (e.wr a v).bitq = e.bitq := rfl
@[simp] theorem Eng.wr_planeWait (e : Eng) (a : Nat) (v : Word) : (e.wr a v).planeWait = e.planeWait := rfl
@[simp] theorem Eng.wr_tileDown (e : Eng) (a : Nat) (v : Word) : (e.wr a v).tileDown = e.tileDown := rfl
@[simp] theorem Eng.wr_tileMap (e : Eng) (a : Nat) (v : Word) : (e.wr a v).tileMap = e.tileMap := rfl
@[simp] theorem Eng.wr_stageq (e : Eng) (a : Nat) (v : Word) : (e.wr a v).stageq = e.stageq := rfl
@[simp] theorem Eng.wr_hrowHeld (e : Eng) (a : Nat) (v : Word) : (e.wr a v).hrowHeld = e.hrowHeld := rfl
@[simp] theorem Eng.wr_hsBad (e : Eng) (a : Nat) (v : Word) : (e.wr a v).hsBad = e.hsBad := rfl
@[simp] theorem Eng.wr_budget (e : Eng) (a : Nat) (v : Word) : (e.wr a v).budget = e.budget := rfl
@[simp] theorem Eng.wr_restarted (e : Eng) (a : Nat) (v : Word) : (e.wr a v).restarted = e.restarted := rfl
@[simp] theorem Eng.wr_lend (e : Eng) (a : Nat) (v : Word) : (e.wr a v).lend = e.lend := rfl
@[simp] theorem Eng.wr_admLast (e : Eng) (a : Nat) (v : Word) : (e.wr a v).admLast = e.admLast := rfl
@[simp] theorem Eng.wr_planeRan (e : Eng) (a : Nat) (v : Word) : (e.wr a v).planeRan = e.planeRan := rfl
@[simp] theorem Eng.wr_scrubAt (e : Eng) (a : Nat) (v : Word) : (e.wr a v).scrubAt = e.scrubAt := rfl
@[simp] theorem Eng.wr_scrubErrs (e : Eng) (a : Nat) (v : Word) : (e.wr a v).scrubErrs = e.scrubErrs := rfl
@[simp] theorem Eng.wr_scrubPos (e : Eng) (a : Nat) (v : Word) : (e.wr a v).scrubPos = e.scrubPos := rfl
@[simp] theorem Eng.wr_rqtBad (e : Eng) (a : Nat) (v : Word) : (e.wr a v).rqtBad = e.rqtBad := rfl

@[simp] theorem Eng.setF_mem (e : Eng) (a hi lo n : Nat) : (e.setF a hi lo n).mem = e.mem := rfl
@[simp] theorem Eng.setF_deny (e : Eng) (a hi lo n : Nat) : (e.setF a hi lo n).deny = e.deny := rfl
@[simp] theorem Eng.setF_txns (e : Eng) (a hi lo n : Nat) : (e.setF a hi lo n).txns = e.txns := rfl
@[simp] theorem Eng.setF_out (e : Eng) (a hi lo n : Nat) : (e.setF a hi lo n).out = e.out := rfl
@[simp] theorem Eng.setF_nextId (e : Eng) (a hi lo n : Nat) : (e.setF a hi lo n).nextId = e.nextId := rfl
@[simp] theorem Eng.setF_free (e : Eng) (a hi lo n : Nat) : (e.setF a hi lo n).free = e.free := rfl
@[simp] theorem Eng.setF_resp (e : Eng) (a hi lo n : Nat) : (e.setF a hi lo n).resp = e.resp := rfl
@[simp] theorem Eng.setF_latch (e : Eng) (a hi lo n : Nat) : (e.setF a hi lo n).latch = e.latch := rfl
@[simp] theorem Eng.setF_parts (e : Eng) (a hi lo n : Nat) : (e.setF a hi lo n).parts = e.parts := rfl
@[simp] theorem Eng.setF_cells (e : Eng) (a hi lo n : Nat) : (e.setF a hi lo n).cells = e.cells := rfl
@[simp] theorem Eng.setF_travel (e : Eng) (a hi lo n : Nat) : (e.setF a hi lo n).travel = e.travel := rfl
@[simp] theorem Eng.setF_joined (e : Eng) (a hi lo n : Nat) : (e.setF a hi lo n).joined = e.joined := rfl
@[simp] theorem Eng.setF_ledJoined (e : Eng) (a hi lo n : Nat) : (e.setF a hi lo n).ledJoined = e.ledJoined := rfl
@[simp] theorem Eng.setF_sliceHold (e : Eng) (a hi lo n : Nat) : (e.setF a hi lo n).sliceHold = e.sliceHold := rfl
@[simp] theorem Eng.setF_sliceWait (e : Eng) (a hi lo n : Nat) : (e.setF a hi lo n).sliceWait = e.sliceWait := rfl
@[simp] theorem Eng.setF_coreWait (e : Eng) (a hi lo n : Nat) : (e.setF a hi lo n).coreWait = e.coreWait := rfl
@[simp] theorem Eng.setF_sliceLost (e : Eng) (a hi lo n : Nat) : (e.setF a hi lo n).sliceLost = e.sliceLost := rfl
@[simp] theorem Eng.setF_coreMap (e : Eng) (a hi lo n : Nat) : (e.setF a hi lo n).coreMap = e.coreMap := rfl
@[simp] theorem Eng.setF_sliceMap (e : Eng) (a hi lo n : Nat) : (e.setF a hi lo n).sliceMap = e.sliceMap := rfl
@[simp] theorem Eng.setF_xfers (e : Eng) (a hi lo n : Nat) : (e.setF a hi lo n).xfers = e.xfers := rfl
@[simp] theorem Eng.setF_parked (e : Eng) (a hi lo n : Nat) : (e.setF a hi lo n).parked = e.parked := rfl
@[simp] theorem Eng.setF_sigIn (e : Eng) (a hi lo n : Nat) : (e.setF a hi lo n).sigIn = e.sigIn := rfl
@[simp] theorem Eng.setF_dataIn (e : Eng) (a hi lo n : Nat) : (e.setF a hi lo n).dataIn = e.dataIn := rfl
@[simp] theorem Eng.setF_chans (e : Eng) (a hi lo n : Nat) : (e.setF a hi lo n).chans = e.chans := rfl
@[simp] theorem Eng.setF_chanMap (e : Eng) (a hi lo n : Nat) : (e.setF a hi lo n).chanMap = e.chanMap := rfl
@[simp] theorem Eng.setF_chanLost (e : Eng) (a hi lo n : Nat) : (e.setF a hi lo n).chanLost = e.chanLost := rfl
@[simp] theorem Eng.setF_rmCredit (e : Eng) (a hi lo n : Nat) : (e.setF a hi lo n).rmCredit = e.rmCredit := rfl
@[simp] theorem Eng.setF_hsCredit (e : Eng) (a hi lo n : Nat) : (e.setF a hi lo n).hsCredit = e.hsCredit := rfl
@[simp] theorem Eng.setF_rmTurn (e : Eng) (a hi lo n : Nat) : (e.setF a hi lo n).rmTurn = e.rmTurn := rfl
@[simp] theorem Eng.setF_hsTurn (e : Eng) (a hi lo n : Nat) : (e.setF a hi lo n).hsTurn = e.hsTurn := rfl
@[simp] theorem Eng.setF_rmHeld (e : Eng) (a hi lo n : Nat) : (e.setF a hi lo n).rmHeld = e.rmHeld := rfl
@[simp] theorem Eng.setF_hsHeld (e : Eng) (a hi lo n : Nat) : (e.setF a hi lo n).hsHeld = e.hsHeld := rfl
@[simp] theorem Eng.setF_i2cPtr (e : Eng) (a hi lo n : Nat) : (e.setF a hi lo n).i2cPtr = e.i2cPtr := rfl
@[simp] theorem Eng.setF_jtagIr (e : Eng) (a hi lo n : Nat) : (e.setF a hi lo n).jtagIr = e.jtagIr := rfl
@[simp] theorem Eng.setF_jtagDr (e : Eng) (a hi lo n : Nat) : (e.setF a hi lo n).jtagDr = e.jtagDr := rfl
@[simp] theorem Eng.setF_warm (e : Eng) (a hi lo n : Nat) : (e.setF a hi lo n).warm = e.warm := rfl
@[simp] theorem Eng.setF_mcores (e : Eng) (a hi lo n : Nat) : (e.setF a hi lo n).mcores = e.mcores := rfl
@[simp] theorem Eng.setF_log (e : Eng) (a hi lo n : Nat) : (e.setF a hi lo n).log = e.log := rfl
@[simp] theorem Eng.setF_logHeld (e : Eng) (a hi lo n : Nat) : (e.setF a hi lo n).logHeld = e.logHeld := rfl
@[simp] theorem Eng.setF_upd (e : Eng) (a hi lo n : Nat) : (e.setF a hi lo n).upd = e.upd := rfl
@[simp] theorem Eng.setF_nego (e : Eng) (a hi lo n : Nat) : (e.setF a hi lo n).nego = e.nego := rfl
@[simp] theorem Eng.setF_levelSet (e : Eng) (a hi lo n : Nat) : (e.setF a hi lo n).levelSet = e.levelSet := rfl
@[simp] theorem Eng.setF_banks (e : Eng) (a hi lo n : Nat) : (e.setF a hi lo n).banks = e.banks := rfl
@[simp] theorem Eng.setF_bankSwitch (e : Eng) (a hi lo n : Nat) : (e.setF a hi lo n).bankSwitch = e.bankSwitch := rfl
@[simp] theorem Eng.setF_sens (e : Eng) (a hi lo n : Nat) : (e.setF a hi lo n).sens = e.sens := rfl
@[simp] theorem Eng.setF_sampled (e : Eng) (a hi lo n : Nat) : (e.setF a hi lo n).sampled = e.sampled := rfl
@[simp] theorem Eng.setF_droops (e : Eng) (a hi lo n : Nat) : (e.setF a hi lo n).droops = e.droops := rfl
@[simp] theorem Eng.setF_activity (e : Eng) (a hi lo n : Nat) : (e.setF a hi lo n).activity = e.activity := rfl
@[simp] theorem Eng.setF_loans (e : Eng) (a hi lo n : Nat) : (e.setF a hi lo n).loans = e.loans := rfl
@[simp] theorem Eng.setF_rowsSpared (e : Eng) (a hi lo n : Nat) : (e.setF a hi lo n).rowsSpared = e.rowsSpared := rfl
@[simp] theorem Eng.setF_ledgers (e : Eng) (a hi lo n : Nat) : (e.setF a hi lo n).ledgers = e.ledgers := rfl
@[simp] theorem Eng.setF_refilled (e : Eng) (a hi lo n : Nat) : (e.setF a hi lo n).refilled = e.refilled := rfl
@[simp] theorem Eng.setF_balStaged (e : Eng) (a hi lo n : Nat) : (e.setF a hi lo n).balStaged = e.balStaged := rfl
@[simp] theorem Eng.setF_rqt (e : Eng) (a hi lo n : Nat) : (e.setF a hi lo n).rqt = e.rqt := rfl
@[simp] theorem Eng.setF_gens (e : Eng) (a hi lo n : Nat) : (e.setF a hi lo n).gens = e.gens := rfl
@[simp] theorem Eng.setF_reqs (e : Eng) (a hi lo n : Nat) : (e.setF a hi lo n).reqs = e.reqs := rfl
@[simp] theorem Eng.setF_groups (e : Eng) (a hi lo n : Nat) : (e.setF a hi lo n).groups = e.groups := rfl
@[simp] theorem Eng.setF_pages (e : Eng) (a hi lo n : Nat) : (e.setF a hi lo n).pages = e.pages := rfl
@[simp] theorem Eng.setF_nodes (e : Eng) (a hi lo n : Nat) : (e.setF a hi lo n).nodes = e.nodes := rfl
@[simp] theorem Eng.setF_lps (e : Eng) (a hi lo n : Nat) : (e.setF a hi lo n).lps = e.lps := rfl
@[simp] theorem Eng.setF_lpPages (e : Eng) (a hi lo n : Nat) : (e.setF a hi lo n).lpPages = e.lpPages := rfl
@[simp] theorem Eng.setF_lpCmd (e : Eng) (a hi lo n : Nat) : (e.setF a hi lo n).lpCmd = e.lpCmd := rfl
@[simp] theorem Eng.setF_seals (e : Eng) (a hi lo n : Nat) : (e.setF a hi lo n).seals = e.seals := rfl
@[simp] theorem Eng.setF_kdlq (e : Eng) (a hi lo n : Nat) : (e.setF a hi lo n).kdlq = e.kdlq := rfl
@[simp] theorem Eng.setF_planeq (e : Eng) (a hi lo n : Nat) : (e.setF a hi lo n).planeq = e.planeq := rfl
@[simp] theorem Eng.setF_planeCur (e : Eng) (a hi lo n : Nat) : (e.setF a hi lo n).planeCur = e.planeCur := rfl
@[simp] theorem Eng.setF_planeStop (e : Eng) (a hi lo n : Nat) : (e.setF a hi lo n).planeStop = e.planeStop := rfl
@[simp] theorem Eng.setF_tileGone (e : Eng) (a hi lo n : Nat) : (e.setF a hi lo n).tileGone = e.tileGone := rfl
@[simp] theorem Eng.setF_abOwed (e : Eng) (a hi lo n : Nat) : (e.setF a hi lo n).abOwed = e.abOwed := rfl
@[simp] theorem Eng.setF_trings (e : Eng) (a hi lo n : Nat) : (e.setF a hi lo n).trings = e.trings := rfl
@[simp] theorem Eng.setF_grams (e : Eng) (a hi lo n : Nat) : (e.setF a hi lo n).grams = e.grams := rfl
@[simp] theorem Eng.setF_gramCmd (e : Eng) (a hi lo n : Nat) : (e.setF a hi lo n).gramCmd = e.gramCmd := rfl
@[simp] theorem Eng.setF_romWait (e : Eng) (a hi lo n : Nat) : (e.setF a hi lo n).romWait = e.romWait := rfl
@[simp] theorem Eng.setF_bitq (e : Eng) (a hi lo n : Nat) : (e.setF a hi lo n).bitq = e.bitq := rfl
@[simp] theorem Eng.setF_planeWait (e : Eng) (a hi lo n : Nat) : (e.setF a hi lo n).planeWait = e.planeWait := rfl
@[simp] theorem Eng.setF_tileDown (e : Eng) (a hi lo n : Nat) : (e.setF a hi lo n).tileDown = e.tileDown := rfl
@[simp] theorem Eng.setF_tileMap (e : Eng) (a hi lo n : Nat) : (e.setF a hi lo n).tileMap = e.tileMap := rfl
@[simp] theorem Eng.setF_stageq (e : Eng) (a hi lo n : Nat) : (e.setF a hi lo n).stageq = e.stageq := rfl
@[simp] theorem Eng.setF_hrowHeld (e : Eng) (a hi lo n : Nat) : (e.setF a hi lo n).hrowHeld = e.hrowHeld := rfl
@[simp] theorem Eng.setF_hsBad (e : Eng) (a hi lo n : Nat) : (e.setF a hi lo n).hsBad = e.hsBad := rfl
@[simp] theorem Eng.setF_budget (e : Eng) (a hi lo n : Nat) : (e.setF a hi lo n).budget = e.budget := rfl
@[simp] theorem Eng.setF_restarted (e : Eng) (a hi lo n : Nat) : (e.setF a hi lo n).restarted = e.restarted := rfl
@[simp] theorem Eng.setF_lend (e : Eng) (a hi lo n : Nat) : (e.setF a hi lo n).lend = e.lend := rfl
@[simp] theorem Eng.setF_admLast (e : Eng) (a hi lo n : Nat) : (e.setF a hi lo n).admLast = e.admLast := rfl
@[simp] theorem Eng.setF_planeRan (e : Eng) (a hi lo n : Nat) : (e.setF a hi lo n).planeRan = e.planeRan := rfl
@[simp] theorem Eng.setF_scrubAt (e : Eng) (a hi lo n : Nat) : (e.setF a hi lo n).scrubAt = e.scrubAt := rfl
@[simp] theorem Eng.setF_scrubErrs (e : Eng) (a hi lo n : Nat) : (e.setF a hi lo n).scrubErrs = e.scrubErrs := rfl
@[simp] theorem Eng.setF_scrubPos (e : Eng) (a hi lo n : Nat) : (e.setF a hi lo n).scrubPos = e.scrubPos := rfl
@[simp] theorem Eng.setF_rqtBad (e : Eng) (a hi lo n : Nat) : (e.setF a hi lo n).rqtBad = e.rqtBad := rfl

@[simp] theorem Eng.ev_mem (e : Eng) (a i : Nat) : (e.ev a i).mem = e.mem := rfl
@[simp] theorem Eng.ev_deny (e : Eng) (a i : Nat) : (e.ev a i).deny = e.deny := rfl
@[simp] theorem Eng.ev_txns (e : Eng) (a i : Nat) : (e.ev a i).txns = e.txns := rfl
@[simp] theorem Eng.ev_out (e : Eng) (a i : Nat) : (e.ev a i).out = e.out := rfl
@[simp] theorem Eng.ev_nextId (e : Eng) (a i : Nat) : (e.ev a i).nextId = e.nextId := rfl
@[simp] theorem Eng.ev_free (e : Eng) (a i : Nat) : (e.ev a i).free = e.free := rfl
@[simp] theorem Eng.ev_resp (e : Eng) (a i : Nat) : (e.ev a i).resp = e.resp := rfl
@[simp] theorem Eng.ev_latch (e : Eng) (a i : Nat) : (e.ev a i).latch = e.latch := rfl
@[simp] theorem Eng.ev_parts (e : Eng) (a i : Nat) : (e.ev a i).parts = e.parts := rfl
@[simp] theorem Eng.ev_cells (e : Eng) (a i : Nat) : (e.ev a i).cells = e.cells := rfl
@[simp] theorem Eng.ev_travel (e : Eng) (a i : Nat) : (e.ev a i).travel = e.travel := rfl
@[simp] theorem Eng.ev_joined (e : Eng) (a i : Nat) : (e.ev a i).joined = e.joined := rfl
@[simp] theorem Eng.ev_ledJoined (e : Eng) (a i : Nat) : (e.ev a i).ledJoined = e.ledJoined := rfl
@[simp] theorem Eng.ev_sliceHold (e : Eng) (a i : Nat) : (e.ev a i).sliceHold = e.sliceHold := rfl
@[simp] theorem Eng.ev_sliceWait (e : Eng) (a i : Nat) : (e.ev a i).sliceWait = e.sliceWait := rfl
@[simp] theorem Eng.ev_coreWait (e : Eng) (a i : Nat) : (e.ev a i).coreWait = e.coreWait := rfl
@[simp] theorem Eng.ev_sliceLost (e : Eng) (a i : Nat) : (e.ev a i).sliceLost = e.sliceLost := rfl
@[simp] theorem Eng.ev_coreMap (e : Eng) (a i : Nat) : (e.ev a i).coreMap = e.coreMap := rfl
@[simp] theorem Eng.ev_sliceMap (e : Eng) (a i : Nat) : (e.ev a i).sliceMap = e.sliceMap := rfl
@[simp] theorem Eng.ev_xfers (e : Eng) (a i : Nat) : (e.ev a i).xfers = e.xfers := rfl
@[simp] theorem Eng.ev_parked (e : Eng) (a i : Nat) : (e.ev a i).parked = e.parked := rfl
@[simp] theorem Eng.ev_sigIn (e : Eng) (a i : Nat) : (e.ev a i).sigIn = e.sigIn := rfl
@[simp] theorem Eng.ev_dataIn (e : Eng) (a i : Nat) : (e.ev a i).dataIn = e.dataIn := rfl
@[simp] theorem Eng.ev_chans (e : Eng) (a i : Nat) : (e.ev a i).chans = e.chans := rfl
@[simp] theorem Eng.ev_chanMap (e : Eng) (a i : Nat) : (e.ev a i).chanMap = e.chanMap := rfl
@[simp] theorem Eng.ev_chanLost (e : Eng) (a i : Nat) : (e.ev a i).chanLost = e.chanLost := rfl
@[simp] theorem Eng.ev_rmCredit (e : Eng) (a i : Nat) : (e.ev a i).rmCredit = e.rmCredit := rfl
@[simp] theorem Eng.ev_hsCredit (e : Eng) (a i : Nat) : (e.ev a i).hsCredit = e.hsCredit := rfl
@[simp] theorem Eng.ev_rmTurn (e : Eng) (a i : Nat) : (e.ev a i).rmTurn = e.rmTurn := rfl
@[simp] theorem Eng.ev_hsTurn (e : Eng) (a i : Nat) : (e.ev a i).hsTurn = e.hsTurn := rfl
@[simp] theorem Eng.ev_rmHeld (e : Eng) (a i : Nat) : (e.ev a i).rmHeld = e.rmHeld := rfl
@[simp] theorem Eng.ev_hsHeld (e : Eng) (a i : Nat) : (e.ev a i).hsHeld = e.hsHeld := rfl
@[simp] theorem Eng.ev_i2cPtr (e : Eng) (a i : Nat) : (e.ev a i).i2cPtr = e.i2cPtr := rfl
@[simp] theorem Eng.ev_jtagIr (e : Eng) (a i : Nat) : (e.ev a i).jtagIr = e.jtagIr := rfl
@[simp] theorem Eng.ev_jtagDr (e : Eng) (a i : Nat) : (e.ev a i).jtagDr = e.jtagDr := rfl
@[simp] theorem Eng.ev_warm (e : Eng) (a i : Nat) : (e.ev a i).warm = e.warm := rfl
@[simp] theorem Eng.ev_mcores (e : Eng) (a i : Nat) : (e.ev a i).mcores = e.mcores := rfl
@[simp] theorem Eng.ev_log (e : Eng) (a i : Nat) : (e.ev a i).log = e.log := rfl
@[simp] theorem Eng.ev_logHeld (e : Eng) (a i : Nat) : (e.ev a i).logHeld = e.logHeld := rfl
@[simp] theorem Eng.ev_upd (e : Eng) (a i : Nat) : (e.ev a i).upd = e.upd := rfl
@[simp] theorem Eng.ev_nego (e : Eng) (a i : Nat) : (e.ev a i).nego = e.nego := rfl
@[simp] theorem Eng.ev_levelSet (e : Eng) (a i : Nat) : (e.ev a i).levelSet = e.levelSet := rfl
@[simp] theorem Eng.ev_banks (e : Eng) (a i : Nat) : (e.ev a i).banks = e.banks := rfl
@[simp] theorem Eng.ev_bankSwitch (e : Eng) (a i : Nat) : (e.ev a i).bankSwitch = e.bankSwitch := rfl
@[simp] theorem Eng.ev_sens (e : Eng) (a i : Nat) : (e.ev a i).sens = e.sens := rfl
@[simp] theorem Eng.ev_sampled (e : Eng) (a i : Nat) : (e.ev a i).sampled = e.sampled := rfl
@[simp] theorem Eng.ev_droops (e : Eng) (a i : Nat) : (e.ev a i).droops = e.droops := rfl
@[simp] theorem Eng.ev_activity (e : Eng) (a i : Nat) : (e.ev a i).activity = e.activity := rfl
@[simp] theorem Eng.ev_loans (e : Eng) (a i : Nat) : (e.ev a i).loans = e.loans := rfl
@[simp] theorem Eng.ev_rowsSpared (e : Eng) (a i : Nat) : (e.ev a i).rowsSpared = e.rowsSpared := rfl
@[simp] theorem Eng.ev_ledgers (e : Eng) (a i : Nat) : (e.ev a i).ledgers = e.ledgers := rfl
@[simp] theorem Eng.ev_refilled (e : Eng) (a i : Nat) : (e.ev a i).refilled = e.refilled := rfl
@[simp] theorem Eng.ev_balStaged (e : Eng) (a i : Nat) : (e.ev a i).balStaged = e.balStaged := rfl
@[simp] theorem Eng.ev_rqt (e : Eng) (a i : Nat) : (e.ev a i).rqt = e.rqt := rfl
@[simp] theorem Eng.ev_gens (e : Eng) (a i : Nat) : (e.ev a i).gens = e.gens := rfl
@[simp] theorem Eng.ev_reqs (e : Eng) (a i : Nat) : (e.ev a i).reqs = e.reqs := rfl
@[simp] theorem Eng.ev_groups (e : Eng) (a i : Nat) : (e.ev a i).groups = e.groups := rfl
@[simp] theorem Eng.ev_pages (e : Eng) (a i : Nat) : (e.ev a i).pages = e.pages := rfl
@[simp] theorem Eng.ev_nodes (e : Eng) (a i : Nat) : (e.ev a i).nodes = e.nodes := rfl
@[simp] theorem Eng.ev_lps (e : Eng) (a i : Nat) : (e.ev a i).lps = e.lps := rfl
@[simp] theorem Eng.ev_lpPages (e : Eng) (a i : Nat) : (e.ev a i).lpPages = e.lpPages := rfl
@[simp] theorem Eng.ev_lpCmd (e : Eng) (a i : Nat) : (e.ev a i).lpCmd = e.lpCmd := rfl
@[simp] theorem Eng.ev_seals (e : Eng) (a i : Nat) : (e.ev a i).seals = e.seals := rfl
@[simp] theorem Eng.ev_kdlq (e : Eng) (a i : Nat) : (e.ev a i).kdlq = e.kdlq := rfl
@[simp] theorem Eng.ev_planeq (e : Eng) (a i : Nat) : (e.ev a i).planeq = e.planeq := rfl
@[simp] theorem Eng.ev_planeCur (e : Eng) (a i : Nat) : (e.ev a i).planeCur = e.planeCur := rfl
@[simp] theorem Eng.ev_planeStop (e : Eng) (a i : Nat) : (e.ev a i).planeStop = e.planeStop := rfl
@[simp] theorem Eng.ev_tileGone (e : Eng) (a i : Nat) : (e.ev a i).tileGone = e.tileGone := rfl
@[simp] theorem Eng.ev_abOwed (e : Eng) (a i : Nat) : (e.ev a i).abOwed = e.abOwed := rfl
@[simp] theorem Eng.ev_trings (e : Eng) (a i : Nat) : (e.ev a i).trings = e.trings := rfl
@[simp] theorem Eng.ev_grams (e : Eng) (a i : Nat) : (e.ev a i).grams = e.grams := rfl
@[simp] theorem Eng.ev_gramCmd (e : Eng) (a i : Nat) : (e.ev a i).gramCmd = e.gramCmd := rfl
@[simp] theorem Eng.ev_romWait (e : Eng) (a i : Nat) : (e.ev a i).romWait = e.romWait := rfl
@[simp] theorem Eng.ev_bitq (e : Eng) (a i : Nat) : (e.ev a i).bitq = e.bitq := rfl
@[simp] theorem Eng.ev_planeWait (e : Eng) (a i : Nat) : (e.ev a i).planeWait = e.planeWait := rfl
@[simp] theorem Eng.ev_tileDown (e : Eng) (a i : Nat) : (e.ev a i).tileDown = e.tileDown := rfl
@[simp] theorem Eng.ev_tileMap (e : Eng) (a i : Nat) : (e.ev a i).tileMap = e.tileMap := rfl
@[simp] theorem Eng.ev_stageq (e : Eng) (a i : Nat) : (e.ev a i).stageq = e.stageq := rfl
@[simp] theorem Eng.ev_hrowHeld (e : Eng) (a i : Nat) : (e.ev a i).hrowHeld = e.hrowHeld := rfl
@[simp] theorem Eng.ev_hsBad (e : Eng) (a i : Nat) : (e.ev a i).hsBad = e.hsBad := rfl
@[simp] theorem Eng.ev_budget (e : Eng) (a i : Nat) : (e.ev a i).budget = e.budget := rfl
@[simp] theorem Eng.ev_restarted (e : Eng) (a i : Nat) : (e.ev a i).restarted = e.restarted := rfl
@[simp] theorem Eng.ev_lend (e : Eng) (a i : Nat) : (e.ev a i).lend = e.lend := rfl
@[simp] theorem Eng.ev_admLast (e : Eng) (a i : Nat) : (e.ev a i).admLast = e.admLast := rfl
@[simp] theorem Eng.ev_planeRan (e : Eng) (a i : Nat) : (e.ev a i).planeRan = e.planeRan := rfl
@[simp] theorem Eng.ev_scrubAt (e : Eng) (a i : Nat) : (e.ev a i).scrubAt = e.scrubAt := rfl
@[simp] theorem Eng.ev_scrubErrs (e : Eng) (a i : Nat) : (e.ev a i).scrubErrs = e.scrubErrs := rfl
@[simp] theorem Eng.ev_scrubPos (e : Eng) (a i : Nat) : (e.ev a i).scrubPos = e.scrubPos := rfl
@[simp] theorem Eng.ev_rqtBad (e : Eng) (a i : Nat) : (e.ev a i).rqtBad = e.rqtBad := rfl

@[simp] theorem Eng.setPair_mem (e : Eng) (lo hi v : Nat) : (e.setPair lo hi v).mem = e.mem := rfl
@[simp] theorem Eng.setPair_deny (e : Eng) (lo hi v : Nat) : (e.setPair lo hi v).deny = e.deny := rfl
@[simp] theorem Eng.setPair_txns (e : Eng) (lo hi v : Nat) : (e.setPair lo hi v).txns = e.txns := rfl
@[simp] theorem Eng.setPair_out (e : Eng) (lo hi v : Nat) : (e.setPair lo hi v).out = e.out := rfl
@[simp] theorem Eng.setPair_nextId (e : Eng) (lo hi v : Nat) : (e.setPair lo hi v).nextId = e.nextId := rfl
@[simp] theorem Eng.setPair_free (e : Eng) (lo hi v : Nat) : (e.setPair lo hi v).free = e.free := rfl
@[simp] theorem Eng.setPair_resp (e : Eng) (lo hi v : Nat) : (e.setPair lo hi v).resp = e.resp := rfl
@[simp] theorem Eng.setPair_latch (e : Eng) (lo hi v : Nat) : (e.setPair lo hi v).latch = e.latch := rfl
@[simp] theorem Eng.setPair_parts (e : Eng) (lo hi v : Nat) : (e.setPair lo hi v).parts = e.parts := rfl
@[simp] theorem Eng.setPair_cells (e : Eng) (lo hi v : Nat) : (e.setPair lo hi v).cells = e.cells := rfl
@[simp] theorem Eng.setPair_travel (e : Eng) (lo hi v : Nat) : (e.setPair lo hi v).travel = e.travel := rfl
@[simp] theorem Eng.setPair_joined (e : Eng) (lo hi v : Nat) : (e.setPair lo hi v).joined = e.joined := rfl
@[simp] theorem Eng.setPair_ledJoined (e : Eng) (lo hi v : Nat) : (e.setPair lo hi v).ledJoined = e.ledJoined := rfl
@[simp] theorem Eng.setPair_sliceHold (e : Eng) (lo hi v : Nat) : (e.setPair lo hi v).sliceHold = e.sliceHold := rfl
@[simp] theorem Eng.setPair_sliceWait (e : Eng) (lo hi v : Nat) : (e.setPair lo hi v).sliceWait = e.sliceWait := rfl
@[simp] theorem Eng.setPair_coreWait (e : Eng) (lo hi v : Nat) : (e.setPair lo hi v).coreWait = e.coreWait := rfl
@[simp] theorem Eng.setPair_sliceLost (e : Eng) (lo hi v : Nat) : (e.setPair lo hi v).sliceLost = e.sliceLost := rfl
@[simp] theorem Eng.setPair_coreMap (e : Eng) (lo hi v : Nat) : (e.setPair lo hi v).coreMap = e.coreMap := rfl
@[simp] theorem Eng.setPair_sliceMap (e : Eng) (lo hi v : Nat) : (e.setPair lo hi v).sliceMap = e.sliceMap := rfl
@[simp] theorem Eng.setPair_xfers (e : Eng) (lo hi v : Nat) : (e.setPair lo hi v).xfers = e.xfers := rfl
@[simp] theorem Eng.setPair_parked (e : Eng) (lo hi v : Nat) : (e.setPair lo hi v).parked = e.parked := rfl
@[simp] theorem Eng.setPair_sigIn (e : Eng) (lo hi v : Nat) : (e.setPair lo hi v).sigIn = e.sigIn := rfl
@[simp] theorem Eng.setPair_dataIn (e : Eng) (lo hi v : Nat) : (e.setPair lo hi v).dataIn = e.dataIn := rfl
@[simp] theorem Eng.setPair_chans (e : Eng) (lo hi v : Nat) : (e.setPair lo hi v).chans = e.chans := rfl
@[simp] theorem Eng.setPair_chanMap (e : Eng) (lo hi v : Nat) : (e.setPair lo hi v).chanMap = e.chanMap := rfl
@[simp] theorem Eng.setPair_chanLost (e : Eng) (lo hi v : Nat) : (e.setPair lo hi v).chanLost = e.chanLost := rfl
@[simp] theorem Eng.setPair_rmCredit (e : Eng) (lo hi v : Nat) : (e.setPair lo hi v).rmCredit = e.rmCredit := rfl
@[simp] theorem Eng.setPair_hsCredit (e : Eng) (lo hi v : Nat) : (e.setPair lo hi v).hsCredit = e.hsCredit := rfl
@[simp] theorem Eng.setPair_rmTurn (e : Eng) (lo hi v : Nat) : (e.setPair lo hi v).rmTurn = e.rmTurn := rfl
@[simp] theorem Eng.setPair_hsTurn (e : Eng) (lo hi v : Nat) : (e.setPair lo hi v).hsTurn = e.hsTurn := rfl
@[simp] theorem Eng.setPair_rmHeld (e : Eng) (lo hi v : Nat) : (e.setPair lo hi v).rmHeld = e.rmHeld := rfl
@[simp] theorem Eng.setPair_hsHeld (e : Eng) (lo hi v : Nat) : (e.setPair lo hi v).hsHeld = e.hsHeld := rfl
@[simp] theorem Eng.setPair_i2cPtr (e : Eng) (lo hi v : Nat) : (e.setPair lo hi v).i2cPtr = e.i2cPtr := rfl
@[simp] theorem Eng.setPair_jtagIr (e : Eng) (lo hi v : Nat) : (e.setPair lo hi v).jtagIr = e.jtagIr := rfl
@[simp] theorem Eng.setPair_jtagDr (e : Eng) (lo hi v : Nat) : (e.setPair lo hi v).jtagDr = e.jtagDr := rfl
@[simp] theorem Eng.setPair_warm (e : Eng) (lo hi v : Nat) : (e.setPair lo hi v).warm = e.warm := rfl
@[simp] theorem Eng.setPair_mcores (e : Eng) (lo hi v : Nat) : (e.setPair lo hi v).mcores = e.mcores := rfl
@[simp] theorem Eng.setPair_log (e : Eng) (lo hi v : Nat) : (e.setPair lo hi v).log = e.log := rfl
@[simp] theorem Eng.setPair_logHeld (e : Eng) (lo hi v : Nat) : (e.setPair lo hi v).logHeld = e.logHeld := rfl
@[simp] theorem Eng.setPair_upd (e : Eng) (lo hi v : Nat) : (e.setPair lo hi v).upd = e.upd := rfl
@[simp] theorem Eng.setPair_nego (e : Eng) (lo hi v : Nat) : (e.setPair lo hi v).nego = e.nego := rfl
@[simp] theorem Eng.setPair_levelSet (e : Eng) (lo hi v : Nat) : (e.setPair lo hi v).levelSet = e.levelSet := rfl
@[simp] theorem Eng.setPair_banks (e : Eng) (lo hi v : Nat) : (e.setPair lo hi v).banks = e.banks := rfl
@[simp] theorem Eng.setPair_bankSwitch (e : Eng) (lo hi v : Nat) : (e.setPair lo hi v).bankSwitch = e.bankSwitch := rfl
@[simp] theorem Eng.setPair_sens (e : Eng) (lo hi v : Nat) : (e.setPair lo hi v).sens = e.sens := rfl
@[simp] theorem Eng.setPair_sampled (e : Eng) (lo hi v : Nat) : (e.setPair lo hi v).sampled = e.sampled := rfl
@[simp] theorem Eng.setPair_droops (e : Eng) (lo hi v : Nat) : (e.setPair lo hi v).droops = e.droops := rfl
@[simp] theorem Eng.setPair_activity (e : Eng) (lo hi v : Nat) : (e.setPair lo hi v).activity = e.activity := rfl
@[simp] theorem Eng.setPair_loans (e : Eng) (lo hi v : Nat) : (e.setPair lo hi v).loans = e.loans := rfl
@[simp] theorem Eng.setPair_rowsSpared (e : Eng) (lo hi v : Nat) : (e.setPair lo hi v).rowsSpared = e.rowsSpared := rfl
@[simp] theorem Eng.setPair_ledgers (e : Eng) (lo hi v : Nat) : (e.setPair lo hi v).ledgers = e.ledgers := rfl
@[simp] theorem Eng.setPair_refilled (e : Eng) (lo hi v : Nat) : (e.setPair lo hi v).refilled = e.refilled := rfl
@[simp] theorem Eng.setPair_balStaged (e : Eng) (lo hi v : Nat) : (e.setPair lo hi v).balStaged = e.balStaged := rfl
@[simp] theorem Eng.setPair_rqt (e : Eng) (lo hi v : Nat) : (e.setPair lo hi v).rqt = e.rqt := rfl
@[simp] theorem Eng.setPair_gens (e : Eng) (lo hi v : Nat) : (e.setPair lo hi v).gens = e.gens := rfl
@[simp] theorem Eng.setPair_reqs (e : Eng) (lo hi v : Nat) : (e.setPair lo hi v).reqs = e.reqs := rfl
@[simp] theorem Eng.setPair_groups (e : Eng) (lo hi v : Nat) : (e.setPair lo hi v).groups = e.groups := rfl
@[simp] theorem Eng.setPair_pages (e : Eng) (lo hi v : Nat) : (e.setPair lo hi v).pages = e.pages := rfl
@[simp] theorem Eng.setPair_nodes (e : Eng) (lo hi v : Nat) : (e.setPair lo hi v).nodes = e.nodes := rfl
@[simp] theorem Eng.setPair_lps (e : Eng) (lo hi v : Nat) : (e.setPair lo hi v).lps = e.lps := rfl
@[simp] theorem Eng.setPair_lpPages (e : Eng) (lo hi v : Nat) : (e.setPair lo hi v).lpPages = e.lpPages := rfl
@[simp] theorem Eng.setPair_lpCmd (e : Eng) (lo hi v : Nat) : (e.setPair lo hi v).lpCmd = e.lpCmd := rfl
@[simp] theorem Eng.setPair_seals (e : Eng) (lo hi v : Nat) : (e.setPair lo hi v).seals = e.seals := rfl
@[simp] theorem Eng.setPair_kdlq (e : Eng) (lo hi v : Nat) : (e.setPair lo hi v).kdlq = e.kdlq := rfl
@[simp] theorem Eng.setPair_planeq (e : Eng) (lo hi v : Nat) : (e.setPair lo hi v).planeq = e.planeq := rfl
@[simp] theorem Eng.setPair_planeCur (e : Eng) (lo hi v : Nat) : (e.setPair lo hi v).planeCur = e.planeCur := rfl
@[simp] theorem Eng.setPair_planeStop (e : Eng) (lo hi v : Nat) : (e.setPair lo hi v).planeStop = e.planeStop := rfl
@[simp] theorem Eng.setPair_tileGone (e : Eng) (lo hi v : Nat) : (e.setPair lo hi v).tileGone = e.tileGone := rfl
@[simp] theorem Eng.setPair_abOwed (e : Eng) (lo hi v : Nat) : (e.setPair lo hi v).abOwed = e.abOwed := rfl
@[simp] theorem Eng.setPair_trings (e : Eng) (lo hi v : Nat) : (e.setPair lo hi v).trings = e.trings := rfl
@[simp] theorem Eng.setPair_grams (e : Eng) (lo hi v : Nat) : (e.setPair lo hi v).grams = e.grams := rfl
@[simp] theorem Eng.setPair_gramCmd (e : Eng) (lo hi v : Nat) : (e.setPair lo hi v).gramCmd = e.gramCmd := rfl
@[simp] theorem Eng.setPair_romWait (e : Eng) (lo hi v : Nat) : (e.setPair lo hi v).romWait = e.romWait := rfl
@[simp] theorem Eng.setPair_bitq (e : Eng) (lo hi v : Nat) : (e.setPair lo hi v).bitq = e.bitq := rfl
@[simp] theorem Eng.setPair_planeWait (e : Eng) (lo hi v : Nat) : (e.setPair lo hi v).planeWait = e.planeWait := rfl
@[simp] theorem Eng.setPair_tileDown (e : Eng) (lo hi v : Nat) : (e.setPair lo hi v).tileDown = e.tileDown := rfl
@[simp] theorem Eng.setPair_tileMap (e : Eng) (lo hi v : Nat) : (e.setPair lo hi v).tileMap = e.tileMap := rfl
@[simp] theorem Eng.setPair_stageq (e : Eng) (lo hi v : Nat) : (e.setPair lo hi v).stageq = e.stageq := rfl
@[simp] theorem Eng.setPair_hrowHeld (e : Eng) (lo hi v : Nat) : (e.setPair lo hi v).hrowHeld = e.hrowHeld := rfl
@[simp] theorem Eng.setPair_hsBad (e : Eng) (lo hi v : Nat) : (e.setPair lo hi v).hsBad = e.hsBad := rfl
@[simp] theorem Eng.setPair_budget (e : Eng) (lo hi v : Nat) : (e.setPair lo hi v).budget = e.budget := rfl
@[simp] theorem Eng.setPair_restarted (e : Eng) (lo hi v : Nat) : (e.setPair lo hi v).restarted = e.restarted := rfl
@[simp] theorem Eng.setPair_lend (e : Eng) (lo hi v : Nat) : (e.setPair lo hi v).lend = e.lend := rfl
@[simp] theorem Eng.setPair_admLast (e : Eng) (lo hi v : Nat) : (e.setPair lo hi v).admLast = e.admLast := rfl
@[simp] theorem Eng.setPair_planeRan (e : Eng) (lo hi v : Nat) : (e.setPair lo hi v).planeRan = e.planeRan := rfl
@[simp] theorem Eng.setPair_scrubAt (e : Eng) (lo hi v : Nat) : (e.setPair lo hi v).scrubAt = e.scrubAt := rfl
@[simp] theorem Eng.setPair_scrubErrs (e : Eng) (lo hi v : Nat) : (e.setPair lo hi v).scrubErrs = e.scrubErrs := rfl
@[simp] theorem Eng.setPair_scrubPos (e : Eng) (lo hi v : Nat) : (e.setPair lo hi v).scrubPos = e.scrubPos := rfl
@[simp] theorem Eng.setPair_rqtBad (e : Eng) (lo hi v : Nat) : (e.setPair lo hi v).rqtBad = e.rqtBad := rfl

@[simp] theorem Eng.bump_mem (e : Eng) (a hi lo n : Nat) : (e.bump a hi lo n).mem = e.mem := rfl
@[simp] theorem Eng.bump_deny (e : Eng) (a hi lo n : Nat) : (e.bump a hi lo n).deny = e.deny := rfl
@[simp] theorem Eng.bump_txns (e : Eng) (a hi lo n : Nat) : (e.bump a hi lo n).txns = e.txns := rfl
@[simp] theorem Eng.bump_out (e : Eng) (a hi lo n : Nat) : (e.bump a hi lo n).out = e.out := rfl
@[simp] theorem Eng.bump_nextId (e : Eng) (a hi lo n : Nat) : (e.bump a hi lo n).nextId = e.nextId := rfl
@[simp] theorem Eng.bump_free (e : Eng) (a hi lo n : Nat) : (e.bump a hi lo n).free = e.free := rfl
@[simp] theorem Eng.bump_resp (e : Eng) (a hi lo n : Nat) : (e.bump a hi lo n).resp = e.resp := rfl
@[simp] theorem Eng.bump_latch (e : Eng) (a hi lo n : Nat) : (e.bump a hi lo n).latch = e.latch := rfl
@[simp] theorem Eng.bump_parts (e : Eng) (a hi lo n : Nat) : (e.bump a hi lo n).parts = e.parts := rfl
@[simp] theorem Eng.bump_cells (e : Eng) (a hi lo n : Nat) : (e.bump a hi lo n).cells = e.cells := rfl
@[simp] theorem Eng.bump_travel (e : Eng) (a hi lo n : Nat) : (e.bump a hi lo n).travel = e.travel := rfl
@[simp] theorem Eng.bump_joined (e : Eng) (a hi lo n : Nat) : (e.bump a hi lo n).joined = e.joined := rfl
@[simp] theorem Eng.bump_ledJoined (e : Eng) (a hi lo n : Nat) : (e.bump a hi lo n).ledJoined = e.ledJoined := rfl
@[simp] theorem Eng.bump_sliceHold (e : Eng) (a hi lo n : Nat) : (e.bump a hi lo n).sliceHold = e.sliceHold := rfl
@[simp] theorem Eng.bump_sliceWait (e : Eng) (a hi lo n : Nat) : (e.bump a hi lo n).sliceWait = e.sliceWait := rfl
@[simp] theorem Eng.bump_coreWait (e : Eng) (a hi lo n : Nat) : (e.bump a hi lo n).coreWait = e.coreWait := rfl
@[simp] theorem Eng.bump_sliceLost (e : Eng) (a hi lo n : Nat) : (e.bump a hi lo n).sliceLost = e.sliceLost := rfl
@[simp] theorem Eng.bump_coreMap (e : Eng) (a hi lo n : Nat) : (e.bump a hi lo n).coreMap = e.coreMap := rfl
@[simp] theorem Eng.bump_sliceMap (e : Eng) (a hi lo n : Nat) : (e.bump a hi lo n).sliceMap = e.sliceMap := rfl
@[simp] theorem Eng.bump_xfers (e : Eng) (a hi lo n : Nat) : (e.bump a hi lo n).xfers = e.xfers := rfl
@[simp] theorem Eng.bump_parked (e : Eng) (a hi lo n : Nat) : (e.bump a hi lo n).parked = e.parked := rfl
@[simp] theorem Eng.bump_sigIn (e : Eng) (a hi lo n : Nat) : (e.bump a hi lo n).sigIn = e.sigIn := rfl
@[simp] theorem Eng.bump_dataIn (e : Eng) (a hi lo n : Nat) : (e.bump a hi lo n).dataIn = e.dataIn := rfl
@[simp] theorem Eng.bump_chans (e : Eng) (a hi lo n : Nat) : (e.bump a hi lo n).chans = e.chans := rfl
@[simp] theorem Eng.bump_chanMap (e : Eng) (a hi lo n : Nat) : (e.bump a hi lo n).chanMap = e.chanMap := rfl
@[simp] theorem Eng.bump_chanLost (e : Eng) (a hi lo n : Nat) : (e.bump a hi lo n).chanLost = e.chanLost := rfl
@[simp] theorem Eng.bump_rmCredit (e : Eng) (a hi lo n : Nat) : (e.bump a hi lo n).rmCredit = e.rmCredit := rfl
@[simp] theorem Eng.bump_hsCredit (e : Eng) (a hi lo n : Nat) : (e.bump a hi lo n).hsCredit = e.hsCredit := rfl
@[simp] theorem Eng.bump_rmTurn (e : Eng) (a hi lo n : Nat) : (e.bump a hi lo n).rmTurn = e.rmTurn := rfl
@[simp] theorem Eng.bump_hsTurn (e : Eng) (a hi lo n : Nat) : (e.bump a hi lo n).hsTurn = e.hsTurn := rfl
@[simp] theorem Eng.bump_rmHeld (e : Eng) (a hi lo n : Nat) : (e.bump a hi lo n).rmHeld = e.rmHeld := rfl
@[simp] theorem Eng.bump_hsHeld (e : Eng) (a hi lo n : Nat) : (e.bump a hi lo n).hsHeld = e.hsHeld := rfl
@[simp] theorem Eng.bump_i2cPtr (e : Eng) (a hi lo n : Nat) : (e.bump a hi lo n).i2cPtr = e.i2cPtr := rfl
@[simp] theorem Eng.bump_jtagIr (e : Eng) (a hi lo n : Nat) : (e.bump a hi lo n).jtagIr = e.jtagIr := rfl
@[simp] theorem Eng.bump_jtagDr (e : Eng) (a hi lo n : Nat) : (e.bump a hi lo n).jtagDr = e.jtagDr := rfl
@[simp] theorem Eng.bump_warm (e : Eng) (a hi lo n : Nat) : (e.bump a hi lo n).warm = e.warm := rfl
@[simp] theorem Eng.bump_mcores (e : Eng) (a hi lo n : Nat) : (e.bump a hi lo n).mcores = e.mcores := rfl
@[simp] theorem Eng.bump_log (e : Eng) (a hi lo n : Nat) : (e.bump a hi lo n).log = e.log := rfl
@[simp] theorem Eng.bump_logHeld (e : Eng) (a hi lo n : Nat) : (e.bump a hi lo n).logHeld = e.logHeld := rfl
@[simp] theorem Eng.bump_upd (e : Eng) (a hi lo n : Nat) : (e.bump a hi lo n).upd = e.upd := rfl
@[simp] theorem Eng.bump_nego (e : Eng) (a hi lo n : Nat) : (e.bump a hi lo n).nego = e.nego := rfl
@[simp] theorem Eng.bump_levelSet (e : Eng) (a hi lo n : Nat) : (e.bump a hi lo n).levelSet = e.levelSet := rfl
@[simp] theorem Eng.bump_banks (e : Eng) (a hi lo n : Nat) : (e.bump a hi lo n).banks = e.banks := rfl
@[simp] theorem Eng.bump_bankSwitch (e : Eng) (a hi lo n : Nat) : (e.bump a hi lo n).bankSwitch = e.bankSwitch := rfl
@[simp] theorem Eng.bump_sens (e : Eng) (a hi lo n : Nat) : (e.bump a hi lo n).sens = e.sens := rfl
@[simp] theorem Eng.bump_sampled (e : Eng) (a hi lo n : Nat) : (e.bump a hi lo n).sampled = e.sampled := rfl
@[simp] theorem Eng.bump_droops (e : Eng) (a hi lo n : Nat) : (e.bump a hi lo n).droops = e.droops := rfl
@[simp] theorem Eng.bump_activity (e : Eng) (a hi lo n : Nat) : (e.bump a hi lo n).activity = e.activity := rfl
@[simp] theorem Eng.bump_loans (e : Eng) (a hi lo n : Nat) : (e.bump a hi lo n).loans = e.loans := rfl
@[simp] theorem Eng.bump_rowsSpared (e : Eng) (a hi lo n : Nat) : (e.bump a hi lo n).rowsSpared = e.rowsSpared := rfl
@[simp] theorem Eng.bump_ledgers (e : Eng) (a hi lo n : Nat) : (e.bump a hi lo n).ledgers = e.ledgers := rfl
@[simp] theorem Eng.bump_refilled (e : Eng) (a hi lo n : Nat) : (e.bump a hi lo n).refilled = e.refilled := rfl
@[simp] theorem Eng.bump_balStaged (e : Eng) (a hi lo n : Nat) : (e.bump a hi lo n).balStaged = e.balStaged := rfl
@[simp] theorem Eng.bump_rqt (e : Eng) (a hi lo n : Nat) : (e.bump a hi lo n).rqt = e.rqt := rfl
@[simp] theorem Eng.bump_gens (e : Eng) (a hi lo n : Nat) : (e.bump a hi lo n).gens = e.gens := rfl
@[simp] theorem Eng.bump_reqs (e : Eng) (a hi lo n : Nat) : (e.bump a hi lo n).reqs = e.reqs := rfl
@[simp] theorem Eng.bump_groups (e : Eng) (a hi lo n : Nat) : (e.bump a hi lo n).groups = e.groups := rfl
@[simp] theorem Eng.bump_pages (e : Eng) (a hi lo n : Nat) : (e.bump a hi lo n).pages = e.pages := rfl
@[simp] theorem Eng.bump_nodes (e : Eng) (a hi lo n : Nat) : (e.bump a hi lo n).nodes = e.nodes := rfl
@[simp] theorem Eng.bump_lps (e : Eng) (a hi lo n : Nat) : (e.bump a hi lo n).lps = e.lps := rfl
@[simp] theorem Eng.bump_lpPages (e : Eng) (a hi lo n : Nat) : (e.bump a hi lo n).lpPages = e.lpPages := rfl
@[simp] theorem Eng.bump_lpCmd (e : Eng) (a hi lo n : Nat) : (e.bump a hi lo n).lpCmd = e.lpCmd := rfl
@[simp] theorem Eng.bump_seals (e : Eng) (a hi lo n : Nat) : (e.bump a hi lo n).seals = e.seals := rfl
@[simp] theorem Eng.bump_kdlq (e : Eng) (a hi lo n : Nat) : (e.bump a hi lo n).kdlq = e.kdlq := rfl
@[simp] theorem Eng.bump_planeq (e : Eng) (a hi lo n : Nat) : (e.bump a hi lo n).planeq = e.planeq := rfl
@[simp] theorem Eng.bump_planeCur (e : Eng) (a hi lo n : Nat) : (e.bump a hi lo n).planeCur = e.planeCur := rfl
@[simp] theorem Eng.bump_planeStop (e : Eng) (a hi lo n : Nat) : (e.bump a hi lo n).planeStop = e.planeStop := rfl
@[simp] theorem Eng.bump_tileGone (e : Eng) (a hi lo n : Nat) : (e.bump a hi lo n).tileGone = e.tileGone := rfl
@[simp] theorem Eng.bump_abOwed (e : Eng) (a hi lo n : Nat) : (e.bump a hi lo n).abOwed = e.abOwed := rfl
@[simp] theorem Eng.bump_trings (e : Eng) (a hi lo n : Nat) : (e.bump a hi lo n).trings = e.trings := rfl
@[simp] theorem Eng.bump_grams (e : Eng) (a hi lo n : Nat) : (e.bump a hi lo n).grams = e.grams := rfl
@[simp] theorem Eng.bump_gramCmd (e : Eng) (a hi lo n : Nat) : (e.bump a hi lo n).gramCmd = e.gramCmd := rfl
@[simp] theorem Eng.bump_romWait (e : Eng) (a hi lo n : Nat) : (e.bump a hi lo n).romWait = e.romWait := rfl
@[simp] theorem Eng.bump_bitq (e : Eng) (a hi lo n : Nat) : (e.bump a hi lo n).bitq = e.bitq := rfl
@[simp] theorem Eng.bump_planeWait (e : Eng) (a hi lo n : Nat) : (e.bump a hi lo n).planeWait = e.planeWait := rfl
@[simp] theorem Eng.bump_tileDown (e : Eng) (a hi lo n : Nat) : (e.bump a hi lo n).tileDown = e.tileDown := rfl
@[simp] theorem Eng.bump_tileMap (e : Eng) (a hi lo n : Nat) : (e.bump a hi lo n).tileMap = e.tileMap := rfl
@[simp] theorem Eng.bump_stageq (e : Eng) (a hi lo n : Nat) : (e.bump a hi lo n).stageq = e.stageq := rfl
@[simp] theorem Eng.bump_hrowHeld (e : Eng) (a hi lo n : Nat) : (e.bump a hi lo n).hrowHeld = e.hrowHeld := rfl
@[simp] theorem Eng.bump_hsBad (e : Eng) (a hi lo n : Nat) : (e.bump a hi lo n).hsBad = e.hsBad := rfl
@[simp] theorem Eng.bump_budget (e : Eng) (a hi lo n : Nat) : (e.bump a hi lo n).budget = e.budget := rfl
@[simp] theorem Eng.bump_restarted (e : Eng) (a hi lo n : Nat) : (e.bump a hi lo n).restarted = e.restarted := rfl
@[simp] theorem Eng.bump_lend (e : Eng) (a hi lo n : Nat) : (e.bump a hi lo n).lend = e.lend := rfl
@[simp] theorem Eng.bump_admLast (e : Eng) (a hi lo n : Nat) : (e.bump a hi lo n).admLast = e.admLast := rfl
@[simp] theorem Eng.bump_planeRan (e : Eng) (a hi lo n : Nat) : (e.bump a hi lo n).planeRan = e.planeRan := rfl
@[simp] theorem Eng.bump_scrubAt (e : Eng) (a hi lo n : Nat) : (e.bump a hi lo n).scrubAt = e.scrubAt := rfl
@[simp] theorem Eng.bump_scrubErrs (e : Eng) (a hi lo n : Nat) : (e.bump a hi lo n).scrubErrs = e.scrubErrs := rfl
@[simp] theorem Eng.bump_scrubPos (e : Eng) (a hi lo n : Nat) : (e.bump a hi lo n).scrubPos = e.scrubPos := rfl
@[simp] theorem Eng.bump_rqtBad (e : Eng) (a hi lo n : Nat) : (e.bump a hi lo n).rqtBad = e.rqtBad := rfl

@[simp] theorem Eng.bumpWrap_mem (e : Eng) (a hi lo n : Nat) : (e.bumpWrap a hi lo n).mem = e.mem := rfl
@[simp] theorem Eng.bumpWrap_deny (e : Eng) (a hi lo n : Nat) : (e.bumpWrap a hi lo n).deny = e.deny := rfl
@[simp] theorem Eng.bumpWrap_txns (e : Eng) (a hi lo n : Nat) : (e.bumpWrap a hi lo n).txns = e.txns := rfl
@[simp] theorem Eng.bumpWrap_out (e : Eng) (a hi lo n : Nat) : (e.bumpWrap a hi lo n).out = e.out := rfl
@[simp] theorem Eng.bumpWrap_nextId (e : Eng) (a hi lo n : Nat) : (e.bumpWrap a hi lo n).nextId = e.nextId := rfl
@[simp] theorem Eng.bumpWrap_free (e : Eng) (a hi lo n : Nat) : (e.bumpWrap a hi lo n).free = e.free := rfl
@[simp] theorem Eng.bumpWrap_resp (e : Eng) (a hi lo n : Nat) : (e.bumpWrap a hi lo n).resp = e.resp := rfl
@[simp] theorem Eng.bumpWrap_latch (e : Eng) (a hi lo n : Nat) : (e.bumpWrap a hi lo n).latch = e.latch := rfl
@[simp] theorem Eng.bumpWrap_parts (e : Eng) (a hi lo n : Nat) : (e.bumpWrap a hi lo n).parts = e.parts := rfl
@[simp] theorem Eng.bumpWrap_cells (e : Eng) (a hi lo n : Nat) : (e.bumpWrap a hi lo n).cells = e.cells := rfl
@[simp] theorem Eng.bumpWrap_travel (e : Eng) (a hi lo n : Nat) : (e.bumpWrap a hi lo n).travel = e.travel := rfl
@[simp] theorem Eng.bumpWrap_joined (e : Eng) (a hi lo n : Nat) : (e.bumpWrap a hi lo n).joined = e.joined := rfl
@[simp] theorem Eng.bumpWrap_ledJoined (e : Eng) (a hi lo n : Nat) : (e.bumpWrap a hi lo n).ledJoined = e.ledJoined := rfl
@[simp] theorem Eng.bumpWrap_sliceHold (e : Eng) (a hi lo n : Nat) : (e.bumpWrap a hi lo n).sliceHold = e.sliceHold := rfl
@[simp] theorem Eng.bumpWrap_sliceWait (e : Eng) (a hi lo n : Nat) : (e.bumpWrap a hi lo n).sliceWait = e.sliceWait := rfl
@[simp] theorem Eng.bumpWrap_coreWait (e : Eng) (a hi lo n : Nat) : (e.bumpWrap a hi lo n).coreWait = e.coreWait := rfl
@[simp] theorem Eng.bumpWrap_sliceLost (e : Eng) (a hi lo n : Nat) : (e.bumpWrap a hi lo n).sliceLost = e.sliceLost := rfl
@[simp] theorem Eng.bumpWrap_coreMap (e : Eng) (a hi lo n : Nat) : (e.bumpWrap a hi lo n).coreMap = e.coreMap := rfl
@[simp] theorem Eng.bumpWrap_sliceMap (e : Eng) (a hi lo n : Nat) : (e.bumpWrap a hi lo n).sliceMap = e.sliceMap := rfl
@[simp] theorem Eng.bumpWrap_xfers (e : Eng) (a hi lo n : Nat) : (e.bumpWrap a hi lo n).xfers = e.xfers := rfl
@[simp] theorem Eng.bumpWrap_parked (e : Eng) (a hi lo n : Nat) : (e.bumpWrap a hi lo n).parked = e.parked := rfl
@[simp] theorem Eng.bumpWrap_sigIn (e : Eng) (a hi lo n : Nat) : (e.bumpWrap a hi lo n).sigIn = e.sigIn := rfl
@[simp] theorem Eng.bumpWrap_dataIn (e : Eng) (a hi lo n : Nat) : (e.bumpWrap a hi lo n).dataIn = e.dataIn := rfl
@[simp] theorem Eng.bumpWrap_chans (e : Eng) (a hi lo n : Nat) : (e.bumpWrap a hi lo n).chans = e.chans := rfl
@[simp] theorem Eng.bumpWrap_chanMap (e : Eng) (a hi lo n : Nat) : (e.bumpWrap a hi lo n).chanMap = e.chanMap := rfl
@[simp] theorem Eng.bumpWrap_chanLost (e : Eng) (a hi lo n : Nat) : (e.bumpWrap a hi lo n).chanLost = e.chanLost := rfl
@[simp] theorem Eng.bumpWrap_rmCredit (e : Eng) (a hi lo n : Nat) : (e.bumpWrap a hi lo n).rmCredit = e.rmCredit := rfl
@[simp] theorem Eng.bumpWrap_hsCredit (e : Eng) (a hi lo n : Nat) : (e.bumpWrap a hi lo n).hsCredit = e.hsCredit := rfl
@[simp] theorem Eng.bumpWrap_rmTurn (e : Eng) (a hi lo n : Nat) : (e.bumpWrap a hi lo n).rmTurn = e.rmTurn := rfl
@[simp] theorem Eng.bumpWrap_hsTurn (e : Eng) (a hi lo n : Nat) : (e.bumpWrap a hi lo n).hsTurn = e.hsTurn := rfl
@[simp] theorem Eng.bumpWrap_rmHeld (e : Eng) (a hi lo n : Nat) : (e.bumpWrap a hi lo n).rmHeld = e.rmHeld := rfl
@[simp] theorem Eng.bumpWrap_hsHeld (e : Eng) (a hi lo n : Nat) : (e.bumpWrap a hi lo n).hsHeld = e.hsHeld := rfl
@[simp] theorem Eng.bumpWrap_i2cPtr (e : Eng) (a hi lo n : Nat) : (e.bumpWrap a hi lo n).i2cPtr = e.i2cPtr := rfl
@[simp] theorem Eng.bumpWrap_jtagIr (e : Eng) (a hi lo n : Nat) : (e.bumpWrap a hi lo n).jtagIr = e.jtagIr := rfl
@[simp] theorem Eng.bumpWrap_jtagDr (e : Eng) (a hi lo n : Nat) : (e.bumpWrap a hi lo n).jtagDr = e.jtagDr := rfl
@[simp] theorem Eng.bumpWrap_warm (e : Eng) (a hi lo n : Nat) : (e.bumpWrap a hi lo n).warm = e.warm := rfl
@[simp] theorem Eng.bumpWrap_mcores (e : Eng) (a hi lo n : Nat) : (e.bumpWrap a hi lo n).mcores = e.mcores := rfl
@[simp] theorem Eng.bumpWrap_log (e : Eng) (a hi lo n : Nat) : (e.bumpWrap a hi lo n).log = e.log := rfl
@[simp] theorem Eng.bumpWrap_logHeld (e : Eng) (a hi lo n : Nat) : (e.bumpWrap a hi lo n).logHeld = e.logHeld := rfl
@[simp] theorem Eng.bumpWrap_upd (e : Eng) (a hi lo n : Nat) : (e.bumpWrap a hi lo n).upd = e.upd := rfl
@[simp] theorem Eng.bumpWrap_nego (e : Eng) (a hi lo n : Nat) : (e.bumpWrap a hi lo n).nego = e.nego := rfl
@[simp] theorem Eng.bumpWrap_levelSet (e : Eng) (a hi lo n : Nat) : (e.bumpWrap a hi lo n).levelSet = e.levelSet := rfl
@[simp] theorem Eng.bumpWrap_banks (e : Eng) (a hi lo n : Nat) : (e.bumpWrap a hi lo n).banks = e.banks := rfl
@[simp] theorem Eng.bumpWrap_bankSwitch (e : Eng) (a hi lo n : Nat) : (e.bumpWrap a hi lo n).bankSwitch = e.bankSwitch := rfl
@[simp] theorem Eng.bumpWrap_sens (e : Eng) (a hi lo n : Nat) : (e.bumpWrap a hi lo n).sens = e.sens := rfl
@[simp] theorem Eng.bumpWrap_sampled (e : Eng) (a hi lo n : Nat) : (e.bumpWrap a hi lo n).sampled = e.sampled := rfl
@[simp] theorem Eng.bumpWrap_droops (e : Eng) (a hi lo n : Nat) : (e.bumpWrap a hi lo n).droops = e.droops := rfl
@[simp] theorem Eng.bumpWrap_activity (e : Eng) (a hi lo n : Nat) : (e.bumpWrap a hi lo n).activity = e.activity := rfl
@[simp] theorem Eng.bumpWrap_loans (e : Eng) (a hi lo n : Nat) : (e.bumpWrap a hi lo n).loans = e.loans := rfl
@[simp] theorem Eng.bumpWrap_rowsSpared (e : Eng) (a hi lo n : Nat) : (e.bumpWrap a hi lo n).rowsSpared = e.rowsSpared := rfl
@[simp] theorem Eng.bumpWrap_ledgers (e : Eng) (a hi lo n : Nat) : (e.bumpWrap a hi lo n).ledgers = e.ledgers := rfl
@[simp] theorem Eng.bumpWrap_refilled (e : Eng) (a hi lo n : Nat) : (e.bumpWrap a hi lo n).refilled = e.refilled := rfl
@[simp] theorem Eng.bumpWrap_balStaged (e : Eng) (a hi lo n : Nat) : (e.bumpWrap a hi lo n).balStaged = e.balStaged := rfl
@[simp] theorem Eng.bumpWrap_rqt (e : Eng) (a hi lo n : Nat) : (e.bumpWrap a hi lo n).rqt = e.rqt := rfl
@[simp] theorem Eng.bumpWrap_gens (e : Eng) (a hi lo n : Nat) : (e.bumpWrap a hi lo n).gens = e.gens := rfl
@[simp] theorem Eng.bumpWrap_reqs (e : Eng) (a hi lo n : Nat) : (e.bumpWrap a hi lo n).reqs = e.reqs := rfl
@[simp] theorem Eng.bumpWrap_groups (e : Eng) (a hi lo n : Nat) : (e.bumpWrap a hi lo n).groups = e.groups := rfl
@[simp] theorem Eng.bumpWrap_pages (e : Eng) (a hi lo n : Nat) : (e.bumpWrap a hi lo n).pages = e.pages := rfl
@[simp] theorem Eng.bumpWrap_nodes (e : Eng) (a hi lo n : Nat) : (e.bumpWrap a hi lo n).nodes = e.nodes := rfl
@[simp] theorem Eng.bumpWrap_lps (e : Eng) (a hi lo n : Nat) : (e.bumpWrap a hi lo n).lps = e.lps := rfl
@[simp] theorem Eng.bumpWrap_lpPages (e : Eng) (a hi lo n : Nat) : (e.bumpWrap a hi lo n).lpPages = e.lpPages := rfl
@[simp] theorem Eng.bumpWrap_lpCmd (e : Eng) (a hi lo n : Nat) : (e.bumpWrap a hi lo n).lpCmd = e.lpCmd := rfl
@[simp] theorem Eng.bumpWrap_seals (e : Eng) (a hi lo n : Nat) : (e.bumpWrap a hi lo n).seals = e.seals := rfl
@[simp] theorem Eng.bumpWrap_kdlq (e : Eng) (a hi lo n : Nat) : (e.bumpWrap a hi lo n).kdlq = e.kdlq := rfl
@[simp] theorem Eng.bumpWrap_planeq (e : Eng) (a hi lo n : Nat) : (e.bumpWrap a hi lo n).planeq = e.planeq := rfl
@[simp] theorem Eng.bumpWrap_planeCur (e : Eng) (a hi lo n : Nat) : (e.bumpWrap a hi lo n).planeCur = e.planeCur := rfl
@[simp] theorem Eng.bumpWrap_planeStop (e : Eng) (a hi lo n : Nat) : (e.bumpWrap a hi lo n).planeStop = e.planeStop := rfl
@[simp] theorem Eng.bumpWrap_tileGone (e : Eng) (a hi lo n : Nat) : (e.bumpWrap a hi lo n).tileGone = e.tileGone := rfl
@[simp] theorem Eng.bumpWrap_abOwed (e : Eng) (a hi lo n : Nat) : (e.bumpWrap a hi lo n).abOwed = e.abOwed := rfl
@[simp] theorem Eng.bumpWrap_trings (e : Eng) (a hi lo n : Nat) : (e.bumpWrap a hi lo n).trings = e.trings := rfl
@[simp] theorem Eng.bumpWrap_grams (e : Eng) (a hi lo n : Nat) : (e.bumpWrap a hi lo n).grams = e.grams := rfl
@[simp] theorem Eng.bumpWrap_gramCmd (e : Eng) (a hi lo n : Nat) : (e.bumpWrap a hi lo n).gramCmd = e.gramCmd := rfl
@[simp] theorem Eng.bumpWrap_romWait (e : Eng) (a hi lo n : Nat) : (e.bumpWrap a hi lo n).romWait = e.romWait := rfl
@[simp] theorem Eng.bumpWrap_bitq (e : Eng) (a hi lo n : Nat) : (e.bumpWrap a hi lo n).bitq = e.bitq := rfl
@[simp] theorem Eng.bumpWrap_planeWait (e : Eng) (a hi lo n : Nat) : (e.bumpWrap a hi lo n).planeWait = e.planeWait := rfl
@[simp] theorem Eng.bumpWrap_tileDown (e : Eng) (a hi lo n : Nat) : (e.bumpWrap a hi lo n).tileDown = e.tileDown := rfl
@[simp] theorem Eng.bumpWrap_tileMap (e : Eng) (a hi lo n : Nat) : (e.bumpWrap a hi lo n).tileMap = e.tileMap := rfl
@[simp] theorem Eng.bumpWrap_stageq (e : Eng) (a hi lo n : Nat) : (e.bumpWrap a hi lo n).stageq = e.stageq := rfl
@[simp] theorem Eng.bumpWrap_hrowHeld (e : Eng) (a hi lo n : Nat) : (e.bumpWrap a hi lo n).hrowHeld = e.hrowHeld := rfl
@[simp] theorem Eng.bumpWrap_hsBad (e : Eng) (a hi lo n : Nat) : (e.bumpWrap a hi lo n).hsBad = e.hsBad := rfl
@[simp] theorem Eng.bumpWrap_budget (e : Eng) (a hi lo n : Nat) : (e.bumpWrap a hi lo n).budget = e.budget := rfl
@[simp] theorem Eng.bumpWrap_restarted (e : Eng) (a hi lo n : Nat) : (e.bumpWrap a hi lo n).restarted = e.restarted := rfl
@[simp] theorem Eng.bumpWrap_lend (e : Eng) (a hi lo n : Nat) : (e.bumpWrap a hi lo n).lend = e.lend := rfl
@[simp] theorem Eng.bumpWrap_admLast (e : Eng) (a hi lo n : Nat) : (e.bumpWrap a hi lo n).admLast = e.admLast := rfl
@[simp] theorem Eng.bumpWrap_planeRan (e : Eng) (a hi lo n : Nat) : (e.bumpWrap a hi lo n).planeRan = e.planeRan := rfl
@[simp] theorem Eng.bumpWrap_scrubAt (e : Eng) (a hi lo n : Nat) : (e.bumpWrap a hi lo n).scrubAt = e.scrubAt := rfl
@[simp] theorem Eng.bumpWrap_scrubErrs (e : Eng) (a hi lo n : Nat) : (e.bumpWrap a hi lo n).scrubErrs = e.scrubErrs := rfl
@[simp] theorem Eng.bumpWrap_scrubPos (e : Eng) (a hi lo n : Nat) : (e.bumpWrap a hi lo n).scrubPos = e.scrubPos := rfl
@[simp] theorem Eng.bumpWrap_rqtBad (e : Eng) (a hi lo n : Nat) : (e.bumpWrap a hi lo n).rqtBad = e.rqtBad := rfl

@[simp] theorem Eng.onPart_regs (e : Eng) (p : Nat) (f : Partn → Partn) : (e.onPart p f).regs = e.regs := rfl
@[simp] theorem Eng.onPart_mem (e : Eng) (p : Nat) (f : Partn → Partn) : (e.onPart p f).mem = e.mem := rfl
@[simp] theorem Eng.onPart_deny (e : Eng) (p : Nat) (f : Partn → Partn) : (e.onPart p f).deny = e.deny := rfl
@[simp] theorem Eng.onPart_txns (e : Eng) (p : Nat) (f : Partn → Partn) : (e.onPart p f).txns = e.txns := rfl
@[simp] theorem Eng.onPart_out (e : Eng) (p : Nat) (f : Partn → Partn) : (e.onPart p f).out = e.out := rfl
@[simp] theorem Eng.onPart_nextId (e : Eng) (p : Nat) (f : Partn → Partn) : (e.onPart p f).nextId = e.nextId := rfl
@[simp] theorem Eng.onPart_free (e : Eng) (p : Nat) (f : Partn → Partn) : (e.onPart p f).free = e.free := rfl
@[simp] theorem Eng.onPart_resp (e : Eng) (p : Nat) (f : Partn → Partn) : (e.onPart p f).resp = e.resp := rfl
@[simp] theorem Eng.onPart_latch (e : Eng) (p : Nat) (f : Partn → Partn) : (e.onPart p f).latch = e.latch := rfl
@[simp] theorem Eng.onPart_cells (e : Eng) (p : Nat) (f : Partn → Partn) : (e.onPart p f).cells = e.cells := rfl
@[simp] theorem Eng.onPart_travel (e : Eng) (p : Nat) (f : Partn → Partn) : (e.onPart p f).travel = e.travel := rfl
@[simp] theorem Eng.onPart_joined (e : Eng) (p : Nat) (f : Partn → Partn) : (e.onPart p f).joined = e.joined := rfl
@[simp] theorem Eng.onPart_ledJoined (e : Eng) (p : Nat) (f : Partn → Partn) : (e.onPart p f).ledJoined = e.ledJoined := rfl
@[simp] theorem Eng.onPart_sliceHold (e : Eng) (p : Nat) (f : Partn → Partn) : (e.onPart p f).sliceHold = e.sliceHold := rfl
@[simp] theorem Eng.onPart_sliceWait (e : Eng) (p : Nat) (f : Partn → Partn) : (e.onPart p f).sliceWait = e.sliceWait := rfl
@[simp] theorem Eng.onPart_coreWait (e : Eng) (p : Nat) (f : Partn → Partn) : (e.onPart p f).coreWait = e.coreWait := rfl
@[simp] theorem Eng.onPart_sliceLost (e : Eng) (p : Nat) (f : Partn → Partn) : (e.onPart p f).sliceLost = e.sliceLost := rfl
@[simp] theorem Eng.onPart_coreMap (e : Eng) (p : Nat) (f : Partn → Partn) : (e.onPart p f).coreMap = e.coreMap := rfl
@[simp] theorem Eng.onPart_sliceMap (e : Eng) (p : Nat) (f : Partn → Partn) : (e.onPart p f).sliceMap = e.sliceMap := rfl
@[simp] theorem Eng.onPart_xfers (e : Eng) (p : Nat) (f : Partn → Partn) : (e.onPart p f).xfers = e.xfers := rfl
@[simp] theorem Eng.onPart_parked (e : Eng) (p : Nat) (f : Partn → Partn) : (e.onPart p f).parked = e.parked := rfl
@[simp] theorem Eng.onPart_sigIn (e : Eng) (p : Nat) (f : Partn → Partn) : (e.onPart p f).sigIn = e.sigIn := rfl
@[simp] theorem Eng.onPart_dataIn (e : Eng) (p : Nat) (f : Partn → Partn) : (e.onPart p f).dataIn = e.dataIn := rfl
@[simp] theorem Eng.onPart_chans (e : Eng) (p : Nat) (f : Partn → Partn) : (e.onPart p f).chans = e.chans := rfl
@[simp] theorem Eng.onPart_chanMap (e : Eng) (p : Nat) (f : Partn → Partn) : (e.onPart p f).chanMap = e.chanMap := rfl
@[simp] theorem Eng.onPart_chanLost (e : Eng) (p : Nat) (f : Partn → Partn) : (e.onPart p f).chanLost = e.chanLost := rfl
@[simp] theorem Eng.onPart_rmCredit (e : Eng) (p : Nat) (f : Partn → Partn) : (e.onPart p f).rmCredit = e.rmCredit := rfl
@[simp] theorem Eng.onPart_hsCredit (e : Eng) (p : Nat) (f : Partn → Partn) : (e.onPart p f).hsCredit = e.hsCredit := rfl
@[simp] theorem Eng.onPart_rmTurn (e : Eng) (p : Nat) (f : Partn → Partn) : (e.onPart p f).rmTurn = e.rmTurn := rfl
@[simp] theorem Eng.onPart_hsTurn (e : Eng) (p : Nat) (f : Partn → Partn) : (e.onPart p f).hsTurn = e.hsTurn := rfl
@[simp] theorem Eng.onPart_rmHeld (e : Eng) (p : Nat) (f : Partn → Partn) : (e.onPart p f).rmHeld = e.rmHeld := rfl
@[simp] theorem Eng.onPart_hsHeld (e : Eng) (p : Nat) (f : Partn → Partn) : (e.onPart p f).hsHeld = e.hsHeld := rfl
@[simp] theorem Eng.onPart_i2cPtr (e : Eng) (p : Nat) (f : Partn → Partn) : (e.onPart p f).i2cPtr = e.i2cPtr := rfl
@[simp] theorem Eng.onPart_jtagIr (e : Eng) (p : Nat) (f : Partn → Partn) : (e.onPart p f).jtagIr = e.jtagIr := rfl
@[simp] theorem Eng.onPart_jtagDr (e : Eng) (p : Nat) (f : Partn → Partn) : (e.onPart p f).jtagDr = e.jtagDr := rfl
@[simp] theorem Eng.onPart_warm (e : Eng) (p : Nat) (f : Partn → Partn) : (e.onPart p f).warm = e.warm := rfl
@[simp] theorem Eng.onPart_mcores (e : Eng) (p : Nat) (f : Partn → Partn) : (e.onPart p f).mcores = e.mcores := rfl
@[simp] theorem Eng.onPart_log (e : Eng) (p : Nat) (f : Partn → Partn) : (e.onPart p f).log = e.log := rfl
@[simp] theorem Eng.onPart_logHeld (e : Eng) (p : Nat) (f : Partn → Partn) : (e.onPart p f).logHeld = e.logHeld := rfl
@[simp] theorem Eng.onPart_upd (e : Eng) (p : Nat) (f : Partn → Partn) : (e.onPart p f).upd = e.upd := rfl
@[simp] theorem Eng.onPart_nego (e : Eng) (p : Nat) (f : Partn → Partn) : (e.onPart p f).nego = e.nego := rfl
@[simp] theorem Eng.onPart_levelSet (e : Eng) (p : Nat) (f : Partn → Partn) : (e.onPart p f).levelSet = e.levelSet := rfl
@[simp] theorem Eng.onPart_banks (e : Eng) (p : Nat) (f : Partn → Partn) : (e.onPart p f).banks = e.banks := rfl
@[simp] theorem Eng.onPart_bankSwitch (e : Eng) (p : Nat) (f : Partn → Partn) : (e.onPart p f).bankSwitch = e.bankSwitch := rfl
@[simp] theorem Eng.onPart_sens (e : Eng) (p : Nat) (f : Partn → Partn) : (e.onPart p f).sens = e.sens := rfl
@[simp] theorem Eng.onPart_sampled (e : Eng) (p : Nat) (f : Partn → Partn) : (e.onPart p f).sampled = e.sampled := rfl
@[simp] theorem Eng.onPart_droops (e : Eng) (p : Nat) (f : Partn → Partn) : (e.onPart p f).droops = e.droops := rfl
@[simp] theorem Eng.onPart_activity (e : Eng) (p : Nat) (f : Partn → Partn) : (e.onPart p f).activity = e.activity := rfl
@[simp] theorem Eng.onPart_loans (e : Eng) (p : Nat) (f : Partn → Partn) : (e.onPart p f).loans = e.loans := rfl
@[simp] theorem Eng.onPart_rowsSpared (e : Eng) (p : Nat) (f : Partn → Partn) : (e.onPart p f).rowsSpared = e.rowsSpared := rfl
@[simp] theorem Eng.onPart_ledgers (e : Eng) (p : Nat) (f : Partn → Partn) : (e.onPart p f).ledgers = e.ledgers := rfl
@[simp] theorem Eng.onPart_refilled (e : Eng) (p : Nat) (f : Partn → Partn) : (e.onPart p f).refilled = e.refilled := rfl
@[simp] theorem Eng.onPart_balStaged (e : Eng) (p : Nat) (f : Partn → Partn) : (e.onPart p f).balStaged = e.balStaged := rfl
@[simp] theorem Eng.onPart_rqt (e : Eng) (p : Nat) (f : Partn → Partn) : (e.onPart p f).rqt = e.rqt := rfl
@[simp] theorem Eng.onPart_gens (e : Eng) (p : Nat) (f : Partn → Partn) : (e.onPart p f).gens = e.gens := rfl
@[simp] theorem Eng.onPart_reqs (e : Eng) (p : Nat) (f : Partn → Partn) : (e.onPart p f).reqs = e.reqs := rfl
@[simp] theorem Eng.onPart_groups (e : Eng) (p : Nat) (f : Partn → Partn) : (e.onPart p f).groups = e.groups := rfl
@[simp] theorem Eng.onPart_pages (e : Eng) (p : Nat) (f : Partn → Partn) : (e.onPart p f).pages = e.pages := rfl
@[simp] theorem Eng.onPart_nodes (e : Eng) (p : Nat) (f : Partn → Partn) : (e.onPart p f).nodes = e.nodes := rfl
@[simp] theorem Eng.onPart_lps (e : Eng) (p : Nat) (f : Partn → Partn) : (e.onPart p f).lps = e.lps := rfl
@[simp] theorem Eng.onPart_lpPages (e : Eng) (p : Nat) (f : Partn → Partn) : (e.onPart p f).lpPages = e.lpPages := rfl
@[simp] theorem Eng.onPart_lpCmd (e : Eng) (p : Nat) (f : Partn → Partn) : (e.onPart p f).lpCmd = e.lpCmd := rfl
@[simp] theorem Eng.onPart_seals (e : Eng) (p : Nat) (f : Partn → Partn) : (e.onPart p f).seals = e.seals := rfl
@[simp] theorem Eng.onPart_kdlq (e : Eng) (p : Nat) (f : Partn → Partn) : (e.onPart p f).kdlq = e.kdlq := rfl
@[simp] theorem Eng.onPart_planeq (e : Eng) (p : Nat) (f : Partn → Partn) : (e.onPart p f).planeq = e.planeq := rfl
@[simp] theorem Eng.onPart_planeCur (e : Eng) (p : Nat) (f : Partn → Partn) : (e.onPart p f).planeCur = e.planeCur := rfl
@[simp] theorem Eng.onPart_planeStop (e : Eng) (p : Nat) (f : Partn → Partn) : (e.onPart p f).planeStop = e.planeStop := rfl
@[simp] theorem Eng.onPart_tileGone (e : Eng) (p : Nat) (f : Partn → Partn) : (e.onPart p f).tileGone = e.tileGone := rfl
@[simp] theorem Eng.onPart_abOwed (e : Eng) (p : Nat) (f : Partn → Partn) : (e.onPart p f).abOwed = e.abOwed := rfl
@[simp] theorem Eng.onPart_trings (e : Eng) (p : Nat) (f : Partn → Partn) : (e.onPart p f).trings = e.trings := rfl
@[simp] theorem Eng.onPart_grams (e : Eng) (p : Nat) (f : Partn → Partn) : (e.onPart p f).grams = e.grams := rfl
@[simp] theorem Eng.onPart_gramCmd (e : Eng) (p : Nat) (f : Partn → Partn) : (e.onPart p f).gramCmd = e.gramCmd := rfl
@[simp] theorem Eng.onPart_romWait (e : Eng) (p : Nat) (f : Partn → Partn) : (e.onPart p f).romWait = e.romWait := rfl
@[simp] theorem Eng.onPart_bitq (e : Eng) (p : Nat) (f : Partn → Partn) : (e.onPart p f).bitq = e.bitq := rfl
@[simp] theorem Eng.onPart_planeWait (e : Eng) (p : Nat) (f : Partn → Partn) : (e.onPart p f).planeWait = e.planeWait := rfl
@[simp] theorem Eng.onPart_tileDown (e : Eng) (p : Nat) (f : Partn → Partn) : (e.onPart p f).tileDown = e.tileDown := rfl
@[simp] theorem Eng.onPart_tileMap (e : Eng) (p : Nat) (f : Partn → Partn) : (e.onPart p f).tileMap = e.tileMap := rfl
@[simp] theorem Eng.onPart_stageq (e : Eng) (p : Nat) (f : Partn → Partn) : (e.onPart p f).stageq = e.stageq := rfl
@[simp] theorem Eng.onPart_hrowHeld (e : Eng) (p : Nat) (f : Partn → Partn) : (e.onPart p f).hrowHeld = e.hrowHeld := rfl
@[simp] theorem Eng.onPart_hsBad (e : Eng) (p : Nat) (f : Partn → Partn) : (e.onPart p f).hsBad = e.hsBad := rfl
@[simp] theorem Eng.onPart_budget (e : Eng) (p : Nat) (f : Partn → Partn) : (e.onPart p f).budget = e.budget := rfl
@[simp] theorem Eng.onPart_restarted (e : Eng) (p : Nat) (f : Partn → Partn) : (e.onPart p f).restarted = e.restarted := rfl
@[simp] theorem Eng.onPart_lend (e : Eng) (p : Nat) (f : Partn → Partn) : (e.onPart p f).lend = e.lend := rfl
@[simp] theorem Eng.onPart_admLast (e : Eng) (p : Nat) (f : Partn → Partn) : (e.onPart p f).admLast = e.admLast := rfl
@[simp] theorem Eng.onPart_planeRan (e : Eng) (p : Nat) (f : Partn → Partn) : (e.onPart p f).planeRan = e.planeRan := rfl
@[simp] theorem Eng.onPart_scrubAt (e : Eng) (p : Nat) (f : Partn → Partn) : (e.onPart p f).scrubAt = e.scrubAt := rfl
@[simp] theorem Eng.onPart_scrubErrs (e : Eng) (p : Nat) (f : Partn → Partn) : (e.onPart p f).scrubErrs = e.scrubErrs := rfl
@[simp] theorem Eng.onPart_scrubPos (e : Eng) (p : Nat) (f : Partn → Partn) : (e.onPart p f).scrubPos = e.scrubPos := rfl
@[simp] theorem Eng.onPart_rqtBad (e : Eng) (p : Nat) (f : Partn → Partn) : (e.onPart p f).rqtBad = e.rqtBad := rfl

@[simp] theorem Eng.onCtx_regs (e : Eng) (p c : Nat) (f : Ctx → Ctx) : (e.onCtx p c f).regs = e.regs := rfl
@[simp] theorem Eng.onCtx_mem (e : Eng) (p c : Nat) (f : Ctx → Ctx) : (e.onCtx p c f).mem = e.mem := rfl
@[simp] theorem Eng.onCtx_deny (e : Eng) (p c : Nat) (f : Ctx → Ctx) : (e.onCtx p c f).deny = e.deny := rfl
@[simp] theorem Eng.onCtx_txns (e : Eng) (p c : Nat) (f : Ctx → Ctx) : (e.onCtx p c f).txns = e.txns := rfl
@[simp] theorem Eng.onCtx_out (e : Eng) (p c : Nat) (f : Ctx → Ctx) : (e.onCtx p c f).out = e.out := rfl
@[simp] theorem Eng.onCtx_nextId (e : Eng) (p c : Nat) (f : Ctx → Ctx) : (e.onCtx p c f).nextId = e.nextId := rfl
@[simp] theorem Eng.onCtx_free (e : Eng) (p c : Nat) (f : Ctx → Ctx) : (e.onCtx p c f).free = e.free := rfl
@[simp] theorem Eng.onCtx_resp (e : Eng) (p c : Nat) (f : Ctx → Ctx) : (e.onCtx p c f).resp = e.resp := rfl
@[simp] theorem Eng.onCtx_latch (e : Eng) (p c : Nat) (f : Ctx → Ctx) : (e.onCtx p c f).latch = e.latch := rfl
@[simp] theorem Eng.onCtx_cells (e : Eng) (p c : Nat) (f : Ctx → Ctx) : (e.onCtx p c f).cells = e.cells := rfl
@[simp] theorem Eng.onCtx_travel (e : Eng) (p c : Nat) (f : Ctx → Ctx) : (e.onCtx p c f).travel = e.travel := rfl
@[simp] theorem Eng.onCtx_joined (e : Eng) (p c : Nat) (f : Ctx → Ctx) : (e.onCtx p c f).joined = e.joined := rfl
@[simp] theorem Eng.onCtx_ledJoined (e : Eng) (p c : Nat) (f : Ctx → Ctx) : (e.onCtx p c f).ledJoined = e.ledJoined := rfl
@[simp] theorem Eng.onCtx_sliceHold (e : Eng) (p c : Nat) (f : Ctx → Ctx) : (e.onCtx p c f).sliceHold = e.sliceHold := rfl
@[simp] theorem Eng.onCtx_sliceWait (e : Eng) (p c : Nat) (f : Ctx → Ctx) : (e.onCtx p c f).sliceWait = e.sliceWait := rfl
@[simp] theorem Eng.onCtx_coreWait (e : Eng) (p c : Nat) (f : Ctx → Ctx) : (e.onCtx p c f).coreWait = e.coreWait := rfl
@[simp] theorem Eng.onCtx_sliceLost (e : Eng) (p c : Nat) (f : Ctx → Ctx) : (e.onCtx p c f).sliceLost = e.sliceLost := rfl
@[simp] theorem Eng.onCtx_coreMap (e : Eng) (p c : Nat) (f : Ctx → Ctx) : (e.onCtx p c f).coreMap = e.coreMap := rfl
@[simp] theorem Eng.onCtx_sliceMap (e : Eng) (p c : Nat) (f : Ctx → Ctx) : (e.onCtx p c f).sliceMap = e.sliceMap := rfl
@[simp] theorem Eng.onCtx_xfers (e : Eng) (p c : Nat) (f : Ctx → Ctx) : (e.onCtx p c f).xfers = e.xfers := rfl
@[simp] theorem Eng.onCtx_parked (e : Eng) (p c : Nat) (f : Ctx → Ctx) : (e.onCtx p c f).parked = e.parked := rfl
@[simp] theorem Eng.onCtx_sigIn (e : Eng) (p c : Nat) (f : Ctx → Ctx) : (e.onCtx p c f).sigIn = e.sigIn := rfl
@[simp] theorem Eng.onCtx_dataIn (e : Eng) (p c : Nat) (f : Ctx → Ctx) : (e.onCtx p c f).dataIn = e.dataIn := rfl
@[simp] theorem Eng.onCtx_chans (e : Eng) (p c : Nat) (f : Ctx → Ctx) : (e.onCtx p c f).chans = e.chans := rfl
@[simp] theorem Eng.onCtx_chanMap (e : Eng) (p c : Nat) (f : Ctx → Ctx) : (e.onCtx p c f).chanMap = e.chanMap := rfl
@[simp] theorem Eng.onCtx_chanLost (e : Eng) (p c : Nat) (f : Ctx → Ctx) : (e.onCtx p c f).chanLost = e.chanLost := rfl
@[simp] theorem Eng.onCtx_rmCredit (e : Eng) (p c : Nat) (f : Ctx → Ctx) : (e.onCtx p c f).rmCredit = e.rmCredit := rfl
@[simp] theorem Eng.onCtx_hsCredit (e : Eng) (p c : Nat) (f : Ctx → Ctx) : (e.onCtx p c f).hsCredit = e.hsCredit := rfl
@[simp] theorem Eng.onCtx_rmTurn (e : Eng) (p c : Nat) (f : Ctx → Ctx) : (e.onCtx p c f).rmTurn = e.rmTurn := rfl
@[simp] theorem Eng.onCtx_hsTurn (e : Eng) (p c : Nat) (f : Ctx → Ctx) : (e.onCtx p c f).hsTurn = e.hsTurn := rfl
@[simp] theorem Eng.onCtx_rmHeld (e : Eng) (p c : Nat) (f : Ctx → Ctx) : (e.onCtx p c f).rmHeld = e.rmHeld := rfl
@[simp] theorem Eng.onCtx_hsHeld (e : Eng) (p c : Nat) (f : Ctx → Ctx) : (e.onCtx p c f).hsHeld = e.hsHeld := rfl
@[simp] theorem Eng.onCtx_i2cPtr (e : Eng) (p c : Nat) (f : Ctx → Ctx) : (e.onCtx p c f).i2cPtr = e.i2cPtr := rfl
@[simp] theorem Eng.onCtx_jtagIr (e : Eng) (p c : Nat) (f : Ctx → Ctx) : (e.onCtx p c f).jtagIr = e.jtagIr := rfl
@[simp] theorem Eng.onCtx_jtagDr (e : Eng) (p c : Nat) (f : Ctx → Ctx) : (e.onCtx p c f).jtagDr = e.jtagDr := rfl
@[simp] theorem Eng.onCtx_warm (e : Eng) (p c : Nat) (f : Ctx → Ctx) : (e.onCtx p c f).warm = e.warm := rfl
@[simp] theorem Eng.onCtx_mcores (e : Eng) (p c : Nat) (f : Ctx → Ctx) : (e.onCtx p c f).mcores = e.mcores := rfl
@[simp] theorem Eng.onCtx_log (e : Eng) (p c : Nat) (f : Ctx → Ctx) : (e.onCtx p c f).log = e.log := rfl
@[simp] theorem Eng.onCtx_logHeld (e : Eng) (p c : Nat) (f : Ctx → Ctx) : (e.onCtx p c f).logHeld = e.logHeld := rfl
@[simp] theorem Eng.onCtx_upd (e : Eng) (p c : Nat) (f : Ctx → Ctx) : (e.onCtx p c f).upd = e.upd := rfl
@[simp] theorem Eng.onCtx_nego (e : Eng) (p c : Nat) (f : Ctx → Ctx) : (e.onCtx p c f).nego = e.nego := rfl
@[simp] theorem Eng.onCtx_levelSet (e : Eng) (p c : Nat) (f : Ctx → Ctx) : (e.onCtx p c f).levelSet = e.levelSet := rfl
@[simp] theorem Eng.onCtx_banks (e : Eng) (p c : Nat) (f : Ctx → Ctx) : (e.onCtx p c f).banks = e.banks := rfl
@[simp] theorem Eng.onCtx_bankSwitch (e : Eng) (p c : Nat) (f : Ctx → Ctx) : (e.onCtx p c f).bankSwitch = e.bankSwitch := rfl
@[simp] theorem Eng.onCtx_sens (e : Eng) (p c : Nat) (f : Ctx → Ctx) : (e.onCtx p c f).sens = e.sens := rfl
@[simp] theorem Eng.onCtx_sampled (e : Eng) (p c : Nat) (f : Ctx → Ctx) : (e.onCtx p c f).sampled = e.sampled := rfl
@[simp] theorem Eng.onCtx_droops (e : Eng) (p c : Nat) (f : Ctx → Ctx) : (e.onCtx p c f).droops = e.droops := rfl
@[simp] theorem Eng.onCtx_activity (e : Eng) (p c : Nat) (f : Ctx → Ctx) : (e.onCtx p c f).activity = e.activity := rfl
@[simp] theorem Eng.onCtx_loans (e : Eng) (p c : Nat) (f : Ctx → Ctx) : (e.onCtx p c f).loans = e.loans := rfl
@[simp] theorem Eng.onCtx_rowsSpared (e : Eng) (p c : Nat) (f : Ctx → Ctx) : (e.onCtx p c f).rowsSpared = e.rowsSpared := rfl
@[simp] theorem Eng.onCtx_ledgers (e : Eng) (p c : Nat) (f : Ctx → Ctx) : (e.onCtx p c f).ledgers = e.ledgers := rfl
@[simp] theorem Eng.onCtx_refilled (e : Eng) (p c : Nat) (f : Ctx → Ctx) : (e.onCtx p c f).refilled = e.refilled := rfl
@[simp] theorem Eng.onCtx_balStaged (e : Eng) (p c : Nat) (f : Ctx → Ctx) : (e.onCtx p c f).balStaged = e.balStaged := rfl
@[simp] theorem Eng.onCtx_rqt (e : Eng) (p c : Nat) (f : Ctx → Ctx) : (e.onCtx p c f).rqt = e.rqt := rfl
@[simp] theorem Eng.onCtx_gens (e : Eng) (p c : Nat) (f : Ctx → Ctx) : (e.onCtx p c f).gens = e.gens := rfl
@[simp] theorem Eng.onCtx_reqs (e : Eng) (p c : Nat) (f : Ctx → Ctx) : (e.onCtx p c f).reqs = e.reqs := rfl
@[simp] theorem Eng.onCtx_groups (e : Eng) (p c : Nat) (f : Ctx → Ctx) : (e.onCtx p c f).groups = e.groups := rfl
@[simp] theorem Eng.onCtx_pages (e : Eng) (p c : Nat) (f : Ctx → Ctx) : (e.onCtx p c f).pages = e.pages := rfl
@[simp] theorem Eng.onCtx_nodes (e : Eng) (p c : Nat) (f : Ctx → Ctx) : (e.onCtx p c f).nodes = e.nodes := rfl
@[simp] theorem Eng.onCtx_lps (e : Eng) (p c : Nat) (f : Ctx → Ctx) : (e.onCtx p c f).lps = e.lps := rfl
@[simp] theorem Eng.onCtx_lpPages (e : Eng) (p c : Nat) (f : Ctx → Ctx) : (e.onCtx p c f).lpPages = e.lpPages := rfl
@[simp] theorem Eng.onCtx_lpCmd (e : Eng) (p c : Nat) (f : Ctx → Ctx) : (e.onCtx p c f).lpCmd = e.lpCmd := rfl
@[simp] theorem Eng.onCtx_seals (e : Eng) (p c : Nat) (f : Ctx → Ctx) : (e.onCtx p c f).seals = e.seals := rfl
@[simp] theorem Eng.onCtx_kdlq (e : Eng) (p c : Nat) (f : Ctx → Ctx) : (e.onCtx p c f).kdlq = e.kdlq := rfl
@[simp] theorem Eng.onCtx_planeq (e : Eng) (p c : Nat) (f : Ctx → Ctx) : (e.onCtx p c f).planeq = e.planeq := rfl
@[simp] theorem Eng.onCtx_planeCur (e : Eng) (p c : Nat) (f : Ctx → Ctx) : (e.onCtx p c f).planeCur = e.planeCur := rfl
@[simp] theorem Eng.onCtx_planeStop (e : Eng) (p c : Nat) (f : Ctx → Ctx) : (e.onCtx p c f).planeStop = e.planeStop := rfl
@[simp] theorem Eng.onCtx_tileGone (e : Eng) (p c : Nat) (f : Ctx → Ctx) : (e.onCtx p c f).tileGone = e.tileGone := rfl
@[simp] theorem Eng.onCtx_abOwed (e : Eng) (p c : Nat) (f : Ctx → Ctx) : (e.onCtx p c f).abOwed = e.abOwed := rfl
@[simp] theorem Eng.onCtx_trings (e : Eng) (p c : Nat) (f : Ctx → Ctx) : (e.onCtx p c f).trings = e.trings := rfl
@[simp] theorem Eng.onCtx_grams (e : Eng) (p c : Nat) (f : Ctx → Ctx) : (e.onCtx p c f).grams = e.grams := rfl
@[simp] theorem Eng.onCtx_gramCmd (e : Eng) (p c : Nat) (f : Ctx → Ctx) : (e.onCtx p c f).gramCmd = e.gramCmd := rfl
@[simp] theorem Eng.onCtx_romWait (e : Eng) (p c : Nat) (f : Ctx → Ctx) : (e.onCtx p c f).romWait = e.romWait := rfl
@[simp] theorem Eng.onCtx_bitq (e : Eng) (p c : Nat) (f : Ctx → Ctx) : (e.onCtx p c f).bitq = e.bitq := rfl
@[simp] theorem Eng.onCtx_planeWait (e : Eng) (p c : Nat) (f : Ctx → Ctx) : (e.onCtx p c f).planeWait = e.planeWait := rfl
@[simp] theorem Eng.onCtx_tileDown (e : Eng) (p c : Nat) (f : Ctx → Ctx) : (e.onCtx p c f).tileDown = e.tileDown := rfl
@[simp] theorem Eng.onCtx_tileMap (e : Eng) (p c : Nat) (f : Ctx → Ctx) : (e.onCtx p c f).tileMap = e.tileMap := rfl
@[simp] theorem Eng.onCtx_stageq (e : Eng) (p c : Nat) (f : Ctx → Ctx) : (e.onCtx p c f).stageq = e.stageq := rfl
@[simp] theorem Eng.onCtx_hrowHeld (e : Eng) (p c : Nat) (f : Ctx → Ctx) : (e.onCtx p c f).hrowHeld = e.hrowHeld := rfl
@[simp] theorem Eng.onCtx_hsBad (e : Eng) (p c : Nat) (f : Ctx → Ctx) : (e.onCtx p c f).hsBad = e.hsBad := rfl
@[simp] theorem Eng.onCtx_budget (e : Eng) (p c : Nat) (f : Ctx → Ctx) : (e.onCtx p c f).budget = e.budget := rfl
@[simp] theorem Eng.onCtx_restarted (e : Eng) (p c : Nat) (f : Ctx → Ctx) : (e.onCtx p c f).restarted = e.restarted := rfl
@[simp] theorem Eng.onCtx_lend (e : Eng) (p c : Nat) (f : Ctx → Ctx) : (e.onCtx p c f).lend = e.lend := rfl
@[simp] theorem Eng.onCtx_admLast (e : Eng) (p c : Nat) (f : Ctx → Ctx) : (e.onCtx p c f).admLast = e.admLast := rfl
@[simp] theorem Eng.onCtx_planeRan (e : Eng) (p c : Nat) (f : Ctx → Ctx) : (e.onCtx p c f).planeRan = e.planeRan := rfl
@[simp] theorem Eng.onCtx_scrubAt (e : Eng) (p c : Nat) (f : Ctx → Ctx) : (e.onCtx p c f).scrubAt = e.scrubAt := rfl
@[simp] theorem Eng.onCtx_scrubErrs (e : Eng) (p c : Nat) (f : Ctx → Ctx) : (e.onCtx p c f).scrubErrs = e.scrubErrs := rfl
@[simp] theorem Eng.onCtx_scrubPos (e : Eng) (p c : Nat) (f : Ctx → Ctx) : (e.onCtx p c f).scrubPos = e.scrubPos := rfl
@[simp] theorem Eng.onCtx_rqtBad (e : Eng) (p c : Nat) (f : Ctx → Ctx) : (e.onCtx p c f).rqtBad = e.rqtBad := rfl

@[simp] theorem Eng.onCell_regs (e : Eng) (n : Nat) (f : Cell → Cell) : (e.onCell n f).regs = e.regs := rfl
@[simp] theorem Eng.onCell_mem (e : Eng) (n : Nat) (f : Cell → Cell) : (e.onCell n f).mem = e.mem := rfl
@[simp] theorem Eng.onCell_deny (e : Eng) (n : Nat) (f : Cell → Cell) : (e.onCell n f).deny = e.deny := rfl
@[simp] theorem Eng.onCell_txns (e : Eng) (n : Nat) (f : Cell → Cell) : (e.onCell n f).txns = e.txns := rfl
@[simp] theorem Eng.onCell_out (e : Eng) (n : Nat) (f : Cell → Cell) : (e.onCell n f).out = e.out := rfl
@[simp] theorem Eng.onCell_nextId (e : Eng) (n : Nat) (f : Cell → Cell) : (e.onCell n f).nextId = e.nextId := rfl
@[simp] theorem Eng.onCell_free (e : Eng) (n : Nat) (f : Cell → Cell) : (e.onCell n f).free = e.free := rfl
@[simp] theorem Eng.onCell_resp (e : Eng) (n : Nat) (f : Cell → Cell) : (e.onCell n f).resp = e.resp := rfl
@[simp] theorem Eng.onCell_latch (e : Eng) (n : Nat) (f : Cell → Cell) : (e.onCell n f).latch = e.latch := rfl
@[simp] theorem Eng.onCell_parts (e : Eng) (n : Nat) (f : Cell → Cell) : (e.onCell n f).parts = e.parts := rfl
@[simp] theorem Eng.onCell_travel (e : Eng) (n : Nat) (f : Cell → Cell) : (e.onCell n f).travel = e.travel := rfl
@[simp] theorem Eng.onCell_joined (e : Eng) (n : Nat) (f : Cell → Cell) : (e.onCell n f).joined = e.joined := rfl
@[simp] theorem Eng.onCell_ledJoined (e : Eng) (n : Nat) (f : Cell → Cell) : (e.onCell n f).ledJoined = e.ledJoined := rfl
@[simp] theorem Eng.onCell_sliceHold (e : Eng) (n : Nat) (f : Cell → Cell) : (e.onCell n f).sliceHold = e.sliceHold := rfl
@[simp] theorem Eng.onCell_sliceWait (e : Eng) (n : Nat) (f : Cell → Cell) : (e.onCell n f).sliceWait = e.sliceWait := rfl
@[simp] theorem Eng.onCell_coreWait (e : Eng) (n : Nat) (f : Cell → Cell) : (e.onCell n f).coreWait = e.coreWait := rfl
@[simp] theorem Eng.onCell_sliceLost (e : Eng) (n : Nat) (f : Cell → Cell) : (e.onCell n f).sliceLost = e.sliceLost := rfl
@[simp] theorem Eng.onCell_coreMap (e : Eng) (n : Nat) (f : Cell → Cell) : (e.onCell n f).coreMap = e.coreMap := rfl
@[simp] theorem Eng.onCell_sliceMap (e : Eng) (n : Nat) (f : Cell → Cell) : (e.onCell n f).sliceMap = e.sliceMap := rfl
@[simp] theorem Eng.onCell_xfers (e : Eng) (n : Nat) (f : Cell → Cell) : (e.onCell n f).xfers = e.xfers := rfl
@[simp] theorem Eng.onCell_parked (e : Eng) (n : Nat) (f : Cell → Cell) : (e.onCell n f).parked = e.parked := rfl
@[simp] theorem Eng.onCell_sigIn (e : Eng) (n : Nat) (f : Cell → Cell) : (e.onCell n f).sigIn = e.sigIn := rfl
@[simp] theorem Eng.onCell_dataIn (e : Eng) (n : Nat) (f : Cell → Cell) : (e.onCell n f).dataIn = e.dataIn := rfl
@[simp] theorem Eng.onCell_chans (e : Eng) (n : Nat) (f : Cell → Cell) : (e.onCell n f).chans = e.chans := rfl
@[simp] theorem Eng.onCell_chanMap (e : Eng) (n : Nat) (f : Cell → Cell) : (e.onCell n f).chanMap = e.chanMap := rfl
@[simp] theorem Eng.onCell_chanLost (e : Eng) (n : Nat) (f : Cell → Cell) : (e.onCell n f).chanLost = e.chanLost := rfl
@[simp] theorem Eng.onCell_rmCredit (e : Eng) (n : Nat) (f : Cell → Cell) : (e.onCell n f).rmCredit = e.rmCredit := rfl
@[simp] theorem Eng.onCell_hsCredit (e : Eng) (n : Nat) (f : Cell → Cell) : (e.onCell n f).hsCredit = e.hsCredit := rfl
@[simp] theorem Eng.onCell_rmTurn (e : Eng) (n : Nat) (f : Cell → Cell) : (e.onCell n f).rmTurn = e.rmTurn := rfl
@[simp] theorem Eng.onCell_hsTurn (e : Eng) (n : Nat) (f : Cell → Cell) : (e.onCell n f).hsTurn = e.hsTurn := rfl
@[simp] theorem Eng.onCell_rmHeld (e : Eng) (n : Nat) (f : Cell → Cell) : (e.onCell n f).rmHeld = e.rmHeld := rfl
@[simp] theorem Eng.onCell_hsHeld (e : Eng) (n : Nat) (f : Cell → Cell) : (e.onCell n f).hsHeld = e.hsHeld := rfl
@[simp] theorem Eng.onCell_i2cPtr (e : Eng) (n : Nat) (f : Cell → Cell) : (e.onCell n f).i2cPtr = e.i2cPtr := rfl
@[simp] theorem Eng.onCell_jtagIr (e : Eng) (n : Nat) (f : Cell → Cell) : (e.onCell n f).jtagIr = e.jtagIr := rfl
@[simp] theorem Eng.onCell_jtagDr (e : Eng) (n : Nat) (f : Cell → Cell) : (e.onCell n f).jtagDr = e.jtagDr := rfl
@[simp] theorem Eng.onCell_warm (e : Eng) (n : Nat) (f : Cell → Cell) : (e.onCell n f).warm = e.warm := rfl
@[simp] theorem Eng.onCell_mcores (e : Eng) (n : Nat) (f : Cell → Cell) : (e.onCell n f).mcores = e.mcores := rfl
@[simp] theorem Eng.onCell_log (e : Eng) (n : Nat) (f : Cell → Cell) : (e.onCell n f).log = e.log := rfl
@[simp] theorem Eng.onCell_logHeld (e : Eng) (n : Nat) (f : Cell → Cell) : (e.onCell n f).logHeld = e.logHeld := rfl
@[simp] theorem Eng.onCell_upd (e : Eng) (n : Nat) (f : Cell → Cell) : (e.onCell n f).upd = e.upd := rfl
@[simp] theorem Eng.onCell_nego (e : Eng) (n : Nat) (f : Cell → Cell) : (e.onCell n f).nego = e.nego := rfl
@[simp] theorem Eng.onCell_levelSet (e : Eng) (n : Nat) (f : Cell → Cell) : (e.onCell n f).levelSet = e.levelSet := rfl
@[simp] theorem Eng.onCell_banks (e : Eng) (n : Nat) (f : Cell → Cell) : (e.onCell n f).banks = e.banks := rfl
@[simp] theorem Eng.onCell_bankSwitch (e : Eng) (n : Nat) (f : Cell → Cell) : (e.onCell n f).bankSwitch = e.bankSwitch := rfl
@[simp] theorem Eng.onCell_sens (e : Eng) (n : Nat) (f : Cell → Cell) : (e.onCell n f).sens = e.sens := rfl
@[simp] theorem Eng.onCell_sampled (e : Eng) (n : Nat) (f : Cell → Cell) : (e.onCell n f).sampled = e.sampled := rfl
@[simp] theorem Eng.onCell_droops (e : Eng) (n : Nat) (f : Cell → Cell) : (e.onCell n f).droops = e.droops := rfl
@[simp] theorem Eng.onCell_activity (e : Eng) (n : Nat) (f : Cell → Cell) : (e.onCell n f).activity = e.activity := rfl
@[simp] theorem Eng.onCell_loans (e : Eng) (n : Nat) (f : Cell → Cell) : (e.onCell n f).loans = e.loans := rfl
@[simp] theorem Eng.onCell_rowsSpared (e : Eng) (n : Nat) (f : Cell → Cell) : (e.onCell n f).rowsSpared = e.rowsSpared := rfl
@[simp] theorem Eng.onCell_ledgers (e : Eng) (n : Nat) (f : Cell → Cell) : (e.onCell n f).ledgers = e.ledgers := rfl
@[simp] theorem Eng.onCell_refilled (e : Eng) (n : Nat) (f : Cell → Cell) : (e.onCell n f).refilled = e.refilled := rfl
@[simp] theorem Eng.onCell_balStaged (e : Eng) (n : Nat) (f : Cell → Cell) : (e.onCell n f).balStaged = e.balStaged := rfl
@[simp] theorem Eng.onCell_rqt (e : Eng) (n : Nat) (f : Cell → Cell) : (e.onCell n f).rqt = e.rqt := rfl
@[simp] theorem Eng.onCell_gens (e : Eng) (n : Nat) (f : Cell → Cell) : (e.onCell n f).gens = e.gens := rfl
@[simp] theorem Eng.onCell_reqs (e : Eng) (n : Nat) (f : Cell → Cell) : (e.onCell n f).reqs = e.reqs := rfl
@[simp] theorem Eng.onCell_groups (e : Eng) (n : Nat) (f : Cell → Cell) : (e.onCell n f).groups = e.groups := rfl
@[simp] theorem Eng.onCell_pages (e : Eng) (n : Nat) (f : Cell → Cell) : (e.onCell n f).pages = e.pages := rfl
@[simp] theorem Eng.onCell_nodes (e : Eng) (n : Nat) (f : Cell → Cell) : (e.onCell n f).nodes = e.nodes := rfl
@[simp] theorem Eng.onCell_lps (e : Eng) (n : Nat) (f : Cell → Cell) : (e.onCell n f).lps = e.lps := rfl
@[simp] theorem Eng.onCell_lpPages (e : Eng) (n : Nat) (f : Cell → Cell) : (e.onCell n f).lpPages = e.lpPages := rfl
@[simp] theorem Eng.onCell_lpCmd (e : Eng) (n : Nat) (f : Cell → Cell) : (e.onCell n f).lpCmd = e.lpCmd := rfl
@[simp] theorem Eng.onCell_seals (e : Eng) (n : Nat) (f : Cell → Cell) : (e.onCell n f).seals = e.seals := rfl
@[simp] theorem Eng.onCell_kdlq (e : Eng) (n : Nat) (f : Cell → Cell) : (e.onCell n f).kdlq = e.kdlq := rfl
@[simp] theorem Eng.onCell_planeq (e : Eng) (n : Nat) (f : Cell → Cell) : (e.onCell n f).planeq = e.planeq := rfl
@[simp] theorem Eng.onCell_planeCur (e : Eng) (n : Nat) (f : Cell → Cell) : (e.onCell n f).planeCur = e.planeCur := rfl
@[simp] theorem Eng.onCell_planeStop (e : Eng) (n : Nat) (f : Cell → Cell) : (e.onCell n f).planeStop = e.planeStop := rfl
@[simp] theorem Eng.onCell_tileGone (e : Eng) (n : Nat) (f : Cell → Cell) : (e.onCell n f).tileGone = e.tileGone := rfl
@[simp] theorem Eng.onCell_abOwed (e : Eng) (n : Nat) (f : Cell → Cell) : (e.onCell n f).abOwed = e.abOwed := rfl
@[simp] theorem Eng.onCell_trings (e : Eng) (n : Nat) (f : Cell → Cell) : (e.onCell n f).trings = e.trings := rfl
@[simp] theorem Eng.onCell_grams (e : Eng) (n : Nat) (f : Cell → Cell) : (e.onCell n f).grams = e.grams := rfl
@[simp] theorem Eng.onCell_gramCmd (e : Eng) (n : Nat) (f : Cell → Cell) : (e.onCell n f).gramCmd = e.gramCmd := rfl
@[simp] theorem Eng.onCell_romWait (e : Eng) (n : Nat) (f : Cell → Cell) : (e.onCell n f).romWait = e.romWait := rfl
@[simp] theorem Eng.onCell_bitq (e : Eng) (n : Nat) (f : Cell → Cell) : (e.onCell n f).bitq = e.bitq := rfl
@[simp] theorem Eng.onCell_planeWait (e : Eng) (n : Nat) (f : Cell → Cell) : (e.onCell n f).planeWait = e.planeWait := rfl
@[simp] theorem Eng.onCell_tileDown (e : Eng) (n : Nat) (f : Cell → Cell) : (e.onCell n f).tileDown = e.tileDown := rfl
@[simp] theorem Eng.onCell_tileMap (e : Eng) (n : Nat) (f : Cell → Cell) : (e.onCell n f).tileMap = e.tileMap := rfl
@[simp] theorem Eng.onCell_stageq (e : Eng) (n : Nat) (f : Cell → Cell) : (e.onCell n f).stageq = e.stageq := rfl
@[simp] theorem Eng.onCell_hrowHeld (e : Eng) (n : Nat) (f : Cell → Cell) : (e.onCell n f).hrowHeld = e.hrowHeld := rfl
@[simp] theorem Eng.onCell_hsBad (e : Eng) (n : Nat) (f : Cell → Cell) : (e.onCell n f).hsBad = e.hsBad := rfl
@[simp] theorem Eng.onCell_budget (e : Eng) (n : Nat) (f : Cell → Cell) : (e.onCell n f).budget = e.budget := rfl
@[simp] theorem Eng.onCell_restarted (e : Eng) (n : Nat) (f : Cell → Cell) : (e.onCell n f).restarted = e.restarted := rfl
@[simp] theorem Eng.onCell_lend (e : Eng) (n : Nat) (f : Cell → Cell) : (e.onCell n f).lend = e.lend := rfl
@[simp] theorem Eng.onCell_admLast (e : Eng) (n : Nat) (f : Cell → Cell) : (e.onCell n f).admLast = e.admLast := rfl
@[simp] theorem Eng.onCell_planeRan (e : Eng) (n : Nat) (f : Cell → Cell) : (e.onCell n f).planeRan = e.planeRan := rfl
@[simp] theorem Eng.onCell_scrubAt (e : Eng) (n : Nat) (f : Cell → Cell) : (e.onCell n f).scrubAt = e.scrubAt := rfl
@[simp] theorem Eng.onCell_scrubErrs (e : Eng) (n : Nat) (f : Cell → Cell) : (e.onCell n f).scrubErrs = e.scrubErrs := rfl
@[simp] theorem Eng.onCell_scrubPos (e : Eng) (n : Nat) (f : Cell → Cell) : (e.onCell n f).scrubPos = e.scrubPos := rfl
@[simp] theorem Eng.onCell_rqtBad (e : Eng) (n : Nat) (f : Cell → Cell) : (e.onCell n f).rqtBad = e.rqtBad := rfl

@[simp] theorem Eng.store_regs (e : Eng) (a : Nat) (d : List Byte) : (e.store a d).regs = e.regs := rfl
@[simp] theorem Eng.store_deny (e : Eng) (a : Nat) (d : List Byte) : (e.store a d).deny = e.deny := rfl
@[simp] theorem Eng.store_txns (e : Eng) (a : Nat) (d : List Byte) : (e.store a d).txns = e.txns := rfl
@[simp] theorem Eng.store_out (e : Eng) (a : Nat) (d : List Byte) : (e.store a d).out = e.out := rfl
@[simp] theorem Eng.store_nextId (e : Eng) (a : Nat) (d : List Byte) : (e.store a d).nextId = e.nextId := rfl
@[simp] theorem Eng.store_free (e : Eng) (a : Nat) (d : List Byte) : (e.store a d).free = e.free := rfl
@[simp] theorem Eng.store_resp (e : Eng) (a : Nat) (d : List Byte) : (e.store a d).resp = e.resp := rfl
@[simp] theorem Eng.store_latch (e : Eng) (a : Nat) (d : List Byte) : (e.store a d).latch = e.latch := rfl
@[simp] theorem Eng.store_parts (e : Eng) (a : Nat) (d : List Byte) : (e.store a d).parts = e.parts := rfl
@[simp] theorem Eng.store_cells (e : Eng) (a : Nat) (d : List Byte) : (e.store a d).cells = e.cells := rfl
@[simp] theorem Eng.store_travel (e : Eng) (a : Nat) (d : List Byte) : (e.store a d).travel = e.travel := rfl
@[simp] theorem Eng.store_joined (e : Eng) (a : Nat) (d : List Byte) : (e.store a d).joined = e.joined := rfl
@[simp] theorem Eng.store_ledJoined (e : Eng) (a : Nat) (d : List Byte) : (e.store a d).ledJoined = e.ledJoined := rfl
@[simp] theorem Eng.store_sliceHold (e : Eng) (a : Nat) (d : List Byte) : (e.store a d).sliceHold = e.sliceHold := rfl
@[simp] theorem Eng.store_sliceWait (e : Eng) (a : Nat) (d : List Byte) : (e.store a d).sliceWait = e.sliceWait := rfl
@[simp] theorem Eng.store_coreWait (e : Eng) (a : Nat) (d : List Byte) : (e.store a d).coreWait = e.coreWait := rfl
@[simp] theorem Eng.store_sliceLost (e : Eng) (a : Nat) (d : List Byte) : (e.store a d).sliceLost = e.sliceLost := rfl
@[simp] theorem Eng.store_coreMap (e : Eng) (a : Nat) (d : List Byte) : (e.store a d).coreMap = e.coreMap := rfl
@[simp] theorem Eng.store_sliceMap (e : Eng) (a : Nat) (d : List Byte) : (e.store a d).sliceMap = e.sliceMap := rfl
@[simp] theorem Eng.store_xfers (e : Eng) (a : Nat) (d : List Byte) : (e.store a d).xfers = e.xfers := rfl
@[simp] theorem Eng.store_parked (e : Eng) (a : Nat) (d : List Byte) : (e.store a d).parked = e.parked := rfl
@[simp] theorem Eng.store_sigIn (e : Eng) (a : Nat) (d : List Byte) : (e.store a d).sigIn = e.sigIn := rfl
@[simp] theorem Eng.store_dataIn (e : Eng) (a : Nat) (d : List Byte) : (e.store a d).dataIn = e.dataIn := rfl
@[simp] theorem Eng.store_chans (e : Eng) (a : Nat) (d : List Byte) : (e.store a d).chans = e.chans := rfl
@[simp] theorem Eng.store_chanMap (e : Eng) (a : Nat) (d : List Byte) : (e.store a d).chanMap = e.chanMap := rfl
@[simp] theorem Eng.store_chanLost (e : Eng) (a : Nat) (d : List Byte) : (e.store a d).chanLost = e.chanLost := rfl
@[simp] theorem Eng.store_rmCredit (e : Eng) (a : Nat) (d : List Byte) : (e.store a d).rmCredit = e.rmCredit := rfl
@[simp] theorem Eng.store_hsCredit (e : Eng) (a : Nat) (d : List Byte) : (e.store a d).hsCredit = e.hsCredit := rfl
@[simp] theorem Eng.store_rmTurn (e : Eng) (a : Nat) (d : List Byte) : (e.store a d).rmTurn = e.rmTurn := rfl
@[simp] theorem Eng.store_hsTurn (e : Eng) (a : Nat) (d : List Byte) : (e.store a d).hsTurn = e.hsTurn := rfl
@[simp] theorem Eng.store_rmHeld (e : Eng) (a : Nat) (d : List Byte) : (e.store a d).rmHeld = e.rmHeld := rfl
@[simp] theorem Eng.store_hsHeld (e : Eng) (a : Nat) (d : List Byte) : (e.store a d).hsHeld = e.hsHeld := rfl
@[simp] theorem Eng.store_i2cPtr (e : Eng) (a : Nat) (d : List Byte) : (e.store a d).i2cPtr = e.i2cPtr := rfl
@[simp] theorem Eng.store_jtagIr (e : Eng) (a : Nat) (d : List Byte) : (e.store a d).jtagIr = e.jtagIr := rfl
@[simp] theorem Eng.store_jtagDr (e : Eng) (a : Nat) (d : List Byte) : (e.store a d).jtagDr = e.jtagDr := rfl
@[simp] theorem Eng.store_warm (e : Eng) (a : Nat) (d : List Byte) : (e.store a d).warm = e.warm := rfl
@[simp] theorem Eng.store_mcores (e : Eng) (a : Nat) (d : List Byte) : (e.store a d).mcores = e.mcores := rfl
@[simp] theorem Eng.store_log (e : Eng) (a : Nat) (d : List Byte) : (e.store a d).log = e.log := rfl
@[simp] theorem Eng.store_logHeld (e : Eng) (a : Nat) (d : List Byte) : (e.store a d).logHeld = e.logHeld := rfl
@[simp] theorem Eng.store_upd (e : Eng) (a : Nat) (d : List Byte) : (e.store a d).upd = e.upd := rfl
@[simp] theorem Eng.store_nego (e : Eng) (a : Nat) (d : List Byte) : (e.store a d).nego = e.nego := rfl
@[simp] theorem Eng.store_levelSet (e : Eng) (a : Nat) (d : List Byte) : (e.store a d).levelSet = e.levelSet := rfl
@[simp] theorem Eng.store_banks (e : Eng) (a : Nat) (d : List Byte) : (e.store a d).banks = e.banks := rfl
@[simp] theorem Eng.store_bankSwitch (e : Eng) (a : Nat) (d : List Byte) : (e.store a d).bankSwitch = e.bankSwitch := rfl
@[simp] theorem Eng.store_sens (e : Eng) (a : Nat) (d : List Byte) : (e.store a d).sens = e.sens := rfl
@[simp] theorem Eng.store_sampled (e : Eng) (a : Nat) (d : List Byte) : (e.store a d).sampled = e.sampled := rfl
@[simp] theorem Eng.store_droops (e : Eng) (a : Nat) (d : List Byte) : (e.store a d).droops = e.droops := rfl
@[simp] theorem Eng.store_activity (e : Eng) (a : Nat) (d : List Byte) : (e.store a d).activity = e.activity := rfl
@[simp] theorem Eng.store_loans (e : Eng) (a : Nat) (d : List Byte) : (e.store a d).loans = e.loans := rfl
@[simp] theorem Eng.store_rowsSpared (e : Eng) (a : Nat) (d : List Byte) : (e.store a d).rowsSpared = e.rowsSpared := rfl
@[simp] theorem Eng.store_ledgers (e : Eng) (a : Nat) (d : List Byte) : (e.store a d).ledgers = e.ledgers := rfl
@[simp] theorem Eng.store_refilled (e : Eng) (a : Nat) (d : List Byte) : (e.store a d).refilled = e.refilled := rfl
@[simp] theorem Eng.store_balStaged (e : Eng) (a : Nat) (d : List Byte) : (e.store a d).balStaged = e.balStaged := rfl
@[simp] theorem Eng.store_rqt (e : Eng) (a : Nat) (d : List Byte) : (e.store a d).rqt = e.rqt := rfl
@[simp] theorem Eng.store_gens (e : Eng) (a : Nat) (d : List Byte) : (e.store a d).gens = e.gens := rfl
@[simp] theorem Eng.store_reqs (e : Eng) (a : Nat) (d : List Byte) : (e.store a d).reqs = e.reqs := rfl
@[simp] theorem Eng.store_groups (e : Eng) (a : Nat) (d : List Byte) : (e.store a d).groups = e.groups := rfl
@[simp] theorem Eng.store_pages (e : Eng) (a : Nat) (d : List Byte) : (e.store a d).pages = e.pages := rfl
@[simp] theorem Eng.store_nodes (e : Eng) (a : Nat) (d : List Byte) : (e.store a d).nodes = e.nodes := rfl
@[simp] theorem Eng.store_lps (e : Eng) (a : Nat) (d : List Byte) : (e.store a d).lps = e.lps := rfl
@[simp] theorem Eng.store_lpPages (e : Eng) (a : Nat) (d : List Byte) : (e.store a d).lpPages = e.lpPages := rfl
@[simp] theorem Eng.store_lpCmd (e : Eng) (a : Nat) (d : List Byte) : (e.store a d).lpCmd = e.lpCmd := rfl
@[simp] theorem Eng.store_seals (e : Eng) (a : Nat) (d : List Byte) : (e.store a d).seals = e.seals := rfl
@[simp] theorem Eng.store_kdlq (e : Eng) (a : Nat) (d : List Byte) : (e.store a d).kdlq = e.kdlq := rfl
@[simp] theorem Eng.store_planeq (e : Eng) (a : Nat) (d : List Byte) : (e.store a d).planeq = e.planeq := rfl
@[simp] theorem Eng.store_planeCur (e : Eng) (a : Nat) (d : List Byte) : (e.store a d).planeCur = e.planeCur := rfl
@[simp] theorem Eng.store_planeStop (e : Eng) (a : Nat) (d : List Byte) : (e.store a d).planeStop = e.planeStop := rfl
@[simp] theorem Eng.store_tileGone (e : Eng) (a : Nat) (d : List Byte) : (e.store a d).tileGone = e.tileGone := rfl
@[simp] theorem Eng.store_abOwed (e : Eng) (a : Nat) (d : List Byte) : (e.store a d).abOwed = e.abOwed := rfl
@[simp] theorem Eng.store_trings (e : Eng) (a : Nat) (d : List Byte) : (e.store a d).trings = e.trings := rfl
@[simp] theorem Eng.store_grams (e : Eng) (a : Nat) (d : List Byte) : (e.store a d).grams = e.grams := rfl
@[simp] theorem Eng.store_gramCmd (e : Eng) (a : Nat) (d : List Byte) : (e.store a d).gramCmd = e.gramCmd := rfl
@[simp] theorem Eng.store_romWait (e : Eng) (a : Nat) (d : List Byte) : (e.store a d).romWait = e.romWait := rfl
@[simp] theorem Eng.store_bitq (e : Eng) (a : Nat) (d : List Byte) : (e.store a d).bitq = e.bitq := rfl
@[simp] theorem Eng.store_planeWait (e : Eng) (a : Nat) (d : List Byte) : (e.store a d).planeWait = e.planeWait := rfl
@[simp] theorem Eng.store_tileDown (e : Eng) (a : Nat) (d : List Byte) : (e.store a d).tileDown = e.tileDown := rfl
@[simp] theorem Eng.store_tileMap (e : Eng) (a : Nat) (d : List Byte) : (e.store a d).tileMap = e.tileMap := rfl
@[simp] theorem Eng.store_stageq (e : Eng) (a : Nat) (d : List Byte) : (e.store a d).stageq = e.stageq := rfl
@[simp] theorem Eng.store_hrowHeld (e : Eng) (a : Nat) (d : List Byte) : (e.store a d).hrowHeld = e.hrowHeld := rfl
@[simp] theorem Eng.store_hsBad (e : Eng) (a : Nat) (d : List Byte) : (e.store a d).hsBad = e.hsBad := rfl
@[simp] theorem Eng.store_budget (e : Eng) (a : Nat) (d : List Byte) : (e.store a d).budget = e.budget := rfl
@[simp] theorem Eng.store_restarted (e : Eng) (a : Nat) (d : List Byte) : (e.store a d).restarted = e.restarted := rfl
@[simp] theorem Eng.store_lend (e : Eng) (a : Nat) (d : List Byte) : (e.store a d).lend = e.lend := rfl
@[simp] theorem Eng.store_admLast (e : Eng) (a : Nat) (d : List Byte) : (e.store a d).admLast = e.admLast := rfl
@[simp] theorem Eng.store_planeRan (e : Eng) (a : Nat) (d : List Byte) : (e.store a d).planeRan = e.planeRan := rfl
@[simp] theorem Eng.store_scrubAt (e : Eng) (a : Nat) (d : List Byte) : (e.store a d).scrubAt = e.scrubAt := rfl
@[simp] theorem Eng.store_scrubErrs (e : Eng) (a : Nat) (d : List Byte) : (e.store a d).scrubErrs = e.scrubErrs := rfl
@[simp] theorem Eng.store_scrubPos (e : Eng) (a : Nat) (d : List Byte) : (e.store a d).scrubPos = e.scrubPos := rfl
@[simp] theorem Eng.store_rqtBad (e : Eng) (a : Nat) (d : List Byte) : (e.store a d).rqtBad = e.rqtBad := rfl

end Sys2Proof.Machine
end

