-- ==== Sys2Proof/Laws/Ops.lean ====
section
/-! SUPPORT. What each shared operation over registers and host memory can do, said once: a read after a write, what a write leaves alone, and that every memory operation keeps the canonical form. -/

namespace Sys2Proof.Machine

open Sys2Proof

/-! ## Registers -/

theorem find_kdel (m : KMap Word) {a b : Nat} (h : b ≠ a) :
    ((kdel m a).find? fun e => decide (e.1 = b)) = m.find? fun e => decide (e.1 = b) := by
  induction m with
  | nil => rfl
  | cons x r ih =>
    obtain ⟨k, v⟩ := x
    by_cases hk : k = a
    · subst hk
      have : kdel ((k, v) :: r) k = kdel r k := by simp [kdel]
      rw [this, ih]
      simp [Ne.symm h]
    · have : kdel ((k, v) :: r) a = (k, v) :: kdel r a := by simp [kdel, hk]
      rw [this]
      by_cases hb : k = b <;> simp [hb, ih]

theorem find_kdel_self (m : KMap Word) (a : Nat) : ((kdel m a).find? fun e => decide (e.1 = a)) = none := by
  simp only [List.find?_eq_none, decide_eq_true_eq]
  exact fun e he => mem_kdel_ne he

theorem find_kins_self (m : KMap Word) (a : Nat) (v : Word) (h : ∀ e ∈ m, e.1 ≠ a) :
    ((kins a v m).find? fun e => decide (e.1 = a)) = some (a, v) := by
  induction m with
  | nil => simp [kins]
  | cons x r ih =>
    obtain ⟨k, w⟩ := x
    have hk : k ≠ a := h (k, w) (by simp)
    by_cases hlt : a < k
    · simp [kins, hlt]
    · simp only [kins, hlt, if_false, List.find?_cons, hk, decide_false]
      exact ih fun e he => h e (by simp [he])

theorem find_kins_ne (m : KMap Word) {a b : Nat} (v : Word) (h : b ≠ a) :
    ((kins a v m).find? fun e => decide (e.1 = b)) = m.find? fun e => decide (e.1 = b) := by
  induction m with
  | nil => simp [kins, Ne.symm h]
  | cons x r ih =>
    obtain ⟨k, w⟩ := x
    by_cases hlt : a < k
    · simp [kins, hlt, Ne.symm h]
    · by_cases hb : k = b
      · subst hb; simp [kins, hlt]
      · simp [kins, hlt, hb, ih]

/-- A register reads as it was written. -/
@[simp] theorem Eng.rd_wr_self (e : Eng) (a : Nat) (v : Word) : (e.wr a v).rd a = v := by
  unfold Eng.rd Eng.wr rdIn
  by_cases h : v = resetWord a
  · simp [h, find_kdel_self]
  · simp [h, find_kins_self _ a v fun e he => mem_kdel_ne he]

/-- A register write leaves every other register alone. -/
theorem Eng.rd_wr_ne (e : Eng) {a b : Nat} (v : Word) (h : b ≠ a) : (e.wr a v).rd b = e.rd b := by
  unfold Eng.rd Eng.wr rdIn
  by_cases hv : v = resetWord a
  · simp [hv, find_kdel _ h]
  · simp [hv, find_kins_ne _ v h, find_kdel _ h]

/-- Setting a field writes one register. -/
theorem Eng.rd_setF_self (e : Eng) (a hi lo n : Nat) :
    (e.setF a hi lo n).rd a = BitVec.ofNat 32 (putBits (e.rd a).toNat hi lo n) := Eng.rd_wr_self _ _ _

theorem Eng.rd_setF_ne (e : Eng) {a b : Nat} (hi lo n : Nat) (h : b ≠ a) : (e.setF a hi lo n).rd b = e.rd b :=
  Eng.rd_wr_ne _ _ h

theorem Eng.rd_ev_ne (e : Eng) {a b : Nat} (i : Nat) (h : b ≠ a) : (e.ev a i).rd b = e.rd b := Eng.rd_setF_ne _ _ _ _ h

/-! ## Bit fields -/

theorem bitsOf_lt (v hi lo : Nat) : bitsOf v hi lo < 2 ^ (hi + 1 - lo) := Nat.mod_lt _ (by positivity)

/-- A field reads as it was put. -/
theorem bitsOf_putBits (v hi lo n : Nat) : bitsOf (putBits v hi lo n) hi lo = n % 2 ^ (hi + 1 - lo) := by
  unfold putBits bitsOf
  have h2 : v = 2 ^ lo * (v / 2 ^ lo) + v % 2 ^ lo := (Nat.div_add_mod v (2 ^ lo)).symm
  have h3 : v / 2 ^ lo = 2 ^ (hi + 1 - lo) * (v / 2 ^ lo / 2 ^ (hi + 1 - lo)) + v / 2 ^ lo % 2 ^ (hi + 1 - lo) :=
    (Nat.div_add_mod _ _).symm
  set q := v / 2 ^ lo with hq
  set b := q % 2 ^ (hi + 1 - lo) with hb
  set c := q / 2 ^ (hi + 1 - lo) with hc
  have hlo : v % 2 ^ lo < 2 ^ lo := Nat.mod_lt _ (by positivity)
  have hsub : v - b * 2 ^ lo = 2 ^ lo * (2 ^ (hi + 1 - lo) * c) + v % 2 ^ lo := by
    have : v = 2 ^ lo * (2 ^ (hi + 1 - lo) * c) + v % 2 ^ lo + b * 2 ^ lo := by
      calc v = 2 ^ lo * q + v % 2 ^ lo := h2
        _ = 2 ^ lo * (2 ^ (hi + 1 - lo) * c + b) + v % 2 ^ lo := by rw [← h3]
        _ = _ := by ring
    omega
  rw [hsub]
  have : 2 ^ lo * (2 ^ (hi + 1 - lo) * c) + v % 2 ^ lo + n % 2 ^ (hi + 1 - lo) * 2 ^ lo =
      v % 2 ^ lo + 2 ^ lo * (2 ^ (hi + 1 - lo) * c + n % 2 ^ (hi + 1 - lo)) := by ring
  rw [this, Nat.add_mul_div_left _ _ (by positivity), Nat.div_eq_of_lt hlo, Nat.zero_add, Nat.mul_add_mod, Nat.mod_mod]

/-! ## Host memory -/

/-- Every write to host memory keeps the canonical form. -/
theorem Memory.wf_memStore (m : List Host.Cell) (a : Nat) (d : List Byte) (h : Memory.wf m = true) :
    Memory.wf (memStore m a d) = true := by
  induction d generalizing m a with
  | nil => exact h
  | cons b r ih =>
    refine ih _ _ ?_
    simp only [Memory.wf, Bool.and_eq_true, List.all_eq_true, decide_eq_true_eq] at h ⊢
    refine ⟨kwf_kset _ _ _ _ h.1, fun e he => ?_⟩
    by_cases hb : b = 0
    · simp only [kset, hb, if_true] at he
      exact h.2 e (List.mem_filter.mp he).1
    · simp only [kset, hb, if_false] at he
      rcases mem_kins he with rfl | he
      · exact Nat.mod_lt _ (by norm_num)
      · exact h.2 e (List.mem_filter.mp he).1

theorem Memory.wf_store (e : Eng) (a : Nat) (d : List Byte) (h : Memory.wf e.mem = true) :
    Memory.wf (e.store a d).mem = true := Memory.wf_memStore _ _ _ h

theorem Memory.wf_storeNum (e : Eng) (a n v : Nat) (h : Memory.wf e.mem = true) :
    Memory.wf (e.storeNum a n v).mem = true := Memory.wf_memStore _ _ _ h

/-- Host memory at reset stands in its canonical form. -/
theorem Memory.wf_reset : Memory.wf State.reset.eng.mem = true := rfl

/-- A write leaves every byte outside it alone. -/
theorem kget_memStore_out (m : List Host.Cell) (a x : Nat) (d : List Byte)
    (h : ∀ i, i < d.length → x ≠ (a + i) % 2 ^ 64) : kget 0 (memStore m a d) x = kget 0 m x := by
  induction d generalizing m a with
  | nil => rfl
  | cons b r ih =>
    rw [memStore, ih]
    · exact kget_kset_ne _ _ _ (by simpa using h 0 (by simp))
    · intro i hi
      have := h (i + 1) (by simp; omega)
      rwa [show a + (i + 1) = a + 1 + i by omega] at this

theorem Eng.byte_store_out (e : Eng) (a x : Nat) (d : List Byte)
    (h : ∀ i, i < d.length → x % 2 ^ 64 ≠ (a + i) % 2 ^ 64) : (e.store a d).byte x = e.byte x :=
  kget_memStore_out _ _ _ _ h

/-- A byte reads as it was written. -/
theorem Eng.byte_store_in (e : Eng) (a i : Nat) (d : List Byte) (hd : d.length ≤ 2 ^ 64) (hi : i < d.length) :
    (e.store a d).byte (a + i) = d[i] := by
  show kget 0 (memStore e.mem a d) ((a + i) % 2 ^ 64) = d[i]
  generalize e.mem = m
  induction d generalizing m a i with
  | nil => simp at hi
  | cons b r ih =>
    simp only [List.length_cons] at hd hi
    rw [memStore]
    match i with
    | 0 =>
      rw [kget_memStore_out]
      · simp
      · intro j hj heq
        have h1 : (a + 1 + j) % 2 ^ 64 = a % 2 ^ 64 := by rw [← heq]; simp
        omega
    | i + 1 =>
      have := ih (a + 1) i (by omega) (by omega) (kset 0 m (a % 2 ^ 64) b)
      rw [show a + 1 + i = a + (i + 1) by omega] at this
      simpa using this

/-! ## Partitions, contexts and cells -/

@[simp] theorem Eng.part_onPart_self (e : Eng) (p : Nat) (f : Partn → Partn) : (e.onPart p f).part p = f (e.part p) :=
  kget_kmod_self _ _ _ _

theorem Eng.part_onPart_ne (e : Eng) {p q : Nat} (f : Partn → Partn) (h : q ≠ p) : (e.onPart p f).part q = e.part q :=
  kget_kmod_ne _ _ _ h

@[simp] theorem Partn.ctx_onCtx_self (q : Partn) (c : Nat) (f : Ctx → Ctx) : (q.onCtx c f).ctx c = f (q.ctx c) :=
  kget_kmod_self _ _ _ _

theorem Partn.ctx_onCtx_ne (q : Partn) {c d : Nat} (f : Ctx → Ctx) (h : d ≠ c) : (q.onCtx c f).ctx d = q.ctx d :=
  kget_kmod_ne _ _ _ h

@[simp] theorem Eng.ctx_onCtx_self (e : Eng) (p c : Nat) (f : Ctx → Ctx) : (e.onCtx p c f).ctx p c = f (e.ctx p c) := by
  simp [Eng.ctx, Eng.onCtx]

@[simp] theorem Eng.cell_onCell_self (e : Eng) (n : Nat) (f : Cell → Cell) : (e.onCell n f).cell n = f (e.cell n) :=
  kget_kmod_self _ _ _ _

theorem Eng.cell_onCell_ne (e : Eng) {n m : Nat} (f : Cell → Cell) (h : m ≠ n) : (e.onCell n f).cell m = e.cell m :=
  kget_kmod_ne _ _ _ h

/-! ## Scalar registers and predicates (R75) -/

@[simp] theorem Ctx.sreg_zero (c : Ctx) : c.sreg 0 = 0 := rfl
@[simp] theorem Ctx.setS_zero (c : Ctx) (v : Dword) : c.setS 0 v = c := rfl

theorem Ctx.sreg_setS_self (c : Ctx) {r : Nat} (v : Dword) (h : r ≠ 0) : (c.setS r v).sreg r = v := by
  simp [Ctx.sreg, Ctx.setS, h]

theorem Ctx.sreg_setS_ne (c : Ctx) {r k : Nat} (v : Dword) (h : k ≠ r) : (c.setS r v).sreg k = c.sreg k := by
  by_cases hr : r = 0
  · simp [Ctx.setS, hr]
  · simp [Ctx.sreg, Ctx.setS, hr, kget_kset_ne _ _ _ h]

@[simp] theorem Ctx.pred_zero (c : Ctx) : c.pred 0 = true := rfl
@[simp] theorem Ctx.setP_zero (c : Ctx) (v : Bool) : c.setP 0 v = c := rfl

end Sys2Proof.Machine
end

