-- ==== Sys2Proof/Laws/Slot.lean ====
section
/-! SUPPORT. What the issue slot can do to the engine, said once (R150, R151): giving it, giving it up and handing it over change no register of a context, and of the window registers only those of `slotRegs`; and from there what completing an instruction changes. -/

namespace Sys2Proof.Machine

open Sys2Proof

/-! ## Frames compose -/

theorem Ctx.sameRegs_refl (x : Ctx) : x.sameRegs x := ⟨rfl, rfl, rfl, rfl, rfl, rfl, rfl, rfl⟩

theorem Ctx.sameRegs_trans {x y z : Ctx} (h : x.sameRegs y) (k : y.sameRegs z) : x.sameRegs z := by
  obtain ⟨h1, h2, h3, h4, h5, h6, h7, h8⟩ := h
  obtain ⟨k1, k2, k3, k4, k5, k6, k7, k8⟩ := k
  exact ⟨k1.trans h1, k2.trans h2, k3.trans h3, k4.trans h4, k5.trans h5, k6.trans h6, k7.trans h7, k8.trans h8⟩

theorem Eng.frame_refl (e : Eng) (p c : Nat) : e.frame e p c :=
  ⟨rfl, rfl, rfl, rfl, rfl, rfl, rfl, rfl, rfl, rfl, rfl, rfl, fun _ _ => rfl, fun _ _ => Ctx.sameRegs_refl _, rfl, rfl, rfl, rfl, fun _ _ => rfl⟩

theorem Eng.frame_trans {e f g : Eng} {p c : Nat} (h : e.frame f p c) (k : f.frame g p c) : e.frame g p c := by
  obtain ⟨h1, h2, h3, h4, h5, h6, h7, h8, h9, h10, h11, h12, h13, h14, h15, h16, h17, h18, h19⟩ := h
  obtain ⟨k1, k2, k3, k4, k5, k6, k7, k8, k9, k10, k11, k12, k13, k14, k15, k16, k17, k18, k19⟩ := k
  exact ⟨k1.trans h1, k2.trans h2, k3.trans h3, k4.trans h4, k5.trans h5, k6.trans h6, k7.trans h7, k8.trans h8, k9.trans h9, k10.trans h10,
    k11.trans h11, k12.trans h12, fun q hq => (k13 q hq).trans (h13 q hq), fun d hd => Ctx.sameRegs_trans (h14 d hd) (k14 d hd), k15.trans h15,
    k16.trans h16, k17.trans h17, k18.trans h18, fun a ha => (k19 a ha).trans (h19 a ha)⟩

/-- A change of window registers of `slotRegs` only. -/
theorem Eng.frame_setF (e : Eng) (p c a hi lo n : Nat) (h : a ∈ slotRegs p) : e.frame (e.setF a hi lo n) p c :=
  ⟨rfl, rfl, rfl, rfl, rfl, rfl, rfl, rfl, rfl, rfl, rfl, rfl, fun _ _ => rfl, fun _ _ => Ctx.sameRegs_refl _, rfl, rfl, rfl, rfl,
    fun x hx => Eng.rd_setF_ne e hi lo n (by rintro rfl; exact hx h)⟩

/-- A change of the context itself. -/
theorem Eng.frame_onCtx_self (e : Eng) (p c : Nat) (f : Ctx → Ctx) : e.frame (e.onCtx p c f) p c := by
  refine ⟨rfl, rfl, rfl, rfl, rfl, rfl, rfl, rfl, rfl, rfl, rfl, rfl, fun q hq => Eng.part_onPart_ne e _ hq, fun d hd => ?_, ?_, ?_, ?_, ?_, fun _ _ => rfl⟩
  · simp [Eng.onCtx, Eng.ctx, Partn.ctx_onCtx_ne _ _ hd, Ctx.sameRegs_refl]
  all_goals simp [Eng.onCtx, Partn.onCtx]

/-- A change of who holds the slot. -/
theorem Eng.frame_slot (e : Eng) (p c : Nat) (f : Partn → Partn) (h : ∀ q, (f q).ctxs = q.ctxs ∧ (f q).items = q.items ∧
    (f q).delays = q.delays ∧ (f q).steps = q.steps ∧ (f q).batch = q.batch) : e.frame (e.onPart p f) p c := by
  refine ⟨rfl, rfl, rfl, rfl, rfl, rfl, rfl, rfl, rfl, rfl, rfl, rfl, fun q hq => Eng.part_onPart_ne e _ hq, fun d _ => ?_, ?_, ?_, ?_, ?_, fun _ _ => rfl⟩
  · simp [Eng.ctx, Partn.ctx, (h _).1, Ctx.sameRegs_refl]
  · simp [(h _).2.1]
  · simp [(h _).2.2.1]
  · simp [(h _).2.2.2.1]
  · simp [(h _).2.2.2.2]

/-- A change of a context's state alone. -/
theorem Eng.frame_onCtx_st (e : Eng) (p c k : Nat) (v : CtxSt) : e.frame (e.onCtx p k fun x => { x with st := v }) p c := by
  refine ⟨rfl, rfl, rfl, rfl, rfl, rfl, rfl, rfl, rfl, rfl, rfl, rfl, fun q hq => Eng.part_onPart_ne e _ hq, fun d _ => ?_, ?_, ?_, ?_, ?_, fun _ _ => rfl⟩
  · by_cases hd : d = k
    · subst hd; simp only [Eng.ctx_onCtx_self]; exact ⟨rfl, rfl, rfl, rfl, rfl, rfl, rfl, rfl⟩
    · simp [Eng.onCtx, Eng.ctx, Partn.ctx_onCtx_ne _ _ hd, Ctx.sameRegs_refl]
  all_goals simp [Eng.onCtx, Partn.onCtx]

theorem Eng.sameRegs_onCtx_st (e : Eng) (p k d : Nat) (v : CtxSt) : (e.ctx p d).sameRegs ((e.onCtx p k fun x => { x with st := v }).ctx p d) := by
  by_cases hd : d = k
  · subst hd; simp only [Eng.ctx_onCtx_self]; exact ⟨rfl, rfl, rfl, rfl, rfl, rfl, rfl, rfl⟩
  · simp [Eng.onCtx, Eng.ctx, Partn.ctx_onCtx_ne _ _ hd, Ctx.sameRegs_refl]

theorem Eng.sameRegs_onPart (e : Eng) (p d : Nat) (f : Partn → Partn) (h : ∀ q, (f q).ctxs = q.ctxs) :
    (e.ctx p d).sameRegs ((e.onPart p f).ctx p d) := by
  simp [Eng.ctx, Partn.ctx, h, Ctx.sameRegs_refl]

/-! ## Ungating, giving and giving up the slot -/

theorem Eng.showPower_frame (e : Eng) (p c d : Nat) : e.frame (e.showPower d) p c :=
  Eng.frame_trans (Eng.frame_trans (Eng.frame_setF _ p c _ _ _ _ (by simp [slotRegs])) (Eng.frame_setF _ p c _ _ _ _ (by simp [slotRegs])))
    (Eng.frame_setF _ p c _ _ _ _ (by simp [slotRegs]))

/-- Ungating a core changes its gate, its loan and the power registers only, and no context. -/
theorem Eng.ungate_frame (e : Eng) (p c : Nat) : e.frame (e.ungate p) p c ∧ (e.ungate p).parts = e.parts := by
  unfold Eng.ungate
  split
  · refine ⟨Eng.frame_trans ?_ (Eng.showPower_frame _ p c _), rfl⟩
    obtain ⟨h1, h2, h3, h4, h5, h6, h7, h8, h9, h10, h11, h12, h13, h14, h15, h16, h17, h18, h19⟩ :=
      Eng.frame_setF e p c Reg.pwrGated p p 0 (by simp [slotRegs])
    exact ⟨h1, h2, h3, h4, h5, h6, h7, h8, h9, h10, h11, h12, h13, h14, h15, h16, h17, h18, h19⟩
  · exact ⟨Eng.frame_refl _ _ _, rfl⟩

/-- Giving the free issue slot changes no register of any context. -/
theorem Eng.dispatch_frame (e : Eng) (p c : Nat) : e.frame (e.dispatch p) p c ∧ ∀ d, (e.ctx p d).sameRegs ((e.dispatch p).ctx p d) := by
  unfold Eng.dispatch
  split
  · exact ⟨Eng.frame_refl _ _ _, fun _ => Ctx.sameRegs_refl _⟩
  · split
    · exact ⟨Eng.frame_refl _ _ _, fun _ => Ctx.sameRegs_refl _⟩
    · rename_i l k _
      obtain ⟨hu, hp⟩ := Eng.ungate_frame e p c
      have hsw : ∀ g : Eng, g.parts = e.parts → e.frame g p c →
          e.frame ((g.onCtx p k fun x => { x with st := .running }).onPart p fun q =>
            { q with slot := some k, lastSlot := some k, lastAt := kset 0 q.lastAt l (k + 1) }) p c ∧
          ∀ d, (e.ctx p d).sameRegs (((g.onCtx p k fun x => { x with st := .running }).onPart p fun q =>
            { q with slot := some k, lastSlot := some k, lastAt := kset 0 q.lastAt l (k + 1) }).ctx p d) := by
        intro g hg hf
        refine ⟨Eng.frame_trans (Eng.frame_trans hf (Eng.frame_onCtx_st g p c k _)) (Eng.frame_slot _ p c _ fun q => ⟨rfl, rfl, rfl, rfl, rfl⟩), fun d => ?_⟩
        have h0 : e.ctx p d = g.ctx p d := by simp [Eng.ctx, Eng.part, hg]
        rw [h0]
        exact Ctx.sameRegs_trans (Eng.sameRegs_onCtx_st g p k d _) (Eng.sameRegs_onPart _ p d _ fun q => rfl)
      dsimp only
      split
      · exact hsw _ hp hu
      · exact hsw _ hp (Eng.frame_trans hu (Eng.frame_setF _ p c _ _ _ _ (by simp [slotRegs])))

/-- Giving up the issue slot without choosing again. -/
theorem Eng.vacate_frame (e : Eng) (p c k : Nat) : e.frame (e.vacate p k) p c ∧ ∀ d, (e.ctx p d).sameRegs ((e.vacate p k).ctx p d) := by
  unfold Eng.vacate
  split
  · exact ⟨Eng.frame_slot e p c (fun q => { q with slot := none }) fun q => ⟨rfl, rfl, rfl, rfl, rfl⟩,
      fun d => Eng.sameRegs_onPart e p d (fun q => { q with slot := none }) fun q => rfl⟩
  · exact ⟨Eng.frame_refl _ _ _, fun _ => Ctx.sameRegs_refl _⟩

/-- Giving up the issue slot. -/
theorem Eng.release_frame (e : Eng) (p c k : Nat) : e.frame (e.release p k) p c ∧ ∀ d, (e.ctx p d).sameRegs ((e.release p k).ctx p d) := by
  obtain ⟨hv, hw⟩ := Eng.vacate_frame e p c k
  obtain ⟨hf, hs⟩ := Eng.dispatch_frame (e.vacate p k) p c
  exact ⟨Eng.frame_trans hv hf, fun d => Ctx.sameRegs_trans (hw d) (hs d)⟩

/-- A handover. -/
theorem Eng.switchOut_frame (e : Eng) (p c k : Nat) : e.frame (e.switchOut p k) p c ∧ ∀ d, (e.ctx p d).sameRegs ((e.switchOut p k).ctx p d) := by
  unfold Eng.switchOut
  obtain ⟨hf, hs⟩ := Eng.dispatch_frame ((e.onCtx p k fun x => { x with st := .ready }).onPart p fun q => { q with slot := none }) p c
  exact ⟨Eng.frame_trans (Eng.frame_trans (Eng.frame_onCtx_st e p c k .ready) (Eng.frame_slot _ p c (fun q => { q with slot := none }) fun q => ⟨rfl, rfl, rfl, rfl, rfl⟩)) hf,
    fun d => Ctx.sameRegs_trans (Ctx.sameRegs_trans (Eng.sameRegs_onCtx_st e p k d .ready) (Eng.sameRegs_onPart _ p d (fun q => { q with slot := none }) fun q => rfl)) (hs d)⟩

/-- A handover that PREEMPTS counts where it changes the context. -/
theorem Eng.preempt_frame (e : Eng) (p c k : Nat) : e.frame (e.preempt p k) p c ∧ ∀ d, (e.ctx p d).sameRegs ((e.preempt p k).ctx p d) := by
  unfold Eng.preempt
  obtain ⟨hf, hs⟩ := Eng.switchOut_frame e p c k
  dsimp only
  split
  · exact ⟨hf, hs⟩
  · exact ⟨Eng.frame_trans hf (Eng.frame_setF _ p c _ _ _ _ (by simp [slotRegs])), hs⟩

/-- An instruction boundary with no stop pending changes no register of any context, and nothing but who holds the slot. -/
theorem Eng.boundary_frame (b : BeatUnit) (e : Eng) (p c : Nat) (h : (e.ctx p c).stopReq = none) :
    e.frame (e.boundary b p c) p c ∧ ∀ d, (e.ctx p d).sameRegs ((e.boundary b p c).ctx p d) := by
  unfold Eng.boundary
  dsimp only
  rw [h]
  dsimp only
  split
  · exact Eng.release_frame e p c c
  · split
    · exact Eng.preempt_frame e p c c
    · exact Eng.dispatch_frame e p c

/-- An instruction that R94 lists gives up the slot as it starts: no register of any context changes. -/
theorem Eng.giveSlot_frame (e : Eng) (p c : Nat) :
    e.frame (e.giveSlot p c) p c ∧ ∀ d, (e.ctx p d).sameRegs ((e.giveSlot p c).ctx p d) := by
  unfold Eng.giveSlot
  obtain ⟨hf, hs⟩ := Eng.release_frame (e.onCtx p c fun x => { x with pend := some .issue }) p c c
  refine ⟨Eng.frame_trans (Eng.frame_onCtx_self e p c _) hf, fun d => Ctx.sameRegs_trans ?_ (hs d)⟩
  by_cases hd : d = c
  · subst hd; simp only [Eng.ctx_onCtx_self]; exact ⟨rfl, rfl, rfl, rfl, rfl, rfl, rfl, rfl⟩
  · simp [Eng.onCtx, Eng.ctx, Partn.ctx_onCtx_ne _ _ hd, Ctx.sameRegs_refl]

/-! ## Completing an instruction -/

/-- Completing an instruction with no stop pending: its effect on its own context with the program counter advanced, and
nothing else of the engine but who holds the slot. -/
theorem Eng.finish_frame (b : BeatUnit) (e : Eng) (p c : Nat) (f : Ctx → Ctx) (h : (f (e.ctx p c)).stopReq = none) :
    e.frame (e.finish b p c f) p c ∧
    Ctx.sameRegs { f (e.ctx p c) with pc := (f (e.ctx p c)).pc + 8 } ((e.finish b p c f).ctx p c) := by
  unfold Eng.finish
  obtain ⟨hf, hs⟩ := Eng.boundary_frame b (e.onCtx p c fun x => let y := f x; { y with pc := y.pc + 8, pend := none }) p c (by simpa using h)
  refine ⟨Eng.frame_trans (Eng.frame_onCtx_self e p c _) hf, Ctx.sameRegs_trans ?_ (hs c)⟩
  simp only [Eng.ctx_onCtx_self]
  exact ⟨rfl, rfl, rfl, rfl, rfl, rfl, rfl, rfl⟩

/-- An instruction that starts to wait changes no register of its context. -/
theorem Eng.wait_frame (b : BeatUnit) (e : Eng) (p c : Nat) (k : Pend) (h : (e.ctx p c).stopReq = none) :
    e.frame (e.wait_ b p c k) p c ∧ (e.ctx p c).sameRegs ((e.wait_ b p c k).ctx p c) := by
  unfold Eng.wait_
  obtain ⟨hf, hs⟩ := Eng.boundary_frame b (e.onCtx p c fun x => { x with pend := some k }) p c (by simpa using h)
  refine ⟨Eng.frame_trans (Eng.frame_onCtx_self e p c _) hf, Ctx.sameRegs_trans ?_ (hs c)⟩
  simp only [Eng.ctx_onCtx_self]
  exact ⟨rfl, rfl, rfl, rfl, rfl, rfl, rfl, rfl⟩

/-- Completing an instruction with a scalar result (R75). -/
theorem Eng.finS_frame (b : BeatUnit) (e : Eng) (i : Ins) (v : Dword) (h : (e.ctx i.p i.c).stopReq = none) :
    e.frame (e.finS b i v) i.p i.c ∧ (e.ctx i.p i.c).wroteS ((e.finS b i v).ctx i.p i.c) i.dst.toNat v := by
  have hset : ∀ x : Ctx, (x.setS i.dst.toNat v).stopReq = x.stopReq := by intro x; unfold Ctx.setS; split <;> rfl
  obtain ⟨hf, hs⟩ := Eng.finish_frame b e i.p i.c (fun x => x.setS i.dst.toNat v) (by rw [hset]; exact h)
  refine ⟨hf, ?_⟩
  obtain ⟨h1, h2, h3, h4, h5, h6, h7, h8⟩ := hs
  have hk : ∀ (x : Ctx), (x.setS i.dst.toNat v).pc = x.pc ∧ (x.setS i.dst.toNat v).p = x.p ∧ (x.setS i.dst.toNat v).v = x.v ∧
    (x.setS i.dst.toNat v).elen = x.elen ∧ (x.setS i.dst.toNat v).fault = x.fault ∧ (x.setS i.dst.toNat v).semtab = x.semtab ∧
    (x.setS i.dst.toNat v).scratch = x.scratch := by intro x; unfold Ctx.setS; split <;> exact ⟨rfl,rfl,rfl,rfl,rfl,rfl,rfl⟩
  obtain ⟨k1,k2,k3,k4,k5,k6,k7⟩ := hk (e.ctx i.p i.c)
  refine ⟨fun k => ?_, h6.trans (by rw [k1]), h2.trans k2, h3.trans k3, h4.trans k4, h5.trans k5, h7.trans k6, h8.trans k7⟩
  have : ((e.finS b i v).ctx i.p i.c).sreg k = ((e.ctx i.p i.c).setS i.dst.toNat v).sreg k := by
    unfold Ctx.sreg; unfold Eng.finS; rw [h1]
  rw [this]
  by_cases hk0 : k = 0
  · simp [hk0]
  · simp only [hk0, if_false]
    by_cases hkd : k = i.dst.toNat
    · subst hkd; simp [Ctx.sreg_setS_self _ _ hk0]
    · simp [hkd, Ctx.sreg_setS_ne _ _ hkd]

theorem Ctx.pred_setP_self (c : Ctx) {r : Nat} (v : Bool) (h0 : r ≠ 0) (h : r < 8) : (c.setP r v).pred r = v := by
  unfold Ctx.pred Ctx.setP
  simp only [h0, if_false]
  cases v <;> simp [h]

theorem Ctx.pred_setP_ne (c : Ctx) {r k : Nat} (v : Bool) (h : k ≠ r) (hr : r < 8) (hk : k < 8) : (c.setP r v).pred k = c.pred k := by
  unfold Ctx.pred Ctx.setP
  by_cases h0 : r = 0
  · simp [h0]
  · by_cases k0 : k = 0
    · simp [k0]
    · simp only [h0, k0, if_false]
      cases v
      · simp only [Bool.false_eq_true, if_false, BitVec.getLsbD_and, BitVec.getLsbD_not, BitVec.getLsbD_shiftLeft]
        have : ¬ (k - r = 0 ∧ r ≤ k) := by omega
        by_cases hkr : k < r
        · simp [hk, hkr]
        · have : k - r ≠ 0 := by omega
          simp [hk, this]
      · simp only [if_true, BitVec.getLsbD_or, BitVec.getLsbD_shiftLeft]
        by_cases hkr : k < r
        · simp [hk, hkr]
        · have : k - r ≠ 0 := by omega
          simp [hk, this]

/-! ## Running an instruction (R92, R93, R98) -/

/-- An instruction that a context issues, whose encoding is good and whose guard reads 1, runs its body. -/
theorem runIns_body (self : Instr) (n : Enc) (i : Ins) (body : BeatUnit → Eng → Eng) (s : State) (h : s.issues i) (hn : n.illegal i = none) :
    runIns self n i none body s =
      .next { s with eng := body s.beat ((if n.waits then s.eng.giveSlot i.p i.c else s.eng).onCtx i.p i.c fun x => { x with pend := none }) } := by
  obtain ⟨h1, h2, h3, h4, h5, h6, h7, h8, h9, h10, h11⟩ := h
  have hr : s.eng.insReady i self = true := by simp [Eng.insReady, h1, h2, h3, h4, h5, h6, h7]
  simp [runIns, State.onEng, hr, h9, hn, h10, h11]

/-- An instruction whose guard reads 0 only completes. -/
theorem runIns_off (self : Instr) (n : Enc) (i : Ins) (body : BeatUnit → Eng → Eng) (s : State) (h : s.issues { i with pred := 0 })
    (hg : (s.eng.ctx i.p i.c).pred i.pred.toNat = false) (hn : n.illegal i = none) :
    runIns self n i none body s = .next { s with eng := s.eng.finish s.beat i.p i.c id } := by
  obtain ⟨h1, h2, h3, h4, h5, h6, h7, h8, h9, _, h11⟩ := h
  have k11 : i.odd = none := h11
  have k1 : (s.eng.part i.p).coreDown = false := h1
  have k2 : (s.eng.part i.p).coreLost = false := h2
  have k4 : s.eng.running i.p = true := h4
  have k5 : (s.eng.part i.p).slot = some i.c := h5
  have k6 : (s.eng.ctx i.p i.c).st = .running := h6
  have k7 : (s.eng.ctx i.p i.c).pend = none := h7
  have k9 : s.eng.fetchBad i.p i.c = false := h9
  have hr : s.eng.insReady i self = true := by simp [Eng.insReady, k1, k2, h3, k4, k5, k6, k7]
  simp [runIns, State.onEng, hr, k9, k11, hn, hg]

/-- Whatever the instruction, running it changes nothing but the engine. -/
theorem runIns_next (self : Instr) (n : Enc) (i : Ins) (more : Option Nat) (body : BeatUnit → Eng → Eng) (s : State) :
    ∃ e, runIns self n i more body s = .next { s with eng := e } := ⟨_, rfl⟩

end Sys2Proof.Machine
end

