-- ==== Sys2Proof/Laws/Fault.lean ====
section
/-! SUPPORT. Taking a fault of a context, and who may write the window, each said once (R56, R96, R150, R562, R572). -/

namespace Sys2Proof.Machine

open Sys2Proof

/-! ## Who gets the issue slot (R150) -/

/-- The slot is given to a context that can issue. -/
theorem Eng.bestCtx_canIssue (e : Eng) {p l k : Nat} (h : e.bestCtx p = some (l, k)) : (e.ctx p k).canIssue = true ∧ e.prio p k = l := by
  unfold Eng.bestCtx at h
  obtain ⟨l', _, h2⟩ := List.exists_of_findSome?_eq_some h
  obtain ⟨k', hk, heq⟩ := Option.map_eq_some_iff.mp h2
  obtain ⟨rfl, rfl⟩ := Prod.mk.inj heq
  have := List.find?_some hk
  simpa using this

/-- Giving the slot leaves a context that cannot issue as it was. -/
theorem Eng.dispatch_ctx (e : Eng) (p d : Nat) (h : (e.ctx p d).canIssue = false) : (e.dispatch p).ctx p d = e.ctx p d := by
  unfold Eng.dispatch
  split
  · rfl
  · split
    · rfl
    · rename_i l k hk
      have hne : d ≠ k := by
        rintro rfl
        rw [(Eng.bestCtx_canIssue e hk).1] at h
        exact Bool.noConfusion h
      have hp : (e.ungate p).parts = e.parts := (Eng.ungate_frame e p 0).2
      have key : ∀ g : Eng, g.parts = e.parts →
          ((g.onCtx p k fun x => { x with st := .running }).onPart p fun q =>
            { q with slot := some k, lastSlot := some k, lastAt := kset 0 q.lastAt l (k + 1) }).ctx p d = e.ctx p d := by
        intro g hg
        have h0 : g.ctx p d = e.ctx p d := by simp [Eng.ctx, Eng.part, hg]
        rw [← h0]
        simp [Eng.ctx, Partn.ctx, Eng.onCtx, Partn.onCtx, kget_kmod_ne _ _ _ hne]
      dsimp only
      split
      · exact key _ hp
      · exact key _ hp

/-- Giving up the slot leaves every context as it was. -/
@[simp] theorem Eng.vacate_ctx (e : Eng) (p c d : Nat) : (e.vacate p c).ctx p d = e.ctx p d := by
  unfold Eng.vacate
  split
  · simp [Eng.ctx, Partn.ctx]
  · rfl

/-- Giving up the slot leaves a context that cannot issue as it was. -/
theorem Eng.release_ctx (e : Eng) (p c d : Nat) (h : (e.ctx p d).canIssue = false) : (e.release p c).ctx p d = e.ctx p d := by
  unfold Eng.release
  rw [Eng.dispatch_ctx _ p d (by rw [Eng.vacate_ctx]; exact h), Eng.vacate_ctx]

/-! ## Faults (R56, R96) -/

/-- A tenant record changes host memory and registers of the fault ring, and no context. -/
@[simp] theorem Eng.tenantRec_parts (b : BeatUnit) (e : Eng) (p kind ctx pc fault : Nat) (d : List Byte) :
    (e.tenantRec b p kind ctx pc fault d).parts = e.parts := by
  unfold Eng.tenantRec; dsimp only; split <;> rfl

theorem Eng.tenantRec_keeps (b : BeatUnit) (e : Eng) (p kind ctx pc fault : Nat) (d : List Byte) :
    let t := e.tenantRec b p kind ctx pc fault d
    t.cells = e.cells ∧ t.rqt = e.rqt ∧ t.reqs = e.reqs ∧ t.ledgers = e.ledgers ∧ t.txns = e.txns ∧ t.planeq = e.planeq ∧ t.out = e.out := by
  unfold Eng.tenantRec; dsimp only; split <;> exact ⟨rfl, rfl, rfl, rfl, rfl, rfl, rfl⟩

/-- A fault of a context that does not own the open batch, with no stop pending: the context is FAULTED at its instruction,
fault holds the word of R96, and no other register of it has changed. -/
theorem Eng.ctxFault_faulted (b : BeatUnit) (e : Eng) (p c kind operand detail : Nat) (r : List Byte) (ho : e.ownsBatch p c = false)
    (hs : (e.ctx p c).stopReq = none) :
    (e.ctx p c).faultedWith ((e.ctxFault b p c kind operand detail r).ctx p c) (faultWord kind operand detail) := by
  unfold Eng.ctxFault Eng.faultOnly
  dsimp only
  rw [ho]
  simp only [Bool.false_eq_true, if_false]
  set g := e.onCtx p c fun x => { x with fault := faultWord kind operand detail, st := .faulted, pend := none, stopReq := if x.stopReq = some .save ∨ x.stopReq = some .reset then x.stopReq else none } with hg
  have hc : g.ctx p c = { e.ctx p c with fault := faultWord kind operand detail, st := .faulted, pend := none, stopReq := none } := by
    rw [hg]; simp [hs]
  have key : ∀ f : Eng, f.parts = g.parts → (e.ctx p c).faultedWith ((f.release p c).ctx p c) (faultWord kind operand detail) := by
    intro f hf
    have h0 : f.ctx p c = g.ctx p c := by simp [Eng.ctx, Eng.part, hf]
    rw [Eng.release_ctx f p c c (by rw [h0, hc]; rfl), h0, hc]
    exact ⟨rfl, rfl, rfl, rfl, rfl, rfl, rfl, rfl, rfl⟩
  split
  · exact key g rfl
  · refine key _ ?_
    show (Eng.tenantRec b p kind (c + 128) _ _ r g).parts = g.parts
    simp

/-! ## The window's gate (R562, R571, R572) -/

/-- A write that is let through is performed and answered OKAY. -/
theorem ctlState_pass (path : Path) (addr : Nat) (f : State → State) (s : State) (h : s.eng.gate path addr = .pass) :
    ctlState path addr f s = { f s with eng := { (f s).eng with resp := ⟨true, 0⟩ } } := by
  simp [ctlState, h]

/-- A write that is not let through changes nothing but the answer. -/
theorem ctlState_stop (path : Path) (addr : Nat) (f : State → State) (s : State) (h : s.eng.gate path addr ≠ .pass) :
    ctlState path addr f s = { s with eng := { s.eng with resp := ⟨decide (s.eng.gate path addr = .ignore), 0⟩ } } := by
  unfold ctlState
  cases hg : s.eng.gate path addr <;> simp_all

theorem ctlWrite_pass (path : Path) (addr : Nat) (f : BeatUnit → Eng → Eng) (s : State) (h : s.eng.gate path addr = .pass) :
    ctlWrite path addr f s = .next { s with eng := { f s.beat s.eng with resp := ⟨true, 0⟩ } } := by
  simp [ctlWrite, ctlState_pass _ _ _ _ h, State.onEng]

/-- A partition RESET or context command outside a warm reset is a write of the window like any other. -/
theorem ctlPart_open (path : Path) (addr p : Nat) (f : BeatUnit → Eng → Eng) (s : State) (h : s.eng.warm = false) :
    ctlPart path addr p f s = ctlWrite path addr f s := by
  simp [ctlPart, h]

/-- Refused during a warm reset, it answers SLVERR and sets CFG_ERR (R562, R564). -/
theorem ctlPart_warm (path : Path) (addr p : Nat) (f : BeatUnit → Eng → Eng) (s : State) (h : s.eng.gate path addr = .slverr)
    (hw : s.eng.warm = true) : ctlPart path addr p f s = .next { s with eng := ({ s.eng with resp := ⟨false, 0⟩ } : Eng).cfgErr p } := by
  simp [ctlPart, ctlState, h, hw]

/-- A doorbell write in a state that takes it. -/
theorem doorWrite_pass (p off : Nat) (l : List Nat) (f : BeatUnit → Eng → Eng) (s : State) (h : s.eng.windowOpen = true)
    (hp : l.contains (s.eng.pstate p) = true) :
    doorWrite p off l f s = .next { s with eng := { f s.beat s.eng with resp := ⟨true, 0⟩ } } := by
  have hg : s.eng.gate .host (door p off) = .pass := by simp [Eng.gate, h]
  rw [doorWrite, ctlWrite_pass _ _ _ _ hg]
  simp only [hp, if_true]

/-- A doorbell write in any other state is dropped and counted (R59). -/
theorem doorWrite_drop (p off : Nat) (l : List Nat) (f : BeatUnit → Eng → Eng) (s : State) (h : s.eng.windowOpen = true)
    (hp : l.contains (s.eng.pstate p) = false) :
    doorWrite p off l f s = .next { s with eng := { s.eng.dbDrop p with resp := ⟨true, 0⟩ } } := by
  have hg : s.eng.gate .host (door p off) = .pass := by simp [Eng.gate, h]
  rw [doorWrite, ctlWrite_pass _ _ _ _ hg]
  simp only [hp, Bool.false_eq_true, if_false]

/-- The ports take no input while wx_ready_o is low, and their effect is on the engine otherwise (R533). -/
theorem State.onPort_ready (s : State) (f : BeatUnit → Eng → Eng) (h : s.eng.bit Reg.glbStatus 31 = true) : s.onPort f = s.onEng f := by
  simp [State.onPort, State.onEng, h]

theorem State.onPort_closed (s : State) (f : BeatUnit → Eng → Eng) (h : s.eng.bit Reg.glbStatus 31 = false) : s.onPort f = s := by
  simp [State.onPort, State.onEng, h]

/-! ## Requests, channels and ledgers -/

@[simp] theorem Eng.req_onReq_self (e : Eng) (n : Nat) (f : Req → Req) : (e.onReq n f).req n = f (e.req n) := kget_kmod_self _ _ _ _

theorem Eng.req_onReq_ne (e : Eng) {n m : Nat} (f : Req → Req) (h : m ≠ n) : (e.onReq n f).req m = e.req m := kget_kmod_ne _ _ _ h

/-- A ledger reads as it was stored. -/
@[simp] theorem Eng.ledger_setLedger_self (e : Eng) (n : Nat) (l : Ledger) : (e.setLedger n l).ledger n = l := by
  simp only [Eng.ledger, Eng.setLedger, kget_kset_self]
  split <;> simp_all

theorem Eng.ledger_setLedger_ne (e : Eng) {n m : Nat} (l : Ledger) (h : m ≠ n) : (e.setLedger n l).ledger m = e.ledger m := by
  simp [Eng.ledger, Eng.setLedger, kget_kset_ne _ _ _ h]

/-- The balance of a clamped ledger lies within its bounds (R209). -/
theorem Ledger.clamp_bounds (l : Ledger) (b : Int) : -(l.floor : Int) ≤ (l.clamp b).bal ∧ (l.clamp b).bal ≤ max (-(l.floor : Int)) l.cap := by
  unfold Ledger.clamp; dsimp only; omega

end Sys2Proof.Machine
end

