-- ==== Sys2Proof/Tests/Slice0.lean ====
section
/-! SUPPORT. Tests of single steps on small states, the refusals of WellFormed, and for each statement states and operands that meet its hypotheses, clause by clause. -/

namespace Sys2Proof.Tests

set_option Elab.async false

open Sys2Proof Sys2Proof.Machine

/-! ## Small states -/

/-- Change the engine of a state. -/
def onE (s : State) (f : Eng → Eng) : State := { s with eng := f s.eng }
/-- Ready, the window open to the host, partition 0 RUNNING and its context 0 holding the issue slot. -/
def live : State :=
  onE State.reset fun e =>
    let e := (e.setF Reg.glbStatus 3 0 7).setF Reg.glbStatus 31 31 1
    let e := e.setF (Reg.partStatus 0) 1 0 1
    e.onPart 0 fun q => { (q.onCtx 0 fun x => { x with st := .running }) with slot := some 0 }
/-- The reset state with the window open to the host. -/
def opened : State := onE State.reset fun e => (e.setF Reg.glbStatus 3 0 7).setF Reg.glbStatus 31 31 1
/-- A beat unit in a state at a time. -/
def beatIn (st : BeatSt) (time : Nat) (s : State) : State := { s with beat := { s.beat with st := st, time := time, entered := time } }
/-- An instruction of partition 0, context 0. -/
def ins (d a b : Nat) (ext : Nat := 0) (pr : Nat := 0) : Ins :=
  ⟨0, 0, BitVec.ofNat 5 d, BitVec.ofNat 5 a, BitVec.ofNat 5 b, BitVec.ofNat 3 pr, BitVec.ofNat 32 ext, none, false⟩
/-- A scalar register of context 0 of partition 0. -/
def setS (r v : Nat) (s : State) : State := onE s fun e => e.onCtx 0 0 fun x => x.setS r (BitVec.ofNat 64 v)
/-- Change context 0 of partition 0. -/
def onC (f : Ctx → Ctx) (s : State) : State := onE s fun e => e.onCtx 0 0 f
/-- Change partition 0. -/
def onP (f : Partn → Partn) (s : State) : State := onE s fun e => e.onPart 0 f
/-- A register of a state. -/
def setR (a v : Nat) (s : State) : State := onE s fun e => e.wr a (BitVec.ofNat 32 v)

/-- binary32 bits of 1.0. -/
abbrev f1 : Nat := 0x3F800000

theorem live_issues : live.issues (ins 0 0 0) := by
  unfold State.issues; decide +kernel

/-! ## Witnesses: the beat unit -/

/-- A step with a frame in front, and one that ticks. -/
theorem witness_BeatTimeNeverDecreases :
    (∃ t, step { beatIn .locked 511 live with pending := [.beatLoss] } = .next t) ∧
    (∀ c, ({ beatIn .locked 511 live with pending := [.beatLoss] } : State).pending.head? = some c → c.dropsBeat = false) ∧
    (∃ t, step (beatIn .locked 5 live) = .next t) ∧ (beatIn .locked 5 live).pending = [] ∧
    (∃ t, step { live with pending := [.itemDue 0] } = .next t) ∧ Instr.movesBeat (.itemDue 0) = false :=
  ⟨⟨_, rfl⟩, by intro c h; cases h; rfl, ⟨_, rfl⟩, rfl, ⟨_, rfl⟩, rfl⟩

theorem witness_BeatUnitStaysLegal : (beatIn .locked 511 live).beat.legal ∧ ∃ t, step { beatIn .locked 511 live with pending := [.beatLoss] } = .next t :=
  ⟨by unfold BeatUnit.legal; decide +kernel, ⟨_, rfl⟩⟩

/-- A LOCKED follower that awaits a frame for its beat. -/
def framed (bad : Nat) : State :=
  let s := beatIn .locked (7 * 256 + 3) live
  { s with beat := { s.beat with edge := some ⟨50000, true, true⟩, badRun := bad } }

theorem witness_LockedEdgesAndFrames :
    let s := beatIn .locked 1000 live
    (∀ n, (framed n).eng.bit Reg.glbStatus 31 = true) ∧ s.eng.bit Reg.glbStatus 31 = true ∧ State.reset.eng.bit Reg.glbStatus 31 = false ∧
    (s.beat.st = .locked ∧ s.beat.edge = none ∧ s.beat.still = false ∧ s.outOfRange = false ∧ s.beat.waiting = none) ∧
    (∀ n, n = 0 ∨ n = 7 → (framed n).beat.st = .locked ∧ (framed n).beat.edge = some ⟨50000, true, true⟩ ∧ (framed n).beat.still = false ∧
      (framed n).outOfRange = false ∧ (framed n).beat.badRun = n) ∧
    (frameGood (masterFrame 7 3) = true ∧ bitsOf (masterFrame 7 3).toNat 87 40 = (framed 0).beat.beat) ∧
    (let f := 0xD50000000000080000030000#96 ||| 0x4000000000#96
     let g : BitVec 96 := (f &&& ~~~0xFFFF#96) ||| (frameCrc f).zeroExtend 96
     frameGood g = true ∧ (framed 0).beat.beat < bitsOf g.toNat 87 40 ∧ g.getLsbD 38 = true) ∧
    (frameGood 0 = false ∧ bitsOf (masterFrame 6 3).toNat 87 40 < (framed 7).beat.beat ∧
      (framed 7).beat.beat < bitsOf (masterFrame 8 3).toNat 87 40 ∧ (masterFrame 8 3).getLsbD 38 = false) := by
  refine ⟨fun n => (show live.eng.bit Reg.glbStatus 31 = true by decide +kernel), by decide +kernel, by decide +kernel, by decide +kernel, ?_,
    by decide +kernel, by decide +kernel, by decide +kernel⟩
  rintro n (rfl | rfl) <;> decide +kernel

theorem witness_lossAndOwnBeats :
    (let s := beatIn .locked 511 live
     s.beat.st = .locked ∧ s.beat.edge = none ∧ s.beat.still = false ∧ s.beat.time % 256 = 255) ∧
    (∀ st, st = .free ∨ st = .expired → (beatIn st 511 live).beat.st = st ∧ (beatIn st 511 live).beat.waiting = none) ∧
    (beatIn .free 0 live).eng.fld Reg.beatFreeCount 12 0 < 4095 ∧ (setR Reg.beatFreeCount 4095 (beatIn .free 0 live)).eng.fld Reg.beatFreeCount 12 0 = 4095 := by
  refine ⟨by decide +kernel, ?_, by decide +kernel, by decide +kernel⟩
  rintro st (rfl | rfl) <;> decide +kernel

/-- A master before its first edge. -/
def firstMaster : State := let s := beatIn .master 5 live; { s with beat := { s.beat with masterFirst := true } }

theorem witness_MasterEdgeStartsBeatAndSendsFrame :
    (beatIn .master 5 live).beat.st = .master ∧ (beatIn .master 5 live).beat.waiting = none ∧ (beatIn .master 5 live).beat.masterFirst = false ∧
    firstMaster.beat.st = .master ∧ firstMaster.beat.masterFirst = true ∧
    (setR Reg.beatMasterStartLo 9 firstMaster).beat.time ≤
      (((setR Reg.beatMasterStartLo 9 firstMaster).eng.rd Reg.beatMasterStartLo).toNat +
        (setR Reg.beatMasterStartLo 9 firstMaster).eng.fld Reg.beatMasterStartHi 15 0 * 2 ^ 32) * 256 ∧
    ((firstMaster.eng.rd Reg.beatMasterStartLo).toNat + firstMaster.eng.fld Reg.beatMasterStartHi 15 0 * 2 ^ 32) * 256 < firstMaster.beat.time := by decide +kernel

theorem witness_ModeWritesFollowTheirTable :
    (∀ st, st ∈ [BeatSt.idle, .acquire, .locked, .free, .expired, .master] → (beatIn st 300 live).eng.windowOpen = true ∧
      (beatIn st 300 live).beat.st = st ∧ (beatIn st 300 live).beat.waiting = none) ∧
    (∀ p, p < 32 → opened.eng.pstate p = psDisabled) ∧ (∃ p, p < 32 ∧ live.eng.pstate p ≠ psDisabled) := by
  refine ⟨by decide +kernel, by decide +kernel, ⟨0, by decide +kernel⟩⟩

/-! ## Witnesses: partitions and contexts -/

/-- Partition 0 with rings, spill and page lists that pass the checks of R55. -/
def shared : State :=
  onE opened fun e =>
    let e := (e.wr (Reg.admSqBaseLo 0) 0x10000).wr (Reg.spoutCqBaseLo 0) 0x20000
    (e.wr (Reg.spoutSpillBaseLo 0) 0x40000).wr (Reg.pageListBlocks 0) 64
/-- That partition pending, with everything that lets it start. -/
def pending0 : State :=
  beatIn .master 512 <| onE shared fun e =>
    let e := ((e.wr (Reg.partCtrl 0) 1).setF (Reg.partStatus 0) 2 2 1).setF Reg.mgmtUpdStatus 26 26 1
    { e with chans := [(0, ⟨true, 8, 8, 0, false⟩), (1, ⟨true, 8, 8, 0, false⟩)] }

theorem witness_EnablingStartsAndEndsAPartition :
    (∀ s, s ∈ [shared, opened] → s.eng.windowOpen = true ∧ s.eng.pstate 0 = psDisabled ∧ s.eng.bit (Reg.partCtrl 0) 0 = false) ∧
    shared.eng.enableGood 0 = true ∧ opened.eng.enableGood 0 = false ∧
    (pending0.eng.startReady pending0.beat 0 = true ∧ pending0.eng.deny = [] ∧ pending0.eng.heldRings 0 = []) ∧
    opened.eng.startReady opened.beat 0 = false ∧ live.eng.windowOpen = true ∧ live.eng.pstate 0 = psRunning := by decide +kernel

/-- Partition 0 in a partition reset. -/
def resetting (done3 : Bool) : State :=
  onE shared fun e => (e.setF (Reg.partStatus 0) 1 0 psResetting).onPart 0 fun q => { q with resetAt := 0, resetPhase3 := done3 }

theorem witness_PartitionResetPhases :
    (live.eng.windowOpen = true ∧ live.eng.pstate 0 ≠ psResetting ∧ (live.eng.ctx 0 0).st = .running ∧
      ∀ c, c < 16 → live.eng.mustWait 0 c = false) ∧ live.eng.joined = [] ∧ (onE live fun e => { e with warm := true }).eng.warm = true ∧
    (onC (fun x => { x with st := .waiting }) live).eng.ctx 0 0 = { Ctx.cleared with st := .waiting } ∧
    (onC (fun x => { x with st := .waiting }) live).eng.mustWait 0 0 = false ∧
    ((resetting false).eng.windowOpen = true ∧ (resetting false).eng.pstate 0 = psResetting ∧ ((resetting false).eng.part 0).resetPhase3 = false ∧
      ((resetting false).eng.part 0).resetAt ≤ (resetting false).beat.time) ∧
    ((resetting true).eng.pstate 0 = psResetting ∧ ((resetting true).eng.part 0).resetPhase3 = true ∧ (resetting true).eng.spoutBusy 0 = false ∧
      (resetting true).eng.ctxsQuiet 0 = true ∧ ((resetting true).eng.part 0).coreDown = false ∧
      (resetting true).eng.bit (Reg.partCtrl 0) 0 = false ∧
      (resetting true).eng.inRange 0 (resetting true).eng.semBase (resetting true).eng.semSize 2047 = true) := by decide +kernel

theorem witness_ContextCommandsAct :
    (∀ st, st ∈ [CtxSt.free, .ready, .waiting, .delayed, .stopped, .running, .faulted, .saved] →
      let s := onC (fun x => { x with st := st }) opened
      s.eng.windowOpen = true ∧ s.eng.pstate 0 ≠ psResetting ∧ s.eng.bit (Reg.partCtxCmd 0) 31 = false ∧ (s.eng.ctx 0 0).st = st ∧
      s.eng.mustWait 0 0 = false) ∧
    (∀ err, err ≤ 1 → let s := onP (fun q => { q with cmd := some (1, 0, err) }) opened
      (s.eng.part 0).cmd = some (1, 0, err) ∧ (s.eng.part 0).coreDown = false ∧ (s.eng.ctx 0 0).stopReq = none) ∧
    ((onP (fun q => { q with coreDown := true }) opened).eng.part 0).coreDown = true := by
  refine ⟨by decide +kernel, ?_, by decide +kernel⟩
  intro err h
  interval_cases err <;> decide +kernel

/-- A RESTORE of context 0 from an area of zeros. -/
def restoring : State := onP (fun q => { q with cmd := some (4, 0, 0) }) opened

theorem witness_SaveWritesTheAreaAndRestoreReadsIt :
    (let s := onC (fun x => { x with st := .ready }) opened
     s.eng.windowOpen = true ∧ s.eng.pstate 0 ≠ psResetting ∧ s.eng.bit (Reg.partCtxCmd 0) 31 = false ∧ (s.eng.ctx 0 0).st = .ready ∧
     (opened.eng.ctx 0 0).st = .free) ∧
    (let s := onC (fun x => { x with st := .stopped }) (onP (fun q => { q with cmd := some (3, 0, 0) }) opened)
     (s.eng.part 0).cmd = some (3, 0, 0) ∧ (s.eng.part 0).coreDown = false ∧ (s.eng.ctx 0 0).stopReq = none ∧ s.eng.deny = []) ∧
    ((restoring.eng.part 0).cmd = some (4, 0, 0) ∧ (restoring.eng.part 0).coreDown = false ∧ (restoring.eng.ctx 0 0).stopReq = none ∧ restoring.eng.deny = []) := by decide +kernel

/-- The area of zeros fails its first check. -/
theorem witness_restoreErr : ∀ l : List Byte, fieldAt l 0 4 = 0 → restoring.eng.restoreErr 0 l ≠ 0 := by
  intro l h; simp [Eng.restoreErr, h]

theorem witness_SaveAreaRoundTrip :
    let e := (onC (fun x => { x with saveSt := .ready }) live).eng
    (e.ctx 0 0).semSpan ≤ e.semSize 0 ∧ (CtxSt.ofSaved (e.ctx 0 0).saveSt.code).isSome = true := by decide +kernel

/-! ## Witnesses: instructions -/

theorem witness_AluGroupResults :
    ((.add, fun a b => a + b) ∈ aluTable ∧ live.issues (ins 5 2 3) ∧ (ins 5 2 3).ext = 0) ∧
    ((.addi, fun a b => a + b) ∈ aluImmTable ∧ live.issues (ins 31 2 0 0xFFFFFFFF) ∧ (ins 31 2 0 0xFFFFFFFF).srcb = 0) := by
  refine ⟨⟨List.mem_cons_self .., ?_, by decide +kernel⟩, ⟨List.mem_cons_self .., ?_, by decide +kernel⟩⟩ <;> unfold State.issues <;> decide +kernel

theorem witness_ComparePredicateAndFloatResults :
    (live.issues (ins 7 2 3) ∧ (ins 7 2 3).dst.toNat < 8 ∧ (ins 7 2 3).ext = 0) ∧
    (live.issues (ins 1 2 0 9) ∧ (ins 1 2 0 9).srcb = 0 ∧ (ins 1 2 0 9).dst.toNat < 8) ∧
    (live.issues (ins 1 2 7) ∧ (ins 1 2 7).srca.toNat < 8 ∧ (ins 1 2 7).srcb.toNat < 8) ∧
    (live.issues (ins 9 2 0) ∧ (ins 9 2 0).ext = 0 ∧ (ins 9 2 0).srcb = 0) ∧ (2 ^ 24 : Int).natAbs ≤ 2 ^ 24 := by
  unfold State.issues; decide +kernel

theorem witness_SpecialRegisterMoves :
    (∀ m, m ≤ 3 → live.issues (ins 5 0 0 (m * 2 ^ 24)) ∧ (ins 5 0 0 (m * 2 ^ 24)).imm24 = 0 ∧ (ins 5 0 0 (m * 2 ^ 24)).mod = m) ∧
    (∀ v, v ∈ [0, 1, 1048576, 1048577] → ((setS 2 v live).eng.ctx 0 0).sreg 2 = BitVec.ofNat 64 v ∧ (setS 2 v live).issues (ins 0 2 0)) := by
  constructor
  · intro m hm
    interval_cases m <;> (unfold State.issues; decide +kernel)
  · unfold State.issues; decide +kernel

theorem witness_BranchesMoveTheProgramCounter :
    live.issues (ins 0 0 0) ∧ live.issues (ins 5 2 0) ∧ (ins 5 2 0).srcb = 0 ∧ live.issues (ins 5 0 0) ∧ (ins 0 0 0).dst = 0 := by
  unfold State.issues; decide +kernel

/-- The row of ADD in the table of instructions. -/
def addRow : InsRow := ⟨.add, 0x01, 0x00, .s, .s, .s, 0, fun _ => none⟩
/-- The row of a load in the table of instructions. -/
def loadRow (minor : BitVec 8) : InsRow := ⟨fun i => .lds i minor, 0x14, minor.toNat, .s, .s, .unused, 0xFFFFFFFF, memBad false minor⟩
theorem mem_addRow (minor : BitVec 8) (off : BitVec 40) (head : Fin 8) : addRow ∈ insTable minor off head := List.mem_append_left _ (List.mem_cons_self ..)
theorem mem_loadRow (minor : BitVec 8) (off : BitVec 40) (head : Fin 8) : loadRow minor ∈ insTable minor off head :=
  List.mem_append_right _ (by simp [loadRow])

theorem witness_GuardOffOnlyAdvances :
    live.issues { ins 5 2 3 0 3 with pred := 0 } ∧ (live.eng.ctx 0 0).pred (ins 5 2 3 0 3).pred.toNat = false ∧ addRow.illegal (ins 5 2 3 0 3) = none ∧
    (loadRow 8).illegal (ins 5 2 0 0 3) = some 0 := by
  refine ⟨?_, by decide +kernel, by decide +kernel, by decide +kernel⟩
  unfold State.issues; decide +kernel

theorem witness_ReservedBitsRaiseIllegal :
    live.issues { ins 1 2 3 1 with pred := 0 } ∧ addRow.illegal (ins 1 2 3 1) = some 5 ∧ live.eng.ownsBatch 0 0 = false := by
  refine ⟨?_, by decide +kernel, by decide +kernel⟩
  unfold State.issues; decide +kernel

/-- Words of the MAJORs that R90 reserves, and of a MINOR that no instruction of its MAJOR has. -/
theorem witness_unassignedWords :
    (live.issues { Ins.ofWord 0 0 0xFC00000000000000#64 with pred := 0 } ∧
      assigned (wordMajor 0xFC00000000000000#64).toNat (wordMinor 0xFC00000000000000#64).toNat = false) ∧
    (live.issues { Ins.ofWord 0 0 0x040000FF00000000#64 with pred := 0 } ∧
      assigned (wordMajor 0x040000FF00000000#64).toNat (wordMinor 0x040000FF00000000#64).toNat = false) ∧
    assigned 0 0 = false := by
  rw [show ({ Ins.ofWord 0 0 0xFC00000000000000#64 with pred := 0 } : Ins) = ins 0 0 0 from by decide +kernel,
    show ({ Ins.ofWord 0 0 0x040000FF00000000#64 with pred := 0 } : Ins) = ins 0 0 0 from by decide +kernel]
  exact ⟨⟨live_issues, by decide +kernel⟩, ⟨live_issues, by decide +kernel⟩, by decide +kernel⟩

theorem witness_ScratchAccesses :
    (live.issues (ins 5 2 0) ∧ scratchBad (memAddr live.eng (ins 5 2 0)) (memSize 7) = false ∧ (7#8).getLsbD 3 = false) ∧
    ((setS 2 8190 live).issues (ins 5 2 0) ∧ scratchBad (memAddr (setS 2 8190 live).eng (ins 5 2 0)) (memSize 2) = true) ∧
    ((setS 2 8184 live).issues (ins 0 2 3) ∧ (0x0B#8).getLsbD 3 = true ∧ (0x0B#8).getLsbD 2 = false ∧ (0x0B#8).toNat < 16 ∧
      scratchBad (memAddr (setS 2 8184 live).eng (ins 0 2 3)) (memSize 0x0B) = false ∧ scratchBad (memAddr (setS 2 8190 live).eng (ins 0 2 3)) (memSize 0x0B) = true) := by
  unfold State.issues; decide +kernel

theorem witness_DeviceAccessesGoOutOnce :
    (live.issues (ins 5 2 0) ∧ memAddr live.eng (ins 5 2 0) % memSize 3 = 0) ∧
    (live.issues (ins 0 2 3) ∧ memAddr live.eng (ins 0 2 3) % memSize 0x0B = 0) ∧
    ((setS 2 1 live).issues (ins 5 2 0) ∧ memAddr (setS 2 1 live).eng (ins 5 2 0) % memSize 1 ≠ 0) ∧
    ((setS 2 1 live).issues (ins 0 2 3) ∧ memAddr (setS 2 1 live).eng (ins 0 2 3) % memSize 0x09 ≠ 0) := by
  unfold State.issues; decide +kernel

/-- Context 0 with an access outstanding. -/
def accessing (k : TxnKind) : State := onC (fun x => { x with pend := some .mem }) (onE live fun e => { e with txns := [⟨4, 0, 0x1000, 0, k⟩], nextId := 5 })

theorem witness_ResponsesCompleteDeviceAccesses :
    (∀ t, t ∈ live.eng.txns → t.id ≠ 4) ∧
    (∀ k, k ∈ [TxnKind.load 0 0 8 false 5, .store 0 0 [1, 2]] →
      ((accessing k).eng.txns.find? fun t => decide (t.id = 4)) = some ⟨4, 0, 0x1000, 0, k⟩ ∧ ((accessing k).eng.ctx 0 0).st = .running ∧
      ((accessing k).eng.ctx 0 0).stopReq = none) := by decide +kernel

/-- One live request of partition 0 at slot 1, WAITING, in context 0's s2. -/
def asked : State :=
  setS 2 (mkHandle 0 1 0) <| onE live fun e =>
    (({ e with reqs := [(1, { Req.none with live := true })] } : Eng).setRqf 1 0 31 24 1).setRqf 1 0 63 32 (mkHandle 0 1 0)

theorem witness_RequestTableInstructions :
    (asked.issues (ins 5 2 0 184) ∧ (ins 5 2 0 184).ext.toNat % 8 = 0 ∧ (ins 5 2 0 184).ext.toNat ≤ 184 ∧
      asked.eng.slotOf 0 (((asked.eng.ctx 0 0).sreg 2).toNat % 2 ^ 32) = some 1) ∧
    (∃ w, w < 24 ∧ rqWritable w = true ∧ rqReservedBad w ((asked.eng.ctx 0 0).sreg 3).toNat = false) ∧
    (live.issues (ins 0 2 3) ∧ live.eng.slotOf 0 (((live.eng.ctx 0 0).sreg 2).toNat % 2 ^ 32) = none) := by
  unfold State.issues; decide +kernel

theorem witness_LedgerInstructions :
    (live.issues (ins 5 2 3) ∧ ((live.eng.ctx 0 0).sreg 2).toNat < live.eng.ledSize 0 ∧
      -((live.eng.ledger 0).floor : Int) ≤ (live.eng.ledger 0).bal ∧ (live.eng.ledger 0).bal ≤ ((live.eng.ledger 0).cap : Int)) ∧
    ((setS 2 256 live).issues (ins 5 2 3) ∧ (setS 2 256 live).eng.ledSize 0 ≤ (((setS 2 256 live).eng.ctx 0 0).sreg 2).toNat) ∧
    ((ins 5 2 3).joins = false ∧ live.eng.ledJoined = [] ∧ { ins 5 2 3 with joins := true }.joins = true ∧ live.issues { ins 5 2 3 with joins := true }) := by
  unfold State.issues; decide +kernel

theorem witness_TrapAndHaltStopTheContext :
    live.issues (ins 0 0 0 0xFFFF) ∧ live.issues (ins 0 0 0) ∧ live.eng.bit Reg.glbStatus 31 = true ∧ live.eng.deny = [] ∧
    ringRoom ((setR (Reg.intFltCfg 0) 6 live).eng.fld (Reg.intFltCfg 0) 4 0) (live.eng.fld (Reg.intFltHead 0) 31 0) (live.eng.fld (Reg.intFltTail 0) 31 0) = true := by
  unfold State.issues; decide +kernel

/-! ## Witnesses: scheduling, cells and admission -/

/-- Partition 0 with ready lists and delay lists. -/
def listed (items : KMap (List Dword)) (d : List DlEnt) (s : State) : State := onP (fun q => { q with items := items, delays := d }) s
/-- Another context of partition 0 that can issue. -/
def rival (s : State) : State := onE s fun e => e.onCtx 0 3 fun x => { x with st := .ready }
/-- A delay-list entry of partition 0. -/
def entry (a : DlAct) (held : Bool := false) : DlEnt := ⟨5, 0, 0, held, a⟩

theorem witness_SchedulingInstructions :
    (live.issues (ins 5 2 0 0x1F000000) ∧ (ins 5 2 0 0x1F000000).imm24 = 0 ∧ (ins 5 2 0 0x1F000000).mod = 31 ∧
      ((live.eng.part 0).itemsAt 31).length < 256) ∧
    ((listed [(0, List.replicate 256 7)] [] live).issues (ins 5 2 0) ∧
      256 ≤ (((listed [(0, List.replicate 256 7)] [] live).eng.part 0).itemsAt (ins 5 2 0).mod).length) ∧
    (live.issues (ins 5 0 7) ∧ (ins 5 0 7).srca = 0 ∧ (ins 5 0 7).srcb.toNat < 8 ∧ ∀ l, (live.eng.part 0).itemsAt l = []) ∧
    ((listed [(2, [9])] [] live).issues (ins 5 0 7 0x02000000) ∧ ((listed [(2, [9])] [] live).eng.part 0).itemsAt 2 ≠ [] ∧
      2 ≤ (ins 5 0 7 0x02000000).mod ∧ ∀ m, m < 2 → ((listed [(2, [9])] [] live).eng.part 0).itemsAt m = []) ∧
    (live.eng.part 0).dlUsed < 32752 ∧ live.issues (ins 0 0 0 0x04000000) := by
  refine ⟨⟨?_, ?_⟩, ⟨?_, ?_⟩, ⟨?_, ?_, ?_, fun l => ?_⟩, ⟨?_, ?_⟩, ?_, ?_⟩
  case refine_8 => rw [show (live.eng.part 0) = { (live.eng.part 0) with items := [] } from by decide +kernel]; rfl
  all_goals first | decide +kernel | (unfold State.issues; decide +kernel)

/-- Delay lists that hold n items. -/
def itemDelays (n : Nat) : State := onP (fun q => { q with delays := List.replicate n (entry (.item 0 0)) }) live

theorem witness_fullDelayLists : 32752 ≤ ((itemDelays 32752).eng.part 0).dlUsed := by
  have h : ∀ n, ((itemDelays n).eng.part 0).dlUsed = n := by
    intro n
    rw [show (itemDelays n).eng.part 0 = { live.eng.part 0 with delays := List.replicate n (entry (.item 0 0)) } from Eng.part_onPart_self _ _ _]
    simp [Partn.dlUsed, entry]
  exact (h 32752).ge

theorem witness_SchedulerEvents :
    (let s := rival (setR (Reg.schedCtrl 0) 0x10000 live)
     (s.eng.part 0).slot = some 0 ∧ s.eng.running 0 = true ∧ s.eng.fld (Reg.schedCtrl 0) 31 16 ≠ 0 ∧ (s.eng.ctx 0 0).busyIns = false ∧
     (s.eng.part 0).coreDown = false ∧ (s.eng.part 0).coreLost = false ∧ (s.eng.ctx 0 3).canIssue = true ∧ s.eng.prio 0 3 = s.eng.prio 0 0) ∧
    (∀ a, a ∈ [DlAct.item 9 31, .timer 4 1 77, .wake 0 none 5, .wake 0 (some 0) 5, .wake 0 (some 0) 0] →
      let s := onC (fun x => { x with st := .delayed }) (listed [] [entry a] (beatIn .master 900 live))
      (s.eng.part 0).dlNext s.beat.time = some (entry a) ∧ (s.eng.ctx 0 0).st = .delayed ∧ (entry a).key + 0 < s.beat.time ∧
        s.eng.fld (Reg.schedLagLimit 0) 15 0 + (entry a).key < s.beat.time) ∧
    (let s := listed [(31, List.replicate 256 7)] [entry (.item 9 31)] (beatIn .master 900 live)
     (s.eng.part 0).dlNext s.beat.time = some (entry (.item 9 31)) ∧ 256 ≤ ((s.eng.part 0).itemsAt 31).length) ∧
    ((listed [] [entry (.item 9 31) true] live).eng.part 0).delays = [entry (.item 9 31) true] := by decide +kernel

/-- A cell at which nothing waits, whose owner loads no version. -/
theorem witness_plainCell : live.eng.plainCell 4 := by
  refine ⟨⟨by decide +kernel, by decide +kernel, fun p hp k hk => ?_⟩, by decide +kernel⟩
  have h0 : live.eng.cellOwner 4 = some 0 := by decide +kernel
  obtain rfl : p = 0 := by rw [h0] at hp; exact (Option.some.inj hp).symm
  interval_cases k <;> decide +kernel

theorem witness_DelaysAndTimers :
    live.issues (ins 5 2 0) ∧ (ins 5 2 0).ext = 0 ∧
    (let s := onC (fun x => { x with semtab := [(7, ⟨true, false, 9⟩)] }) live
     s.issues (ins 5 2 3 7) ∧ (ins 5 2 3 7).ext.toNat < 4096 ∧ (kget SemEnt.invalid (s.eng.ctx 0 0).semtab (ins 5 2 3 7).vid).valid = true ∧
     (kget SemEnt.invalid (s.eng.ctx 0 0).semtab (ins 5 2 3 7).vid).off.toNat < s.eng.semSize 0 ∧ (s.eng.part 0).dlUsed < 32752) ∧
    (let s := listed [] [entry (.timer 4 1 0)] live
     s.issues (ins 5 2 0) ∧ (∃ d n k, d ∈ (s.eng.part 0).delays ∧ d.act = .timer n k ((s.eng.ctx 0 0).sreg 2))) ∧
    (∀ d n k, d ∈ (live.eng.part 0).delays → d.act ≠ .timer n k ((live.eng.ctx 0 0).sreg 2)) := by
  refine ⟨by unfold State.issues; decide +kernel, by decide +kernel, by unfold State.issues; decide +kernel, ⟨?_, entry (.timer 4 1 0), 4, 1, ?_⟩, ?_⟩
  · unfold State.issues; decide +kernel
  · decide +kernel
  · have : (live.eng.part 0).delays = [] := by decide +kernel
    intro d n k h; rw [this] at h; cases h

theorem witness_SemaphoreInstructions :
    (let s := onC (fun x => { x with semtab := [(4095, ⟨true, false, 2047⟩)] }) live
     s.issues (ins 5 2 3 4095) ∧ (ins 5 2 3 4095).ext.toNat < 4096 ∧ (kget SemEnt.invalid (s.eng.ctx 0 0).semtab (ins 5 2 3 4095).vid).valid = true ∧
     (kget SemEnt.invalid (s.eng.ctx 0 0).semtab (ins 5 2 3 4095).vid).off.toNat < s.eng.semSize 0) ∧
    (live.issues (ins 5 2 0 4095) ∧ (kget SemEnt.invalid (live.eng.ctx 0 0).semtab (ins 5 2 0 4095).vid).valid = false ∧ (ins 5 2 0 4095).srcb = 0) ∧
    (live.issues (ins 0 2 0 0) ∧ ((live.eng.ctx 0 0).sreg 2).toNat < live.eng.semSize 0) ∧
    (live.issues (ins 0 2 3 0x01000005) ∧ (ins 0 2 3 0x01000005).mod = 1 ∧ live.eng.rmHeld = [] ∧ live.eng.rmPortFor 2 1 = none ∧
      ({ live.eng with rmCredit := [(2, 1)] } : Eng).rmPortFor 2 1 = some 0) := by
  unfold State.issues; decide +kernel

/-- An operation on its way to cell 4. -/
def travelling (o : CellOp) : State := onC (fun x => { x with pend := some .cell }) (onE live fun e => { e with travel := [⟨1, 4, o⟩], nextId := 2 })
/-- A wait of context 0 of partition 0. -/
def wait0 (k : WKind) (n : Nat) (dst : BitVec 5 := 5) : Wait := ⟨0, 0, k, n, 100, false, dst, 7, false⟩
/-- A wait at cell 4 with its context WAITING. -/
def queued (w : Wait) (time : Nat) : State :=
  beatIn .master time (onC (fun x => { x with st := .waiting }) (onE live fun e => e.onCell 4 fun k => { k with queue := [w] }))

theorem witness_OperationsActAndWaitsExpireAtTheirCell :
    (∀ o, o ∈ [CellOp.sadd 0 0 5 3, .ssub 0 0 5 3, .wait (wait0 .take 0) 9, .wait (wait0 .peek 1) 9, .wait (wait0 .bar 2) 9, .wait (wait0 .bar 1) 9, .wait (wait0 .take 1) 0] →
      ((travelling o).eng.ctx 0 0).stopReq = none ∧ ((travelling o).eng.ctx 0 0).st = .running ∧ (travelling o).eng.cellHeld 4 = false ∧
      ((travelling o).eng.cell 4).queue = [] ∧ (travelling o).eng.cellOwner 4 = some 0 ∧ (∀ k, k < 4 → ((travelling o).eng.vslot 0 k).st ≠ vsLoading) ∧
      ((travelling o).eng.travel.filter fun t => decide (t.cell = 4) && [1].contains t.id) = [⟨1, 4, o⟩] ∧ (travelling o).eng.xbAt 0 4 = none) ∧
    (∀ w t, w ∈ [wait0 .take 1, wait0 .peek 1, wait0 .bar 2, wait0 .take 1 0] → t ∈ [99, 100] →
      (queued w t).eng.cellHeld 4 = false ∧ ((queued w t).eng.cell 4).queue = [w] ∧ (queued w t).eng.cellOwner 4 = some 0 ∧
      (∀ k, k < 4 → ((queued w t).eng.vslot 0 k).st ≠ vsLoading) ∧ ((queued w t).eng.ctx 0 0).st = .waiting ∧
      ((queued w t).eng.ctx 0 0).stopReq = none ∧ w.fwd = false ∧ w.once = false ∧ ((queued w t).eng.cell 4).count.toNat < w.n ∧
      (queued w t).beat.time = t) := by
  refine ⟨by decide +kernel, ?_⟩
  intro w t hw ht
  simp only [List.mem_cons, List.not_mem_nil, or_false] at hw ht
  rcases hw with rfl | rfl | rfl | rfl <;> rcases ht with rfl | rfl <;> decide +kernel

theorem witness_CellsSetByHostHandAndRealignment :
    (live.eng.windowOpen = true ∧ live.eng.running 0 = true ∧ bitsOf (0x0001_07FF#32).toNat 31 16 ≠ 0 ∧ bitsOf (0x0001_07FF#32).toNat 15 0 < live.eng.semSize 0 ∧
      live.eng.semSize 0 ≤ bitsOf (0x0001_0800#32).toNat 15 0) ∧
    ((setR Reg.dbgCtrl 1 live).eng.mayString .jtag = true) ∧
    (live.eng.gate .host (Reg.syncSatClr 0) = .pass ∧ live.eng.cellHeld 2047 = false ∧ (2047 : Nat) < live.eng.semSize 0 ∧ ¬ (2048 : Nat) < live.eng.semSize 0) ∧
    (live.eng.gate .host (Reg.syncRaCell 0 15) = .pass ∧ live.eng.bit (Reg.syncRaCell 0 15) 31 = false ∧ (0x80000009#32).getLsbD 31 = true) ∧
    (let s := onC (fun x => { x with st := .waiting }) live
     s.eng.gated 0 = false ∧ s.eng.fld (Reg.syncCtrl 0) 15 0 ≠ 0xFFFF ∧
     (∀ c, c < 16 → (s.eng.ctx 0 c).canIssue = false ∧ (s.eng.ctx 0 c).pend = none) ∧ (s.eng.ctx 0 0).st = .waiting) := by decide +kernel

/-! ## Witnesses: barriers, signals and transfers -/

/-- A remote message to partition 0, with a tag where its flags ask for one. -/
def msg (flags : Nat) (off body : Nat) (payload : List Byte := []) : RmMsg :=
  ⟨0, BitVec.ofNat 8 flags, 9, 0, 0, if flags % 8 = 0 then 0 else 5, BitVec.ofNat 16 payload.length, BitVec.ofNat 16 off, BitVec.ofNat 128 body, payload⟩
/-- A home entry or a member entry of a global barrier, with a forwarded SBAR of a waiting context at its cell. -/
def barrier (home : Bool) (arrived need : Nat) : State :=
  onC (fun x => { x with st := .waiting }) <| onE live fun e =>
    let e := e.wr (Reg.syncXbCfg 0 0) (BitVec.ofNat 32 (2 ^ 31 + (if home then 2 ^ 30 else 0) + 4))
    let e := (e.wr (Reg.syncXbCount 0 0) (BitVec.ofNat 32 (3 * 65536 + need))).wr (Reg.syncXbStatus 0 0) (BitVec.ofNat 32 (2 ^ 31 + arrived))
    let e := e.wr (Reg.syncXbHome 0 0) (9 * 65536 + 6)
    (e.onCell 4 fun k => { k with queue := [{ wait0 .bar 2 with fwd := true }] }).onXb 0 0 fun _ => ⟨2, true, 0, 0, 0⟩

/-- Messages with every unused bit 0, and messages with one that is not. -/
theorem witness_cleanMessages :
    (signalClean (msg 0 4 1) = true ∧ signalClean (msg 4 4 1) = true ∧ signalClean (msg 0x40 4 1) = false ∧ signalClean (msg 0 4 (2 ^ 32 + 1)) = false) ∧
    (dataClean (msg 2 0 (2 ^ 64 * 0x1000 + 2 ^ 32 * 2) [1, 2]) = true ∧ dataClean (msg 1 0 (2 ^ 32 * 2) [1]) = true ∧ dataClean (msg 2 4 (2 ^ 32 * 2) [1, 2]) = false) ∧
    (arriveClean (msg 0 4 0) false = true ∧ arriveClean (msg 0 4 1) false = false ∧ arriveClean (msg 0 4 0x1FFF) true = true ∧ arriveClean (msg 0 4 0x2000) true = false) ∧
    (releaseClean (msg 0 6 0) false = true ∧ releaseClean (msg 0x80 6 0) false = false ∧ releaseClean (msg 0 6 1) true = false) ∧
    (negArriveClean (msg 8 0 0x0200) = true ∧ negArriveClean (msg 8 0 0x10000) = false ∧ negReleaseClean (msg 8 0 (2 ^ 112)) = true ∧
      negReleaseClean (msg 8 0 1) = false) := by decide +kernel

theorem witness_homeBarrier :
    (let s := barrier true 1 3
     s.eng.bit Reg.glbStatus 31 = true ∧ s.eng.homeEntry (msg 0 4 0) = some 0 ∧ s.eng.isVerdict 0 0 = false ∧
     s.eng.fld (Reg.syncXbStatus 0 0) 15 0 + 1 < s.eng.fld (Reg.syncXbCount 0 0) 15 0) ∧
    (let s := barrier true 2 3
     let w : Wait := { wait0 .bar 2 with fwd := true }
     s.eng.bit Reg.glbStatus 31 = true ∧ s.eng.homeEntry (msg 0 4 0) = some 0 ∧ s.eng.isVerdict 0 0 = false ∧
     s.eng.fld (Reg.syncXbStatus 0 0) 15 0 + 1 = s.eng.fld (Reg.syncXbCount 0 0) 15 0 ∧ s.eng.rmHeld = [] ∧ s.eng.rmPortFor 3 1 = none ∧
     (s.eng.cell (s.eng.xbCell 0 0)).queue = [w] ∧ w.kind = .bar ∧ w.fwd = true ∧ s.beat.time < w.deadline ∧
     (s.eng.ctx w.part w.ctx).st = .waiting ∧ (s.eng.cell (s.eng.xbCell 0 0)).count.toNat < (s.eng.xb 0 0).p) := by decide +kernel

theorem witness_memberBarrier :
    (let s := setR Reg.syncEngineId 9 (barrier false 0 0)
     s.eng.bit Reg.glbStatus 31 = true ∧ (msg 0 6 0).src.toNat = s.eng.fld Reg.syncEngineId 15 0) ∧
    (let s := barrier false 0 0
     (msg 0 7 0).src.toNat ≠ s.eng.fld Reg.syncEngineId 15 0 ∧ s.eng.memberEntries (msg 0 7 0) = []) ∧
    (let s := barrier false 0 0
     let w : Wait := { wait0 .bar 2 with fwd := true }
     (msg 0 6 0).src.toNat ≠ s.eng.fld Reg.syncEngineId 15 0 ∧ s.eng.memberEntries (msg 0 6 0) = [(0, 0)] ∧ s.eng.isVerdict 0 0 = false ∧
     (0, 0) ∈ s.eng.memberEntries (msg 0x80 6 0) ∧
     (s.eng.cell (s.eng.xbCell 0 0)).queue = [w] ∧ w.kind = .bar ∧ w.fwd = true ∧ s.beat.time < w.deadline ∧
     (s.eng.ctx w.part w.ctx).st = .waiting ∧ (s.eng.cell (s.eng.xbCell 0 0)).count.toNat < (s.eng.xb 0 0).p) := by decide +kernel

/-- A signal that waits for the transfer of its key since beat time 0. -/
def parkedAt (time : Nat) : State := beatIn .master time (onE live fun e => { e with parked := [⟨7, xferKey 9 5, 9, 0, 4, 3, 0, 0⟩] })

/-- A full buffer of signals and a full table of transfers. -/
theorem witness_fullIngress :
    let s := onE live fun e => { e with parked := List.replicate 256 ⟨7, xferKey 9 6, 9, 0, 4, 3, 0, 0⟩, xfers := List.replicate 1024 ⟨xferKey 9 6, 0, 2, 0, true, false, none, false⟩ }
    s.eng.xfer? (xferKey 9 5) = none ∧ 256 ≤ s.eng.parked.length ∧ 1024 ≤ s.eng.xfers.length ∧ s.eng.sigIn = [] ∧ s.eng.dataIn = [] := by decide +kernel

theorem witness_BarriersAndSignalsAcrossEngines :
    (live.eng.bit Reg.glbStatus 31 = true ∧ live.eng.running 0 = true ∧ (2047 : Nat) < live.eng.semSize 0 ∧ ¬ (2048 : Nat) < live.eng.semSize 0 ∧
      live.eng.xfer? (xferKey 9 5) = none ∧ live.eng.parked = [] ∧ live.eng.xfers = [] ∧ live.eng.sigIn = [] ∧ live.eng.dataIn = []) ∧
    ((msg 0 2047 3).flags.getLsbD 2 = false ∧ BitVec.ofNat 32 (msg 0 2047 3).body.toNat ≠ 0 ∧ (msg 4 4 3).flags.getLsbD 2 = true ∧
      BitVec.ofNat 32 (msg 0 4 0).body.toNat = 0 ∧ (msg 0 2048 3).offset.toNat = 2048) ∧
    (let m := msg 2 0 (2 ^ 64 * 0x1000 + 2 ^ 32 * 2) [1, 2]
     m.payload ≠ [] ∧ m.payload.length ≤ 4096 ∧ m.bytes.toNat = m.payload.length ∧ m.flags.getLsbD 0 = false) ∧
    (let s := parkedAt 256
     let x : Parked := ⟨7, xferKey 9 5, 9, 0, 4, 3, 0, 0⟩
     (s.eng.parked.find? fun y => decide (y.id = x.id)) = some x ∧ s.eng.sigIn = [] ∧ s.eng.dataIn = [] ∧
     x.at_ + max 1 ((setR Reg.syncParkLimit 0 s).eng.fld Reg.syncParkLimit 15 0) * 256 ≤ s.beat.time) := by decide +kernel

/-! ## Witnesses: admission, doorbells and ledgers -/

/-- Partition 0 with one descriptor published. -/
def submitted (deny : List Deny) : State := onE live fun e => { e.wr (door 0 0) 1 with deny := deny }
/-- An admission record that waits, with a full or an empty completion ring. -/
def answered (tail : Nat) : State := onP (fun q => { q with admRec := some ([1, 2], none), cq := { q.cq with next := tail, tail := tail } }) live

set_option maxRecDepth 100000 in
theorem witness_AdmissionTakesDescriptorsInOrder :
    (live.eng.running 0 = true ∧ live.eng.warm = false ∧ (live.eng.part 0).admRec = none ∧ live.eng.fld (door 0 0) 31 0 = live.eng.fld (door 0 4) 31 0) ∧
    ((onE (submitted []) fun e => { (e.setF (Reg.partStatus 1) 1 0 1).wr (door 1 0) 1 with admLast := 0 }).eng.admTurn = some 1) ∧
    (∀ d, d ∈ [[⟨0, 128, some 0, true, false, false⟩], []] → let e := (submitted d).eng
     e.admTurn = some 0 ∧ (e.part 0).srcFails = 0 ∧ e.fld (door 0 0) 31 0 ≠ e.fld (door 0 4) 31 0 ∧
       e.pair (Reg.admSqBaseLo 0) (Reg.admSqBaseHi 0) + 128 * (e.fld (door 0 4) 31 0 % 2 ^ e.fld (Reg.admSqSize 0) 4 0) = 0 ∧
       e.refused (some 0) false 0 128 = decide (d ≠ [])) ∧
    crcGood ((submitted []).eng.bytes 0 128) = false ∧
    (((answered 0).eng.part 0).admRec = some ([1, 2], none) ∧ ((answered 0).eng.part 0).cq.queue = [] ∧ (answered 0).eng.ringFree 0 none = true ∧
      ((answered 1024).eng.part 0).admRec = some ([1, 2], none) ∧ (answered 1024).eng.ringFree 0 none = false) := by
  refine ⟨by decide +kernel, by decide +kernel, ?_, by decide +kernel, by decide +kernel⟩
  intro d h
  simp only [List.mem_cons, List.not_mem_nil, or_false] at h
  rcases h with rfl | rfl <;> decide +kernel

/-- Token ring 255 held by partition 0, with its request in the table or gone and records that the host has not taken. -/
def ringed (left : Bool) (tail : Nat) : State :=
  onE live fun e => { e with trings := [(255, ⟨true, 0, 0, left, ⟨tail, tail, [], []⟩⟩)] }

theorem witness_DoorbellIndicesAndCancellation :
    (let s := setR (door 0 0) 1 live
     let new := fun (v : Nat) => (v + 2 ^ 32 - s.eng.fld (door 0 4) 31 0) % 2 ^ 32
     let now := (s.eng.fld (door 0 0) 31 0 + 2 ^ 32 - s.eng.fld (door 0 4) 31 0) % 2 ^ 32
     let size := 2 ^ s.eng.fld (Reg.admSqSize 0) 4 0
     s.eng.windowOpen = true ∧ s.eng.running 0 = true ∧ (new size ≤ size ∧ now ≤ new size) ∧ now ≤ new 1 ∧ size < new (size + 1) ∧ new 0 < now) ∧
    (let s := answered 1
     headMoves (s.eng.ringHead 0 none) (s.eng.part 0).cq.tail 1 = true ∧ headMoves (s.eng.ringHead 0 none) (s.eng.part 0).cq.tail 2 = false) ∧
    (let s := ringed false 1
     s.eng.windowOpen = true ∧ s.eng.running 0 = true ∧ (s.eng.tring 255).held = true ∧ (s.eng.tring 255).part = 0 ∧ (s.eng.tring 255).left = false ∧
       headMoves (s.eng.ringHead 0 (some 255)) (s.eng.tring 255).ring.tail 1 = true) ∧
    (let s := ringed true 1
     (s.eng.tring 255).held = true ∧ (s.eng.tring 255).part = 0 ∧ (s.eng.tring 255).left = true ∧ (s.eng.tring 255).ring.queue = [] ∧
       (s.eng.tring 255).ring.next = (s.eng.tring 255).ring.tail ∧ 1 = (s.eng.tring 255).ring.tail) ∧
    (live.eng.tring 0).held = false ∧
    (bitsOf (0x0800_0000#32).toNat 31 27 ≠ 0 ∧ bitsOf (BitVec.ofNat 32 (mkHandle 0 1 0)).toNat 31 27 = 0 ∧
      asked.eng.slotOf 0 (BitVec.ofNat 32 (mkHandle 0 1 0)).toNat = some 1 ∧ asked.eng.windowOpen = true ∧ asked.eng.running 0 = true ∧
      live.eng.slotOf 0 (BitVec.ofNat 32 (mkHandle 0 1 0)).toNat = none) := by decide +kernel

/-- A state in which core 0 is ACTIVE, so that the management path writes. -/
def managed (s : State) : State := onE s fun e => { e with mcores := [(0, { MCore.boot with role := .active })] }

theorem witness_LedgerWindowAndProfiles :
    (∀ path, path ∈ [Path.host, .mgmt] → ∀ a, a ∈ [Reg.admLedgerBalLo, Reg.admLedgerBalHi, Reg.admLedgerCap, Reg.admLedgerFloor, Reg.weirBudget 0,
      Reg.admModelCfg 0 7] → (managed opened).eng.gate path a = .pass) ∧
    (1 ≤ (16384#32).toNat % 2 ^ 15 ∧ (16384#32).toNat % 2 ^ 15 ≤ 16384 ∧ (0x8000#32).toNat % 2 ^ 15 = 0 ∧ 16384 < (16385#32).toNat % 2 ^ 15) ∧
    (opened.eng.liveOf 0 0 = [] ∧ (0xC0000001#32).getLsbD 31 = true ∧ bitsOf (0xC0000001#32).toNat 30 28 < 5 ∧ 1 ≤ bitsOf (0xC0000001#32).toNat 8 0 ∧ bitsOf (0xC0000100#32).toNat 8 0 = 256) ∧
    asked.eng.liveOf 0 0 ≠ [] ∧ asked.eng.gate .host (Reg.admModelCfg 0 0) = .pass := by decide +kernel

/-! ## Witnesses: pages and prefixes -/

/-- Bytes at address 0 of host memory. -/
def stored (l : List Byte) (s : State) : State := onE s fun e => e.store 0 l
/-- The learned-prefix table entry of id 0: one page, number 0, in use. -/
def lpEntry : List Byte := withCrc (padTo 252 ([1, 0] ++ leBytes 2 1 ++ leBytes 2 7))
/-- A learned prefix of id 0 with one page, resident or not, with a command in progress or not. -/
def prefixed (st : Nat) (cmd : Option (Nat × Nat × Nat)) (ref : Nat) : State :=
  stored lpEntry <| onE live fun e => { e.wr Reg.pageLpRange (2 ^ 16) with
    lps := [(0, st)], lpPages := [(0, [0])], lpCmd := cmd, pages := [(0, ⟨ref, false, 0⟩)] }

set_option maxRecDepth 100000 in
theorem witness_learnedPrefixes :
    live.eng.gate .host Reg.pageLpCmd = .pass ∧ (setR Reg.pageLpCmd (2 ^ 31) live).eng.bit Reg.pageLpCmd 31 = true ∧
    (let s := prefixed 0 none 0
     s.eng.bit Reg.pageLpCmd 31 = false ∧ kget 0 s.eng.lps 0 = 0 ∧ (s.eng.lpCheck 0).1 = true) ∧
    kget 0 (prefixed 1 none 1).eng.lps 0 = 1 ∧ (prefixed 0 (some (1, 0, 0)) 0).eng.lpCmd = some (1, 0, 0) ∧
    (let s := prefixed 2 (some (2, 0, 0)) 1
     s.eng.lpCmd = some (2, 0, 0) ∧ ∀ g, g ∈ kget [] s.eng.lpPages 0 → (s.eng.page g).ref = 1) ∧
    (let s := prefixed 2 (some (2, 0, 0)) 2
     s.eng.lpCmd = some (2, 0, 0) ∧ 0 ∈ kget [] s.eng.lpPages 0 ∧ (s.eng.page 0).ref ≠ 1) := by decide +kernel

/-- A tree of partition 0: its root at node 1 and a node 2 under it, with a page or without one. -/
def tree (page : Option Nat) : State :=
  onE live fun e => { (e.wr (Reg.pageRoot 0 0) 1).wr (Reg.pageWatermark 0) 9 with
    nodes := [(1, { Node.free with used := true, root := true, kids := [2] }), (2, { Node.free with used := true, parent := 1, level1 := true, page := page })]
    pages := [(5, ⟨1, true, 0⟩)] }

theorem witness_BasinCommandsAct :
    (let s := tree none
     s.eng.gate .host (Reg.pageCtrl 0) = .pass ∧ s.eng.level1s 0 = [2] ∧ (s.eng.node 2).parent = 1 ∧ (s.eng.node 1).root = true ∧
       (s.eng.node 2).kids = [] ∧ (s.eng.node 2).page = none) ∧
    (let s := onP (fun q => { q with lru := [2], pageCur := 524288 }) (tree (some 5))
     s.eng.freeCount 0 < s.eng.fld (Reg.pageWatermark 0) 23 0 ∧ (s.eng.part 0).lru = [2] ∧ (s.eng.node 2).page = some 5 ∧
       (s.eng.node 2).parent ≠ 2 ∧ (s.eng.node (s.eng.node 2).parent).root = true ∧ (s.eng.page 5).ref = 1 ∧
       ∀ h, h ∈ (s.eng.part 0).freePages → h ≠ 5) ∧
    opened.eng.fld (Reg.pageWatermark 0) 23 0 ≤ opened.eng.freeCount 0 := by decide +kernel

/-! ## Witnesses: batches and steps -/

/-- The batch that BOPEN generation opens, with runs. -/
def openBatch (runs : List Run) : Batch :=
  { learning := false, owner := 0, roles := [(0, 0), (1, 0)], tb := 2048, chunk := 512, seg := 512, gcap := 0, mixLearn := 0, mixGen := 0,
    buckets := [], reserved := [], runs := runs, caps := [] }
/-- A run of slot 1: one PREFILL row on channel 0. -/
def oneRun : Run :=
  { slot := 1, handle := mkHandle 0 1 0, phase := 1, model := 0, rows := 1, row0 := 0, chan := 0, pass := 0, version := 7, pos0 := 0,
    forced := false, first := true, last := true, copy := none, nodes := [], commit := [], src := 0, home := 1, dir := 0, vtok := 0, lp := 0 }
/-- A state whose partition 0 has a batch open. -/
def batched (runs : List Run) (s : State) : State := onP (fun q => { q with batch := some (openBatch runs) }) s
/-- The request of slot 1 WAITING with a prompt of 3 tokens and a model profile of 128 elements. -/
def offered : State :=
  onE asked fun e => (((e.wr (Reg.admModelCfg 0 0) 0x80000001).wr (Reg.admRowCap 0 0) 2048).setRstate 1 rsWaiting).setRqf 1 4 63 0 (3 * 2 ^ 32 + 1)

theorem witness_BatchesOpenAndTakeRequests :
    (live.issues (ins 0 0 0) ∧ (live.eng.part 0).batch = none ∧ (batched [] live).issues (ins 0 0 0) ∧ ((batched [] live).eng.part 0).batch ≠ none) ∧
    (live.issues (ins 5 2 0) ∧ live.eng.slotOf 0 (((live.eng.ctx 0 0).sreg 2).toNat % 2 ^ 32) = none) ∧
    (let s := batched [] offered
     s.issues (ins 5 2 0) ∧ s.eng.slotOf 0 (((s.eng.ctx 0 0).sreg 2).toNat % 2 ^ 32) = some 1 ∧ (s.eng.part 0).batch = some (openBatch []) ∧
       (openBatch []).owner = 0 ∧ s.eng.refusal 1 = none ∧ 0 < s.eng.natural 1 512 512) ∧
    (let s := onE (batched [] offered) fun e => e.setRstate 1 rsPaused
     s.issues (ins 5 2 0) ∧ s.eng.slotOf 0 (((s.eng.ctx 0 0).sreg 2).toNat % 2 ^ 32) = some 1 ∧ s.eng.refusal 1 = some 4) := by
  unfold State.issues; refine ⟨?_, ?_, ?_, ?_⟩ <;> decide +kernel

/-- A step in flight: one group on a channel. -/
def sealedStep (num : Nat) (proc : Bool) (groups : List StepGrp) : Step :=
  { num := num, learning := false, runs := [oneRun], groups := groups, passes := 1, sealedAt := 0, proc := proc, issued := false, issuer := none, queued := false,
    program := false, logp := 0, hid := [], granted := [], released := [], grouped := false, doneOps := [], drafts := [], learn := [], badLearn := [], learnRead := [], batched := false,
    recs := [], lateAt := none, params := [], sampled := [], anchors := [], accepted := [], ueRows := [], lists := [] }
/-- A group on logical channel 63. -/
def lastGrp : StepGrp := ⟨63, 0, 1, 1, false, false, 0⟩
/-- A state whose partition 0 has steps in flight. -/
def flying (l : List Step) (s : State) : State := onP (fun q => { q with steps := l, nextStep := 2 }) s

theorem witness_BatchesSealAndIssue :
    (let s := batched [oneRun] (flying [sealedStep 0 true [lastGrp], sealedStep 1 true [lastGrp]] live)
     s.issues (ins 5 0 0) ∧ (s.eng.part 0).batch = some (openBatch [oneRun]) ∧ 2 ≤ (s.eng.part 0).steps.length) ∧
    (let s := batched [oneRun] offered
     s.issues (ins 5 0 0) ∧ (s.eng.part 0).steps.length < 2 ∧ (openBatch [oneRun]).runs ≠ []) ∧
    ((batched [] live).issues (ins 5 0 0) ∧ (openBatch []).runs = [] ∧ ((batched [] live).eng.part 0).aged = [] ∧ (openBatch []).reserved = [] ∧
      (onP (fun q => { q with aged := [1] }) (batched [] offered)).issues (ins 5 0 0) ∧
      ((onP (fun q => { q with aged := [1] }) (batched [] offered)).eng.part 0).aged ≠ []) ∧
    (let s := onE (flying [sealedStep 0 false [lastGrp]] live) fun e => { e with seals := [(0, 0)] }
     s.eng.seals = (0, 0) :: [] ∧ s.eng.stepOf 0 0 = some (sealedStep 0 false [lastGrp]) ∧ (sealedStep 0 false [lastGrp]).issued = false) ∧
    (live.issues (ins 0 2 0) ∧ live.eng.stepOf 0 ((live.eng.ctx 0 0).sreg 2).toNat = none) ∧
    (∀ st, st ∈ [sealedStep 0 false [lastGrp], { sealedStep 0 true [lastGrp] with issued := true }] →
      (flying [st] live).issues (ins 0 2 0) ∧ (flying [st] live).eng.stepOf 0 (((flying [st] live).eng.ctx 0 0).sreg 2).toNat = some st) := by
  unfold State.issues; refine ⟨?_, ?_, ?_, ?_, ?_, ?_⟩ <;> decide +kernel

theorem witness_issuedAtOnce :
    let st := sealedStep 0 true [lastGrp]
    let s := onE (flying [st] live) fun e => { e with chans := [(63, ⟨true, 8, 8, 0, false⟩)] }
    s.eng.stepOf 0 ((s.eng.ctx 0 0).sreg 2).toNat = some st ∧ (∀ y, y ∈ (s.eng.part 0).steps → y.num = 0 → y = st) ∧ st.issued = false ∧
      st.proc = true ∧ st.queued = false ∧ lastGrp.chan < 64 ∧ s.eng.kdlq = [] ∧ (s.eng.chan (s.eng.phys 63)).up = true ∧
      (s.eng.chan (s.eng.phys 63)).failed = false ∧ (s.eng.stepDescs 0 st lastGrp).length < (s.eng.chan (s.eng.phys 63)).credits := by
  decide +kernel

/-- Partition 0 in DYNAMIC role mode with prefill groups, a share and bounds. -/
def balanced (np share hyst : Nat) (s : State) : State :=
  onE s fun e => (e.wr (Reg.weirRole 0) (BitVec.ofNat 32 (2 ^ 30 + hyst * 2 ^ 16 + 256))).wr (Reg.weirRoleStatus 0)
    (BitVec.ofNat 32 (share * 65536 + np * 256))

theorem witness_RoleBalanceFollowsDemand :
    (let s := beatIn .master (65535 * 256) (balanced 0 0xFFFF 0 offered)
     let el := (s.eng.liveSlots 0).filter fun n => s.eng.eligible n
     s.eng.pstate 0 ≠ psDisabled ∧ s.eng.pstate 0 ≠ psResetting ∧ s.beat.time = s.beat.entered ∧ bitsOf (s.eng.rd (Reg.weirRole 0)).toNat 31 30 = 1 ∧ (s.eng.part 0).roleAt ≤ s.beat.beat ∧
       bitsOf (s.eng.rd (Reg.weirRole 0)).toNat 6 0 ≤ (s.eng.dispChans 0).length - bitsOf (s.eng.rd (Reg.weirRole 0)).toNat 14 8 ∧
       0 < (el.filter fun n => decide (s.eng.rphase n = phPrefill)).foldl (fun k n => k + s.eng.natural n (s.eng.fld (Reg.weirChunk 0) 14 0) 0) 0 ∧
       (s.eng.part 0).roleBeat + max 16 (s.eng.fld (Reg.weirDwell 0) 15 0) ≤ s.beat.beat ∧
       65536 * s.eng.fld (Reg.weirRoleStatus 0) 14 8 + 32768 ≤ (0xFFFF + (65536 - 0xFFFF) / 8) * (s.eng.dispChans 0).length) ∧
    (let s := balanced 1 0 0 live
     (s.eng.liveSlots 0).filter (fun n => s.eng.eligible n) = [] ∧ live.eng.pstate 1 = psDisabled ∧
       (resetting false).eng.pstate 0 = psResetting ∧ (let t := beatIn .master 512 live; ({ t with beat := { t.beat with time := 513 } } : State).beat.entered ≠ 513) ∧
       bitsOf ((setR (Reg.weirRole 0) 0 live).eng.rd (Reg.weirRole 0)).toNat 31 30 ≠ 1) := by decide +kernel

/-- Four groups: three on prefill, the most, while the share asks for more; two, the fewest, while it asks for none. -/
theorem witness_roleBounds :
    (let s := setR (Reg.partDispLo 0) 15 (balanced 3 0xFFFF 0 live)
     let g := (s.eng.dispChans 0).length
     g = 4 ∧ bitsOf (s.eng.rd (Reg.weirRole 0)).toNat 14 8 = 1 ∧ s.eng.fld (Reg.weirRoleStatus 0) 14 8 = g - 1 ∧ 65536 * 3 + 32768 ≤ 0xFFFF * g) ∧
    (let s := setR (Reg.partDispLo 0) 15 (setR (Reg.weirRole 0) (2 ^ 30 + 256 + 2) (balanced 2 0 0 live))
     2 ≤ (s.eng.dispChans 0).length - 1 ∧ bitsOf (s.eng.rd (Reg.weirRole 0)).toNat 6 0 = 2 ∧ s.eng.fld (Reg.weirRoleStatus 0) 14 8 = 2 ∧ 0 * (s.eng.dispChans 0).length + 32768 ≤ 65536 * 2) := by
  decide +kernel

/-! ## Witnesses: boundaries and latency -/

/-- The request of slot 1 changed. -/
def withReq (f : Req → Req) (s : State) : State := onE s fun e => { e with reqs := [(1, f (e.req 1))] }

theorem witness_idleBoundaries :
    (let s := withReq (fun r => { r with cancel := true }) offered
     s.eng.running 0 = true ∧ (s.eng.part 0).steps = [] ∧ s.eng.idleSlots 0 = [1] ∧ (s.eng.req 1).early = Events.none ∧ (s.eng.req 1).termEv = none ∧
       (s.eng.req 1).inStep = none ∧ (s.eng.req 1).inBatch = false ∧ (s.eng.part 0).srcFails = 0 ∧ (s.eng.req 1).cancel = true ∧
       s.eng.rring 1 = none ∧ (s.eng.part 0).cq.queue = [] ∧ s.eng.ringFree 0 none = true) ∧
    (let s := beatIn .master 256 (withReq (fun r => { r with deadlineArmed := true }) (onE offered fun e => e.setRqf 1 6 63 0 (2 ^ 63 + 256)))
     s.eng.running 0 = true ∧ (s.eng.part 0).steps = [] ∧ s.eng.idleSlots 0 = [1] ∧ (s.eng.req 1).termEv = none ∧ (s.eng.req 1).cancel = false ∧
       s.eng.deadlineHit s.beat 1 = true ∧ s.eng.rqf 1 6 63 63 = 1) ∧
    (let s := withReq (fun r => { r with pauseEv := true }) offered
     s.eng.idleSlots 0 = [1] ∧ (s.eng.req 1).cancel = false ∧ s.eng.deadlineHit s.beat 1 = false ∧ (s.eng.req 1).faultEv = none ∧
       (s.eng.req 1).verEv = false ∧ (s.eng.req 1).pinEv = none ∧ (s.eng.req 1).live = true ∧ (s.eng.req 1).pauseEv = true ∧ s.eng.rstate 1 ≠ rsPaused) ∧
    (let s := onE live fun e => e.setF (Reg.partStatus 0) 1 0 psHalted
     s.eng.pstate 0 = psHalted ∧ (s.eng.part 0).steps = [] ∧ (live.eng.part 0).idleDue = false) := by
  decide +kernel

theorem witness_BoundariesRetirePauseAndUpdate :
    (let s := flying [sealedStep 0 false [lastGrp]] offered
     (s.eng.part 0).steps = sealedStep 0 false [lastGrp] :: [] ∧ s.eng.cutReached 0 (sealedStep 0 false [lastGrp]) = false ∧
       (sealedStep 0 false [lastGrp]).program = false) ∧
    (let st := { sealedStep 0 true [{ lastGrp with done := true }] with program := true, recs := [⟨1, 0, 0, [], false, false, 0, false⟩] }
     let s := flying [st] offered
     (s.eng.part 0).steps = st :: [] ∧ st.program = true ∧ st.batched = false ∧ st.proc = true ∧ s.eng.batchReady 0 st = true ∧
       ∃ r, r ∈ st.recs ∧ r.handed = false ∧ s.eng.rring r.slot = none) ∧
    (let st := sealedStep 0 true [{ lastGrp with done := true }]
     let s := withReq (fun r => { r with inStep := some 0 }) (flying [st, sealedStep 1 true [lastGrp]] (onE offered fun e => e.setRstate 1 rsActive))
     (s.eng.part 0).steps = st :: [sealedStep 1 true [lastGrp]] ∧ s.eng.cutReached 0 st = true ∧ s.eng.pstate 0 ≠ psResetting ∧
       st.slots.Nodup ∧ oneRun.slot ≠ deadSlot ∧ (∀ y, y ∈ [sealedStep 1 true [lastGrp]] → y.num ≠ st.num) ∧ s.eng.rstate 1 = rsActive ∧
       s.eng.fld (Reg.wlcCtrl 0) 1 0 = 0 ∧ (s.eng.req 1).pinEv = none ∧ (s.eng.req 1).early.pin = none ∧ oneRun.phase ≠ phDecode ∧
       1 ∉ st.badLearn ∧ st.lists = []) := by decide +kernel

/-- The request of slot 1 with an alert that is due. -/
def alerted (fallen : Bool) : State := withReq (fun r => { r with alert := some ⟨1, 0, fallen⟩ }) offered

theorem witness_alerts :
    (let s := alerted false
     (s.eng.req 1).alert = some ⟨1, 0, false⟩ ∧ s.eng.running 0 = true ∧ s.eng.listFull 0 (s.eng.fld (Reg.latCtrl 0) 20 16) = false ∧
       s.eng.dueAlert s.beat 0 = some (1, ⟨1, 0, false⟩) ∧ (s.eng.part 0).alertHeld = [] ∧ s.eng.rstate 1 = rsWaiting ∧ (s.eng.req 1).inBatch = false ∧
       (s.eng.req 1).inStep = none) ∧
    (let s := onP (fun q => { q with alertHeld := [1] }) (alerted true)
     (s.eng.req 1).alert = some ⟨1, 0, true⟩ ∧ (s.eng.part 0).alertHeld = [1] ∧ s.eng.running 0 = true ∧ s.eng.listFull 0 (s.eng.fld (Reg.latCtrl 0) 20 16) = false) ∧
    (let s := onE (alerted false) fun e => e.setRstate 1 rsActive
     s.eng.dueAlert s.beat 0 = some (1, ⟨1, 0, false⟩) ∧ s.eng.rstate 1 ≠ rsWaiting) := by decide +kernel

/-- Partition 0 in drawdown or in the resumption that follows it, with its request PAUSED. -/
def drawn (status : Nat) (resuming : Bool) : State :=
  onE (onP (fun q => { q with resuming := resuming, startAt := some 0, recoverAt := some 0 }) offered) fun e =>
    (e.wr (Reg.latDrawStatus 0) (BitVec.ofNat 32 status)).setRstate 1 rsPaused

theorem witness_LatencyEventsAndDrawdown :
    (let s := withReq (fun r => { r with deadlineArmed := true }) offered
     (1#17).toNat ∈ s.eng.liveSlots 0 ∧ (s.eng.req 1).deadlineArmed = true ∧ s.eng.rdeadline 1 ≤ s.beat.time) ∧
    (let s := withReq (fun r => { r with deadlineArmed := true }) (onE offered fun e => e.setRqf 1 6 55 0 1)
     s.beat.time < s.eng.rdeadline 1) ∧
    (live.eng.gate .host (Reg.latDrawCtrl 0) = .pass ∧ live.eng.drawActive 0 = false ∧ (drawn (2 ^ 31) false).eng.drawActive 0 = true ∧
      (drawn (2 ^ 31) false).eng.fld (Reg.latDrawStatus 0) 30 28 = 0) ∧
    (let s := beatIn .master (65536 * 256) (drawn (3 * 2 ^ 29) false)
     s.eng.bit (Reg.latDrawStatus 0) 29 = true ∧ s.eng.startLive s.beat 0 = false ∧ s.eng.bit (Reg.latDrawStatus 0) 30 = true ∧
       s.eng.recoverLive s.beat 0 = false) ∧
    (let s := onE (drawn (3 * 2 ^ 29) false) fun e => (e.wr (Reg.latDrawCtrl 0) 12).wr (Reg.latDrawTime 0) 0x00010001
     s.eng.startLive s.beat 0 = true ∧ s.eng.recoverLive s.beat 0 = true) ∧
    (let s := drawn 0 true
     (s.eng.part 0).resuming = true ∧ s.eng.drawActive 0 = false ∧ (s.eng.part 0).resumeAt ≤ s.beat.beat ∧ s.beat.time = s.beat.entered ∧
       (let t := beatIn .master 256 s; ({ t with beat := { t.beat with time := 456 } } : State).beat.entered ≠ 456) ∧ (s.eng.liveByOrder 0).Nodup ∧
       s.eng.rstate 1 = rsPaused) := by decide +kernel

/-! ## Witnesses: the logit plane -/

/-- A head descriptor: FP8 weights, no WRITE, 128 elements over a vocabulary of 128. -/
def headBytes : List Byte :=
  withCrc (padTo 60 ([3, 0, 0, 0] ++ leBytes 2 7 ++ leBytes 2 0 ++ leBytes 4 128 ++ leBytes 4 128 ++ leBytes 8 0x10000 ++ leBytes 8 0 ++ leBytes 8 0))
/-- A step in flight with its descriptor at address 0, which s2 and s3 name. -/
def heading (st : Step) : State := stored headBytes (setS 2 0 (onP (fun q => { q with vslots := [(0, ⟨vsResident, 7, 1, 0, 1, 1⟩)] }) (flying [st] offered)))
/-- An operation of that descriptor. -/
def headOp (id : Nat) : PlaneOp := ⟨id, 0, 0, 0, false, headDesc 0 headBytes, none, [], [], [], [], [], []⟩

set_option maxRecDepth 100000 in
theorem witness_PlaneQueuesOperations :
    (live.issues (ins 0 2 3) ∧ live.eng.stepOf 0 ((live.eng.ctx 0 0).sreg 2).toNat = none) ∧
    (let st := { sealedStep 0 true [lastGrp] with passes := 2, grouped := true }
     (heading st).issues (ins 0 2 3) ∧ (heading st).eng.stepOf 0 (((heading st).eng.ctx 0 0).sreg 2).toNat = some st) ∧
    (let s := setS 3 1 (heading (sealedStep 0 true [lastGrp]))
     s.issues (ins 0 2 3) ∧ s.eng.stepOf 0 ((s.eng.ctx 0 0).sreg 2).toNat = some (sealedStep 0 true [lastGrp]) ∧
       ((s.eng.ctx 0 0).sreg 3).toNat % 64 ≠ 0) ∧
    (let s := heading (sealedStep 0 true [lastGrp])
     s.issues (ins 0 2 3) ∧ s.eng.opBad 0 0 0 0 false = none ∧ s.eng.planeWait = [] ∧ s.eng.planeq.length < 64 ∧ s.eng.deny = [] ∧
       s.eng.opPasses (sealedStep 0 true [lastGrp]) (headOp 3) ≠ []) ∧
    (let s := onE (heading (sealedStep 0 true [lastGrp])) fun e => { e with planeq := List.replicate 64 (headOp 9) }
     s.eng.opBad 0 0 0 0 false = none ∧ 64 ≤ s.eng.planeq.length) := by
  unfold State.issues; refine ⟨?_, ?_, ?_, ?_, ?_⟩ <;> decide +kernel

/-- A second mismatch with no spare tile left, the last unit of its round or not. -/
theorem witness_noSpareTile :
    (let o := { headOp 3 with redo := [(0, 0)], round := [0] }
     ∀ v, v ∈ o.round.erase 0 → v ∈ o.units) ∧
    (let o := { headOp 3 with redo := [(0, 0)], round := [0, 1] }
     ∃ v, v ∈ o.round.erase 0 ∧ v ∉ o.units) := by
  refine ⟨by decide +kernel, 1, by decide +kernel⟩

theorem witness_waitingOperations :
    let s := onE (heading (sealedStep 0 true [lastGrp])) fun e => { e with planeWait := [(0, 0, headOp 3)] }
    (s.eng.planeWait.find? fun w => decide (w.1 = 0)) = some (0, 0, headOp 3) ∧ s.eng.planeq.length < 64 ∧
    s.eng.stepOf 0 0 = some (sealedStep 0 true [lastGrp]) ∧ (s.eng.ctx 0 0).stopReq = none ∧ s.eng.deny = [] ∧ s.eng.opPasses (sealedStep 0 true [lastGrp]) (headOp 3) ≠ [] := by
  decide +kernel

/-- The hidden row of step row 0, of n bytes. -/
def hidden (n : Nat) : HRowPkt := ⟨0, 0, 0, 0, BitVec.ofNat 32 n, List.replicate n 0, true⟩
/-- A second step whose granted rows fill the stage: 129 rows of 130,816 bytes. -/
def bigStep : Step := { sealedStep 1 true [lastGrp] with runs := [{ oneRun with phase := 2, rows := 129, model := 1 }], granted := [0] }
/-- The stage full of that step's rows, with a reservation that waits for it. -/
def fullStage : State :=
  onE (flying [sealedStep 0 true [lastGrp], bigStep] offered) fun e => { e.wr (Reg.admModelCfg 0 1) 0xA00001FF with stageq := [(0, 0, 0)] }

theorem witness_rowsAndReservations :
    (let s := heading (sealedStep 0 true [lastGrp])
     s.eng.bit Reg.glbStatus 31 = true ∧ s.eng.hsFailed 0 = false ∧ s.eng.stageq = [] ∧ s.eng.hrowHeld = [] ∧
       s.eng.stepOf 0 0 = some (sealedStep 0 true [lastGrp]) ∧ (sealedStep 0 true [lastGrp]).runAt 0 = some oneRun ∧
       s.eng.hrowBad (hidden 64) = true ∧ s.eng.hrowBad (hidden 128) = false ∧ s.eng.stageUsed + s.eng.granules 0 (sealedStep 0 true [lastGrp]) 0 ≤ 256) ∧
    (let s := onE fullStage fun e => { e with stageq := [] }
     s.eng.hrowBad (hidden 128) = false ∧ s.eng.stepOf 0 0 = some (sealedStep 0 true [lastGrp]) ∧
       256 < s.eng.stageUsed + s.eng.granules 0 (sealedStep 0 true [lastGrp]) 0) ∧
    (fullStage.eng.stageq = (0, 0, 0) :: [] ∧ fullStage.eng.stepOf 0 0 = some (sealedStep 0 true [lastGrp]) ∧
      256 < fullStage.eng.stageUsed + fullStage.eng.granules 0 (sealedStep 0 true [lastGrp]) 0) ∧
    (let s := onE (heading (sealedStep 0 true [lastGrp])) fun e => { e with stageq := [(0, 0, 0)] }
     s.eng.stageq = (0, 0, 0) :: [] ∧ s.eng.stageUsed + s.eng.granules 0 (sealedStep 0 true [lastGrp]) 0 ≤ 256) := by decide +kernel

/-- The step with its row present. -/
def presentStep : Step := { sealedStep 0 true [lastGrp] with granted := [0], hid := [(0, List.replicate 128 0)] }
/-- The operation queued or running over that row, with units done or executed again. -/
def computing (cur : Option (Nat × Nat)) (units : List Nat) (redo : List (Nat × Nat)) : State :=
  onE (heading presentStep) fun e => { e with planeq := [{ headOp 3 with units := units, redo := redo, round := if cur.isSome then [0] else [] }], planeCur := cur }

/-- With one tile in a group, every mismatch is that tile's: tile 0 of unit 0, once executed again or not. -/
theorem witness_oneTileGroups (redo : List (Nat × Nat)) (e : Eng) : (e.tileOf 1 { headOp 3 with redo := redo, round := [0] } 0).1 = 0 := by
  have h : ({ headOp 3 with redo := redo, round := [0] } : PlaneOp).groupSize 1 = 1 := show (headOp 3).groupSize 1 = 1 by decide +kernel
  simp only [Eng.tileOf, h, Nat.mod_one, Nat.mul_one, Nat.add_zero]
  rfl

theorem witness_PlaneRunsPasses :
    (let s := computing none [] []
     (s.eng.planeq.map fun y => y.id).Nodup ∧ s.eng.planeCur = none ∧ s.eng.planeStop = none ∧ s.eng.tileDown = [] ∧ (headOp 3).head ≤ 8 ∧ s.eng.nextPass = some (3, 0) ∧ s.eng.opOf 3 = some (headOp 3) ∧
       s.eng.stepOf 0 0 = some presentStep ∧ (heading presentStep).eng.nextPass = none) ∧
    (∀ redo, redo ∈ [[], [(0, 0)]] → let s := computing (some (3, 0)) [] redo
     s.eng.running? = some ({ headOp 3 with redo := redo, round := [0] }, presentStep, 0) ∧ s.eng.passPresent presentStep (headOp 3) 0 = true ∧
       0 < (headOp 3).unitCount ∧ s.eng.tileDown = [] ∧ s.eng.planeStop = none ∧ s.eng.passRows presentStep (headOp 3) 0 ≠ [] ∧ s.eng.deny = [] ∧ (headOp 3).back = false ∧ (headOp 3).desc.write = false ∧
       (s.eng.passRows presentStep { headOp 3 with redo := redo, round := [0] } 0).length = 1) ∧
    (let s := computing (some (3, 0)) [0] []
     s.eng.running? = some ({ headOp 3 with units := [0], round := [0] }, presentStep, 0) ∧
       s.eng.passPresent presentStep { headOp 3 with units := [0], round := [0] } 0 = true ∧ s.eng.tileDown = [] ∧ s.eng.planeStop = none ∧ (∀ u, u < (headOp 3).unitCount → u ∈ [0]) ∧ s.eng.romWait = false ∧
       s.eng.passesLeft presentStep { headOp 3 with units := [0], round := [0] } = [0]) ∧
    (let s := onE live fun e => { e with tileDown := [(2, 0), (5, 1)] }
     s.eng.tileDown = (2, 0) :: [(5, 1)] ∧ s.eng.fld Reg.intSpares 31 24 ≠ 0 ∧ (setR Reg.intSpares 0 s).eng.fld Reg.intSpares 31 24 = 0) := by
  refine ⟨by decide +kernel, ?_, by decide +kernel, by decide +kernel⟩
  intro redo h
  simp only [List.mem_cons, List.not_mem_nil, or_false] at h
  rcases h with rfl | rfl <;> decide +kernel

/-! ## Witnesses: vectors and sampling -/

/-- Context 0 with vectors of n elements: v1 and v2 FP32 in the scratch (v2 at its end), v3 a BIT mask, v4 the hidden row of
step row 0. -/
def vectors (n : Nat) (s : State) : State :=
  onC (fun x => { x with elen := BitVec.ofNat 32 n, v := [(1, ⟨1, 1, 0, 2⟩), (2, ⟨1, 1, 8184, 2⟩), (3, ⟨1, 13, 64, 2⟩), (4, ⟨3, 3, 0, 2⟩)] }) s

theorem witness_goodVectors :
    ((vectors 2 live).issues (ins 1 1 2) ∧ (ins 1 1 2).kinds .v .v .v = true) ∧
    (vectors 2 live).eng.vGood (ins 1 1 2) [vDst (ins 1 1 2) false okFloat, vSrcA (ins 1 1 2) okFloat, vSrcB (ins 1 1 2) okFloat]
      [.scratch 0, .scratch 0, .scratch 8184] ∧
    (vectors 2 live).eng.vGood (ins 1 1 5 (2 ^ 24)) [vDst (ins 1 1 5) false okFloat, vSrcA (ins 1 1 5) okFloat] [.scratch 0, .scratch 0] ∧
    (vectors 2 asked).eng.vGood (ins 2 3 2) [vDst (ins 2 3 2) true okRow, vSrcA (ins 2 3 2) okBit] [.scratch 8184, .scratch 64] ∧
    (vectors 2 asked).eng.reqB (ins 2 3 2) = some 1 ∧ live.eng.romWait = false := by
  unfold State.issues Eng.vGood; refine ⟨?_, ?_, ?_, ?_, ?_⟩ <;> decide +kernel

theorem witness_VectorInstructionsWriteTheirRow :
    (let i := ins 5 1 2
     (vectors 2 live).issues i ∧ (([vDst i false okFloat, vSrcA i okFloat, vSrcB i okFloat].find? fun z => z.bad ((vectors 2 live).eng.ctx 0 0)).map
       fun o => (o.field, o.num)) = some (1, 5)) ∧
    (let i := ins 1 1 2
     (vectors 0 live).issues i ∧ (([vDst i false okFloat, vSrcA i okFloat, vSrcB i okFloat].find? fun z => z.bad ((vectors 0 live).eng.ctx 0 0)).map
       fun o => (o.field, o.num)) = none ∧ ((vectors 0 live).eng.ctx 0 0).elen = 0) ∧
    (∀ n, n ∈ [1, 2] → ((vectors 2 live).eng.ctx 0 0).vh n = ⟨1, 1, if n = 1 then 0 else 8184, 2⟩ ∧ n < 16) := by
  unfold State.issues; decide +kernel

/-- The request of slot 1 with a presence penalty, in a partition that allows penalties or not. -/
def penalized (on : Bool) : State := onE (vectors 2 asked) fun e => ((e.setRqf 1 14 31 0 fOne).setRqf 1 15 63 32 f1).wr (Reg.smpPenBaseLo 0) (if on then 4096 else 0)

theorem witness_penalties :
    (let s := penalized false
     let i := ins 2 3 2
     (s.eng.sampP 0 ((s.eng.reqB i).getD 0)).penActive = true ∧ s.eng.penOn 0 = false ∧ (s.eng.reqB i).isSome = true) ∧
    (penalized true).eng.penOn 0 = true ∧ (vectors 2 asked).eng.reqB (ins 2 3 2) = some 1 ∧
    (onE (vectors 2 asked) fun e => e.setRqf 1 14 31 0 fOne).eng.sampP 0 1 = ⟨0, 0, 0, fOne, 0, none⟩ := by decide +kernel

/-- The hidden row of step row 0 has not come yet. -/
theorem witness_rowsNotPresent :
    let s := vectors 2 (heading (sealedStep 0 true [lastGrp]))
    let i := ins 1 4 1
    (∀ y, y ∈ [vDst i false okFloat, vSrcA i okFloat] → y.bad (s.eng.ctx 0 0) = false ∧ s.eng.vRange 0 2 y ((s.eng.ctx 0 0).vh y.num) = none) ∧
    (∃ y, y ∈ [vDst i false okFloat, vSrcA i okFloat] ∧ s.eng.vLoc 0 2 ((s.eng.ctx 0 0).vh y.num) = none) := by
  refine ⟨by decide +kernel, vSrcA (ins 1 4 1) okFloat, by simp, by decide +kernel⟩

/-- The request of slot 1 with grammar 3. -/
def grammared (stride : Nat) : State := onE (vectors 2 asked) fun e => (e.setRqf 1 19 63 0 (2 ^ 63 + 3 * 2 ^ 48)).wr (Reg.smpMaskStride 0) (BitVec.ofNat 32 stride)

theorem witness_maskingRequests :
    ((grammared 1).eng.rgram 1 = some 3 ∧ (grammared 1).eng.maskSmall 0 2 = false ∧ (grammared 0).eng.rgram 1 = some 3 ∧
      (grammared 0).eng.maskSmall 0 2 = true ∧ asked.eng.rgram 1 = none ∧ (grammared 1).eng.deny = []) ∧
    (asked.eng.auxRead 0 1 = .inl Aux.none ∧ (onE asked fun e => e.setRqf 1 16 63 0 64).eng.auxRead 0 1 = .inr 2) ∧
    (live.eng.bindBad 0 ⟨1, 1, 0, 2⟩ = none ∧ live.eng.bindBad 0 ⟨1, 5, 0, 31⟩ = some 3 ∧ live.eng.bindBad 0 ⟨4, 2, 0, 2⟩ = some 5) := by decide +kernel

theorem witness_ReductionsAndDrawsWriteAScalar :
    ((vectors 2 asked).issues (ins 5 1 2) ∧ (ins 5 1 2).kinds .s .v .s = true ∧ (vectors 2 asked).eng.vGood (ins 5 1 2) [vSrcA (ins 5 1 2) okRow] [.scratch 0] ∧
      (vectors 2 asked).eng.reqB (ins 5 1 2) = some 1) ∧
    (let s := setS 3 1 (vectors 2 asked)
     s.issues (ins 5 1 3) ∧ ((s.eng.ctx 0 0).sreg 3).toNat % 2 ^ 20 < (s.eng.ctx 0 0).elen.toNat ∧ s.eng.reqB (ins 5 1 3) = none) ∧
    (let s := setS 3 2 (vectors 2 asked)
     s.issues (ins 5 1 3) ∧ (s.eng.ctx 0 0).elen.toNat ≤ ((s.eng.ctx 0 0).sreg 3).toNat % 2 ^ 20) ∧
    ([vSrcA (ins 5 9 2) okRow].find? fun z => z.bad ((vectors 2 asked).eng.ctx 0 0)).isSome = true := by
  unfold State.issues Eng.vGood; refine ⟨?_, ?_, ?_, ?_⟩ <;> decide +kernel

/-- The step of slot 1 under the program mode, with records already formed for it. -/
def emitting (program : Bool) (recs : List FormedRec) : State :=
  setS 2 (mkHandle 0 1 0) (withReq (fun r => { r with inStep := some 0 }) (flying [{ sealedStep 0 true [lastGrp] with program := program, recs := recs }] (setR (Reg.smpPenBaseLo 0) 4096 offered)))
/-- A record formed for slot 1. -/
def formed (terminal : Bool) : FormedRec := ⟨1, 0, 0, [], terminal, false, 0, false⟩

theorem witness_EmitStagesOneRecord :
    (live.issues (ins 0 2 3) ∧ live.eng.slotOf 0 (((live.eng.ctx 0 0).sreg 2).toNat % 2 ^ 32) = none) ∧
    (asked.issues (ins 0 2 3) ∧ asked.eng.slotOf 0 (((asked.eng.ctx 0 0).sreg 2).toNat % 2 ^ 32) = some 1 ∧ (asked.eng.req 1).inStep = none) ∧
    (∀ x, x ∈ [(false, []), (true, [formed true]), (true, List.replicate 9 (formed false)), (true, List.replicate 8 (formed false))] →
      let s := emitting x.1 x.2
      s.issues (ins 0 2 3) ∧ s.eng.slotOf 0 (((s.eng.ctx 0 0).sreg 2).toNat % 2 ^ 32) = some 1 ∧ (s.eng.req 1).inStep = some 0 ∧
      s.eng.stepOf 0 0 = some { sealedStep 0 true [lastGrp] with program := x.1, recs := x.2 } ∧ s.eng.rgram 1 = none ∧
      s.eng.auxRead 0 1 = .inl Aux.none ∧ (s.eng.part 0).srcFails = 0 ∧ s.eng.penOn 0 = true) ∧
    (oneRun.pathOf none [] ([] ++ [0]) = some [] ∧ (ins 0 2 3 0x09000000).imm24 = 0 ∧ (ins 0 2 3 0x09000000).mod = 9 ∧ (ins 0 2 3 1).imm24 ≠ 0) := by
  unfold State.issues
  refine ⟨by decide +kernel, by decide +kernel, ?_, by decide +kernel⟩
  intro x h
  simp only [List.mem_cons, List.not_mem_nil, or_false] at h
  rcases h with rfl | rfl | rfl | rfl <;> decide +kernel

/-! ## Witnesses: random bits, grammars and records -/

/-- A request for 64 mask bits of partition 0 under slot 0, whose response takes two flits of port 7. -/
def wanted : List Byte := withCrc (padTo 28 ([0, 0, 2, 0] ++ leBytes 4 (2 ^ 31) ++ leBytes 8 0 ++ leBytes 8 0 ++ leBytes 2 1))
/-- A state that may answer it, or whose jump matrices are being rebuilt. -/
def serving (rebuild : Bool) : State :=
  onE live fun e => { e.wr (Reg.rngSlotEn 0) 1 with romWait := rebuild, hsCredit := [(15, 2)], bitq := if rebuild then [(7, wanted, some (1, 2))] else [] }

set_option maxRecDepth 100000 in
theorem witness_BitRequestsAreAnsweredInOrder :
    (let e := (serving false).eng
     e.bit Reg.glbStatus 31 = true ∧ e.hsFailed 7 = false ∧ padTo 32 wanted = wanted ∧ e.bitBad wanted true = false ∧ e.romWait = false ∧ e.hsHeld = [] ∧
       ceilDiv (bitResponse wanted 0 (bitPayload wanted (e.rngKey1 0 0) (e.rngKey2 0 0))).length 64 ≤ kget 0 e.hsCredit 15) ∧
    (let e := (serving true).eng
     e.romWait = true ∧ e.bitBad wanted true = false ∧ e.bitq = [(7, wanted, some (1, 2))] ∧
       ceilDiv (bitResponse wanted 0 (bitPayload wanted 1 2)).length 64 ≤ kget 0 e.hsCredit 15) ∧
    ((serving false).eng.bitBad wanted false = true ∧ fieldAt wanted 0 1 < 32 ∧ (serving true).eng.bitBad (padTo 32 [32]) true = true ∧
      32 ≤ fieldAt (padTo 32 [(32 : Byte)]) 0 1 ∧ (∃ x, x ∈ (serving true).eng.bitq ∧ x.1 = 7)) ∧
    (∀ path, path ∈ [Path.host, .mgmt, .i2c] → live.eng.readOpen path Reg.rngProbeWord = true) := by
  refine ⟨by decide +kernel, by decide +kernel, ⟨by decide +kernel, by decide +kernel, by decide +kernel, by decide +kernel, ⟨(7, wanted, some (1, 2)), List.mem_singleton_self _, rfl⟩⟩, by decide +kernel⟩

/-- Grammar 1023 not resident, resident or being unloaded, with a command in progress or not. -/
def gramIs (st : Nat) (busy : Bool) : State :=
  onE asked fun e => { e.wr Reg.smpGramCmd (if busy then 2 ^ 31 else 0) with
    grams := if st = 0 then [] else [(1023, ⟨st, 1, 0⟩)], gramCmd := if busy then some (2, 1023, 0, 0, 0) else none }

theorem witness_GrammarsLoadAndUnload :
    (live.eng.gate .host Reg.smpGramCmd = .pass ∧ (gramIs 2 true).eng.bit Reg.smpGramCmd 31 = true ∧
      ((gramIs 2 true).eng.gram 1023).st = 2 ∧ ((gramIs 2 true).eng.gram 0).st ≠ 2) ∧
    (∀ st, st ≤ 2 → (gramIs st false).eng.bit Reg.smpGramCmd 31 = false ∧ ((gramIs st false).eng.gram 1023).st = st) ∧
    ((gramIs 2 true).eng.gramCmd = some (2, 1023, 0, 0, 0) ∧ (gramIs 2 true).eng.gramInUse 1023 = false ∧
      (onE (gramIs 2 true) fun e => e.setRqf 1 19 63 0 (2 ^ 63 + 1023 * 2 ^ 48)).eng.gramInUse 1023 = true) := by decide +kernel

/-- A record of 28 bytes that Spout holds. -/
def waits (since : Nat) (late : Bool) : QRec := ⟨List.replicate 28 0, none, none, some (0, 1), none, since, late⟩
/-- The completion ring of partition 0 with a record that waits, or one that is being written. -/
def draining (tail : Nat) (q : List QRec) (t : List Txn) (time : Nat) : State :=
  beatIn .master time (onP (fun x => { x with cq := ⟨tail, tail, [], q⟩ }) (onE live fun e => { e.wr (Reg.spoutDrain 0) 4 with txns := t }))
/-- A transaction that writes a record to index 0 of the completion ring. -/
def writing : Txn := ⟨4, 0, 0x20040, 3, .record 0 none 0 (waits 0 false)⟩

theorem witness_recordsDrain :
    (live.eng.deny = [] ∧ (live.eng.tring 255).held = false ∧ ((ringed false 0).eng.tring 255).held = true ∧ ((ringed false 0).eng.tring 255).part = 0) ∧
    (let s := draining 0 [waits 0 false] [] 0
     (s.eng.ring 0 none).queue = waits 0 false :: [] ∧ s.eng.ringFree 0 none = true) ∧
    (draining 1024 [waits 0 false] [] 0).eng.ringFree 0 none = false ∧
    (let s := draining 0 [] [writing] 0
     (s.eng.txns.find? fun z => decide (z.id = 4)) = some writing ∧ (s.eng.ring 0 none).tail = 0 ∧ (s.eng.ring 0 none).acked = [] ∧ s.eng.deny = []) ∧
    (let s := draining 0 [waits 0 false] [] 1024
     let admits := fun (s : State) => onP (fun x => { x with admRec := some ([1], none), admSince := 0, admLate := false }) s
     s.eng.txns = [] ∧ (waits 0 false).late = false ∧ s.eng.fld (Reg.spoutDrain 0) 15 0 ≠ 0 ∧
       (waits 0 false).since + 256 * s.eng.fld (Reg.spoutDrain 0) 15 0 ≤ s.beat.time ∧
       ¬ (waits 0 false).since + 256 * s.eng.fld (Reg.spoutDrain 0) 15 0 ≤ (draining 0 [waits 0 false] [] 1023).beat.time ∧
       ((draining 0 [] [] 1024).eng.ring 0 none).queue = [] ∧ ((draining 0 [] [] 1024).eng.part 0).admRec = none ∧
       ((admits (draining 0 [] [] 1024)).eng.ring 0 none).queue = [] ∧ ((admits (draining 0 [] [] 1024)).eng.part 0).admRec ≠ none ∧
       ((admits s).eng.part 0).admSince + 256 * (admits s).eng.fld (Reg.spoutDrain 0) 15 0 ≤ s.beat.time) ∧
    (draining 0 [] [writing] 1024).eng.txns = [writing] := by decide +kernel

theorem witness_RecordsDrainAndPortsFail :
    (let s := draining 0 [] [writing] 0
     writing.port < 16 ∧ ∃ q, q < 16 ∧ q ≠ writing.port ∧ s.eng.bit Reg.glbPortFailed (16 + q) = false) ∧
    (live.eng.rmHeld = [] ∧ live.eng.updNext = none ∧ ∃ q, q < 16 ∧ q ≠ 15 ∧ live.eng.bit Reg.glbPortFailed (16 + q) = false) ∧
    (live.eng.bit Reg.glbPortFailed (16 + 15) = false ∧ (setR Reg.glbPortFailed (2 ^ 31) live).eng.bit Reg.glbPortFailed (16 + 15) = true) ∧
    (let s := onE live fun e => { e with rmCredit := [(4, 0)], groups := [(0, { Group.fresh with st := gsIssuing, shards := 2, total := 2, next := 1 })] }
     s.eng.rmHeld = [] ∧ s.eng.updNext = some 0 ∧ (∀ q, q < 4 → kget 0 s.eng.rmCredit (4 * q) = 0) ∧ s.eng.rmFailed 1 = false) ∧
    (let s := onE live fun e => { e with rmHeld := [(0x40, msg 0 4 1)], rmCredit := [(4 * 3 + 1, 0)] }
     s.eng.rmHeld ≠ [] ∧ s.eng.updNext = none ∧ s.eng.rmFailed 3 = false ∧ s.eng.bit Reg.glbStatus 31 = true ∧ s.eng.rmHeld = [(0x40, msg 0 4 1)] ∧ 0x40 / 64 = 1 ∧
       rmFlits (msg 0 4 1) ≤ kget 0 s.eng.rmCredit (4 * 3 + 1) + 1) ∧
    (let s := onE live fun e => { e with hsHeld := [(7, 1, List.replicate 64 0)] }
     s.eng.hsHeld = [(7, 1, List.replicate 64 0)] ∧ s.eng.hsFailed 7 = false ∧ ceilDiv (List.replicate 64 (0 : Byte)).length 64 ≤ kget 0 s.eng.hsCredit 15 + 1) := by
  refine ⟨⟨by decide +kernel, 0, by decide +kernel⟩, ⟨by decide +kernel, by decide +kernel, 0, by decide +kernel⟩, by decide +kernel, by decide +kernel,
    by decide +kernel, by decide +kernel⟩

/-! ## Witnesses: versions and updates -/

/-- Partition 0 with version slots in the given states, versions 10 to 13. -/
def versioned (l : List Nat) (s : State) : State := onP (fun q => { q with vslots := l.zipIdx.map fun x => (x.2, ⟨x.1, 10 + x.2, 1, 0, 1, 1⟩) }) s

theorem witness_VersionCommandsAndPins :
    (live.eng.gate .host (Reg.wlcVerCmd 0) = .pass ∧
      ∀ n, n < 4 → ((versioned [vsResident, vsResident, vsResident, vsResident] live).eng.vslot 0 n).st ≠ vsEmpty) ∧
    (let s := setR (Reg.wlcFanCfg 0) (4096 * 2 ^ 16 + 2047) (versioned [vsResident] live)
     (s.eng.vslot 0 1).st = vsEmpty ∧ (∀ m, m < 1 → (s.eng.vslot 0 m).st ≠ vsEmpty) ∧ (10#16).toNat = (s.eng.vslot 0 0).version ∧
       (∀ m, m < 4 → (s.eng.vslot 0 m).st ≠ vsEmpty → (s.eng.vslot 0 m).version ≠ 20) ∧ s.eng.fld (Reg.wlcFanCfg 0) 28 16 = 4096 ∧
       s.eng.fld (Reg.wlcFanCfg 0) 15 0 = 2047 ∧ 2047 < s.eng.semSize 0 ∧ s.eng.running 0 = true ∧
       (s.eng.cell (s.eng.semBase 0 + 2047)).queue = [] ∧ (s.eng.cell (s.eng.semBase 0 + 2047)).count.toNat < 4096) ∧
    ((setR (Reg.wlcFanCfg 0) 0 live).eng.fld (Reg.wlcFanCfg 0) 28 16 = 0 ∧ opened.eng.running 0 = false) ∧
    (∀ st, st ∈ [vsLoading, vsResident, vsDraining] → let s := versioned [st] live
      (s.eng.vslot 0 0).st = st ∧ (s.eng.vslot 0 0).version = 10 ∧ ∀ m, m < 4 → (s.eng.vslot 0 m).st ≠ vsEmpty → m = 0) ∧
    (let s := setS 3 10 (versioned [vsResident] asked)
     s.issues (ins 0 2 3) ∧ s.eng.slotOf 0 (((s.eng.ctx 0 0).sreg 2).toNat % 2 ^ 32) = some 1 ∧ s.eng.resident 0 (((s.eng.ctx 0 0).sreg 3).toNat % 2 ^ 16) = true ∧
       asked.eng.resident 0 10 = false) ∧
    (live.eng.gate .host (Reg.wlcNfReport 0) = .pass ∧ live.eng.bit (Reg.wlcNfStatus 0) 31 = false ∧
      (setR (Reg.wlcNfStatus 0) (2 ^ 31 + 5) live).eng.bit (Reg.wlcNfStatus 0) 31 = true) := by
  unfold State.issues; refine ⟨?_, ?_, ?_, ?_, ?_, ?_⟩ <;> decide +kernel

/-- Group 0 of partition 0 with two shards in a round towards step 5: commands that await their echoes, mismatch counts and
RESYNCs. -/
def grouped (st : Nat) (unans : List Unans) (misses : KMap Nat) (resync : List Nat) : State :=
  beatIn .master (100 * 256) <| onE live fun e => { e.wr (Reg.wlcEchoLimit 0) 10 with groups := [(0, { Group.fresh with shards := 2, step := 5, st := st, total := 2, next := 2, unans := unans, misses := misses, resync := resync })] }
/-- An ECHO of layer 0 and a shard that reports a step, for an UPDATE or for a RESYNC. -/
def echoOf (shard got : Nat) (resync : Bool) : RmMsg := msg 0 0 (shard * 2 ^ 94 + (if resync then 2 ^ 80 else 0) + got * 2 ^ 32)

theorem witness_EchoesAnswerUpdates :
    (∀ x, x ∈ [(gsIssuing, [⟨0, 90 * 256, false⟩], [], []), (gsIssuing, [⟨0, 90 * 256, false⟩, ⟨1, 90 * 256, false⟩], [], []), (gsSuspended, [⟨0, 90 * 256, false⟩], [(0, 1)], [0]),
        (gsSuspended, [⟨0, 90 * 256, false⟩], [(0, 2)], [0]), (gsSuspended, [], [], [1]), (gsSuspended, [], [], [1, 1])] →
      let s := grouped x.1 x.2.1 x.2.2.1 x.2.2.2
      s.eng.bit Reg.glbStatus 31 = true ∧ (s.eng.group 0).st = x.1 ∧ (s.eng.group 0).unans = x.2.1 ∧ (s.eng.group 0).resync = x.2.2.2 ∧
      (s.eng.group 0).nsh = 2 ∧ (s.eng.group 0).step.toNat = 5 ∧ (s.eng.group 0).base.toNat = 0 ∧ (s.eng.group 0).part = 0 ∧
      (s.eng.group 0).total ≤ (s.eng.group 0).next ∧ kget 0 (s.eng.group 0).misses 0 ≠ 3) ∧
    (bitsOf (echoOf 1 5 true).body.toNat 127 116 = 0 ∧ bitsOf (echoOf 1 5 true).body.toNat 115 104 = 0 ∧ bitsOf (echoOf 1 5 true).body.toNat 103 94 = 1 ∧
      bitsOf (echoOf 1 5 true).body.toNat 63 32 = 5 ∧ echoClean (echoOf 1 5 true) = true ∧ echoClean (msg 0 1 0) = false ∧ (echoOf 1 5 true).body.toNat.testBit 80 = true ∧ (echoOf 1 5 false).body.toNat.testBit 80 = false) ∧
    (live.eng.gate .host Reg.wlcGrpCmd = .pass ∧ live.eng.fld Reg.wlcGrpSel 11 0 = 0 ∧
      ∀ st, st ∈ [gsIdle, gsIssuing, gsSuspended, gsFailed] → ((grouped st [] [] []).eng.group 0).st = st) ∧
    (let s := grouped gsIssuing [⟨0, 90 * 256, false⟩] [] []
     s.eng.fld (Reg.wlcEchoLimit 0) 15 0 = 10 ∧ 90 * 256 + 256 * 10 ≤ s.beat.time ∧ (grouped gsIssuing [⟨0, 90 * 256 + 1, false⟩] [] []).beat.time < 90 * 256 + 1 + 256 * 10) := by
  refine ⟨?_, by decide +kernel, by decide +kernel, by decide +kernel⟩
  intro x h
  simp only [List.mem_cons, List.not_mem_nil, or_false] at h
  rcases h with rfl | rfl | rfl | rfl | rfl | rfl <;> decide +kernel

/-! ## Witnesses: links, integrity and management cores -/

/-- Physical channel 63 in a state, with steps of partition 0 in flight. -/
def channel (k : Chan) (l : List Step) : State := onE (flying l live) fun e => { e with chans := [(63, k)] }
/-- A step whose descriptors have been sent on channel 63. -/
def sentStep (done : Bool) (errs : Nat) : Step := { sealedStep 0 true [⟨63, 0, 1, 1, done, true, errs⟩] with queued := true }
/-- A message that names that step. -/
def upMsg (flags arg0 : Nat) : KdlMsg := ⟨0, 63, BitVec.ofNat 8 flags, 0, 0, BitVec.ofNat 32 arg0, 0⟩

theorem witness_channelsComeUp :
    (∀ k, k ∈ [Chan.down, ⟨true, 1, 2, 0, false⟩] → let s := channel k []
      s.eng.bit Reg.glbStatus 31 = true ∧ (s.eng.chan 63).failed = false ∧ s.eng.kdlq = [] ∧ (s.eng.chan 63).up = k.up ∧ (s.eng.chan 63).badRun = 0 ∧
      ∀ p, p < 32 → (s.eng.part p).steps = []) ∧
    ((2#32).toNat = 2 ∧ (256#32).toNat ≤ 256 ∧ (1#32).toNat < 2 ∧ 256 < (257#32).toNat) ∧
    (let s := channel ⟨true, 0, 8, 0, false⟩ [sentStep false 0]
     (s.eng.chan 63).up = true ∧ s.eng.logicalOf 63 = some 63 ∧ (s.eng.part 0).steps = [sentStep false 0] ∧ (sentStep false 0).queued = true ∧
       (sentStep false 0).groups = [⟨63, 0, 1, 1, false, true, 0⟩] ∧ (s.eng.stepDescs 0 (sentStep false 0) ⟨63, 0, 1, 1, false, true, 0⟩).length < 256) ∧
    ((⟨true, 1, 2, 0, false⟩ : Chan).credits < 2 ∧ Chan.down.up = false) := by
  refine ⟨?_, by decide +kernel, by decide +kernel, by decide +kernel⟩
  intro k h
  simp only [List.mem_cons, List.not_mem_nil, or_false] at h
  rcases h with rfl | rfl <;> decide +kernel

theorem witness_ChannelsComeUpReportAndFail :
    (∀ n, n ≤ 1 → let s := channel ⟨true, 8, 8, n, false⟩ []
      s.eng.bit Reg.glbStatus 31 = true ∧ (s.eng.chan 63).failed = false ∧ (s.eng.chan 63).badRun = n ∧ s.eng.logicalOf 63 = some 63 ∧ s.eng.spareChan = some 64) ∧
    ((channel ⟨false, 0, 0, 0, true⟩ []).eng.chan 63).failed = true ∧
    (onE live fun e => { e with chans := [(64, ⟨false, 0, 0, 0, true⟩), (65, ⟨false, 0, 0, 0, true⟩), (66, ⟨false, 0, 0, 0, true⟩), (67, ⟨false, 0, 0, 0, true⟩)] }).eng.spareChan = none ∧
    ((upMsg 2 0).flags &&& 0xFE ≠ 0 ∧ (upMsg 1 0).flags = 1 ∧ (upMsg 1 0).seq = 0 ∧ (upMsg 0 2).flags = 0 ∧ (upMsg 0 2).arg1 = 0 ∧ (upMsg 0 2).arg0 = 2) ∧
    (let s := channel ⟨true, 8, 8, 0, false⟩ []
     s.eng.logicalOf 63 = some (upMsg 1 0).chan.toNat ∧ (63, 0, 0) ∉ s.eng.abOwed ∧ (63, 0, 0) ∈ (onE s fun e => { e with abOwed := [(63, 0, 0)] }).eng.abOwed) ∧
    (∀ x, x ∈ [(true, 0), (false, 0), (false, 1)] → let s := channel ⟨true, 8, 8, 0, false⟩ [sentStep x.1 x.2]
      s.eng.namedGroup 63 (upMsg 0 2) = some (sentStep x.1 x.2, ⟨63, 0, 1, 1, x.1, true, x.2⟩) ∧ s.eng.kdlq = [] ∧ (sentStep x.1 x.2).queued = true ∧
      (s.eng.chan 63).up = true ∧ (s.eng.stepDescs 0 (sentStep x.1 x.2) ⟨63, 0, 1, 1, x.1, true, x.2⟩).length < (s.eng.chan 63).credits) := by
  refine ⟨by decide +kernel, by decide +kernel, by decide +kernel, by decide +kernel, by decide +kernel, ?_⟩
  intro x h
  simp only [List.mem_cons, List.not_mem_nil, or_false] at h
  rcases h with rfl | rfl | rfl <;> decide +kernel

/-- Whether row 9 of bank 3 is to be spared after one more corrected error. -/
def spareDue (s : State) (stuck : Bool) : Bool :=
  decide (s.eng.bit Reg.intScrub 31 = true ∧ s.eng.bit Reg.intCtrl 0 = true ∧
    (stuck = true ∨ max 1 (s.eng.fld Reg.intCeLimit 7 0) ≤ (s.eng.scrubErrs.filter fun x => decide (x = (3, 9))).length + 1))

/-- A core that waits for the one being replaced, a core no context of which can issue, and slices whose finding comes at each point of their failure. -/
theorem witness_failuresWait :
    (let s := onE (onP (fun q => { q with coreDown := true }) live) fun e => { e.setF (Reg.partStatus 1) 1 0 1 with coreWait := [1] }
     (s.eng.part 0).coreDown = true ∧ s.eng.coreWait = [1] ∧ s.eng.running 1 = true ∧ s.eng.fld Reg.intSpares 23 16 ≠ 0 ∧
       (setR Reg.intSpares 0 s).eng.fld Reg.intSpares 23 16 = 0) ∧
    (∀ c, c < 16 → (opened.eng.ctx 0 c).canIssue = false) ∧
    (let s := onE live fun e => { e with scrubAt := some 0, sliceHold := [1], sliceWait := [2], sliceLost := [3] }
     s.eng.scrubEnds s.beat = false ∧ (∀ n, n ∈ [1, 2, 3] → n ∈ s.eng.sliceHold ∨ n ∈ s.eng.sliceWait ∨ n ∈ s.eng.sliceLost) ∧ s.eng.sliceHold ≠ [] ∧
       31 ∉ s.eng.sliceHold ++ s.eng.sliceWait ++ s.eng.sliceLost ∧ live.eng.sliceHold ++ live.eng.sliceWait ++ live.eng.sliceLost = [] ∧
       live.eng.fld Reg.intSpares 7 0 ≠ 0 ∧ (setR Reg.intSpares 0 live).eng.fld Reg.intSpares 7 0 = 0 ∧ 0 ∈ live.eng.sliceOwners 0) := by decide +kernel

theorem witness_IntegrityAndPowerCommandsAct :
    (live.eng.scrubEnds live.beat = true ∧ (setR Reg.intScrub 0 live).eng.bit Reg.intScrub 31 = false ∧
      (let s := beatIn .master (256 * 1024 + 4) (onE live fun e => { e with scrubAt := some 5 })
       s.eng.scrubAt = some 5 ∧ s.beat.time < 5 + 256 * 1024)) ∧
    (let s := onE (setR Reg.intCeLimit 2 (setR Reg.intCtrl 1 live)) fun e => { e with scrubErrs := [(3, 9)] }
     spareDue s false = true ∧ spareDue s true = true ∧ spareDue (setR Reg.intCeLimit 1 s) false = true ∧ spareDue (setR Reg.intCtrl 0 s) true = false ∧
       spareDue (onE s fun e => { e with scrubErrs := [] }) false = false) ∧
    ((setR Reg.intCtrl 1 live).eng.bit Reg.intCtrl 0 = true ∧ (setR Reg.intCtrl 0 live).eng.bit Reg.intCtrl 0 = false ∧
      (setR Reg.intCeLimit 1 live).eng.fld Reg.intCeLimit 7 0 ≤ 1 ∧ 1 < (setR Reg.intCeLimit 2 live).eng.fld Reg.intCeLimit 7 0) ∧
    (asked.eng.req 1).live = true ∧
    (let s := rival live
     s.eng.running 0 = true ∧ (s.eng.part 0).coreDown = false ∧ (s.eng.part 0).coreLost = false ∧ (s.eng.ctx 0 3).canIssue = true ∧
       (s.eng.ctx 0 0).st = .running ∧ (∀ k, k < 32 → (s.eng.part k).coreDown = false) ∧
       s.eng.fld Reg.intSpares 23 16 ≠ 0 ∧ (setR Reg.intSpares 0 s).eng.fld Reg.intSpares 23 16 = 0) ∧
    (let s := onP (fun q => { q with coreDown := true }) live
     (s.eng.part 0).coreDown = true ∧ s.eng.coreWait = [] ∧ (s.eng.part 1).coreDown = false) ∧
    (let s := onE (queued (wait0 .take 1) 0) fun e => { e with sliceHold := [1, 31] }
     31 ∈ s.eng.sliceHold ∧ ¬ 0 ∈ s.eng.sliceHold ∧ s.eng.sliceWait = [] ∧ s.eng.joined = [] ∧ (∀ x, x ∈ s.eng.cells → x.1 / 2048 = 31 → x.2.queue = []) ∧
       ∀ p, p < 32 → ∀ k, k < 4 → (s.eng.vslot p k).st ≠ vsLoading) ∧
    (2 ≤ live.eng.fld Reg.glbStatus 3 0 ∧ State.reset.eng.fld Reg.glbStatus 3 0 ≤ 1 ∧
      ∀ st, st ∈ [DroopSt.hold, .release, .idle] → (kget Droop.quiet (onE live fun e => { e with droops := [(14, ⟨st, 15, 1⟩)] }).eng.droops 14).st = st) ∧
    (live.eng.gate .host (Reg.intFltHead 0) = .pass ∧ live.eng.gate .host Reg.intEfrHead = .pass ∧
      headGood ((setR (Reg.intFltTail 0) 1 live).eng.fld (Reg.intFltHead 0) 31 0) ((setR (Reg.intFltTail 0) 1 live).eng.fld (Reg.intFltTail 0) 31 0) 1 = true ∧
      headGood (live.eng.fld (Reg.intFltHead 0) 31 0) (live.eng.fld (Reg.intFltTail 0) 31 0) 1 = false) := by
  decide +kernel

/-- A bank of which no row has been spared. -/
theorem witness_spareRow : live.eng.freeRows 3 ≠ 0 := by
  show (64 + Config.bankMore 3) / 64 - 0 ≠ 0
  omega

/-- A bank whose spare rows are all used. -/
theorem witness_noSpareRow : (onE live fun e => { e with rowsSpared := [(3, Config.bankSpares 3)] }).eng.freeRows 3 = 0 := by
  show Config.bankSpares 3 - kget 0 [(3, Config.bankSpares 3)] 3 = 0
  simp [kget]

/-- The two management cores in their roles, in a start-up phase. -/
def cores (a b : Role) (fails : Nat) (u : Option UpdCmd) (phase : Nat := 7) : State :=
  onE live fun e => { e.setF Reg.glbStatus 3 0 phase with mcores := [(0, ⟨a, fails, 0, 0x0300⟩), (1, ⟨b, 0, 0, 0x0300⟩)], upd := u }

theorem witness_ManagementCoresTakeOver :
    (∀ r, r ∈ [Role.active, .standby, .failed] → ((cores r .booting 0 none).eng.core 0).role ≠ .booting) ∧
    (let s := cores .booting .booting 0 none 4
     (s.eng.core 0).role = .booting ∧ s.eng.fld Reg.glbStatus 3 0 = 4 ∧ 2 ≤ s.eng.fld Reg.glbStatus 3 0 ∧ State.reset.eng.fld Reg.glbStatus 3 0 ≤ 1 ∧ s.eng.activeCore = none ∧ s.eng.upd = none) ∧
    (∀ w, w ∈ [false, true] → let s := cores .booting .active 0 (some ⟨3, 1, 0, w, []⟩)
      (s.eng.core 0).role = .booting ∧ 4 ≤ s.eng.fld Reg.glbStatus 3 0 ∧ s.eng.activeCore = some (otherCore 0) ∧ s.eng.upd = some ⟨3, 1, 0, w, []⟩) ∧
    (∀ r, r ∈ [Role.standby, .booting, .failed] → ((cores .active r 0 none).eng.core 0).role = .active ∧ ((cores .active r 0 none).eng.core (otherCore 0)).role = r) ∧
    ((cores .standby .active 0 none).eng.core 0).role = .standby ∧
    (∀ n, n ∈ [1, 2] → let s := cores .booting .failed n none
      (s.eng.core 0).role = .booting ∧ (s.eng.core 0).fails = n ∧ (s.eng.core (otherCore 0)).role = .failed ∧ 4 ≤ s.eng.fld Reg.glbStatus 3 0) ∧
    (live.eng.gate .host Reg.mgmtCtrl = .pass ∧ ∃ t, exec (.restart .host) live = .next t) := by
  refine ⟨?_, by decide +kernel, ?_, ?_, by decide +kernel, ?_, by decide +kernel, ⟨_, rfl⟩⟩
  all_goals
    intro x h
    simp only [List.mem_cons, List.not_mem_nil, or_false] at h
  · rcases h with rfl | rfl | rfl <;> decide +kernel
  · rcases h with rfl | rfl <;> decide +kernel
  · rcases h with rfl | rfl | rfl <;> decide +kernel
  · rcases h with rfl | rfl <;> decide +kernel

/-! ## Witnesses: management, start-up and the window -/

/-- A log entry of a SEQ. -/
def logEnt (seq : Nat) : LogEnt := ⟨seq, 0, 0, 7, 1, true, none, []⟩
/-- The log ring with entries, the first SEQ not mirrored and the next one. -/
def logged (l : List LogEnt) (mirrored next : Nat) : State :=
  onE (cores .active .standby 0 none) fun e => { (e.wr Reg.mgmtLogMirrored (BitVec.ofNat 32 mirrored)).wr Reg.mgmtLogSeq (BitVec.ofNat 32 next) with log := l }

theorem witness_logFlows :
    (live.eng.activeCore = none ∧ (logged [] 0 0).eng.activeCore ≠ none) ∧
    (let s := logged [logEnt 3] 3 4
     (s.eng.log.filter fun l => !s.eng.mirrored l.seq) = [logEnt 3] ∧ (logEnt 3).seq = s.eng.fld Reg.mgmtLogMirrored 31 0) ∧
    (let s := logged [logEnt 3] 1 4
     (s.eng.log.filter fun l => !s.eng.mirrored l.seq).head? = some (logEnt 3) ∧ (logEnt 3).seq ≠ s.eng.fld Reg.mgmtLogMirrored 31 0 ∧ s.eng.logHeld = [] ∧
       s.eng.logOcc < logSlots ∧ s.eng.mirrored (s.eng.fld Reg.mgmtLogSeq 31 0) = false) ∧
    (let s := onE (logged [] 0 0) fun e => { e with logHeld := [logEnt 0] }
     s.eng.logHeld = logEnt 0 :: [] ∧ s.eng.logOcc < logSlots ∧ s.eng.fld Reg.mgmtHlogCfg 4 0 = 0) ∧
    (live.eng.gate .host Reg.mgmtHlogHead = .pass ∧ headGood 0 1 1 = true ∧ headGood 0 1 2 = false) := by decide +kernel

/-- A full log ring. -/
theorem witness_fullLog : logSlots ≤ (logged (List.replicate 16384 (logEnt 3)) 3 4).eng.logOcc := by
  have h : ∀ n, (logged (List.replicate n (logEnt 3)) 3 4).eng.logOcc = n := by
    intro n
    have hm : (logged (List.replicate n (logEnt 3)) 3 4).eng.mirrored 3 = false := by
      show (logged [] 3 4).eng.mirrored 3 = false
      decide +kernel
    show ((List.replicate n (logEnt 3)).filter fun l => !(logged (List.replicate n (logEnt 3)) 3 4).eng.mirrored l.seq).length = n
    rw [List.filter_replicate, if_pos (by show (!(logged (List.replicate n (logEnt 3)) 3 4).eng.mirrored 3) = true; rw [hm]; rfl), List.length_replicate]
  rw [h]

/-- Negotiation on, as the home or a member, with arrivals counted in round 2 and a pending level. -/
def negotiating (home : Bool) (n need : Nat) (pend : Option (Nat × Nat)) : State :=
  (fun s => { s with beat := { s.beat with before := 15 } }) <| beatIn .master (20 * 256) <| onE live fun e =>
    let e := (e.wr Reg.mgmtNegCfg (BitVec.ofNat 32 (2 ^ 31 + (if home then 2 ^ 30 else 0) + 9))).wr Reg.mgmtNegCount (BitVec.ofNat 32 need)
    { (e.wr Reg.mgmtNegStatus (BitVec.ofNat 32 (n * 65536 + 2))).wr Reg.mgmtNegTime (16 * 65536 + 4) with nego := ⟨2, 0x0300, 0, pend⟩, rmCredit := [(1, 9), (5, 9), (9, 9), (13, 9)] }
/-- An ARRIVE of negotiation for a round. -/
def negMsg (round : Nat) : RmMsg := msg 8 0 (round * 2 ^ 32 + 0x0200)

/-- Messages of negotiation with every unused bit 0 and without, to a home and to a member. -/
theorem witness_negotiationRejects :
    ∀ r, r ∈ [1, 2, 3] → negArriveClean (negMsg r) = true ∧ negArriveClean (msg 8 0 (2 ^ 16)) = false ∧ (negotiating true 0 2 none).eng.bit Reg.mgmtNegCfg 30 = true ∧
      negReleaseClean (msg 0 0 (0x0200 * 2 ^ 112 + 19 * 2 ^ 64)) = true ∧ negReleaseClean (msg 0 0 1) = false ∧
      (msg 0 0 1).src.toNat ≠ (negotiating false 0 2 none).eng.fld Reg.syncEngineId 15 0 := by decide +kernel

theorem witness_LogFlowsAndLevelsAgree :
    (let s := cores .active .standby 0 none
     s.eng.hasActive = true ∧ s.eng.bit Reg.mgmtNegCfg 31 = false ∧ (0x0300#16).toNat ≤ s.eng.supported ∧ ¬ (0xFFFF#16).toNat ≤ s.eng.supported) ∧
    (let s := onE live fun e => { e with levelSet := some (0x0200, 0) }
     s.eng.nego.pend = none ∧ s.eng.levelSet = some (0x0200, 0) ∧ 0 ≤ s.beat.beat ∧ s.eng.bit Reg.mgmtNegCfg 31 = false ∧ 0x0200 ≤ s.eng.supported ∧
       0x0200 ≠ s.eng.agreed) ∧
    ((negotiating true 0 2 (some (0x0200, 21))).beat.time < 21 * 256 ∧ 20 * 256 ≤ (negotiating true 0 2 (some (0x0200, 20))).beat.time) ∧
    (let s := negotiating false 0 2 none
     s.eng.bit Reg.mgmtNegCfg 31 = true ∧ s.beat.time = s.beat.entered ∧
       s.beat.before / max 1 (s.eng.fld Reg.mgmtNegTime 31 16) < s.beat.beat / max 1 (s.eng.fld Reg.mgmtNegTime 31 16) ∧ s.eng.nego.sent ≠ s.beat.beat + 1 ∧
       s.eng.bit Reg.glbStatus 31 = true ∧ (let b := { s.beat with before := 20 }
         b.beat / max 1 (s.eng.fld Reg.mgmtNegTime 31 16) ≤ b.before / max 1 (s.eng.fld Reg.mgmtNegTime 31 16)) ∧
       s.eng.bit Reg.mgmtNegCfg 30 = false ∧ s.eng.rmHeld = [] ∧ s.eng.rmPortFor 3 1 = none ∧
       (onE s fun e => { e with rmCredit := [(7, 1)] }).eng.rmPortFor 3 1 = some 1) ∧
    (let s := negotiating true 1 3 none
     s.eng.bit Reg.mgmtNegCfg 30 = true ∧ bitsOf (negMsg 1).body.toNat 63 32 < s.eng.nego.round ∧ bitsOf (negMsg 2).body.toNat 63 32 = s.eng.nego.round ∧
       s.eng.fld Reg.mgmtNegStatus 31 16 + 1 < s.eng.fld Reg.mgmtNegCount 15 0 ∧ s.eng.nego.round < bitsOf (negMsg 3).body.toNat 63 32) ∧
    (let s := negotiating true 2 3 none
     s.eng.fld Reg.mgmtNegCount 15 0 ≤ s.eng.fld Reg.mgmtNegStatus 31 16 + 1 ∧ s.eng.fld Reg.mgmtNegTime 15 0 ≠ 0 ∧ s.beat.beat + 4 < 2 ^ 48) ∧
    (negMsg 2).src.toNat ≠ (negotiating false 0 2 none).eng.fld Reg.syncEngineId 15 0 ∧
    (∀ ef, ef ∈ [0, 19, 20] → bitsOf (msg 0 0 (0x0200 * 2 ^ 112 + ef * 2 ^ 64)).body.toNat 111 64 = ef) ∧
    ¬ 20 * 256 < (negotiating false 0 2 none).beat.time ∧ 19 * 256 < (negotiating false 0 2 none).beat.time := by decide +kernel

/-- Slot 1 in a state with an image of every component, and an update command in progress or none. -/
def updating (st : SlotSt) (b : Role) (u : Option UpdCmd) : State :=
  let s := cores .active b 0 u
  { (onE s fun e => (e.wr Reg.mgmtUpdCmd (if u.isSome then 2 ^ 31 + 1 else 1)).wr Reg.mgmtUpdParts 3) with
    flash := { s.flash with slotB := ⟨st, 0, List.replicate 64 0xFF⟩ } }

theorem witness_UpdateCommandsStageActivateConfirmRevert :
    (live.eng.gate .host Reg.mgmtUpdCmd = .pass ∧ live.eng.bit Reg.mgmtUpdCmd 31 = false ∧ live.eng.activeCore = none) ∧
    (∀ b, b ∈ [Role.standby, .failed] → let s := updating .staged b none
      s.eng.bit Reg.mgmtUpdCmd 31 = false ∧ s.eng.activeCore = some 0 ∧ s.eng.fld Reg.mgmtUpdCmd 0 0 = 1 ∧ s.flash.holds 1 0 = true ∧
      (s.eng.core (otherCore 0)).role = b) ∧
    ((updating .empty .standby none).flash.holds 1 0 = false ∧ (updating .staged .standby none).flash.bad = [] ∧ (updating .empty .standby (some ⟨1, 1, 0, false, []⟩)).eng.bit Reg.mgmtUpdCmd 31 = true) ∧
    (∀ op, op ∈ [1, 2, 3, 4, 5] → (updating .staged .standby (some ⟨op, 1, 0, false, []⟩)).eng.upd = some ⟨op, 1, 0, false, []⟩) ∧
    (let s := updating .staged .standby (some ⟨2, 1, 0, false, []⟩)
     s.eng.updParts = [0, 1] ∧ s.eng.pstate 0 ≠ psDisabled ∧ s.eng.pstate 1 = psDisabled) := by
  refine ⟨by decide +kernel, ?_, by decide +kernel, by decide +kernel, by decide +kernel⟩
  intro b h
  simp only [List.mem_cons, List.not_mem_nil, or_false] at h
  rcases h with rfl | rfl <;> decide +kernel

theorem witness_StartUpAndResetsLeaveTheirState :
    (live.eng.bit Reg.glbStatus 31 = true ∧ live.eng.deny = [] ∧ live.eng.pstate 0 ≠ psDisabled ∧ (∀ q, q < 32 → q ≠ 0 → live.eng.pstate q = psDisabled) ∧
      live.eng.heldRings 0 = [] ∧ State.reset.eng.bit Reg.glbStatus 31 = false) ∧
    (∀ ph, ph ∈ [0, 1, 2, 3, 5] → (onE State.reset fun e => e.setF Reg.glbStatus 3 0 ph).eng.fld Reg.glbStatus 3 0 = ph) ∧
    (live.eng.gate .host Reg.glbReset = .pass ∧ live.eng.fld Reg.glbStatus 3 0 = 7 ∧ State.reset.eng.fld Reg.glbStatus 3 0 ≠ 7) ∧
    (let s := onE live fun e => { e with warm := true }
     live.eng.warm = false ∧ s.eng.warm = true ∧ s.eng.txns = [] ∧ (s.eng.regs.map fun x => x.1).Nodup) := by decide +kernel

theorem witness_WindowReadsAndWrites :
    ((0x8002#22).toNat % 4 ≠ 0 ∧ (0x1FFFFC#22).toNat % 4 = 0 ∧ (0x1FFFFC#22).toNat < 0x200000 ∧ regRow (0x1FFFFC#22).toNat = none) ∧
    (live.eng.gate .host Reg.glbScratch = .pass ∧ live.eng.gate .host Reg.beatEvent = .pass) ∧
    (let a := Reg.smpGramProgLo
     a % 4 = 0 ∧ latches a = true ∧ latched a = false ∧ live.eng.readOpen .host a = true ∧ live.eng.readOpen .host Reg.beatNowLo = true) ∧
    (let s := setR Reg.dbgCtrl 1 live
     let on := onE s fun e => { e with jtagIr := irStrings }
     live.eng.jtagIr = irIdcode ∧ on.eng.jtagIr = irStrings ∧ on.eng.bit Reg.dbgCtrl 0 = true ∧ on.eng.bit Reg.dbgCmd 31 = false ∧
       (setR Reg.dbgCmd (2 ^ 31) on).eng.bit Reg.dbgCmd 31 = true ∧ (onE live fun e => { e with jtagIr := irStrings }).eng.bit Reg.dbgCtrl 0 = false ∧
       bitsOf (0 : BitVec 160).toNat 25 24 = 0) ∧
    (let s := managed (setR Reg.dbgCtrl 1 live)
     s.eng.mayString .jtag = true ∧ s.eng.mayString .mgmt = true ∧ live.eng.mayString .jtag = false ∧ strAddrErr 2 0 = 0 ∧
       (s.eng.ctx (mirrorPart 0) (mirrorCtx 0)).st ≠ .stopped ∧ (s.eng.ctx (mirrorPart 0) (mirrorCtx 0)).st ≠ .faulted ∧
       s.eng.fld Reg.mgmtHlogCfg 4 0 = 0 ∧ s.eng.logHeld = [] ∧ s.eng.logOcc < logSlots) := by decide +kernel

/-- The word of the request table at an index, addressed by the structure number that Config gives the table. -/
theorem witness_stringsRequestTable (n : Nat) (h : n < 24 * 131072) :
    let a : Dword := BitVec.ofNat 64 (Config.structId structRqt % 65536 * 2 ^ 32 + n)
    strRqt 1 a = true ∧ lowWord a = n ∧ strAddrErr 1 a = 0 := by
  intro a
  have ha : a.toNat = Config.structId structRqt % 65536 * 2 ^ 32 + n := by
    show (BitVec.ofNat 64 _).toNat = _
    rw [BitVec.toNat_ofNat]
    omega
  have hl : lowWord a = n := by
    show a.toNat % 2 ^ 32 = n
    omega
  have hr : strRqt 1 a = true := by
    have : highWord a % 65536 = Config.structId structRqt % 65536 := by
      show a.toNat / 2 ^ 32 % 65536 = _
      omega
    simp [strRqt, this]
  exact ⟨hr, hl, by simp [strAddrErr, hl]; rw [show strRqt 1#2 a = true from hr]; simpa using h⟩

/-! ## Witnesses: every command and every step -/

theorem witness_EveryCommandCompletes :
    addRow.major ≠ 0x10 ∧ addRow.major ≠ 0x11 ∧ addRow.major ≠ 0x12 ∧ live.issues (ins 5 2 3) := by
  unfold State.issues; decide +kernel

/-- The block after reset with a partition running is sound, and a step leads on from it. -/
theorem witness_EveryStepKeepsTheEngineSound : live.eng.sound ∧ ∃ t, step { live with pending := [.add (ins 5 2 3)] } = .next t := by
  have hl : ∀ i, live.eng.ledger i = Ledger.fresh live.eng.refilled := fun _ => rfl
  have hv : ∀ p, (live.eng.part p).vslots = [] := fun p => by
    by_cases h : p = 0
    · subst h; decide +kernel
    · rw [show live.eng.part p = Partn.fresh from Eng.part_onPart_ne _ _ h]; rfl
  refine ⟨⟨by decide +kernel, by decide +kernel, by decide +kernel, by decide +kernel, by decide +kernel, by decide +kernel, by decide +kernel,
    fun i => ?_, fun p m n _ _ _ hm => absurd ?_ hm, by decide +kernel⟩, ⟨_, rfl⟩⟩
  · rw [hl]; decide +kernel
  · show (kget VSlot.empty (live.eng.part p).vslots m).st = vsEmpty
    rw [hv]; rfl

/-! ## Ill-formed commands, which WellFormed refuses -/

theorem smoke_semOpAtCell : (Instr.semOpAtCell ⟨0, false⟩ [3, 3] false).wellFormed = false ∧ (Instr.semOpAtCell ⟨0, false⟩ [3, 4] false).wellFormed = true := by decide +kernel
theorem smoke_bareMessages : ∀ c, c ∈ [Instr.xbArrive, .xbRelease, fun m => .signal { what := m }, .echo, .negArrive, .negRelease] →
    (c (msg 0 0 0 [1])).wellFormed = false ∧ (c { msg 0 0 0 with bytes := 1 }).wellFormed = false ∧ (c (msg 0 0 0)).wellFormed = true := by
  intro c h
  simp only [List.mem_cons, List.not_mem_nil, or_false] at h
  rcases h with rfl | rfl | rfl | rfl | rfl | rfl <;> decide +kernel
theorem smoke_data : (Instr.data (msg 0 0 0)).wellFormed = false ∧ (Instr.data { msg 0 0 0 [1] with bytes := 2 }).wellFormed = false ∧
    (Instr.data { msg 0 0 0 with bytes := 4097, payload := List.replicate 4097 0 }).wellFormed = false ∧ (Instr.data (msg 0 0 0 [1])).wellFormed = true := by decide +kernel
theorem smoke_profileRegisters : ∀ a, a ∈ [0x04#8, 0x3C#8, 0x4C#8, 0x41#8, 0xC0#8] → (Instr.modelCfgWrite .host 0 a 0).wellFormed = false ∧
    (Instr.modelCfgWrite .host 0 0x40 0).wellFormed = true := by decide +kernel
theorem smoke_hrow : (Instr.hrow (hidden 65)).wellFormed = false ∧ (Instr.hrow (hidden 64)).wellFormed = true ∧ (Instr.hrow { hidden 65 with payload := List.replicate 128 0 }).wellFormed = true := by decide +kernel
theorem smoke_bitRequest : (Instr.bitRequest 0 (List.replicate 31 0) true).wellFormed = false ∧ (Instr.bitRequest 0 wanted true).wellFormed = true := by decide +kernel
theorem smoke_kdlMessages : (Instr.kdlDone 0 (upMsg 2 0)).wellFormed = false ∧ (Instr.kdlDone 0 { upMsg 0 0 with seq := 1 }).wellFormed = false ∧
    (Instr.kdlDone 0 (upMsg 1 0)).wellFormed = true ∧ (Instr.kdlError 0 (upMsg 1 1)).wellFormed = false ∧ (Instr.kdlError 0 (upMsg 0 256)).wellFormed = false ∧
    (Instr.kdlError 0 { upMsg 0 1 with arg1 := 1 }).wellFormed = false ∧ (Instr.kdlError 0 (upMsg 0 1)).wellFormed = true := by decide +kernel
theorem smoke_measurements : (Instr.budgetPeriod 65536 0).wellFormed = false ∧ (Instr.budgetPeriod 0 65536).wellFormed = false ∧
    (Instr.sensorSample { values := List.replicate 111 0 }).wellFormed = false ∧ (Instr.sensorSample { values := List.replicate 112 65536 }).wellFormed = false ∧
    (Instr.sensorSample { values := List.replicate 112 65535 }).wellFormed = true ∧ (Instr.onTimeEdge 0).wellFormed = false ∧ (Instr.onTimeEdge 1).wellFormed = true := by decide +kernel

/-! ## Instruction words -/

/-- An SWAIT word written out from the encoding of R88: MAJOR 0x20, PRED 2, DST 5, SRCA 6, SRCB 7. -/
theorem test_instructionWord : (Instr.ofWord 0 0 0x80A63A0000000123 = .swait (ins 5 6 7 0x123 2)) := by decide +kernel

/-! ## The spec's figures -/

/-- What one command leaves, or the state itself where it stops. -/
def ran (c : Instr) (s : State) : State :=
  match exec c s with
  | .next t => t
  | _ => s
/-- More binary32 bits of decimals. -/
abbrev f2 : Nat := 0x40000000
abbrev fInf : Nat := 0xFF800000

/-- The toy row of "Sampling": masks, bias and penalty (r = 1.25, a = 0.5; 3.0 becomes 1.9), temperature 0.5, k = 4, p = 0.85. -/
def toyRow : List Nat := [f2, f1, 0x3F000000, 0x40400000, 0xBF800000, 0x40200000, 0, 0x3FC00000]
def toyMasked : List Nat := rowMask (fun k => [0, 1, 3, 5, 6, 7].contains k) toyRow
theorem test_sampleMask : toyMasked = [f2, f1, fInf, 0x40400000, fInf, 0x40200000, 0, 0x3FC00000] := by decide +kernel
def toyTempered : List Nat := rowTemp 0x3F000000 (rowPenalty 0x3FA00000 0x3F000000 (fun k => decide (k = 3)) (rowBias (fun k => if k = 7 then f1 else 0) toyMasked))
theorem test_samplePenaltyAndTemperature : toyTempered.zipIdx.map (fun x => if x.2 = 3 then 0 else x.1) = [0x40800000, f2, fInf, 0, fInf, 0x40A00000, 0, 0x40A00000] ∧
    0x40733330 ≤ toyTempered.getD 3 0 ∧ toyTempered.getD 3 0 ≤ 0x40733336 := by decide +kernel
theorem test_sampleTopk : (rowTopk 4 toyTempered).zipIdx.filterMap (fun x => if x.1 = fInf then none else some x.2) = [0, 3, 5, 7] := by decide +kernel
theorem test_sampleTopp : (rowTopp 0x3F59999A (rowTopk 4 toyTempered)).zipIdx.filterMap (fun x => if x.1 = fInf then none else some x.2) = [0, 5, 7] := by decide +kernel
/-- Noise 0.8, −0.3 and 0.1 at tokens 0, 5 and 7 draws token 7. -/
theorem test_sampleDraw : rowDraw [0x3F4CCCCD, 0, 0, 0, 0, 0xBE99999A, 0, 0x3DCCCCCD] (rowTopp 0x3F59999A (rowTopk 4 toyTempered)) = some 7 := by decide +kernel

/-- "Random Numbers": the noise of the word 0x8000_0000 is 0.366513. -/
theorem test_gumbel : 0x3EBBA78E ≤ gumbel 0x80000000 ∧ gumbel 0x80000000 ≤ 0x3EBBA7AF := by decide +kernel
/-- "Random Numbers": 1.2999999523 in FP8 E4M3 under the word 0x5A3C_91E7 is 1.375. -/
theorem test_stochasticRounding : elCode 3 0 (some 0x5A3C91E7) 0x3FA66666 = 0x3B := by decide +kernel
/-- "Programming Model", the tree of R107: three elements join as (a + b) + c, where 2^24 + 1 loses its 1. -/
theorem test_canonicalSum : reduceD fadd [0x4B800000, f1, f1] = 0x4B800000 ∧ reduceD fadd [f1, f1, 0x4B800000] = 0x4B800001 := by decide +kernel

/-- "Admission": H = 16,384 in BF16 under TB = 768 gives TWO_PASS with ROW_CAP 768 and CONC_CAP 512. -/
theorem test_planTwoPass :
    let s := ran (.modelCfgWrite .host 11 0x60 0xA0000080) (setR (Reg.weirBudget 11) 768 opened)
    s.eng.fld (Reg.admPlan 11 2) 31 30 = 1 ∧ s.eng.fld (Reg.admRowCap 11 2) 17 0 = 768 := by decide +kernel
/-- "Admission" and "Worked Examples": the handles 0x2101_4C07 and 0x1080_0400. -/
theorem test_handles : mkHandle 4 16467 7 = 0x21014C07 ∧ mkHandle 2 8193 0 = 0x10800400 := by decide +kernel
/-- "Programming Model" and R76: the ALU wraps, shifts by its low six bits, and divides as R111 says. -/
def aluAfter (c : Ins → Instr) (a b : Nat) : Nat := (((ran (c (ins 5 2 3)) (setS 2 a (setS 3 b live))).eng.ctx 0 0).sreg 5).toNat
theorem test_aluWraps : aluAfter .add (2 ^ 64 - 1) 2 = 1 ∧ aluAfter .sub 0 1 = 2 ^ 64 - 1 ∧ aluAfter .mulhu (2 ^ 63) 6 = 3 := by decide +kernel
theorem test_aluShifts : aluAfter .sra (2 ^ 63) 127 = 2 ^ 64 - 1 ∧ aluAfter .srl (2 ^ 63) 127 = 1 ∧ aluAfter .sll 1 65 = 2 := by decide +kernel
theorem test_aluDivides : aluAfter .divu 7 0 = 2 ^ 64 - 1 ∧ aluAfter .rem 7 0 = 7 ∧ aluAfter .div (2 ^ 63) (2 ^ 64 - 1) = 2 ^ 63 ∧ aluAfter .div (2 ^ 64 - 7) 2 = 2 ^ 64 - 3 := by decide +kernel
theorem test_zeroRegister : (((ran (.add (ins 0 2 3)) (setS 2 1 live)).eng.ctx 0 0).sreg 0) = 0 ∧ ((ran (.add (ins 0 2 3)) live).eng.ctx 0 0).pc = 8 := by decide +kernel

/-- "Instruction Reference": a wait for 4 takes 4 from the cell and writes 0; a signal in the cycle of the expiry is applied
first and writes 1; without a signal the wait writes 2 and leaves the cell. -/
theorem test_waitTakes :
    let s := ran (.semOpAtCell ⟨4, false⟩ [1] false) (onE (travelling (.wait (wait0 .take 4) 512)) fun e => e.onCell 4 fun k => { k with count := 5 })
    (s.eng.ctx 0 0).sreg 5 = 0 ∧ (s.eng.cell 4).count = 1 ∧ (s.eng.ctx 0 0).pc = 8 := by decide +kernel
theorem test_signalBeforeExpiry :
    let s := ran (.semOpAtCell ⟨4, false⟩ [1] false) (onE (queued (wait0 .take 1) 100) fun e => { e with travel := [⟨1, 4, .add 1⟩], nextId := 2 })
    (s.eng.ctx 0 0).sreg 5 = 1 ∧ (s.eng.cell 4).count = 0 := by decide +kernel
theorem test_waitTimesOut :
    let s := ran (.waitExpiry 4) (onE (queued (wait0 .take 4) 100) fun e => e.onCell 4 fun k => { k with count := 3 })
    (s.eng.ctx 0 0).sreg 5 = 2 ∧ (s.eng.cell 4).count = 3 := by decide +kernel
/-- "Synchronization": the last packet's response applies the parked signal, retires the transfer and frees the buffer entry. -/
theorem test_parkedSignal :
    let s := ran (.memResponse 8 .okay) (onE (parkedAt 0) fun e => { e with
      xfers := [⟨xferKey 9 5, 0, 2, 0, true, false, none, false⟩], txns := [⟨8, 0, 0x1000, 0, .data 0 (xferKey 9 5) [7, 9]⟩] })
    (s.eng.cell 4).count = 3 ∧ s.eng.parked = [] ∧ s.eng.xfers = [] ∧ s.eng.num 0x1000 2 = 0x0907 := by decide +kernel

/-- "Batch Composition": F moves from 26,214 by an eighth of the gap to 49,152 and reaches 29,081; with 20 beats dwelt NP
becomes 2. -/
theorem test_roleBalance :
    let s := onE (beatIn .master (5000 * 256) (balanced 1 26214 64 offered)) fun e =>
      let e : Eng := { e with reqs := e.reqs ++ [(2, { Req.none with live := true })] }
      ((((e.setRqf 2 0 31 24 1).setRqf 2 4 63 0 (2 ^ 32 + 9)).setRqf 2 5 63 0 (2 ^ 32 + 1)).wr (Reg.partDispLo 0) 15).onPart 0 fun q => { q with roleBeat := 4980 }
    let t := ran (.roleUpdate 0) s
    t.eng.fld (Reg.weirRoleStatus 0) 31 16 = 29081 ∧ t.eng.fld (Reg.weirRoleStatus 0) 14 8 = 2 := by decide +kernel
/-- "Power, Clocks and Thermal": a trip sets s to 8; the hold and seven steps bring it back to 16. -/
theorem test_droopRelease :
    let s := ((List.range 7).map fun _ => Instr.droopReleaseStep 14).foldl (fun s c => ran c s) (ran (.droopHoldDone 14) (ran (.droopTrip 14) live))
    kget Droop.quiet s.eng.droops 14 = ⟨.idle, 16, 1⟩ := by decide +kernel
/-- "System Beat": a period of 50,000 cycles is PERIOD_FX 0x00C3_5000. -/
theorem test_period : (ran (.timecodeFrame (masterFrame 7 3)) (framed 0)).eng.rd Reg.beatPeriod = 0x00C35000 := by decide +kernel
/-- R31: a master's frame passes the frame check, and with a bit changed it does not. -/
theorem test_frameCheck : frameGood (masterFrame 7 3) = true ∧ frameGood (masterFrame 7 3 ^^^ 0x10000) = false := by decide +kernel
/-- R60: a RESET write stops a RUNNING partition's contexts and sets its deadline TIMEOUT beats on. -/
theorem test_partitionReset :
    let t := ran (.partitionReset .host 0) (beatIn .master (2000 * 256 + 10) (setR (Reg.partResetTimeout 0) 64 live))
    t.eng.pstate 0 = psResetting ∧ (t.eng.part 0).resetAt = 2064 * 256 + 10 := by decide +kernel

end Sys2Proof.Tests
end

namespace Sys2Proof.Machine

open Sys2Proof

/-! ## Bit fields of a number and of a register -/

theorem testBit_bitsOf (v hi lo i : Nat) :
    (bitsOf v hi lo).testBit i = (decide (i < hi + 1 - lo) && v.testBit (lo + i)) := by
  rw [bitsOf, Nat.testBit_mod_two_pow, Nat.testBit_div_two_pow, Nat.add_comm i lo]

/-- A number with a field replaced: the bits above the field, the field, and the bits below it. -/
theorem putBits_eq (v hi lo n : Nat) :
    putBits v hi lo n =
      2 ^ lo * (2 ^ (hi + 1 - lo) * (v / 2 ^ lo / 2 ^ (hi + 1 - lo)) + n % 2 ^ (hi + 1 - lo)) + v % 2 ^ lo := by
  unfold putBits bitsOf
  have hlow : 2 ^ lo * (v / 2 ^ lo) + v % 2 ^ lo = v := Nat.div_add_mod v (2 ^ lo)
  have hfield := Nat.div_add_mod (v / 2 ^ lo) (2 ^ (hi + 1 - lo))
  have hwhole : 2 ^ lo * (2 ^ (hi + 1 - lo) * (v / 2 ^ lo / 2 ^ (hi + 1 - lo))) +
      v / 2 ^ lo % 2 ^ (hi + 1 - lo) * 2 ^ lo + v % 2 ^ lo = v := by
    calc _ = 2 ^ lo * (2 ^ (hi + 1 - lo) * (v / 2 ^ lo / 2 ^ (hi + 1 - lo)) + v / 2 ^ lo % 2 ^ (hi + 1 - lo)) + v % 2 ^ lo := by ring
      _ = v := by rw [hfield, hlow]
  rw [Nat.mul_add, Nat.mul_comm (2 ^ lo) (n % _)]
  omega

theorem testBit_putBits (v n : Nat) {hi lo : Nat} (h : lo ≤ hi + 1) (i : Nat) :
    (putBits v hi lo n).testBit i = if lo ≤ i ∧ i ≤ hi then n.testBit (i - lo) else v.testBit i := by
  have hv : v % 2 ^ lo < 2 ^ lo := Nat.mod_lt _ (by positivity)
  have hn : n % 2 ^ (hi + 1 - lo) < 2 ^ (hi + 1 - lo) := Nat.mod_lt _ (by positivity)
  rw [putBits_eq, Nat.testBit_two_pow_mul_add _ hv]
  by_cases hl : i < lo
  · rw [if_pos hl, if_neg (by omega), Nat.testBit_mod_two_pow]
    simp [hl]
  · rw [if_neg hl, Nat.testBit_two_pow_mul_add _ hn]
    by_cases hh : i ≤ hi
    · rw [if_pos (by omega), if_pos (by omega), Nat.testBit_mod_two_pow]
      simp [show i - lo < hi + 1 - lo by omega]
    · rw [if_neg (by omega), if_neg (by omega), Nat.testBit_div_two_pow, Nat.testBit_div_two_pow]
      congr 1; omega

/-- Putting a field keeps a number within its width. -/
theorem putBits_lt {v hi lo k : Nat} (n : Nat) (h : lo ≤ hi + 1) (hk : hi < k) (hv : v < 2 ^ k) : putBits v hi lo n < 2 ^ k := by
  refine Nat.lt_pow_two_of_testBit _ fun i hi' => ?_
  rw [testBit_putBits v n h, if_neg (by omega)]
  exact Nat.testBit_lt_two_pow (lt_of_lt_of_le hv (Nat.pow_le_pow_right (by omega) hi'))

/-- Putting a field leaves every field apart from it alone. -/
theorem bitsOf_putBits_apart (v n : Nat) {hi lo h l : Nat} (hlo : lo ≤ hi + 1) (hap : h < lo ∨ hi < l) :
    bitsOf (putBits v hi lo n) h l = bitsOf v h l := by
  refine Nat.eq_of_testBit_eq fun i => ?_
  rw [testBit_bitsOf, testBit_bitsOf, testBit_putBits v n hlo]
  by_cases hi' : i < h + 1 - l
  · rw [if_neg (by omega)]
  · simp [hi']

/-- The word of a register after a field of it is set. -/
theorem Eng.toNat_rd_setF (e : Eng) (a n : Nat) {hi lo : Nat} (h : lo ≤ hi + 1) (hh : hi < 32) :
    ((e.setF a hi lo n).rd a).toNat = putBits (e.rd a).toNat hi lo n := by
  rw [Eng.rd_setF_self, BitVec.toNat_ofNat, Nat.mod_eq_of_lt (putBits_lt n h hh (e.rd a).isLt)]

theorem Eng.fld_setF_self (e : Eng) (a n : Nat) {hi lo : Nat} (h : lo ≤ hi + 1) (hh : hi < 32) :
    (e.setF a hi lo n).fld a hi lo = n % 2 ^ (hi + 1 - lo) := by
  rw [Eng.fld, Eng.toNat_rd_setF e a n h hh, bitsOf_putBits]

theorem Eng.fld_setF_apart (e : Eng) (a n : Nat) {hi lo h l : Nat} (hlo : lo ≤ hi + 1) (hh : hi < 32) (hap : h < lo ∨ hi < l) :
    (e.setF a hi lo n).fld a h l = e.fld a h l := by
  rw [Eng.fld, Eng.toNat_rd_setF e a n hlo hh, bitsOf_putBits_apart _ _ hlo hap, Eng.fld]

theorem Eng.bit_setF_self (e : Eng) (a i n : Nat) (h : i < 32) : (e.setF a i i n).bit a i = n.testBit 0 := by
  rw [Eng.bit, Eng.toNat_rd_setF e a n (by omega) h, testBit_putBits _ _ (by omega)]
  simp

/-- Fields, bits and pairs are read from the stored words. -/
theorem Eng.fld_congr {e f : Eng} {a : Nat} (h : f.rd a = e.rd a) (hi lo : Nat) : f.fld a hi lo = e.fld a hi lo := by
  simp [Eng.fld, h]

theorem Eng.bit_congr {e f : Eng} {a : Nat} (h : f.rd a = e.rd a) (i : Nat) : f.bit a i = e.bit a i := by
  simp [Eng.bit, h]

theorem Eng.pair_congr {e f : Eng} {lo hi : Nat} (hl : f.rd lo = e.rd lo) (hh : f.rd hi = e.rd hi) : f.pair lo hi = e.pair lo hi := by
  simp [Eng.pair, hl, hh]

/-- A saturating count. -/
theorem Eng.fld_bump_self (e : Eng) (a n : Nat) {hi lo : Nat} (h : lo ≤ hi + 1) (hh : hi < 32) :
    (e.bump a hi lo n).fld a hi lo = min (e.fld a hi lo + n) (2 ^ (hi + 1 - lo) - 1) := by
  have : 0 < 2 ^ (hi + 1 - lo) := by positivity
  rw [Eng.bump, Eng.fld_setF_self _ _ _ h hh, Nat.mod_eq_of_lt (by omega)]

/-- A LO and a HI word that hold the halves of a 64-bit value read as the value. -/
theorem Eng.pair_eq {e : Eng} {lo hi n : Nat} (hlo : e.rd lo = BitVec.ofNat 32 n) (hhi : e.rd hi = BitVec.ofNat 32 (n / 2 ^ 32))
    (hn : n < 2 ^ 64) : e.pair lo hi = n := by
  rw [Eng.pair, hlo, hhi, BitVec.toNat_ofNat, BitVec.toNat_ofNat]
  omega

theorem Eng.pair_lt (e : Eng) (lo hi : Nat) : e.pair lo hi < 2 ^ 64 := by
  have h1 := (e.rd lo).isLt
  have h2 := (e.rd hi).isLt
  unfold Eng.pair
  omega

/-- The low word of a 64-bit value. -/
theorem truncate_eq_ofNat (v : Dword) : (v.truncate 32 : Word) = BitVec.ofNat 32 v.toNat := by
  apply BitVec.eq_of_toNat_eq; simp

/-! ## Changes of registers alone -/

/-- The engine with no more than registers changed. Stated with the registers opaque, so that the other fields of a long chain of
writes are compared without unfolding it. -/
def Eng.RegsOnly (e t : Eng) : Prop := ∃ r, t = { e with regs := r }

theorem Eng.RegsOnly.trans {e f g : Eng} (h : e.RegsOnly f) (k : f.RegsOnly g) : e.RegsOnly g := by
  obtain ⟨r, rfl⟩ := h
  obtain ⟨q, rfl⟩ := k
  exact ⟨q, rfl⟩

theorem Eng.RegsOnly.parts {e f : Eng} (h : e.RegsOnly f) : f.parts = e.parts := by obtain ⟨r, rfl⟩ := h; rfl
theorem Eng.RegsOnly.mcores {e f : Eng} (h : e.RegsOnly f) : f.mcores = e.mcores := by obtain ⟨r, rfl⟩ := h; rfl
theorem Eng.RegsOnly.log {e f : Eng} (h : e.RegsOnly f) : f.log = e.log := by obtain ⟨r, rfl⟩ := h; rfl
theorem Eng.RegsOnly.logHeld {e f : Eng} (h : e.RegsOnly f) : f.logHeld = e.logHeld := by obtain ⟨r, rfl⟩ := h; rfl
theorem Eng.RegsOnly.rqt {e f : Eng} (h : e.RegsOnly f) : f.rqt = e.rqt := by obtain ⟨r, rfl⟩ := h; rfl

theorem Eng.wr_regsOnly (e : Eng) (a : Nat) (v : Word) : e.RegsOnly (e.wr a v) := ⟨_, rfl⟩
theorem Eng.setF_regsOnly (e : Eng) (a hi lo n : Nat) : e.RegsOnly (e.setF a hi lo n) := ⟨_, rfl⟩

/-! ## What reads the window's state -/

/-- Which addresses a path may read follows from the registers and from whether a warm reset runs. -/
theorem Eng.readOpen_congr {e f : Eng} (hr : f.regs = e.regs) (hw : f.warm = e.warm) (path : Path) (a : Nat) :
    f.readOpen path a = e.readOpen path a := by
  have hrd : ∀ x, f.rd x = e.rd x := fun x => by rw [Eng.rd, Eng.rd, hr]
  have hopen : f.windowOpen = e.windowOpen := by rw [Eng.windowOpen, Eng.windowOpen, Eng.fld_congr (hrd _), hw]
  cases path <;> simp only [Eng.readOpen, hopen, Eng.bit_congr (hrd _)]

/-- A read leaves behind nothing but latches, free values drawn, and the scrubber's and the counters' last readings. -/
theorem State.readEffect_eq (s : State) (path : Path) (a : Nat) :
    ∃ f l x n, s.readEffect path a = { s with eng := { s.eng with free := f, latch := l, activity := x, scrubPos := n } } := by
  unfold State.readEffect
  split
  · exact ⟨s.eng.free, s.eng.latch, s.eng.activity, s.eng.scrubPos, rfl⟩
  · dsimp only
    split
    · exact ⟨_, _, _, _, rfl⟩
    · split
      · split
        · exact ⟨_, _, _, _, rfl⟩
        · exact ⟨_, _, _, _, rfl⟩
      · exact ⟨_, _, _, _, rfl⟩

theorem unitRows_glb {a : Nat} (h : a < 0x10000) : unitRows a = rowsGlb := by
  rw [unitRows, show a / 0x10000 = 0 by omega]
  rfl

theorem unitRows_high {a : Nat} (h : 0x150000 ≤ a) : unitRows a = [] := by
  obtain ⟨k, hk⟩ := Nat.exists_eq_add_of_le' (show 0x15 ≤ a / 0x10000 by omega)
  rw [unitRows, hk]
  rfl

/-- The registers that latch others lie above WX_GLB and below the doorbell pages. -/
theorem latches_range {a : Nat} (h : latches a = true) : 0x10000 ≤ a ∧ a < 0x150000 := by
  unfold latches at h
  obtain ⟨r, hr, hb⟩ := (Option.any_eq_true ..).mp h
  have hm : r ∈ unitRows a := List.mem_of_find?_eq_some hr
  have hglb : ∀ x ∈ rowsGlb, latchBases.contains x.base = false := by decide
  constructor
  · by_contra hlt
    rw [unitRows_glb (by omega)] at hm
    rw [hglb r hm] at hb
    exact Bool.false_ne_true hb
  · by_contra hge
    rw [unitRows_high (by omega)] at hm
    exact List.not_mem_nil hm

/-- A read of a latching register stores the word above it in the path's latch. -/
theorem State.readEffect_latch {s : State} {path : Path} {a : Nat} (ho : s.eng.readOpen path a = true) (hl : latches a = true) :
    (s.readEffect path a).eng.latch = kset 0 s.eng.latch (latchKey path (a + 4)) (s.regValue (a + 4)) := by
  have hb : a ≠ Reg.pwrActBusy := by
    rintro rfl
    exact absurd hl (by decide)
  unfold State.readEffect
  simp only [ho, Bool.not_true, Bool.false_eq_true, if_false, hb, hl, if_true]
  split <;> rfl

/-- Where a path may not read, it reads 0. -/
theorem State.readWord_closed {s : State} {path : Path} {a : Nat} (ho : s.eng.readOpen path a = false) : s.readWord path a = 0 := by
  simp [State.readWord, ho]

/-- A latched register of the window reads its path's latch. -/
theorem State.readWord_latched {s : State} {path : Path} {a : Nat} (ho : s.eng.readOpen path a = true) (ha : a < 0x200000)
    (hl : latched a = true) : s.readWord path a = kget 0 s.eng.latch (latchKey path a) := by
  simp [State.readWord, ho, hl, show ¬ 0x200000 ≤ a by omega]

/-- Any other register of the window reads its own value. -/
theorem State.readWord_regValue {s : State} {path : Path} {a : Nat} (ho : s.eng.readOpen path a = true) (ha : a < 0x200000)
    (hl : latched a = false) : s.readWord path a = s.regValue a := by
  simp [State.readWord, ho, hl, show ¬ 0x200000 ≤ a by omega]

/-- The latches of two paths are apart (R575). -/
theorem latchKey_ne {p q : Path} (h : q ≠ p) (a : Nat) : latchKey q a ≠ latchKey p a := by
  cases p <;> cases q <;> simp [latchKey, pathIndex] at h ⊢

theorem latched_above {a : Nat} (h : latches a = true) : latched (a + 4) = true := by
  simp [latched, h]

/-- A path that may read a latching register may read the one above it. -/
theorem Eng.readOpen_above {e : Eng} {path : Path} {a : Nat} (ho : e.readOpen path a = true) (hl : latches a = true) :
    e.readOpen path (a + 4) = true := by
  obtain ⟨hlo, hhi⟩ := latches_range hl
  cases path with
  | host => simp [Eng.readOpen, show ¬ a < 0x10000 by omega] at ho ⊢; exact Or.inr ho
  | mgmt => rfl
  | jtag => exact ho
  | i2c =>
    simp [Eng.readOpen, show ¬ a < 0x10000 by omega] at ho ⊢
    exact ⟨Or.inr ho.1, by omega⟩

/-- What a latching read does (R47, R575): it answers the register, and keeps the word above it for its own path, which the
other paths do not see. -/
theorem State.readAt_latching {s : State} {path : Path} {a : Nat} (ha : a % 4 = 0) (hl : latches a = true) (hn : latched a = false)
    (ho : s.eng.readOpen path a = true) :
    let t := s.readAt path a
    t.eng.resp = ⟨true, s.regValue a⟩ ∧ t.readWord path (a + 4) = s.regValue (a + 4) ∧ t.eng.regs = s.eng.regs ∧
      t.eng.mem = s.eng.mem ∧ ∀ q, q ≠ path → t.readWord q (a + 4) = s.readWord q (a + 4) := by
  have hlt : a + 4 < 0x200000 := by have := (latches_range hl).2; omega
  have hlatch := State.readEffect_latch ho hl
  obtain ⟨f, l, x, n, he⟩ := s.readEffect_eq path a
  have hread : s.readAt path a =
      { s with eng := { s.eng with free := f, latch := l, activity := x, scrubPos := n, resp := ⟨true, s.regValue a⟩ } } := by
    simp [State.readAt, ha, he, State.readWord_regValue ho (by omega) hn]
  have hkeep : (s.readAt path a).eng.latch = kset 0 s.eng.latch (latchKey path (a + 4)) (s.regValue (a + 4)) := by
    rw [← hlatch, hread, he]
  have hopen : ∀ q, (s.readAt path a).eng.readOpen q (a + 4) = s.eng.readOpen q (a + 4) := fun q =>
    Eng.readOpen_congr (by rw [hread]) (by rw [hread]) q _
  refine ⟨by rw [hread], ?_, by rw [hread], by rw [hread], fun q hq => ?_⟩
  · rw [State.readWord_latched ((hopen path).trans (Eng.readOpen_above ho hl)) hlt (latched_above hl), hkeep, kget_kset_self]
  · cases hoq : s.eng.readOpen q (a + 4) with
    | true =>
      rw [State.readWord_latched ((hopen q).trans hoq) hlt (latched_above hl), State.readWord_latched hoq hlt (latched_above hl), hkeep,
        kget_kset_ne _ _ _ (latchKey_ne hq _)]
    | false => rw [State.readWord_closed ((hopen q).trans hoq), State.readWord_closed hoq]

/-! ## Writes of a register with nothing but its fields (R8) -/

/-- A write that belongs to no command writes the register's fields, through the gate. -/
theorem windowWrite_field {path : Path} {strings : Bool} {a : Nat} {v : Word} {s : State} {r : RegRow} (ha : a < 0x200000)
    (hr : regRow a = some r) (hs : r.pstride = 0) (hc : engineCommand path strings r v s = none) :
    windowWrite path strings a v s = ctlState path a (fun s => s.onEng fun _ e =>
      e.fieldWrite path r a (r.part a) ((a - (r.base + r.pstride * r.part a)) / max 1 r.step) v) s := by
  simp [windowWrite, show ¬ 0x200000 ≤ a by omega, hr, hs, hc]

/-- At a reserved offset a write only answers. -/
theorem windowWrite_reserved {path : Path} {strings : Bool} {a : Nat} {v : Word} {s : State} (ha : a < 0x200000)
    (hr : regRow a = none) :
    windowWrite path strings a v s = { s with eng := { s.eng with resp := ⟨decide (s.eng.gate path a ≠ .slverr), 0⟩ } } := by
  simp only [windowWrite, show ¬ 0x200000 ≤ a by omega, hr, if_false, ctlState]
  cases s.eng.gate path a <;> rfl

/-- The rows of WX_GLB_SCRATCH and WX_BEAT_EVENT. -/
def rowScratch : RegRow := ⟨0x44, 0, 1, 0, 0, 0xffffffff, 0, 0, 0, 0⟩
def rowBeatEvent : RegRow := ⟨0x10008, 0, 1, 0, 0, 0, 0x1ff, 0, 0, 0⟩

theorem regRow_scratch : regRow Reg.glbScratch = some rowScratch := by decide
theorem regRow_beatEvent : regRow Reg.beatEvent = some rowBeatEvent := by decide

theorem rowScratch_written (old v : Word) : rowScratch.written old v = v := by
  have hm : w32 (rowScratch.rw ||| rowScratch.rws) = BitVec.allOnes 32 := by decide
  have hc : w32 rowScratch.w1c = 0 := by decide
  simp only [RegRow.written, hm, hc, BitVec.and_allOnes, BitVec.not_allOnes]
  ext i
  simp

theorem rowBeatEvent_written (old v : Word) : rowBeatEvent.written old v = old &&& ~~~(v &&& 0x1FF) := by
  have hm : w32 (rowBeatEvent.rw ||| rowBeatEvent.rws) = 0#32 := by decide
  have hc : w32 rowBeatEvent.w1c = 0x1FF := by decide
  simp only [RegRow.written, hm, hc, BitVec.not_zero, BitVec.and_allOnes, BitVec.and_zero, BitVec.or_zero]

theorem windowWrite_scratch {path : Path} {strings : Bool} {v : Word} {s : State} (h : s.eng.gate path Reg.glbScratch = .pass) :
    windowWrite path strings Reg.glbScratch v s = { s with eng := { s.eng.wr Reg.glbScratch v with resp := ⟨true, 0⟩ } } := by
  rw [windowWrite_field (by decide) regRow_scratch rfl rfl, ctlState_pass _ _ _ _ h]
  show ({ s with eng := { s.eng.wr Reg.glbScratch (rowScratch.written (s.eng.rd Reg.glbScratch) v) with resp := ⟨true, 0⟩ } } : State) = _
  rw [rowScratch_written]

theorem windowWrite_beatEvent {path : Path} {strings : Bool} {v : Word} {s : State} (h : s.eng.gate path Reg.beatEvent = .pass) :
    windowWrite path strings Reg.beatEvent v s =
      { s with eng := { s.eng.wr Reg.beatEvent (s.eng.rd Reg.beatEvent &&& ~~~(v &&& 0x1FF)) with resp := ⟨true, 0⟩ } } := by
  rw [windowWrite_field (by decide) regRow_beatEvent rfl rfl, ctlState_pass _ _ _ _ h]
  show ({ s with eng := { s.eng.wr Reg.beatEvent (rowBeatEvent.written (s.eng.rd Reg.beatEvent) v) with resp := ⟨true, 0⟩ } } : State) = _
  rw [rowBeatEvent_written]

/-- WX_GLB_SCRATCH reads its stored word. -/
theorem State.regValue_scratch (s : State) : s.regValue Reg.glbScratch = s.eng.rd Reg.glbScratch := by
  simp only [State.regValue, regRow_scratch]
  rfl

theorem State.regValue_beatNowLo (s : State) : s.regValue Reg.beatNowLo = BitVec.ofNat 32 s.beat.stamp := rfl
theorem State.regValue_beatNowHi (s : State) : s.regValue Reg.beatNowHi = BitVec.ofNat 32 (s.beat.stamp / 2 ^ 32) := rfl

/-- A whole aligned REGISTER_WRITE of a register other than WX_DBG_CMD is a write of the window. -/
theorem execRegisterWrite_whole {path : Path} {a : BitVec 22} {v : Word} {s : State} (ha : a.toNat % 4 = 0) (hd : a.toNat ≠ Reg.dbgCmd) :
    exec (.registerWrite path a v true) s = .next (windowWrite path false a.toNat v s) := by
  show execRegisterWrite path a v true s = _
  simp [execRegisterWrite, ha, hd]

/-- A partial or misaligned REGISTER_WRITE only answers SLVERR (R534). -/
theorem execRegisterWrite_bad {path : Path} {a : BitVec 22} {v : Word} {full : Bool} {s : State} (h : full = false ∨ a.toNat % 4 ≠ 0) :
    exec (.registerWrite path a v full) s = .next { s with eng := { s.eng with resp := ⟨false, 0⟩ } } := by
  show execRegisterWrite path a v full s = _
  have hc : (!full || decide (a.toNat % 4 ≠ 0)) = true := by simpa using h
  simp only [execRegisterWrite, hc, if_true]

/-- A misaligned read only answers SLVERR (R534). -/
theorem State.readAt_misaligned {s : State} {path : Path} {a : Nat} (h : a % 4 ≠ 0) :
    s.readAt path a = { s with eng := { s.eng with resp := ⟨false, 0⟩ } } := by
  simp [State.readAt, h]

/-! ## The TAP (R557) -/

/-- The words of WX_DBG_DATA, WX_DBG_ADDR and WX_DBG_CMD in the 160 bits of STRINGS. -/
theorem bitsOf_stringsDr {d a c : Nat} (hd : d < 2 ^ 64) (ha : a < 2 ^ 64) (hc : c < 2 ^ 32) :
    let n := (BitVec.ofNat 160 (d * 2 ^ 96 + a * 2 ^ 32 + c)).toNat
    bitsOf n 31 0 = c ∧ bitsOf n 95 32 = a ∧ bitsOf n 159 96 = d := by
  intro n
  have hn : n = d * 2 ^ 96 + a * 2 ^ 32 + c := by
    show (BitVec.ofNat 160 _).toNat = _
    rw [BitVec.toNat_ofNat]
    omega
  simp only [bitsOf, hn]
  omega

theorem Eng.toNat_dbgAddr (e : Eng) : e.dbgAddr.toNat = e.pair Reg.dbgAddrLo Reg.dbgAddrHi := by
  rw [Eng.dbgAddr, BitVec.toNat_ofNat, Nat.mod_eq_of_lt (e.pair_lt _ _)]

theorem Eng.toNat_dbgData (e : Eng) : e.dbgData.toNat = e.pair Reg.dbgDataLo Reg.dbgDataHi := by
  rw [Eng.dbgData, BitVec.toNat_ofNat, Nat.mod_eq_of_lt (e.pair_lt _ _)]

/-- What Capture-DR loads under STRINGS while JTAG_EN is 1. -/
theorem Eng.jtagCapture_strings {e : Eng} (hi : e.jtagIr = irStrings) (hj : e.bit Reg.dbgCtrl 0 = true) :
    bitsOf e.jtagCapture.toNat 31 0 = (e.rd Reg.dbgCmd).toNat ∧
      bitsOf e.jtagCapture.toNat 95 32 = e.pair Reg.dbgAddrLo Reg.dbgAddrHi ∧
      bitsOf e.jtagCapture.toNat 159 96 = e.pair Reg.dbgDataLo Reg.dbgDataHi := by
  rw [← e.toNat_dbgAddr, ← e.toNat_dbgData]
  have hc : e.jtagCapture = BitVec.ofNat 160 (e.dbgData.toNat * 2 ^ 96 + e.dbgAddr.toNat * 2 ^ 32 + (e.rd Reg.dbgCmd).toNat) := by
    simp [Eng.jtagCapture, hi, hj]
  rw [hc]
  exact bitsOf_stringsDr e.dbgData.isLt e.dbgAddr.isLt (e.rd Reg.dbgCmd).isLt

theorem Eng.jtagCapture_idcode {e : Eng} (hi : e.jtagIr = irIdcode) : e.jtagCapture = Config.idcode.zeroExtend 160 := by
  simp [Eng.jtagCapture, hi]

theorem Eng.jtagCapture_disabled {e : Eng} (hi : e.jtagIr = irStrings) (hj : e.bit Reg.dbgCtrl 0 = false) : e.jtagCapture = 0 := by
  simp [Eng.jtagCapture, hi, hj]

/-- Update-DR's writes of DATA and ADDR from the register's bits. -/
def Eng.jtagLoad (n : Nat) (e : Eng) : Eng :=
  (((e.wr Reg.dbgDataLo (w32 (bitsOf n 127 96))).wr Reg.dbgDataHi (w32 (bitsOf n 159 128))).wr
    Reg.dbgAddrLo (w32 (bitsOf n 63 32))).wr Reg.dbgAddrHi (w32 (bitsOf n 95 64))

/-- The two words of a 64-bit field. -/
theorem w32_bitsOf_low (n lo : Nat) : w32 (bitsOf n (lo + 31) lo) = BitVec.ofNat 32 (bitsOf n (lo + 63) lo) := by
  apply BitVec.eq_of_toNat_eq
  simp only [BitVec.toNat_ofNat, bitsOf, show lo + 31 + 1 - lo = 32 by omega, show lo + 63 + 1 - lo = 64 by omega]
  omega

theorem w32_bitsOf_high (n lo : Nat) : w32 (bitsOf n (lo + 63) (lo + 32)) = BitVec.ofNat 32 (bitsOf n (lo + 63) lo / 2 ^ 32) := by
  apply BitVec.eq_of_toNat_eq
  simp only [BitVec.toNat_ofNat, bitsOf, show lo + 63 + 1 - (lo + 32) = 32 by omega, show lo + 63 + 1 - lo = 64 by omega,
    Nat.pow_add, ← Nat.div_div_eq_div_mul]
  omega

theorem Eng.jtagLoad_data (e : Eng) (n : Nat) : (e.jtagLoad n).pair Reg.dbgDataLo Reg.dbgDataHi = bitsOf n 159 96 := by
  refine Eng.pair_eq ?_ ?_ (bitsOf_lt n 159 96)
  · simp (disch := decide) only [Eng.jtagLoad, Eng.rd_wr_ne, Eng.rd_wr_self]
    exact w32_bitsOf_low n 96
  · simp (disch := decide) only [Eng.jtagLoad, Eng.rd_wr_ne, Eng.rd_wr_self]
    exact w32_bitsOf_high n 96

theorem Eng.jtagLoad_addr (e : Eng) (n : Nat) : (e.jtagLoad n).pair Reg.dbgAddrLo Reg.dbgAddrHi = bitsOf n 95 32 := by
  refine Eng.pair_eq ?_ ?_ (bitsOf_lt n 95 32)
  · simp (disch := decide) only [Eng.jtagLoad, Eng.rd_wr_ne, Eng.rd_wr_self]
    exact w32_bitsOf_low n 32
  · simp (disch := decide) only [Eng.jtagLoad, Eng.rd_wr_self]
    exact w32_bitsOf_high n 32

theorem Eng.jtagLoad_rd_ne (e : Eng) (n : Nat) {a : Nat} (h : a ∉ [Reg.dbgDataLo, Reg.dbgDataHi, Reg.dbgAddrLo, Reg.dbgAddrHi]) :
    (e.jtagLoad n).rd a = e.rd a := by
  simp only [List.mem_cons, List.not_mem_nil, or_false, not_or] at h
  obtain ⟨h1, h2, h3, h4⟩ := h
  rw [Eng.jtagLoad, Eng.rd_wr_ne _ _ h4, Eng.rd_wr_ne _ _ h3, Eng.rd_wr_ne _ _ h2, Eng.rd_wr_ne _ _ h1]

/-- A command word whose OP is 0 stores SPACE and performs nothing. -/
theorem State.dbgCommand_none {s : State} {src : StringsSrc} {cmd : Nat} (h : bitsOf cmd 25 24 = 0) :
    s.dbgCommand src cmd = s.onEng fun _ e => e.setF Reg.dbgCmd 17 16 (BitVec.ofNat 2 (bitsOf cmd 17 16)).toNat := by
  simp [State.dbgCommand, h]

theorem execJtagUpdateDr_closed {s : State} {x : BitVec 160}
    (h : s.eng.jtagIr ≠ irStrings ∨ s.eng.bit Reg.dbgCtrl 0 = false ∨ s.eng.bit Reg.dbgCmd 31 = true) :
    exec (.jtagUpdateDr x) s = .next (s.onEng fun _ e => { e with jtagDr := x }) := by
  show execJtagUpdateDr x s = _
  simp only [execJtagUpdateDr]
  rw [if_pos]
  exact h

theorem execJtagUpdateDr_open {s : State} {x : BitVec 160} (hi : s.eng.jtagIr = irStrings) (hj : s.eng.bit Reg.dbgCtrl 0 = true)
    (hb : s.eng.bit Reg.dbgCmd 31 = false) :
    exec (.jtagUpdateDr x) s =
      .next ((s.onEng fun _ e => ({ e with jtagDr := x } : Eng).jtagLoad x.toNat).dbgCommand .jtag (x.toNat % 2 ^ 32)) := by
  show execJtagUpdateDr x s = _
  simp only [execJtagUpdateDr]
  rw [if_neg]
  · rfl
  · rintro (h | h | h)
    · exact h hi
    · exact Bool.false_ne_true (h.symm.trans hj)
    · exact Bool.false_ne_true (hb.symm.trans h)

/-! ## What a log entry can change (R510 to R513) -/

/-- The registers that making a log entry, and writing entries to the host ring, may change. -/
def logRegs : List Nat :=
  [Reg.mgmtLogSeq, Reg.mgmtLogOcc, Reg.mgmtLogLost, Reg.mgmtEvent, Reg.mgmtHlogTail, Reg.intEfrTail, Reg.intEfrLost, Reg.intEvent]

/-- The engine after no more than a log entry: of its fields only the log, the held entries, host memory and the registers may
differ, and of the registers only those of `logRegs`. -/
structure Eng.LogsOnly (e t : Eng) : Prop where
  fields : ∃ r m l h, t = { e with regs := r, mem := m, log := l, logHeld := h }
  rd : ∀ a, a ∉ logRegs → t.rd a = e.rd a

theorem Eng.LogsOnly.refl (e : Eng) : e.LogsOnly e := ⟨⟨_, _, _, _, rfl⟩, fun _ _ => rfl⟩

theorem Eng.LogsOnly.trans {e f g : Eng} (h : e.LogsOnly f) (k : f.LogsOnly g) : e.LogsOnly g := by
  obtain ⟨⟨r, m, l, w, rfl⟩, hr⟩ := h
  obtain ⟨⟨r', m', l', w', rfl⟩, kr⟩ := k
  exact ⟨⟨r', m', l', w', rfl⟩, fun a ha => (kr a ha).trans (hr a ha)⟩

theorem Eng.setF_logsOnly (e : Eng) {a : Nat} (hi lo n : Nat) (h : a ∈ logRegs) : e.LogsOnly (e.setF a hi lo n) :=
  ⟨⟨_, _, _, _, rfl⟩, fun _ hb => Eng.rd_setF_ne _ _ _ _ fun hab => hb (hab ▸ h)⟩

theorem Eng.log_logsOnly (e : Eng) (l : List LogEnt) : e.LogsOnly { e with log := l } := ⟨⟨_, _, _, _, rfl⟩, fun _ _ => rfl⟩
theorem Eng.logHeld_logsOnly (e : Eng) (l : List LogEnt) : e.LogsOnly { e with logHeld := l } := ⟨⟨_, _, _, _, rfl⟩, fun _ _ => rfl⟩
theorem Eng.store_logsOnly (e : Eng) (a : Nat) (d : List Byte) : e.LogsOnly (e.store a d) := ⟨⟨_, _, _, _, rfl⟩, fun _ _ => rfl⟩

theorem Eng.logPut_logsOnly (e : Eng) (l : LogEnt) : e.LogsOnly (e.logPut l) :=
  ((e.log_logsOnly _).trans (Eng.setF_logsOnly _ _ _ _ (by decide))).trans (Eng.setF_logsOnly _ _ _ _ (by decide))

theorem Eng.logRaw_logsOnly (b : BeatUnit) (type src : Nat) (part : Option Nat) (payload : List Byte) (e : Eng) :
    e.LogsOnly (e.logRaw b type src part payload) := by
  have hheld : ∀ l, e.LogsOnly { (e.ev Reg.mgmtEvent 4) with logHeld := l } := fun l =>
    (e.setF_logsOnly (a := Reg.mgmtEvent) 4 4 1 (by decide)).trans (Eng.logHeld_logsOnly _ l)
  have hlost : e.LogsOnly ((e.bump Reg.mgmtLogLost 31 0).ev Reg.mgmtEvent 3) :=
    Eng.LogsOnly.trans (e.setF_logsOnly _ _ _ (by decide)) (Eng.setF_logsOnly _ _ _ _ (by decide))
  unfold Eng.logRaw
  dsimp only
  split
  · exact hheld _
  · split
    · exact e.logPut_logsOnly _
    · split
      · exact hheld _
      · exact hlost

theorem Eng.engFaultRaw_logsOnly (b : BeatUnit) (kind : Nat) (part : Option Nat) (detail : List Byte) (e : Eng) :
    e.LogsOnly (e.engFaultRaw b kind part detail) := by
  unfold Eng.engFaultRaw
  dsimp only
  refine Eng.LogsOnly.trans (Eng.LogsOnly.trans ?_ (Eng.logRaw_logsOnly b _ _ _ _ _)) (Eng.setF_logsOnly _ _ _ _ (by decide))
  split
  · exact e.setF_logsOnly _ _ _ (by decide)
  · exact (e.store_logsOnly _ _).trans (Eng.setF_logsOnly _ _ _ _ (by decide))

theorem Eng.hlogOne_logsOnly (b : BeatUnit) (e : Eng) : e.LogsOnly (e.hlogOne b) := by
  have htail : ∀ l, e.LogsOnly (({ e with log := l } : Eng).bumpWrap Reg.mgmtHlogTail 31 0) := fun l =>
    (e.log_logsOnly l).trans (Eng.setF_logsOnly _ _ _ _ (by decide))
  unfold Eng.hlogOne
  dsimp only
  split
  · exact .refl e
  · split
    · exact .refl e
    · split
      · exact (htail _).trans (Eng.engFaultRaw_logsOnly _ _ _ _ _)
      · exact (htail _).trans (Eng.store_logsOnly _ _ _)

theorem Eng.hlogPump_logsOnly (b : BeatUnit) (e : Eng) : e.LogsOnly (e.hlogPump b) := by
  have hfold : ∀ (l : List LogEnt) (f : Eng), e.LogsOnly f → e.LogsOnly (l.foldl (fun e _ => e.hlogOne b) f) := by
    intro l
    induction l with
    | nil => exact fun f hf => hf
    | cons x r ih => exact fun f hf => ih _ (hf.trans (f.hlogOne_logsOnly b))
  exact hfold _ e (.refl e)

theorem Eng.logAdd_logsOnly (b : BeatUnit) (type src : Nat) (part : Option Nat) (payload : List Byte) (e : Eng) :
    e.LogsOnly (e.logAdd b type src part payload) :=
  (Eng.logRaw_logsOnly b type src part payload e).trans (Eng.hlogPump_logsOnly _ _)

/-- No entry goes to the host ring while its size is 0 (R511). -/
theorem Eng.hlogPump_off (b : BeatUnit) {e : Eng} (h : e.fld Reg.mgmtHlogCfg 4 0 = 0) : e.hlogPump b = e := by
  have hone : e.hlogOne b = e := by
    unfold Eng.hlogOne
    dsimp only
    split
    · rfl
    · rw [if_pos (Or.inl h)]
  unfold Eng.hlogPump
  induction e.log with
  | nil => rfl
  | cons x r ih => rw [List.foldl_cons, hone, ih]

/-- With a free slot, none held back, and no host ring, a log entry joins the end of the log (R511, R512). -/
theorem Eng.logAdd_log (b : BeatUnit) (type src : Nat) (part : Option Nat) (payload : List Byte) {e : Eng}
    (hh : e.logHeld = []) (ho : e.logOcc < logSlots) (hc : e.fld Reg.mgmtHlogCfg 4 0 = 0) :
    ∃ l : LogEnt, (e.logAdd b type src part payload).log = e.log ++ [l] ∧ l.type = type ∧ l.src = src ∧ l.payload = payload := by
  have hraw : ∃ l : LogEnt, (e.logRaw b type src part payload).log = e.log ++ [l] ∧ l.type = type ∧ l.src = src ∧ l.payload = payload := by
    unfold Eng.logRaw
    simp only [hh, List.any_nil, Bool.and_false, Bool.false_eq_true, if_false, ho, if_true]
    exact ⟨_, rfl, rfl, rfl, rfl⟩
  have hcfg : (e.logRaw b type src part payload).fld Reg.mgmtHlogCfg 4 0 = 0 :=
    (Eng.fld_congr ((Eng.logRaw_logsOnly b type src part payload e).rd _ (by decide)) 4 0).trans hc
  rw [Eng.logAdd, Eng.hlogPump_off b hcfg]
  exact hraw

/-- The entries that occupy a slot follow from the log and WX_MGMT_LOG_MIRRORED. -/
theorem Eng.logOcc_congr {e f : Eng} (hl : f.log = e.log) (hm : f.rd Reg.mgmtLogMirrored = e.rd Reg.mgmtLogMirrored) :
    f.logOcc = e.logOcc := by
  simp [Eng.logOcc, Eng.mirrored, hl, Eng.fld_congr hm]

/-! ## The log of Strings (R528, R531) -/

/-- Logging a Strings write counts it and names its user. -/
theorem Eng.strLog_counts (b : BeatUnit) (src : Nat) (part : Option Nat) (space addr old new : Nat) (e : Eng) :
    let t := e.strLog b src part space addr old new
    t.fld Reg.dbgWrites 31 0 = min (e.fld Reg.dbgWrites 31 0 + 1) (2 ^ 32 - 1) ∧ t.fld Reg.dbgStatus 1 0 = src % 4 := by
  have hw := (Eng.logAdd_logsOnly b 0x0007 src part (leBytes 4 space ++ leBytes 8 addr ++ leBytes 8 old ++ leBytes 8 new) e).rd
    Reg.dbgWrites (by decide)
  constructor
  · rw [Eng.strLog, Eng.fld_congr (Eng.rd_setF_ne _ _ _ _ (by decide)), Eng.fld_bump_self _ _ _ (by omega) (by omega), Eng.fld_congr hw]
  · exact Eng.fld_setF_self _ _ _ (by omega) (by omega)

/-- Logging a Strings write changes no register but those of the log and WX_DBG_WRITES and WX_DBG_STATUS. -/
theorem Eng.strLog_rd_ne (b : BeatUnit) (src : Nat) (part : Option Nat) (space addr old new : Nat) (e : Eng) {a : Nat}
    (ha : a ∉ Reg.dbgWrites :: Reg.dbgStatus :: logRegs) : (e.strLog b src part space addr old new).rd a = e.rd a := by
  simp only [List.mem_cons, not_or] at ha
  obtain ⟨hw, hs, hl⟩ := ha
  rw [Eng.strLog, Eng.rd_setF_ne _ _ _ _ hs, Eng.bump, Eng.rd_setF_ne _ _ _ _ hw]
  exact (Eng.logAdd_logsOnly _ _ _ _ _ _).rd _ hl

theorem Eng.strLog_rqt (b : BeatUnit) (src : Nat) (part : Option Nat) (space addr old new : Nat) (e : Eng) :
    (e.strLog b src part space addr old new).rqt = e.rqt ∧ (e.strLog b src part space addr old new).rqtBad = e.rqtBad := by
  obtain ⟨⟨r, m, l, h, ht⟩, -⟩ := Eng.logAdd_logsOnly b 0x0007 src part (leBytes 4 space ++ leBytes 8 addr ++ leBytes 8 old ++ leBytes 8 new) e
  simp only [Eng.strLog, Eng.setF_rqt, Eng.setF_rqtBad, Eng.bump_rqt, Eng.bump_rqtBad, ht, and_self]

theorem Eng.strLog_log (b : BeatUnit) (src : Nat) (part : Option Nat) (space addr old new : Nat) (e : Eng) :
    (e.strLog b src part space addr old new).log =
      (e.logAdd b 0x0007 src part (leBytes 4 space ++ leBytes 8 addr ++ leBytes 8 old ++ leBytes 8 new)).log := rfl

/-! ## Strings (R527, R528, R531) -/

theorem strAddrErr_le (space : BitVec 2) (addr : Dword) : strAddrErr space addr ≤ 2 := by
  have hbit : ∀ (c : Prop) [Decidable c], (if c then 0 else 1) ≤ 2 := fun c _ => by split <;> omega
  unfold strAddrErr
  dsimp only
  split
  · exact hbit _
  · exact hbit _
  · exact hbit _
  · exact le_refl 2

theorem strRqt_space {space : BitVec 2} {addr : Dword} (h : strRqt space addr = true) : space = 1 := by
  simp [strRqt] at h
  exact h.1

/-- An address of the request table is bad only beyond the table's words. -/
theorem strAddrErr_rqt {space : BitVec 2} {addr : Dword} (h : strRqt space addr = true) (hl : lowWord addr < 24 * 131072) :
    strAddrErr space addr = 0 := by
  obtain rfl := strRqt_space h
  simp only [strAddrErr, h, if_true]
  exact if_pos hl

theorem Eng.strReadErr_le (e : Eng) (space : BitVec 2) (addr : Dword) : e.strReadErr space addr ≤ 4 := by
  have := strAddrErr_le space addr
  unfold Eng.strReadErr
  split
  · omega
  · split <;> omega

theorem Eng.strReadErr_other (e : Eng) {space : BitVec 2} {addr : Dword} (h : strRqt space addr = false) :
    e.strReadErr space addr = strAddrErr space addr := by
  unfold Eng.strReadErr
  split
  · rfl
  · rename_i h0
    simp [h, not_not.mp h0]

theorem Eng.strReadErr_rqt (e : Eng) {space : BitVec 2} {addr : Dword} (h : strRqt space addr = true) (hl : lowWord addr < 24 * 131072) :
    e.strReadErr space addr = if lowWord addr ∈ e.rqtBad then 4 else 0 := by
  simp [Eng.strReadErr, strAddrErr_rqt h hl, h]

theorem State.strValue_rqt (s : State) (src : StringsSrc) {space : BitVec 2} {addr : Dword} (h : strRqt space addr = true) :
    s.strValue src space addr = kget 0 s.eng.rqt (lowWord addr) := by
  obtain rfl := strRqt_space h
  exact if_pos h

/-- The registers that show SPACE, ADDR and ERR. -/
def strShowRegs : List Nat := [Reg.dbgCmd, Reg.dbgAddrLo, Reg.dbgAddrHi]

theorem Eng.strShow_rd_ne (e : Eng) (space : BitVec 2) (addr : Dword) (err : Nat) {a : Nat} (h : a ∉ strShowRegs) :
    (e.strShow space addr err).rd a = e.rd a := by
  simp only [strShowRegs, List.mem_cons, List.not_mem_nil, or_false, not_or] at h
  obtain ⟨hc, hl, hh⟩ := h
  rw [Eng.strShow, Eng.rd_wr_ne _ _ hh, Eng.rd_wr_ne _ _ hl, Eng.rd_setF_ne _ _ _ _ hc, Eng.rd_setF_ne _ _ _ _ hc]

theorem Eng.strShow_regsOnly (e : Eng) (space : BitVec 2) (addr : Dword) (err : Nat) : e.RegsOnly (e.strShow space addr err) :=
  (((Eng.setF_regsOnly _ _ _ _ _).trans (Eng.setF_regsOnly _ _ _ _ _)).trans (Eng.wr_regsOnly _ _ _)).trans (Eng.wr_regsOnly _ _ _)

/-- WX_DBG_CMD shows an operation's ERR and SPACE. -/
theorem Eng.strShow_cmd (e : Eng) (space : BitVec 2) (addr : Dword) {err : Nat} (h : err < 8) :
    (e.strShow space addr err).fld Reg.dbgCmd 30 28 = err ∧ (e.strShow space addr err).fld Reg.dbgCmd 17 16 = space.toNat := by
  have hrd : (e.strShow space addr err).rd Reg.dbgCmd = ((e.setF Reg.dbgCmd 17 16 space.toNat).setF Reg.dbgCmd 30 28 err).rd Reg.dbgCmd := by
    rw [Eng.strShow, Eng.rd_wr_ne _ _ (by decide), Eng.rd_wr_ne _ _ (by decide)]
  have hs := space.isLt
  constructor
  · rw [Eng.fld_congr hrd, Eng.fld_setF_self _ _ _ (by omega) (by omega)]
    exact Nat.mod_eq_of_lt h
  · rw [Eng.fld_congr hrd, Eng.fld_setF_apart _ _ _ (by omega) (by omega) (by omega), Eng.fld_setF_self _ _ _ (by omega) (by omega)]
    exact Nat.mod_eq_of_lt hs

/-- WX_DBG_DATA takes a value: its low word alone for the control window. -/
def Eng.strData (space : BitVec 2) (v : Dword) (e : Eng) : Eng :=
  let e := e.wr Reg.dbgDataLo (v.truncate 32)
  if space = 0 then e else e.wr Reg.dbgDataHi (w32 (highWord v))

theorem Eng.strData_rd_ne (e : Eng) (space : BitVec 2) (v : Dword) {a : Nat} (hl : a ≠ Reg.dbgDataLo) (hh : a ≠ Reg.dbgDataHi) :
    (e.strData space v).rd a = e.rd a := by
  unfold Eng.strData
  dsimp only
  split
  · exact Eng.rd_wr_ne _ _ hl
  · rw [Eng.rd_wr_ne _ _ hh, Eng.rd_wr_ne _ _ hl]

theorem Eng.strData_low (e : Eng) (space : BitVec 2) (v : Dword) : (e.strData space v).rd Reg.dbgDataLo = v.truncate 32 := by
  unfold Eng.strData
  dsimp only
  split
  · exact Eng.rd_wr_self _ _ _
  · rw [Eng.rd_wr_ne _ _ (by decide), Eng.rd_wr_self]

theorem Eng.strData_pair (e : Eng) {space : BitVec 2} (v : Dword) (h : space ≠ 0) :
    (e.strData space v).pair Reg.dbgDataLo Reg.dbgDataHi = v.toNat := by
  refine Eng.pair_eq ((e.strData_low space v).trans (truncate_eq_ofNat v)) ?_ v.isLt
  simp only [Eng.strData, h, if_false, Eng.rd_wr_self]

theorem Eng.strData_regsOnly (e : Eng) (space : BitVec 2) (v : Dword) : e.RegsOnly (e.strData space v) := by
  unfold Eng.strData
  dsimp only
  split
  · exact e.wr_regsOnly _ _
  · exact (e.wr_regsOnly _ _).trans (Eng.wr_regsOnly _ _ _)

/-- A Strings read shows SPACE, ADDR and ERR, and the value where ERR is 0; what the read itself leaves behind is no register. -/
theorem State.strRead_shows (s : State) (src : StringsSrc) (space : BitVec 2) (addr : Dword) :
    ∃ f : Eng, f.regs = s.eng.regs ∧ (s.strRead src space addr).eng =
      if s.eng.strReadErr space addr ≠ 0 then f.strShow space addr (s.eng.strReadErr space addr)
      else (f.strShow space addr (s.eng.strReadErr space addr)).strData space (s.strValue src space addr) := by
  obtain ⟨g, l, x, n, he⟩ := s.readEffect_eq src.path (lowWord addr)
  by_cases hc : s.eng.strReadErr space addr = 0 ∧ space = 0
  · refine ⟨(s.readEffect src.path (lowWord addr)).eng, by rw [he], ?_⟩
    simp only [State.strRead, if_pos hc]
    rfl
  · refine ⟨{ s.eng with free := s.eng.free + 1 }, rfl, ?_⟩
    simp only [State.strRead, if_neg hc]
    rfl

/-- What a Strings read leaves in the registers, whatever it reads. -/
theorem State.strRead_rd_ne (s : State) (src : StringsSrc) (space : BitVec 2) (addr : Dword) {a : Nat}
    (ha : a ∉ Reg.dbgDataLo :: Reg.dbgDataHi :: strShowRegs) : (s.strRead src space addr).eng.rd a = s.eng.rd a := by
  simp only [List.mem_cons, not_or] at ha
  obtain ⟨hl, hh, hs⟩ := ha
  obtain ⟨f, hf, he⟩ := s.strRead_shows src space addr
  have hrd : f.rd a = s.eng.rd a := by rw [Eng.rd, Eng.rd, hf]
  rw [he]
  split
  · rw [Eng.strShow_rd_ne _ _ _ _ hs, hrd]
  · rw [Eng.strData_rd_ne _ _ _ hl hh, Eng.strShow_rd_ne _ _ _ _ hs, hrd]

theorem State.strRead_cmd (s : State) (src : StringsSrc) (space : BitVec 2) (addr : Dword) :
    (s.strRead src space addr).eng.fld Reg.dbgCmd 30 28 = s.eng.strReadErr space addr ∧
      (s.strRead src space addr).eng.fld Reg.dbgCmd 17 16 = space.toNat := by
  obtain ⟨f, -, he⟩ := s.strRead_shows src space addr
  have hlt : s.eng.strReadErr space addr < 8 := by have := s.eng.strReadErr_le space addr; omega
  have hrd : (s.strRead src space addr).eng.rd Reg.dbgCmd = (f.strShow space addr (s.eng.strReadErr space addr)).rd Reg.dbgCmd := by
    rw [he]
    split
    · rfl
    · exact Eng.strData_rd_ne _ _ _ (by decide) (by decide)
  rw [Eng.fld_congr hrd, Eng.fld_congr hrd]
  exact Eng.strShow_cmd f space addr hlt

/-- The data of a Strings read that succeeds. -/
theorem State.strRead_data (s : State) (src : StringsSrc) {space : BitVec 2} {addr : Dword} (h : s.eng.strReadErr space addr = 0) :
    (s.strRead src space addr).eng.rd Reg.dbgDataLo = (s.strValue src space addr).truncate 32 ∧
      (space ≠ 0 → (s.strRead src space addr).eng.pair Reg.dbgDataLo Reg.dbgDataHi = (s.strValue src space addr).toNat) := by
  obtain ⟨f, -, he⟩ := s.strRead_shows src space addr
  rw [he, if_neg (by simpa using h)]
  exact ⟨Eng.strData_low _ _ _, Eng.strData_pair _ _⟩

/-! ## Strings writes -/

/-- A Strings write's SPACE, ADDR, ERR and data in the WX_DBG registers. -/
def Eng.strArgs (space : BitVec 2) (addr data : Dword) (err : Nat) (e : Eng) : Eng := (e.strShow space addr err).strData space data

theorem Eng.strArgs_regsOnly (e : Eng) (space : BitVec 2) (addr data : Dword) (err : Nat) : e.RegsOnly (e.strArgs space addr data err) :=
  (e.strShow_regsOnly space addr err).trans (Eng.strData_regsOnly _ _ _)

theorem Eng.strArgs_rd_ne (e : Eng) (space : BitVec 2) (addr data : Dword) (err : Nat) {a : Nat}
    (ha : a ∉ Reg.dbgDataLo :: Reg.dbgDataHi :: strShowRegs) : (e.strArgs space addr data err).rd a = e.rd a := by
  simp only [List.mem_cons, not_or] at ha
  obtain ⟨hl, hh, hs⟩ := ha
  rw [Eng.strArgs, Eng.strData_rd_ne _ _ _ hl hh, Eng.strShow_rd_ne _ _ _ _ hs]

theorem Eng.strArgs_err (e : Eng) (space : BitVec 2) (addr data : Dword) {err : Nat} (h : err < 8) :
    (e.strArgs space addr data err).fld Reg.dbgCmd 30 28 = err := by
  rw [Eng.strArgs, Eng.fld_congr (Eng.strData_rd_ne _ _ _ (by decide) (by decide)), (Eng.strShow_cmd e space addr h).1]

/-- A Strings write that is refused shows its arguments and ERR. -/
theorem State.strWrite_refused {s : State} (src : StringsSrc) {space : BitVec 2} {addr : Dword} (data : Dword)
    (h : s.eng.strWriteErr space addr ≠ 0) :
    s.strWrite src space addr data = s.onEng fun _ e => e.strArgs space addr data (s.eng.strWriteErr space addr) := by
  simp only [State.strWrite, if_pos h]
  rfl

/-- A Strings write that is not refused shows its arguments (`u`), is performed (`t`), and is logged with the value before and
after. -/
theorem State.strWrite_done {s u t : State} {src : StringsSrc} {space : BitVec 2} {addr data : Dword}
    (h : s.eng.strWriteErr space addr = 0) (hu : u = s.onEng fun _ e => e.strArgs space addr data 0)
    (ht : t = u.strPut src space addr data) :
    (s.strWrite src space addr data).eng =
      ({ t.eng with free := t.eng.free + 1 } : Eng).strLog t.beat src.log (strPart space addr) space.toNat addr.toNat
        (u.strValue src space addr).toNat (if space = 1 then data else t.strValue src space addr).toNat := by
  subst ht hu
  simp only [State.strWrite, h, ne_eq, not_true_eq_false, if_false]
  rfl

theorem Eng.strWriteErr_eq_zero (e : Eng) {space : BitVec 2} {addr : Dword} (ha : strAddrErr space addr = 0) (hs : space ≠ 2) :
    e.strWriteErr space addr = 0 := by
  rw [Eng.strWriteErr, if_neg (not_not.mpr ha), if_neg fun h => hs h.1]

theorem Eng.strWriteErr_running (e : Eng) {addr : Dword} (ha : strAddrErr 2 addr = 0)
    (h1 : (e.ctx (mirrorPart addr) (mirrorCtx addr)).st ≠ .stopped) (h2 : (e.ctx (mirrorPart addr) (mirrorCtx addr)).st ≠ .faulted) :
    e.strWriteErr 2 addr = 3 := by
  rw [Eng.strWriteErr, if_neg (not_not.mpr ha), if_pos ⟨rfl, h1, h2⟩]

theorem State.strPut_rqt (s : State) (src : StringsSrc) {space : BitVec 2} {addr : Dword} (data : Dword) (h : strRqt space addr = true) :
    s.strPut src space addr data = s.onEng fun _ e =>
      { e with rqt := kset 0 e.rqt (lowWord addr) data, rqtBad := e.rqtBad.filter fun w => decide (w ≠ lowWord addr) } := by
  obtain rfl := strRqt_space h
  exact if_pos h

/-! ## The window and the I2C port -/

/-- A write of WX_GLB_SCRATCH stores its word and no other. -/
theorem registerWrite_scratch {s : State} {path : Path} (v : Word) (h : s.eng.gate path Reg.glbScratch = .pass) :
    ∃ t, exec (.registerWrite path (BitVec.ofNat 22 Reg.glbScratch) v true) s = .next t ∧ t.eng.rd Reg.glbScratch = v ∧
      t.eng.resp = ⟨true, 0⟩ ∧ t.beat = s.beat ∧ t.eng.parts = s.eng.parts ∧ t.eng.mem = s.eng.mem ∧
      ∀ b, b ≠ Reg.glbScratch → t.eng.rd b = s.eng.rd b := by
  rw [execRegisterWrite_whole (by decide) (by decide), show (BitVec.ofNat 22 Reg.glbScratch).toNat = Reg.glbScratch by decide,
    windowWrite_scratch h]
  exact ⟨_, rfl, Eng.rd_wr_self _ _ _, rfl, rfl, rfl, rfl, fun b hb => Eng.rd_wr_ne _ _ hb⟩

/-- A write of WX_BEAT_EVENT clears the bits written as 1 and no others. -/
theorem registerWrite_beatEvent {s : State} {path : Path} (v : Word) (h : s.eng.gate path Reg.beatEvent = .pass) :
    ∃ t, exec (.registerWrite path (BitVec.ofNat 22 Reg.beatEvent) v true) s = .next t ∧
      t.eng.rd Reg.beatEvent = s.eng.rd Reg.beatEvent &&& ~~~(v &&& 0x1FF) ∧ ∀ b, b ≠ Reg.beatEvent → t.eng.rd b = s.eng.rd b := by
  rw [execRegisterWrite_whole (by decide) (by decide), show (BitVec.ofNat 22 Reg.beatEvent).toNat = Reg.beatEvent by decide,
    windowWrite_beatEvent h]
  exact ⟨_, rfl, Eng.rd_wr_self _ _ _, fun b hb => Eng.rd_wr_ne _ _ hb⟩

/-- A write at a reserved offset: WX_DBG_CMD, where the ACTIVE core's write drives Strings, is not one. -/
theorem registerWrite_reserved {s : State} {path : Path} {a : BitVec 22} (v : Word) (ha : a.toNat % 4 = 0) (hw : a.toNat < 0x200000)
    (hr : regRow a.toNat = none) :
    exec (.registerWrite path a v true) s =
      .next { s with eng := { s.eng with resp := ⟨decide (s.eng.gate path a.toNat ≠ .slverr), 0⟩ } } := by
  have hd : a.toNat ≠ Reg.dbgCmd := fun h => by
    rw [h] at hr
    exact absurd hr (by decide)
  rw [execRegisterWrite_whole ha hd, windowWrite_reserved hw hr]

/-- A read of WX_BEAT_NOW_LO latches the high word of the same timestamp (R47). -/
theorem readBeatNowLo_latches {s : State} {path : Path} (h : s.eng.readOpen path Reg.beatNowLo = true) :
    ∃ t, exec (.readBeatNowLo path) s = .next t ∧ t.eng.resp = ⟨true, BitVec.ofNat 32 s.beat.stamp⟩ ∧
      t.readWord path Reg.beatNowHi = BitVec.ofNat 32 (s.beat.stamp / 2 ^ 32) := by
  obtain ⟨hresp, hword, -⟩ := State.readAt_latching (s := s) (path := path) (a := Reg.beatNowLo) (by decide) (by decide) (by decide) h
  exact ⟨_, rfl, hresp.trans (by rw [s.regValue_beatNowLo]), hword.trans s.regValue_beatNowHi⟩

/-- A read by the I2C port answers at the pointer, advances it, and changes no register. -/
theorem i2cRead_advances (s : State) :
    ∃ t, exec .i2cRead s = .next t ∧ t.eng.i2cPtr = (s.eng.i2cPtr + 4) % 2 ^ 22 ∧ t.eng.regs = s.eng.regs ∧
      t.eng.out = s.eng.out ++ [.i2c (if s.eng.i2cPtr % 4 = 0 then s.readWord .i2c s.eng.i2cPtr else 0)] := by
  refine ⟨_, rfl, rfl, ?_⟩
  by_cases h : s.eng.i2cPtr % 4 = 0
  · obtain ⟨f, l, x, n, he⟩ := s.readEffect_eq .i2c s.eng.i2cPtr
    simp only [h, if_true, he, State.onEng_eng, and_self]
  · simp only [h, if_false, State.onEng_eng, and_self]

theorem i2cPointerWrite_short {s : State} {l : List Byte} (h : l.length ≠ 4) : exec (.i2cPointerWrite l) s = .next s := by
  show execI2cPointerWrite l s = _
  rw [execI2cPointerWrite, if_neg h]

theorem i2cPointerWrite_sets {s : State} {l : List Byte} (h : l.length = 4) :
    ∃ t, exec (.i2cPointerWrite l) s = .next t ∧ t.eng.i2cPtr = ofLe l % 2 ^ 22 := by
  refine ⟨s.onEng fun _ e => { e with i2cPtr := ofLe l % 2 ^ 22 }, ?_, rfl⟩
  show execI2cPointerWrite l s = _
  rw [execI2cPointerWrite, if_pos h]

/-! ## Update-DR -/

/-- With JTAG_EN 1, BUSY 0 and OP 0, Update-DR writes DATA, ADDR and SPACE, and performs no operation. -/
theorem jtagUpdateDr_loads {s : State} {x : BitVec 160} (hi : s.eng.jtagIr = irStrings) (hj : s.eng.bit Reg.dbgCtrl 0 = true)
    (hb : s.eng.bit Reg.dbgCmd 31 = false) (hop : bitsOf x.toNat 25 24 = 0) :
    ∃ t, exec (.jtagUpdateDr x) s = .next t ∧ t.eng.pair Reg.dbgDataLo Reg.dbgDataHi = bitsOf x.toNat 159 96 ∧
      t.eng.pair Reg.dbgAddrLo Reg.dbgAddrHi = bitsOf x.toNat 95 32 ∧ t.eng.fld Reg.dbgCmd 17 16 = bitsOf x.toNat 17 16 ∧
      t.eng.rd Reg.dbgWrites = s.eng.rd Reg.dbgWrites := by
  have hop' : bitsOf (x.toNat % 2 ^ 32) 25 24 = 0 := by unfold bitsOf at hop ⊢; omega
  have hspace : (BitVec.ofNat 2 (bitsOf (x.toNat % 2 ^ 32) 17 16)).toNat = bitsOf x.toNat 17 16 := by
    rw [BitVec.toNat_ofNat]; unfold bitsOf; omega
  rw [execJtagUpdateDr_open hi hj hb, State.dbgCommand_none hop', hspace]
  have hne : ∀ a, a ≠ Reg.dbgCmd → ∀ e : Eng, (e.setF Reg.dbgCmd 17 16 (bitsOf x.toNat 17 16)).rd a = e.rd a :=
    fun a ha e => Eng.rd_setF_ne e _ _ _ ha
  refine ⟨_, rfl, ?_, ?_, ?_, ?_⟩ <;> simp only [State.onEng_eng]
  · rw [Eng.pair_congr (hne _ (by decide) _) (hne _ (by decide) _), Eng.jtagLoad_data]
  · rw [Eng.pair_congr (hne _ (by decide) _) (hne _ (by decide) _), Eng.jtagLoad_addr]
  · rw [Eng.fld_setF_self _ _ _ (by omega) (by omega), Nat.mod_eq_of_lt (bitsOf_lt _ _ _)]
  · rw [hne _ (by decide), Eng.jtagLoad_rd_ne _ _ (by decide)]
    rfl

/-! ## Strings operations -/

theorem execStringsRead_may {s : State} {src : StringsSrc} (space : BitVec 2) (addr : Dword) (h : s.eng.mayString src = true) :
    exec (.stringsRead src space addr) s = .next (s.strRead src space addr) := by
  show execStringsRead src space addr s = _
  rw [execStringsRead, if_pos h]

theorem execStringsWrite_may {s : State} {src : StringsSrc} (space : BitVec 2) (addr data : Dword) (h : s.eng.mayString src = true) :
    exec (.stringsWrite src space addr data) s = .next (s.strWrite src space addr data) := by
  show execStringsWrite src space addr data s = _
  rw [execStringsWrite, if_pos h]

/-- Nothing happens for one who may not use Strings (R527). -/
theorem execStrings_mayNot {s : State} {src : StringsSrc} (space : BitVec 2) (addr data : Dword) (h : s.eng.mayString src = false) :
    exec (.stringsRead src space addr) s = .next s ∧ exec (.stringsWrite src space addr data) s = .next s := by
  have hn : ¬ s.eng.mayString src = true := by simp [h]
  constructor
  · show execStringsRead src space addr s = _
    rw [execStringsRead, if_neg hn]
  · show execStringsWrite src space addr data s = _
    rw [execStringsWrite, if_neg hn]

/-- A Strings write of a word of the request table stores the word, clears its error and is counted. -/
theorem strWrite_rqt (s : State) (src : StringsSrc) {space : BitVec 2} {addr : Dword} (data : Dword) (hr : strRqt space addr = true)
    (hl : lowWord addr < 24 * 131072) :
    let t := s.strWrite src space addr data
    kget 0 t.eng.rqt (lowWord addr) = data ∧ lowWord addr ∉ t.eng.rqtBad ∧ t.eng.fld Reg.dbgCmd 30 28 = 0 ∧
      (∀ n, n ≠ lowWord addr → kget 0 t.eng.rqt n = kget 0 s.eng.rqt n) ∧
      t.eng.fld Reg.dbgWrites 31 0 = min (s.eng.fld Reg.dbgWrites 31 0 + 1) (2 ^ 32 - 1) := by
  intro t
  have hs2 : space ≠ 2 := by rw [strRqt_space hr]; decide
  obtain ⟨u, hu⟩ : ∃ u, u = s.onEng fun _ e => e.strArgs space addr data 0 := ⟨_, rfl⟩
  have hue : u.eng = s.eng.strArgs space addr data 0 := by rw [hu, State.onEng_eng]
  have hargs : s.eng.RegsOnly u.eng := hue ▸ s.eng.strArgs_regsOnly space addr data 0
  have ht : t.eng = _ := State.strWrite_done (s.eng.strWriteErr_eq_zero (strAddrErr_rqt hr hl) hs2) hu (State.strPut_rqt u src data hr).symm
  rw [ht]
  refine ⟨?_, ?_, ?_, fun n hn => ?_, ?_⟩
  · rw [(Eng.strLog_rqt ..).1]
    exact kget_kset_self _ _ _ _
  · rw [(Eng.strLog_rqt ..).2]
    simp
  · rw [Eng.fld_congr (Eng.strLog_rd_ne _ _ _ _ _ _ _ _ (by decide))]
    show u.eng.fld Reg.dbgCmd 30 28 = 0
    rw [hue, Eng.strArgs_err _ _ _ _ (by omega)]
  · rw [(Eng.strLog_rqt ..).1]
    exact (kget_kset_ne _ _ _ hn).trans (by rw [hargs.rqt])
  · rw [(Eng.strLog_counts ..).1]
    show min (u.eng.fld Reg.dbgWrites 31 0 + 1) _ = _
    rw [Eng.fld_congr (hue ▸ s.eng.strArgs_rd_ne space addr data 0 (by decide))]

/-- A Strings write at the mirror of a context that is neither STOPPED nor FAULTED is refused with ERR 0x3. -/
theorem strWrite_running (s : State) (src : StringsSrc) {addr : Dword} (data : Dword) (ha : strAddrErr 2 addr = 0)
    (h1 : (s.eng.ctx (mirrorPart addr) (mirrorCtx addr)).st ≠ .stopped) (h2 : (s.eng.ctx (mirrorPart addr) (mirrorCtx addr)).st ≠ .faulted) :
    let t := s.strWrite src 2 addr data
    t.eng.fld Reg.dbgCmd 30 28 = 3 ∧ t.eng.parts = s.eng.parts ∧ t.eng.rd Reg.dbgWrites = s.eng.rd Reg.dbgWrites := by
  have he := s.eng.strWriteErr_running ha h1 h2
  rw [State.strWrite_refused src data (by rw [he]; decide), he]
  exact ⟨Eng.strArgs_err _ _ _ _ (by omega), (s.eng.strArgs_regsOnly 2 addr data 3).parts, Eng.strArgs_rd_ne _ _ _ _ _ (by decide)⟩

/-- A user of Strings brings its writes through the gate while BUSY reads 1. -/
theorem Eng.gate_strings {e : Eng} {src : StringsSrc} (hm : e.mayString src = true) (hb : e.bit Reg.dbgCmd 31 = true) (a : Nat) :
    e.gate src.path a = .pass := by
  cases src with
  | mgmt => exact if_pos hm
  | jtag =>
    have hj : e.bit Reg.dbgCtrl 0 = true := hm
    simp only [StringsSrc.path, Eng.gate, hj, hb, Bool.and_self, if_true]

/-- Of the registers, only JTAG_EN bears on who may use Strings. -/
theorem Eng.RegsOnly.mayString {e f : Eng} (h : e.RegsOnly f) (hr : f.rd Reg.dbgCtrl = e.rd Reg.dbgCtrl) (src : StringsSrc) :
    f.mayString src = e.mayString src := by
  cases src with
  | mgmt => simp only [Eng.mayString, Eng.hasActive, h.mcores]
  | jtag => exact Eng.bit_congr hr 0

/-- Through Strings WX_GLB_SCRATCH reads its stored word. -/
theorem State.strValue_scratch {s : State} {src : StringsSrc} {addr : Dword} (ha : addr = BitVec.ofNat 64 Reg.glbScratch)
    (h : s.eng.mayString src = true) : (s.strValue src 0 addr).toNat = (s.eng.rd Reg.glbScratch).toNat := by
  have ho : s.eng.readOpen src.path Reg.glbScratch = true := by
    cases src with
    | mgmt => rfl
    | jtag => exact h
  have hl : lowWord addr = Reg.glbScratch := by rw [ha]; decide
  show ((s.readWord src.path (lowWord addr)).zeroExtend 64).toNat = _
  rw [hl, State.readWord_regValue ho (by decide) (by decide), s.regValue_scratch]
  exact BitVec.toNat_setWidth_of_le (by omega)

/-- WX_GLB_SCRATCH stored while BUSY reads 1, which is 0 again afterwards. -/
def Eng.scratchPut (v : Word) (e : Eng) : Eng := ((e.setF Reg.dbgCmd 31 31 1).wr Reg.glbScratch v).setF Reg.dbgCmd 31 31 0

theorem Eng.scratchPut_regsOnly (e : Eng) (v : Word) : e.RegsOnly (e.scratchPut v) :=
  ((e.setF_regsOnly _ _ _ _).trans (Eng.wr_regsOnly _ _ _)).trans (Eng.setF_regsOnly _ _ _ _ _)

theorem Eng.scratchPut_rd_self (e : Eng) (v : Word) : (e.scratchPut v).rd Reg.glbScratch = v := by
  rw [Eng.scratchPut, Eng.rd_setF_ne _ _ _ _ (by decide), Eng.rd_wr_self]

theorem Eng.scratchPut_rd_ne (e : Eng) (v : Word) {a : Nat} (hc : a ≠ Reg.dbgCmd) (hs : a ≠ Reg.glbScratch) :
    (e.scratchPut v).rd a = e.rd a := by
  rw [Eng.scratchPut, Eng.rd_setF_ne _ _ _ _ hc, Eng.rd_wr_ne _ _ hs, Eng.rd_setF_ne _ _ _ _ hc]

/-- ERR stands while BUSY rises and falls. -/
theorem Eng.scratchPut_err (e : Eng) (v : Word) : (e.scratchPut v).fld Reg.dbgCmd 30 28 = e.fld Reg.dbgCmd 30 28 := by
  rw [Eng.scratchPut, Eng.fld_setF_apart _ _ _ (by omega) (by omega) (by omega), Eng.fld_congr (Eng.rd_wr_ne _ _ (by decide)),
    Eng.fld_setF_apart _ _ _ (by omega) (by omega) (by omega)]

/-- A field set after an answer that is then taken back. -/
theorem Eng.setF_answered {e g : Eng} (h : e.RegsOnly g) (r : Resp) (a hi lo n : Nat) :
    ({ ({ g with resp := r } : Eng).setF a hi lo n with resp := e.resp } : Eng) = g.setF a hi lo n := by obtain ⟨q, rfl⟩ := h; rfl

theorem State.strPut_window (s : State) (src : StringsSrc) (addr data : Dword) :
    s.strPut src 0 addr data =
      let t := windowWrite src.path true (lowWord addr) (data.truncate 32) (s.onEng fun _ e => e.setF Reg.dbgCmd 31 31 1)
      { t with eng := { t.eng.setF Reg.dbgCmd 31 31 0 with resp := s.eng.resp } } := rfl

/-- Performing a Strings write of WX_GLB_SCRATCH stores the word. -/
theorem State.strPut_scratch {s : State} {src : StringsSrc} {addr : Dword} (data : Dword) (ha : addr = BitVec.ofNat 64 Reg.glbScratch)
    (h : s.eng.mayString src = true) : s.strPut src 0 addr data = s.onEng fun _ e => e.scratchPut (data.truncate 32) := by
  obtain ⟨b, hb⟩ : ∃ b, b = s.onEng fun _ e => e.setF Reg.dbgCmd 31 31 1 := ⟨_, rfl⟩
  have hbe : b.eng = s.eng.setF Reg.dbgCmd 31 31 1 := by rw [hb, State.onEng_eng]
  have hregs : s.eng.RegsOnly b.eng := hbe ▸ s.eng.setF_regsOnly _ _ _ _
  have hbusy : b.eng.bit Reg.dbgCmd 31 = true := by
    rw [hbe, Eng.bit_setF_self _ _ _ _ (by omega)]
    rfl
  have hmay : b.eng.mayString src = true := (hregs.mayString (by rw [hbe, Eng.rd_setF_ne _ _ _ _ (by decide)]) src).trans h
  have hl : lowWord addr = Reg.glbScratch := by rw [ha]; decide
  have hrest : ∀ e, ({ b with eng := e } : State) = { s with eng := e } := fun e => by
    rw [hb, State.onEng_pending, State.onEng_beat, State.onEng_flash]
  rw [State.strPut_window, ← hb, hl, windowWrite_scratch (Eng.gate_strings hmay hbusy _)]
  dsimp only
  rw [Eng.setF_answered (hregs.trans (Eng.wr_regsOnly _ _ _)), hrest, hbe, State.onEng, Eng.scratchPut]

/-- A Strings write of WX_GLB_SCRATCH stores the word, and logs it with the word before: `w` is the engine before the log. -/
theorem State.strWrite_scratch_eng {s : State} {src : StringsSrc} {addr : Dword} (data : Dword) (ha : addr = BitVec.ofNat 64 Reg.glbScratch)
    (hm : s.eng.mayString src = true) :
    ∃ w : Eng, w.log = s.eng.log ∧ w.logHeld = s.eng.logHeld ∧
      (∀ a, a ≠ Reg.glbScratch → a ∉ Reg.dbgDataLo :: Reg.dbgDataHi :: strShowRegs → w.rd a = s.eng.rd a) ∧
      w.rd Reg.glbScratch = data.truncate 32 ∧ w.fld Reg.dbgCmd 30 28 = 0 ∧
      (s.strWrite src 0 addr data).eng =
        w.strLog s.beat src.log none 0 addr.toNat (s.eng.rd Reg.glbScratch).toNat (data.truncate 32 : Word).toNat := by
  obtain ⟨u, hu⟩ : ∃ u, u = s.onEng fun _ e => e.strArgs 0 addr data 0 := ⟨_, rfl⟩
  have hue : u.eng = s.eng.strArgs 0 addr data 0 := by rw [hu, State.onEng_eng]
  have hru : s.eng.RegsOnly u.eng := hue ▸ s.eng.strArgs_regsOnly 0 addr data 0
  have hrd_u : ∀ a, a ∉ Reg.dbgDataLo :: Reg.dbgDataHi :: strShowRegs → u.eng.rd a = s.eng.rd a := fun a h => by
    rw [hue, Eng.strArgs_rd_ne _ _ _ _ _ h]
  have hmu : u.eng.mayString src = true := (hru.mayString (hrd_u _ (by decide)) src).trans hm
  obtain ⟨t, ht⟩ : ∃ t, t = u.onEng fun _ e => e.scratchPut (data.truncate 32) := ⟨_, rfl⟩
  have hte : t.eng = u.eng.scratchPut (data.truncate 32) := by rw [ht, State.onEng_eng]
  have hrt : u.eng.RegsOnly t.eng := hte ▸ u.eng.scratchPut_regsOnly _
  have hrd_t : ∀ a, a ≠ Reg.dbgCmd → a ≠ Reg.glbScratch → t.eng.rd a = u.eng.rd a := fun a hc hs => by
    rw [hte, Eng.scratchPut_rd_ne _ _ hc hs]
  have hself : t.eng.rd Reg.glbScratch = data.truncate 32 := by rw [hte, Eng.scratchPut_rd_self]
  have hmt : t.eng.mayString src = true := (hrt.mayString (hrd_t _ (by decide) (by decide)) src).trans hmu
  refine ⟨{ t.eng with free := t.eng.free + 1 }, (hru.trans hrt).log, (hru.trans hrt).logHeld, fun a hs h => ?_, hself, ?_, ?_⟩
  · exact (hrd_t a (fun hc => h (by rw [hc]; decide)) hs).trans (hrd_u a h)
  · show t.eng.fld Reg.dbgCmd 30 28 = 0
    rw [hte, Eng.scratchPut_err, hue, Eng.strArgs_err _ _ _ _ (by omega)]
  · have herr : s.eng.strWriteErr 0 addr = 0 := s.eng.strWriteErr_eq_zero (by rw [ha]; decide) (by decide)
    have hpart : strPart 0 addr = none := by rw [ha]; decide
    have hbeat : t.beat = s.beat := by rw [ht, hu, State.onEng_beat, State.onEng_beat]
    rw [State.strWrite_done herr hu (ht.trans (State.strPut_scratch data ha hmu).symm), State.strValue_scratch ha hmu,
      if_neg (by decide), State.strValue_scratch ha hmt, hself, hrd_u _ (by decide), hpart, hbeat]
    rfl

/-- A Strings write of WX_GLB_SCRATCH is performed, counted and logged with the word before and after. -/
theorem strWrite_scratch {s : State} {src : StringsSrc} {addr : Dword} (data : Dword) (ha : addr = BitVec.ofNat 64 Reg.glbScratch)
    (hm : s.eng.mayString src = true) (hc : s.eng.fld Reg.mgmtHlogCfg 4 0 = 0) (hh : s.eng.logHeld = []) (ho : s.eng.logOcc < logSlots) :
    let t := s.strWrite src 0 addr data
    t.eng.rd Reg.glbScratch = data.truncate 32 ∧ t.eng.fld Reg.dbgCmd 30 28 = 0 ∧
      t.eng.fld Reg.dbgWrites 31 0 = min (s.eng.fld Reg.dbgWrites 31 0 + 1) (2 ^ 32 - 1) ∧ t.eng.fld Reg.dbgStatus 1 0 = src.log ∧
      t.eng.log.length = s.eng.log.length + 1 ∧ (t.eng.log.getLast?).map (fun l => (l.type, l.src, l.payload)) = some (0x07, src.log,
        leBytes 4 0 ++ leBytes 8 addr.toNat ++ leBytes 8 (s.eng.rd Reg.glbScratch).toNat ++ leBytes 8 (data.truncate 32 : Word).toNat) := by
  obtain ⟨w, hlog, hheld, hrd, hself, herr, ht⟩ := State.strWrite_scratch_eng data ha hm
  obtain ⟨l, hl, htype, hsrc, hpay⟩ := Eng.logAdd_log s.beat 0x0007 src.log none
    (leBytes 4 0 ++ leBytes 8 addr.toNat ++ leBytes 8 (s.eng.rd Reg.glbScratch).toNat ++ leBytes 8 (data.truncate 32 : Word).toNat)
    (hheld.trans hh) (by rw [Eng.logOcc_congr hlog (hrd _ (by decide) (by decide))]; exact ho)
    ((Eng.fld_congr (hrd _ (by decide) (by decide)) 4 0).trans hc)
  have hstat : src.log % 4 = src.log := by cases src <;> rfl
  dsimp only
  rw [ht]
  refine ⟨?_, ?_, ?_, ?_, ?_, ?_⟩
  · rw [Eng.strLog_rd_ne _ _ _ _ _ _ _ _ (by decide), hself]
  · rw [Eng.fld_congr (Eng.strLog_rd_ne _ _ _ _ _ _ _ _ (by decide)), herr]
  · rw [(Eng.strLog_counts ..).1, Eng.fld_congr (hrd _ (by decide) (by decide))]
  · rw [(Eng.strLog_counts ..).2, hstat]
  · rw [Eng.strLog_log, hl, hlog, List.length_append, List.length_singleton]
  · rw [Eng.strLog_log, hl, List.getLast?_concat, Option.map_some, htype, hsrc, hpay]

/-! ## The statement -/

/-- What a Strings read shows (R527, R531). -/
theorem stringsRead_shows {s : State} {src : StringsSrc} (space : BitVec 2) (addr : Dword) (h : s.eng.mayString src = true) :
    ∃ t, exec (.stringsRead src space addr) s = .next t ∧ t.eng.fld Reg.dbgCmd 30 28 = s.eng.strReadErr space addr ∧
      t.eng.fld Reg.dbgCmd 17 16 = space.toNat ∧ t.eng.rd Reg.dbgWrites = s.eng.rd Reg.dbgWrites ∧
      (strRqt space addr = false → s.eng.strReadErr space addr = strAddrErr space addr) ∧
      (strRqt space addr = true → lowWord addr < 24 * 131072 → s.strValue src space addr = kget 0 s.eng.rqt (lowWord addr) ∧
        s.eng.strReadErr space addr = if lowWord addr ∈ s.eng.rqtBad then 4 else 0) ∧
      (s.eng.strReadErr space addr = 0 → t.eng.rd Reg.dbgDataLo = (s.strValue src space addr).truncate 32) ∧
      (space ≠ 0 → s.eng.strReadErr space addr = 0 → t.eng.pair Reg.dbgDataLo Reg.dbgDataHi = (s.strValue src space addr).toNat) := by
  obtain ⟨herr, hspace⟩ := s.strRead_cmd src space addr
  exact ⟨_, execStringsRead_may space addr h, herr, hspace, s.strRead_rd_ne src space addr (by decide), s.eng.strReadErr_other,
    fun hr hl => ⟨s.strValue_rqt src hr, s.eng.strReadErr_rqt hr hl⟩, fun h0 => (s.strRead_data src h0).1,
    fun hs h0 => (s.strRead_data src h0).2 hs⟩

/-- Settles O58: each access by the lemma of its port. -/
theorem windowReadsAndWrites : Obligations.WindowReadsAndWrites := by
  unfold Obligations.WindowReadsAndWrites
  refine ⟨fun s path a v => ⟨fun full h => execRegisterWrite_bad h, fun h => ?_, registerWrite_reserved v, registerWrite_scratch v,
    registerWrite_beatEvent v, fun ha hl hn ho => ⟨_, rfl, State.readAt_latching ha hl hn ho⟩, readBeatNowLo_latches⟩,
    fun s l => ⟨i2cPointerWrite_short, i2cPointerWrite_sets, i2cRead_advances s⟩, fun s code x => ⟨?_, fun h => ?_, jtagUpdateDr_loads⟩,
    fun s src space addr data => ⟨execStrings_mayNot space addr data, stringsRead_shows space addr, fun hm hr hl => ?_, ?_, ?_⟩⟩
  · exact congrArg Host.Outcome.next (State.readAt_misaligned h)
  · exact ⟨_, _, _, rfl, rfl, rfl, rfl, rfl, rfl, rfl, rfl, rfl, Eng.jtagCapture_idcode, Eng.jtagCapture_disabled,
      Eng.jtagCapture_strings⟩
  · exact ⟨_, execJtagUpdateDr_closed h, rfl, rfl, rfl⟩
  · exact ⟨_, execStringsWrite_may space addr data hm, strWrite_rqt s src data hr hl⟩
  · rintro hm rfl ha h1 h2
    exact ⟨_, execStringsWrite_may _ addr data hm, strWrite_running s src data ha h1 h2⟩
  · rintro hm rfl ha hc hh ho
    exact ⟨_, execStringsWrite_may _ addr data hm, strWrite_scratch data ha hm hc hh ho⟩

end Sys2Proof.Machine

namespace Sys2Proof.Machine

-- One proof at a time: each one that waits would hold a thread, and each thread the memory of its stack.
set_option Elab.async false

open Sys2Proof

/-! ## Frames of a boundary: what a slot and a partition keep -/

theorem mem_kset {α : Type} [DecidableEq α] {d : α} {m : KMap α} {n : Nat} {v : α} {x : Nat × α} (h : x ∈ kset d m n v) :
    x = (n, v) ∨ x ∈ m ∧ x.1 ≠ n := by
  unfold kset at h
  split at h
  · exact .inr ⟨(List.mem_filter.mp h).1, mem_kdel_ne h⟩
  · rcases mem_kins h with rfl | h
    · exact .inl rfl
    · exact .inr ⟨(List.mem_filter.mp h).1, mem_kdel_ne h⟩

theorem kget_mem {α : Type} (d : α) (m : KMap α) (n : Nat) : kget d m n = d ∨ (n, kget d m n) ∈ m := by
  induction m with
  | nil => exact .inl rfl
  | cons x r ih =>
    obtain ⟨k, v⟩ := x
    by_cases h : k = n
    · subst h; simp [kget]
    · simp only [kget, h, if_false, List.mem_cons]
      exact ih.imp_right .inr

theorem kget_eq_default {α : Type} {d : α} {m : KMap α} {n : Nat} (h : ∀ x ∈ m, x.1 ≠ n) : kget d m n = d :=
  (kget_mem d m n).resolve_right fun hm => h _ hm rfl

/-- Every request listed at a slot has a property. -/
def Eng.EachAt (P : Req → Prop) (n : Nat) (e : Eng) : Prop := ∀ x ∈ e.reqs, x.1 = n → P x.2

theorem Eng.EachAt.req {P : Req → Prop} {n : Nat} {e : Eng} (h : e.EachAt P n) (h0 : P Req.none) : P (e.req n) := by
  rcases kget_mem Req.none e.reqs n with hm | hm
  · show P (kget Req.none e.reqs n)
    rw [hm]; exact h0
  · exact h _ hm rfl

/-- Putting a request at a slot. -/
theorem Eng.EachAt.put {P : Req → Prop} {n : Nat} {e f : Eng} {m : Nat} {v : Req} (hf : f.reqs = kset Req.none e.reqs m v)
    (hv : m = n → P v) (h : e.EachAt P n) : f.EachAt P n := by
  intro x hx hn
  rcases mem_kset (hf ▸ hx) with rfl | ⟨hx, -⟩
  · exact hv hn
  · exact h x hx hn

/-- Changing a request by a function that keeps the property. -/
theorem Eng.EachAt.onReq {P : Req → Prop} {n : Nat} {e : Eng} (h0 : P Req.none) (m : Nat) {g : Req → Req} (hg : ∀ r, P r → P (g r))
    (h : e.EachAt P n) : (e.onReq m g).EachAt P n :=
  h.put rfl fun hm => hg _ (hm ▸ h.req h0)

/-- Changing every request by a function that keeps the property. -/
theorem Eng.EachAt.all {P : Req → Prop} {n : Nat} {e f : Eng} {g : Req → Req} (hf : f.reqs = kmapAll Req.none e.reqs g)
    (hg : ∀ r, P r → P (g r)) (h : e.EachAt P n) : f.EachAt P n := by
  intro x hx hn
  obtain ⟨y, hy, rfl⟩ := List.mem_map.mp (List.mem_filter.mp (hf ▸ hx)).1
  exact hg _ (h y hy hn)

/-- A register that holds neither the STATE of a partition nor its version policy. -/
def QuietReg (a : Nat) : Prop := ∀ p, p < 32 → a ≠ Reg.partStatus p ∧ a ≠ Reg.wlcCtrl p

/-- The registers of a family with one copy for each partition, above those of WX_PART. -/
theorem QuietReg.fam {c : Nat} (q : Nat) (h : 0x28000 ≤ c ∧ c % 0x100 ≠ 0) : QuietReg (c + 0x100 * q) := by
  intro p hp
  constructor
  · show c + 0x100 * q ≠ 0x20004 + 0x400 * p
    omega
  · show c + 0x100 * q ≠ 0x100000 + 0x100 * p
    omega

/-- The registers of WX_PART other than those at offsets 0x004 and, to another partition's eye, 0x000. -/
theorem QuietReg.part {c : Nat} (q : Nat) (h : c % 0x400 ≠ 4 ∧ c % 0x100 ≠ 0) : QuietReg (c + 0x400 * q) := by
  intro p hp
  constructor
  · show c + 0x400 * q ≠ 0x20004 + 0x400 * p
    omega
  · show c + 0x400 * q ≠ 0x100000 + 0x100 * p
    omega

/-- One register that is not of a family. -/
theorem QuietReg.one {a : Nat} (h : ∀ p, p < 32 → a ≠ Reg.partStatus p ∧ a ≠ Reg.wlcCtrl p) : QuietReg a := h


/-- What a boundary's operations keep for partition `p` and slot `n`: the numbers of the steps in flight, that the partition is not
RESETTING, its version policy, PREFILLED and GENERATED of the slot, its STATE (but that an ACTIVE request may return to WAITING), that
no live request stands at the slot, and that none that stands there is in a step. -/
structure Eng.Calm (p : Fin 32) (n : Nat) (e f : Eng) : Prop where
  nums : (f.part p).steps.map (fun s => s.num) = (e.part p).steps.map (fun s => s.num)
  going : e.pstate p ≠ psResetting → f.pstate p ≠ psResetting
  ctrl : f.rd (Reg.wlcCtrl p) = e.rd (Reg.wlcCtrl p)
  word : f.rqw n 5 = e.rqw n 5
  state : f.rstate n = e.rstate n ∨ e.rstate n = rsActive ∧ f.rstate n = rsWaiting
  vacant : e.EachAt (fun r => r.live = false) n → f.EachAt (fun r => r.live = false) n
  landed : e.EachAt (fun r => r.inStep = none) n → f.EachAt (fun r => r.inStep = none) n

section
variable {p : Fin 32} {n : Nat} {e g k : Eng}

theorem Eng.Calm.refl (e : Eng) : e.Calm p n e := ⟨rfl, id, rfl, rfl, .inl rfl, id, id⟩

theorem Eng.Calm.trans (h : e.Calm p n g) (k' : g.Calm p n k) : e.Calm p n k where
  nums := k'.nums.trans h.nums
  going := k'.going ∘ h.going
  ctrl := k'.ctrl.trans h.ctrl
  word := k'.word.trans h.word
  state := by
    rcases h.state with h | ⟨ha, hw⟩
    · rw [← h]; exact k'.state
    · rcases k'.state with k | ⟨ka, -⟩
      · exact .inr ⟨ha, k.trans hw⟩
      · exact absurd (hw.symm.trans ka) (by decide)
  vacant := k'.vacant ∘ h.vacant
  landed := k'.landed ∘ h.landed

/-- A change of fields that Calm does not look at. -/
theorem Eng.Calm.of_eq (h : e.Calm p n g) (hp : k.parts = g.parts) (hr : k.regs = g.regs) (ht : k.rqt = g.rqt) (hq : k.reqs = g.reqs) :
    e.Calm p n k := by
  refine h.trans ⟨?_, ?_, ?_, ?_, .inl ?_, ?_, ?_⟩
  · simp only [Eng.part, hp]
  · simp only [Eng.pstate, Eng.fld, Eng.rd, hr]; exact id
  · simp only [Eng.rd, hr]
  · simp only [Eng.rqw, ht]
  · simp only [Eng.rstate, Eng.rqf, Eng.rqw, ht]
  · simp only [Eng.EachAt, hq]; exact id
  · simp only [Eng.EachAt, hq]; exact id

theorem Eng.Calm.rest (h : e.Calm p n g) (hp : k.parts = g.parts := by rfl) (hr : k.regs = g.regs := by rfl) (ht : k.rqt = g.rqt := by rfl)
    (hq : k.reqs = g.reqs := by rfl) : e.Calm p n k := h.of_eq hp hr ht hq

theorem Eng.Calm.ite {c : Prop} [Decidable c] (h : e.Calm p n g) (h' : e.Calm p n k) : e.Calm p n (if c then g else k) := by
  split
  · exact h
  · exact h'

/-- A choice between engines that carry an answer. -/
theorem Eng.Calm.ite2 {α : Type} {c : Prop} [Decidable c] {x y : α × Eng} (h : e.Calm p n x.2) (h' : e.Calm p n y.2) :
    e.Calm p n (if c then x else y).2 := by
  split
  · exact h
  · exact h'

/-- The engine that stands beside an answer. -/
theorem Eng.Calm.beside {α : Type} {x : α × Eng} {a : α} (h : e.Calm p n x.2) (hx : x = (a, k)) : e.Calm p n k := by
  rw [hx] at h
  exact h

theorem Eng.Calm.before {α : Type} {x : Eng × α} {a : α} (h : e.Calm p n x.1) (hx : x = (k, a)) : e.Calm p n k := by
  rw [hx] at h
  exact h

theorem Eng.Calm.onPart (h : e.Calm p n g) {q : Nat} {f : Partn → Partn}
    (hf : ∀ x, (f x).steps.map (fun s => s.num) = x.steps.map (fun s => s.num) := by exact fun _ => rfl) : e.Calm p n (g.onPart q f) := by
  refine h.trans ⟨?_, id, rfl, rfl, .inl rfl, id, id⟩
  by_cases hq : p.val = q
  · rw [← hq, Eng.part_onPart_self, hf]
  · rw [Eng.part_onPart_ne _ _ hq]

theorem Eng.Calm.onCtx (h : e.Calm p n g) {q c : Nat} {f : Ctx → Ctx} : e.Calm p n (g.onCtx q c f) := h.onPart
theorem Eng.Calm.onStep (h : e.Calm p n g) {q m : Nat} {f : Step → Step} (hf : ∀ s, (f s).num = s.num := by exact fun _ => rfl) :
    e.Calm p n (g.onStep q m f) := h.onPart fun x => by
  simp only [List.map_map]
  exact List.map_congr_left fun s _ => by simp only [Function.comp]; split <;> simp [hf]

theorem Eng.Calm.wr (h : e.Calm p n g) {a : Nat} {v : Word} (ha : QuietReg a := by exact .fam _ (by decide)) : e.Calm p n (g.wr a v) := by
  obtain ⟨hs, hc⟩ := ha p.val p.isLt
  refine h.trans ⟨rfl, ?_, Eng.rd_wr_ne _ _ hc.symm, rfl, .inl rfl, id, id⟩
  simp only [Eng.pstate, Eng.fld, Eng.rd_wr_ne _ _ hs.symm]
  exact id

theorem Eng.Calm.setF (h : e.Calm p n g) {a hi lo v : Nat} (ha : QuietReg a := by exact .fam _ (by decide)) :
    e.Calm p n (g.setF a hi lo v) := h.wr ha
theorem Eng.Calm.ev (h : e.Calm p n g) {a i : Nat} (ha : QuietReg a := by exact .fam _ (by decide)) : e.Calm p n (g.ev a i) := h.wr ha
theorem Eng.Calm.bump (h : e.Calm p n g) {a hi lo c : Nat} (ha : QuietReg a := by exact .fam _ (by decide)) :
    e.Calm p n (g.bump a hi lo c) := h.wr ha
theorem Eng.Calm.bumpWrap (h : e.Calm p n g) {a hi lo c : Nat} (ha : QuietReg a := by exact .fam _ (by decide)) :
    e.Calm p n (g.bumpWrap a hi lo c) := h.wr ha

theorem Eng.Calm.onReq (h : e.Calm p n g) {m : Nat} {f : Req → Req} (hl : ∀ r, r.live = false → (f r).live = false := by exact fun _ h => h)
    (hs : ∀ r, r.inStep = none → (f r).inStep = none := by exact fun _ h => h) : e.Calm p n (g.onReq m f) :=
  h.trans ⟨rfl, id, rfl, rfl, .inl rfl, fun hg => hg.onReq (P := fun r => r.live = false) rfl m hl,
    fun hg => hg.onReq (P := fun r => r.inStep = none) rfl m hs⟩

/-- A change of every request. -/
theorem Eng.Calm.allReqs (h : e.Calm p n g) {f : Req → Req} (hl : ∀ r, (f r).live = r.live := by exact fun _ => rfl)
    (hs : ∀ r, (f r).inStep = r.inStep := by exact fun _ => rfl) : e.Calm p n { g with reqs := kmapAll Req.none g.reqs f } :=
  h.trans ⟨rfl, id, rfl, rfl, .inl rfl, fun hg => hg.all rfl fun r hr => (hl r).trans hr, fun hg => hg.all rfl fun r hr => (hs r).trans hr⟩

theorem Eng.Calm.foldl {α : Type} (h : e.Calm p n g) {f : Eng → α → Eng} {l : List α} (hf : ∀ {g}, ∀ x ∈ l, e.Calm p n g → e.Calm p n (f g x)) :
    e.Calm p n (l.foldl f g) := by
  induction l generalizing g with
  | nil => exact h
  | cons x r ih => exact ih (hf x (by simp) h) fun y hy => hf y (by simp [hy])

/-- A fold that carries the engine with something else. -/
theorem Eng.Calm.foldlOn {α β : Type} (π : β → Eng) {z : β} (h : e.Calm p n (π z)) {f : β → α → β} {l : List α}
    (hf : ∀ {z}, ∀ x ∈ l, e.Calm p n (π z) → e.Calm p n (π (f z x))) : e.Calm p n (π (l.foldl f z)) := by
  induction l generalizing z with
  | nil => exact h
  | cons x r ih => exact ih (hf x (by simp) h) fun y hy => hf y (by simp [hy])

theorem Eng.Calm.logsOnly (h : e.Calm p n g) (k' : g.LogsOnly k) : e.Calm p n k := by
  obtain ⟨⟨r, m, l, w, rfl⟩, hr⟩ := k'
  have hlog : ∀ a ∈ logRegs, QuietReg a := by
    show ∀ a ∈ logRegs, ∀ p, p < 32 → a ≠ Reg.partStatus p ∧ a ≠ Reg.wlcCtrl p
    decide
  have hs : ∀ a, a = Reg.partStatus p ∨ a = Reg.wlcCtrl p → a ∉ logRegs := fun a ha hm =>
    ha.elim (hlog a hm p.val p.isLt).1 (hlog a hm p.val p.isLt).2
  refine h.trans ⟨rfl, ?_, hr _ (hs _ (.inr rfl)), rfl, .inl rfl, id, id⟩
  simp only [Eng.pstate, Eng.fld, hr _ (hs _ (.inl rfl))]
  exact id

end
end Sys2Proof.Machine

namespace Sys2Proof.Machine

set_option Elab.async false

open Sys2Proof

/-! ## Words of the request table -/

theorem Eng.rqw_setRqw_self (e : Eng) (m w : Nat) (v : Dword) : (e.setRqw m w v).rqw m w = v := kget_kset_self _ _ _ _

theorem Eng.rqw_setRqw_ne (e : Eng) {m w k u : Nat} (v : Dword) (hw : w < 24) (hu : u < 24) (h : k ≠ m ∨ u ≠ w) :
    (e.setRqw m w v).rqw k u = e.rqw k u := kget_kset_ne _ _ _ (by omega)

theorem Eng.toNat_rqw_setRqf (e : Eng) (m w v : Nat) {hi lo : Nat} (h : lo ≤ hi + 1) (hh : hi < 64) :
    ((e.setRqf m w hi lo v).rqw m w).toNat = putBits (e.rqw m w).toNat hi lo v := by
  rw [Eng.setRqf, Eng.rqw_setRqw_self, BitVec.toNat_ofNat, Nat.mod_eq_of_lt (putBits_lt v h hh (e.rqw m w).isLt)]

theorem Eng.rqf_setRqf_self (e : Eng) (m w v : Nat) {hi lo : Nat} (h : lo ≤ hi + 1) (hh : hi < 64) :
    (e.setRqf m w hi lo v).rqf m w hi lo = v % 2 ^ (hi + 1 - lo) := by
  rw [Eng.rqf, Eng.toNat_rqw_setRqf e m w v h hh, bitsOf_putBits]

theorem Eng.rqf_setRqf_apart (e : Eng) (m w v : Nat) {hi lo h l : Nat} (hlo : lo ≤ hi + 1) (hh : hi < 64) (hap : h < lo ∨ hi < l) :
    (e.setRqf m w hi lo v).rqf m w h l = e.rqf m w h l := by
  rw [Eng.rqf, Eng.toNat_rqw_setRqf e m w v hlo hh, bitsOf_putBits_apart _ _ hlo hap, Eng.rqf]

theorem Eng.rqf_setRqf_ne (e : Eng) {m w k u : Nat} (hi lo v h l : Nat) (hw : w < 24) (hu : u < 24) (hne : k ≠ m ∨ u ≠ w) :
    (e.setRqf m w hi lo v).rqf k u h l = e.rqf k u h l := by
  rw [Eng.rqf, Eng.setRqf, Eng.rqw_setRqw_ne _ _ hw hu hne, Eng.rqf]

/-- The state of a request once it is set. -/
theorem Eng.rstate_setRstate (e : Eng) (m : Nat) {st : Nat} (h : st < 256) : (e.setRstate m st).rstate m = st :=
  (e.rqf_setRqf_self m 0 st (by omega) (by omega)).trans (Nat.mod_eq_of_lt h)

section
variable {p : Fin 32} {n : Nat} {e g : Eng}

/-- A word of another slot, or one that holds neither STATE nor PREFILLED and GENERATED. -/
theorem Eng.Calm.setRqw (h : e.Calm p n g) {m w : Nat} {v : Dword} (hw : w < 24) (hne : m ≠ n ∨ w ≠ 0 ∧ w ≠ 5) : e.Calm p n (g.setRqw m w v) := by
  refine h.trans ⟨rfl, id, rfl, Eng.rqw_setRqw_ne _ _ hw (by omega) (by omega), .inl ?_, id, id⟩
  rw [Eng.rstate, Eng.rqf, Eng.rqw_setRqw_ne _ _ hw (by omega) (by omega)]
  rfl

theorem Eng.Calm.setRqf (h : e.Calm p n g) {m w hi lo v : Nat} (hw : w < 24) (hne : m ≠ n ∨ w ≠ 0 ∧ w ≠ 5) :
    e.Calm p n (g.setRqf m w hi lo v) := h.setRqw hw hne

/-- A word other than 0 and 5 of any slot. -/
theorem Eng.Calm.setWord (h : e.Calm p n g) {m w hi lo v : Nat} (hw : w < 24 ∧ w ≠ 0 ∧ w ≠ 5 := by exact (by decide)) :
    e.Calm p n (g.setRqf m w hi lo v) := h.setRqw hw.1 (.inr hw.2)

/-- Word 0 of a slot, where it changes STATE no further than an ACTIVE request's return to WAITING. -/
theorem Eng.Calm.setWord0 (h : e.Calm p n g) {m : Nat} {v : Dword}
    (hs : (g.setRqw m 0 v).rstate n = g.rstate n ∨ g.rstate n = rsActive ∧ (g.setRqw m 0 v).rstate n = rsWaiting) :
    e.Calm p n (g.setRqw m 0 v) :=
  h.trans ⟨rfl, id, rfl, Eng.rqw_setRqw_ne _ _ (by omega) (by omega) (by omega), hs, id, id⟩

/-- LAST_STATUS of any slot (R221). -/
theorem Eng.Calm.setStatus (h : e.Calm p n g) {m v : Nat} : e.Calm p n (g.setRqf m 0 23 16 v) := by
  refine h.setWord0 (.inl ?_)
  by_cases hm : n = m
  · subst hm
    exact Eng.rqf_setRqf_apart _ _ _ _ (by omega) (by omega) (by omega)
  · exact Eng.rqf_setRqf_ne _ _ _ _ _ _ (by omega) (by omega) (.inl hm)

/-- STATE of another slot, or that of an ACTIVE request that returns to WAITING. -/
theorem Eng.Calm.setRstate (h : e.Calm p n g) {m v : Nat} (hm : n = m → g.rstate m = rsActive ∧ v = rsWaiting) :
    e.Calm p n (g.setRstate m v) := by
  refine h.setWord0 ?_
  by_cases hn : n = m
  · obtain ⟨ha, hv⟩ := hm hn
    subst hn hv
    exact .inr ⟨ha, g.rstate_setRstate n (by decide)⟩
  · exact .inl (Eng.rqf_setRqf_ne _ _ _ _ _ _ (by omega) (by omega) (.inl hn))

/-! ## Logs, fault records and HALTED -/

theorem Eng.Calm.logAdd (h : e.Calm p n g) {b : BeatUnit} {type src : Nat} {part : Option Nat} {l : List Byte} :
    e.Calm p n (g.logAdd b type src part l) := h.logsOnly (Eng.logAdd_logsOnly b type src part l g)

theorem Eng.engFault_logsOnly (b : BeatUnit) (kind : Nat) (part : Option Nat) (l : List Byte) (e : Eng) :
    e.LogsOnly (e.engFault b kind part l) := (Eng.engFaultRaw_logsOnly b kind part l e).trans (Eng.hlogPump_logsOnly _ _)

theorem Eng.Calm.engFault (h : e.Calm p n g) {b : BeatUnit} {kind : Nat} {part : Option Nat} {l : List Byte} :
    e.Calm p n (g.engFault b kind part l) := h.logsOnly (Eng.engFault_logsOnly b kind part l g)

theorem Eng.Calm.store (h : e.Calm p n g) {a : Nat} {d : List Byte} : e.Calm p n (g.store a d) := h.rest

theorem Eng.sysStore_logsOnly (b : BeatUnit) (a : Nat) (d : List Byte) (e : Eng) : e.LogsOnly (e.sysStore b a d) := by
  unfold Eng.sysStore
  split
  · exact Eng.engFault_logsOnly _ _ _ _ _
  · exact Eng.store_logsOnly _ _ _

theorem Eng.Calm.partEv (h : e.Calm p n g) {q i : Nat} : e.Calm p n (g.partEv q i) := h.ev (.part q (by decide))

theorem Eng.Calm.tenantRec (h : e.Calm p n g) {b : BeatUnit} {q kind ctx pc fault : Nat} {l : List Byte} :
    e.Calm p n (g.tenantRec b q kind ctx pc fault l) := by
  unfold Eng.tenantRec
  dsimp only
  split
  · exact h.bump
  · exact h.store.bumpWrap.partEv

theorem Eng.Calm.memRec (h : e.Calm p n g) {b : BeatUnit} {q a : Nat} {w : Bool} : e.Calm p n (g.memRec b q a w) := by
  unfold Eng.memRec
  split
  · exact h
  · exact h.tenantRec.onPart

theorem Eng.Calm.storeHeader (h : e.Calm p n g) {b : BeatUnit} {q : Nat} {r : Option Nat} : e.Calm p n (g.storeHeader b q r) := by
  unfold Eng.storeHeader
  split
  · exact h.memRec
  · exact h.store

theorem Eng.Calm.storeHeaders (h : e.Calm p n g) {b : BeatUnit} {q st : Nat} : e.Calm p n (g.storeHeaders b q st) :=
  h.onPart.storeHeader.foldl fun _ _ h => h.storeHeader

/-- A partition that halts is not RESETTING. -/
theorem Eng.Calm.setHalted (h : e.Calm p n g) {q : Nat} : e.Calm p n (g.setF (Reg.partStatus q) 1 0 psHalted) := by
  refine h.trans ⟨rfl, fun hg => ?_, Eng.rd_setF_ne _ _ _ _ ?_, rfl, .inl rfl, id, id⟩
  · by_cases hq : p.val = q
    · subst hq
      rw [Eng.pstate, Eng.fld_setF_self _ _ _ (by omega) (by omega)]
      decide
    · rw [Eng.pstate, Eng.fld_congr (Eng.rd_setF_ne _ _ _ _ ?_)]
      · exact hg
      · show 0x20004 + 0x400 * p.val ≠ 0x20004 + 0x400 * q
        omega
  · show 0x100000 + 0x100 * p.val ≠ 0x20004 + 0x400 * q
    omega

theorem Eng.Calm.halt (h : e.Calm p n g) {b : BeatUnit} {q : Nat} : e.Calm p n (g.halt b q) := by
  unfold Eng.halt
  split
  · exact h
  · exact h.setHalted.partEv.onPart.storeHeaders

theorem Eng.Calm.tenantFault (h : e.Calm p n g) {b : BeatUnit} {q kind : Nat} {l : List Byte} : e.Calm p n (g.tenantFault b q kind l) := by
  unfold Eng.tenantFault
  split
  · exact h
  · exact h.tenantRec.halt

theorem Eng.Calm.memFault (h : e.Calm p n g) {b : BeatUnit} {q a : Nat} {w : Bool} : e.Calm p n (g.memFault b q a w) := h.memRec.halt

theorem Eng.Calm.partStore (h : e.Calm p n g) {b : BeatUnit} {q a : Nat} {d : List Byte} : e.Calm p n (g.partStore b q a d) := by
  unfold Eng.partStore
  split
  · exact h.memFault
  · exact h.store

theorem Eng.Calm.partRead (h : e.Calm p n g) {b : BeatUnit} {q a k : Nat} : e.Calm p n (g.partRead b q a k) := by
  unfold Eng.partRead
  split
  · exact h.memFault
  · exact h

/-! ## The issue slot -/

theorem Eng.Calm.showPower (h : e.Calm p n g) {d : Nat} : e.Calm p n (g.showPower d) :=
  ((h.setF (.one (by decide))).setF (.one (by decide))).setF (.one (by decide))

theorem Eng.Calm.ungate (h : e.Calm p n g) {q : Nat} : e.Calm p n (g.ungate q) := by
  unfold Eng.ungate
  split
  · exact Eng.Calm.showPower ((h.setF (a := Reg.pwrGated) (hi := q) (lo := q) (v := 0) (.one (by decide))).rest)
  · exact h

theorem Eng.Calm.dispatch (h : e.Calm p n g) {q : Nat} : e.Calm p n (g.dispatch q) := by
  unfold Eng.dispatch
  split
  · exact h
  · split
    · exact h
    · dsimp only
      split
      · exact h.ungate.onCtx.onPart
      · exact h.ungate.bumpWrap.onCtx.onPart

theorem Eng.Calm.vacate (h : e.Calm p n g) {q c : Nat} : e.Calm p n (g.vacate q c) := by
  unfold Eng.vacate
  split
  · exact h.onPart
  · exact h

theorem Eng.Calm.release (h : e.Calm p n g) {q c : Nat} : e.Calm p n (g.release q c) := h.vacate.dispatch
theorem Eng.Calm.switchOut (h : e.Calm p n g) {q c : Nat} : e.Calm p n (g.switchOut q c) := (h.onCtx.onPart).dispatch

theorem Eng.Calm.preempt (h : e.Calm p n g) {q c : Nat} : e.Calm p n (g.preempt q c) := by
  unfold Eng.preempt
  dsimp only
  split
  · exact h.switchOut
  · exact h.switchOut.bumpWrap

theorem Eng.Calm.postAlert (h : e.Calm p n g) {q m : Nat} : e.Calm p n (g.postAlert q m) := by
  have hclear : e.Calm p n (g.onReq m fun r => { r with alert := none }) := h.onReq
  unfold Eng.postAlert
  split
  · exact h
  · dsimp only
    split
    · exact hclear
    · split
      · exact Eng.Calm.bumpWrap (hclear.onPart (f := fun q => { q with items := _ }))
      · exact h.onPart.ev

theorem Eng.Calm.alertReturn (h : e.Calm p n g) {q m : Nat} : e.Calm p n (g.alertReturn q m) := by
  unfold Eng.alertReturn
  split
  · split
    · exact h.postAlert
    · exact h
  · exact h

/-- A run leaves the open batch as it is discarded (R288): its request returns to WAITING. -/
theorem Eng.Calm.unrun (h : e.Calm p n g) {m : Nat} :
    e.Calm p n { g with
      rqt := if bitsOf (kget 0 g.rqt (24 * m)).toNat 31 24 = 2 then
        kset 0 g.rqt (24 * m) (BitVec.ofNat 64 (putBits (kget 0 g.rqt (24 * m)).toNat 31 24 1)) else g.rqt
      reqs := kmod Req.none g.reqs m fun x => { x with inBatch := false } } := by
  have hreq : e.Calm p n (g.onReq m fun x => { x with inBatch := false }) := h.onReq
  by_cases ha : bitsOf (kget 0 g.rqt (24 * m)).toNat 31 24 = 2
  · rw [if_pos ha]
    exact (hreq.setRstate fun _ => ⟨ha, rfl⟩).rest
  · rw [if_neg ha]
    exact hreq

theorem Eng.Calm.discardBatch (h : e.Calm p n g) {q : Nat} : e.Calm p n (g.discardBatch q) := by
  unfold Eng.discardBatch
  split
  · exact h
  · exact ((h.foldl fun _ _ h => h.unrun).onPart).foldl fun _ _ h => h.alertReturn

theorem Eng.Calm.faultOnly (h : e.Calm p n g) {b : BeatUnit} {q c kind operand detail : Nat} {l : List Byte} :
    e.Calm p n (g.faultOnly b q c kind operand detail l) := by
  have hdrop : e.Calm p n (if g.ownsBatch q c then g.discardBatch q else g) := .ite h.discardBatch h
  exact (Eng.Calm.ite hdrop.onCtx hdrop.onCtx.tenantRec.partEv).vacate

/-! ## Instruction boundaries -/

theorem Eng.Calm.putCell (h : e.Calm p n g) {m : Nat} {v : Word} {s : Option Bool} : e.Calm p n (g.putCell m v s) := by
  unfold Eng.putCell
  split
  · exact h.rest
  · exact h.rest

theorem Eng.Calm.withdraw (h : e.Calm p n g) {b : BeatUnit} {q c : Nat} {r : StopReq} : e.Calm p n (g.withdraw b q c r) := by
  unfold Eng.withdraw
  split
  · split
    · exact h
    · exact Eng.Calm.onCtx (h.rest (k := g.onCell _ _))
  · exact h.onPart.onCtx
  · exact h

theorem Eng.Calm.zeroPrivates (h : e.Calm p n g) {q c : Nat} {s : Bool} : e.Calm p n (g.zeroPrivates q c s) :=
  h.foldl fun _ _ h => h.putCell

theorem Eng.Calm.stopCtx (h : e.Calm p n g) {b : BeatUnit} {q c : Nat} {r : StopReq} : e.Calm p n (g.stopCtx b q c r) := by
  have hdrop : e.Calm p n (if r ≠ .stop ∧ (g.withdraw b q c r).ownsBatch q c then (g.withdraw b q c r).discardBatch q else g.withdraw b q c r) := by
    split
    · exact h.withdraw.discardBatch
    · exact h.withdraw
  unfold Eng.stopCtx
  dsimp only
  split
  · exact hdrop.zeroPrivates.onCtx
  · exact hdrop.onCtx
  · exact hdrop.onCtx

theorem Eng.Calm.boundary (h : e.Calm p n g) {b : BeatUnit} {q c : Nat} : e.Calm p n (g.boundary b q c) := by
  unfold Eng.boundary
  dsimp only
  split
  · exact h.stopCtx.release
  · split
    · exact h.release
    · split
      · exact h.preempt
      · exact h.dispatch

theorem Eng.Calm.complete (h : e.Calm p n g) {q c : Nat} {f : Ctx → Ctx} : e.Calm p n (g.complete q c f) := h.onCtx
theorem Eng.Calm.finish (h : e.Calm p n g) {b : BeatUnit} {q c : Nat} {f : Ctx → Ctx} : e.Calm p n (g.finish b q c f) := h.complete.boundary

/-! ## Ledgers -/

theorem Eng.Calm.charge (h : e.Calm p n g) {q i k : Nat} : e.Calm p n (g.charge q i k) := by
  unfold Eng.charge
  dsimp only
  split
  · exact h.rest
  · exact Eng.Calm.ev (Eng.Calm.bump h.rest)

theorem Eng.Calm.ledgOne {x : List (LedgOp × Option Dword) × Eng} (h : e.Calm p n x.2) (o : LedgOp) : e.Calm p n (ledgOne x o).2 := by
  unfold Machine.ledgOne
  dsimp only
  split
  · exact h
  · exact h.rest
  · exact h.charge
  · split
    · exact h.charge
    · exact h

theorem Eng.Calm.ledgFirst (h : e.Calm p n g) {i row : Nat} : e.Calm p n (g.ledgFirst i row).2 :=
  Eng.Calm.foldlOn (fun x : List (LedgOp × Option Dword) × Eng => x.2) h.rest fun o _ h => h.ledgOne o

theorem Eng.Calm.ledgRest (h : e.Calm p n g) {b : BeatUnit} {i : Nat} {l : List (LedgOp × Option Dword)} : e.Calm p n (g.ledgRest b i l) :=
  (h.ledgFirst (i := i) (row := 8)).foldl fun _ _ h => by
    split
    · exact h.finish
    · exact h

theorem Eng.Calm.ledgCycle (h : e.Calm p n g) {b : BeatUnit} {i row : Nat} {f : Eng → Eng} (hf : ∀ {g}, e.Calm p n g → e.Calm p n (f g)) :
    e.Calm p n (g.ledgCycle b i row f) := (hf h.ledgFirst).ledgRest

end
end Sys2Proof.Machine

namespace Sys2Proof.Machine

set_option Elab.async false

open Sys2Proof

/-! ## What Basin changes as pages and blocks are released (R231 to R243) -/

/-- The engine after no more than pages, nodes and list blocks change hands: of its fields only the page records, the nodes, the free
lists and the eviction lists differ, with what the writes to host memory may log. -/
structure Eng.BasinOnly (e f : Eng) : Prop where
  fields : ∃ r m l w pg nd ps, f = { e with regs := r, mem := m, log := l, logHeld := w, pages := pg, nodes := nd, parts := ps }
  rd : ∀ a, a ∉ logRegs → f.rd a = e.rd a
  part : ∀ q, ∃ a c d, f.part q = { e.part q with freePages := a, lru := c, freeBlocks := d }

section
variable {e g : Eng}

theorem Eng.BasinOnly.refl (e : Eng) : e.BasinOnly e := ⟨⟨_, _, _, _, _, _, _, rfl⟩, fun _ _ => rfl, fun _ => ⟨_, _, _, rfl⟩⟩

theorem Eng.BasinOnly.trans {k : Eng} (h : e.BasinOnly g) (k' : g.BasinOnly k) : e.BasinOnly k := by
  obtain ⟨⟨r, m, l, w, pg, nd, ps, hg⟩, hr, hp⟩ := h
  obtain ⟨⟨r', m', l', w', pg', nd', ps', hk⟩, kr, kp⟩ := k'
  refine ⟨⟨r', m', l', w', pg', nd', ps', by rw [hk, hg]⟩, fun a ha => (kr a ha).trans (hr a ha), fun q => ?_⟩
  obtain ⟨a, c, d, hq⟩ := hp q
  obtain ⟨a', c', d', kq⟩ := kp q
  exact ⟨a', c', d', by rw [kq, hq]⟩

theorem Eng.BasinOnly.sysStore (h : e.BasinOnly g) {b : BeatUnit} {a : Nat} {d : List Byte} : e.BasinOnly (g.sysStore b a d) := by
  obtain ⟨⟨r, m, l, w, hf⟩, hr⟩ := Eng.sysStore_logsOnly b a d g
  exact h.trans ⟨⟨r, m, l, w, _, _, _, hf⟩, hr, fun q => ⟨_, _, _, by rw [hf]; rfl⟩⟩

theorem Eng.BasinOnly.onPart (h : e.BasinOnly g) {q : Nat} {f : Partn → Partn}
    (hf : ∀ x, ∃ a c d, f x = { x with freePages := a, lru := c, freeBlocks := d }) : e.BasinOnly (g.onPart q f) := by
  refine h.trans ⟨⟨_, _, _, _, _, _, _, rfl⟩, fun _ _ => rfl, fun k => ?_⟩
  by_cases hk : k = q
  · rw [hk, Eng.part_onPart_self]
    exact hf _
  · rw [Eng.part_onPart_ne _ _ hk]
    exact ⟨_, _, _, rfl⟩

theorem Eng.BasinOnly.foldl {α : Type} (h : e.BasinOnly g) {f : Eng → α → Eng} {l : List α}
    (hf : ∀ {g} x, e.BasinOnly g → e.BasinOnly (f g x)) : e.BasinOnly (l.foldl f g) := by
  induction l generalizing g with
  | nil => exact h
  | cons x r ih => exact ih (hf x h)

theorem Eng.BasinOnly.setPage (h : e.BasinOnly g) {b : BeatUnit} {k : Nat} {f : PageRec → PageRec} : e.BasinOnly (g.setPage b k f) :=
  (h.trans ⟨⟨_, _, _, _, _, _, _, rfl⟩, fun _ _ => rfl, fun _ => ⟨_, _, _, rfl⟩⟩ : e.BasinOnly { g with pages := kmod PageRec.free g.pages k f }).sysStore

theorem Eng.BasinOnly.setNode (h : e.BasinOnly g) {k : Nat} {f : Node → Node} : e.BasinOnly (g.setNode k f) :=
  h.trans ⟨⟨_, _, _, _, _, _, _, rfl⟩, fun _ _ => rfl, fun _ => ⟨_, _, _, rfl⟩⟩

theorem Eng.BasinOnly.showNodes (h : e.BasinOnly g) {b : BeatUnit} {q : Nat} {l : List Nat} : e.BasinOnly (g.showNodes b q l) :=
  h.foldl fun _ h => h.sysStore

theorem Eng.BasinOnly.joinFree (h : e.BasinOnly g) {b : BeatUnit} {q k : Nat} : e.BasinOnly (g.joinFree b q k) := by
  unfold Eng.joinFree
  dsimp only
  refine Eng.BasinOnly.onPart (Eng.BasinOnly.setPage ?_) fun _ => ⟨_, _, _, rfl⟩
  split
  · exact h.setPage
  · exact h

theorem Eng.BasinOnly.setLru (h : e.BasinOnly g) {b : BeatUnit} {q k : Nat} {f : List Nat → List Nat} : e.BasinOnly (g.setLru b q k f) :=
  (h.onPart fun _ => ⟨_, _, _, rfl⟩).showNodes

theorem Eng.BasinOnly.lruAdd (h : e.BasinOnly g) {b : BeatUnit} {q k : Nat} {hd : Bool} : e.BasinOnly (g.lruAdd b q k hd) := h.setLru

theorem Eng.BasinOnly.lruDrop (h : e.BasinOnly g) {b : BeatUnit} {q k : Nat} : e.BasinOnly (g.lruDrop b q k) := by
  unfold Eng.lruDrop
  split
  · exact h.setLru
  · exact h

theorem Eng.BasinOnly.releasePages (h : e.BasinOnly g) {b : BeatUnit} {q : Nat} {l : List Nat} : e.BasinOnly (g.releasePages b q l) := by
  refine Eng.BasinOnly.foldl (Eng.BasinOnly.foldl h fun k h => ?_) fun _ h => h.joinFree
  dsimp only
  split
  · split
    · split
      · exact h.setPage.lruAdd
      · exact h.setPage
    · exact h.setPage
  · exact h.setPage

theorem Eng.BasinOnly.dropList (h : e.BasinOnly g) {b : BeatUnit} {q : Nat} {l : OldList} : e.BasinOnly (g.dropList b q l) :=
  h.releasePages.onPart fun _ => ⟨_, _, _, rfl⟩

theorem Eng.BasinOnly.treeRelease (h : e.BasinOnly g) {b : BeatUnit} {q k : Nat} : e.BasinOnly (g.treeRelease b q k) := by
  unfold Eng.treeRelease
  dsimp only
  split
  · exact h.setPage.joinFree
  · exact h.setPage

theorem Eng.BasinOnly.unlink (h : e.BasinOnly g) {b : BeatUnit} {q k : Nat} : e.BasinOnly (g.unlink b q k) := h.setNode.showNodes
theorem Eng.BasinOnly.adopt (h : e.BasinOnly g) {b : BeatUnit} {q m k : Nat} : e.BasinOnly (g.adopt b q m k) := h.setNode.lruDrop.showNodes

end

section
variable {p : Fin 32} {n : Nat} {e g : Eng}

theorem Eng.Calm.basin (h : e.Calm p n g) {k : Eng} (k' : g.BasinOnly k) : e.Calm p n k := by
  obtain ⟨⟨r, m, l, w, pg, nd, ps, rfl⟩, hr, hp⟩ := k'
  obtain ⟨a, c, d, hq⟩ := hp p
  have hlog := (Eng.Calm.refl (p := p) (n := n) g).logsOnly (k := { g with regs := r, mem := m, log := l, logHeld := w }) ⟨⟨r, m, l, w, rfl⟩, hr⟩
  exact h.trans ⟨by rw [hq], hlog.going, hlog.ctrl, rfl, .inl rfl, id, id⟩

/-! ## Page lists (R235 to R243) -/

theorem Eng.Calm.setPage (h : e.Calm p n g) {b : BeatUnit} {k : Nat} {f : PageRec → PageRec} : e.Calm p n (g.setPage b k f) :=
  h.basin (Eng.BasinOnly.refl g).setPage
theorem Eng.Calm.showNodes (h : e.Calm p n g) {b : BeatUnit} {q : Nat} {l : List Nat} : e.Calm p n (g.showNodes b q l) :=
  h.basin (Eng.BasinOnly.refl g).showNodes
theorem Eng.Calm.setNode (h : e.Calm p n g) {k : Nat} {f : Node → Node} : e.Calm p n (g.setNode k f) := h.rest
theorem Eng.Calm.dropList (h : e.Calm p n g) {b : BeatUnit} {q : Nat} {l : OldList} : e.Calm p n (g.dropList b q l) :=
  h.basin (Eng.BasinOnly.refl g).dropList
theorem Eng.Calm.lruAdd (h : e.Calm p n g) {b : BeatUnit} {q k : Nat} {hd : Bool} : e.Calm p n (g.lruAdd b q k hd) :=
  h.basin (Eng.BasinOnly.refl g).lruAdd
theorem Eng.Calm.lruDrop (h : e.Calm p n g) {b : BeatUnit} {q k : Nat} : e.Calm p n (g.lruDrop b q k) :=
  h.basin (Eng.BasinOnly.refl g).lruDrop
theorem Eng.Calm.treeRelease (h : e.Calm p n g) {b : BeatUnit} {q k : Nat} : e.Calm p n (g.treeRelease b q k) :=
  h.basin (Eng.BasinOnly.refl g).treeRelease
theorem Eng.Calm.unlink (h : e.Calm p n g) {b : BeatUnit} {q k : Nat} : e.Calm p n (g.unlink b q k) :=
  h.basin (Eng.BasinOnly.refl g).unlink
theorem Eng.Calm.adopt (h : e.Calm p n g) {b : BeatUnit} {q m k : Nat} : e.Calm p n (g.adopt b q m k) :=
  h.basin (Eng.BasinOnly.refl g).adopt

theorem Eng.Calm.dropCopy (h : e.Calm p n g) {b : BeatUnit} {q m : Nat} : e.Calm p n (g.dropCopy b q m) := by
  unfold Eng.dropCopy
  split
  · exact h
  · exact (h.basin (Eng.BasinOnly.refl g).releasePages).onReq

theorem Eng.Calm.dropPages (h : e.Calm p n g) {b : BeatUnit} {q m : Nat} : e.Calm p n (g.dropPages b q m) := by
  unfold Eng.dropPages
  dsimp only
  refine Eng.Calm.onReq ?_
  split
  · split
    · exact h.dropCopy.onStep
    · exact h.dropCopy.dropList
  · exact h.dropCopy.dropList

theorem Eng.Calm.allocBlock (h : e.Calm p n g) {q : Nat} : e.Calm p n (g.allocBlock q).2 := by
  unfold Eng.allocBlock
  dsimp only
  split
  · exact h.onPart
  · split
    · exact h.onPart
    · exact h

theorem Eng.Calm.listPut (h : e.Calm p n g) {b : BeatUnit} {q k i v : Nat} : e.Calm p n (g.listPut b q k i v) := h.partStore
theorem Eng.Calm.showList (h : e.Calm p n g) {m lp sh : Nat} : e.Calm p n (g.showList m lp sh) := h.setRqw (by decide) (.inr (by decide))

theorem Eng.Calm.listAdd (h : e.Calm p n g) {b : BeatUnit} {q m k x : Nat} : e.Calm p n (g.listAdd b q m k x).2 := by
  have ha := h.allocBlock (q := q)
  unfold Eng.listAdd
  dsimp only
  refine .ite2 (Eng.Calm.ev (Eng.Calm.ite2 ?_ h)) (Eng.Calm.showList (Eng.Calm.listPut (Eng.Calm.onReq (Eng.Calm.ite2 ?_ h))))
  all_goals
    split
    next g' hblock => exact ha.beside hblock
    next k' g' hblock => exact (ha.beside hblock).onReq.listPut

theorem Eng.Calm.startList (h : e.Calm p n g) {b : BeatUnit} {q m : Nat} {lp : Option Nat} : e.Calm p n (g.startList b q m lp) := by
  unfold Eng.startList
  split
  next d g1 hblock =>
  have h1 : e.Calm p n g1 := h.allocBlock.beside hblock
  extract_lets g2 pages fill g3 g4
  have h2 : e.Calm p n g2 := h1.onReq
  have h3 : e.Calm p n g3 := h2.foldl fun _ _ h => h.setPage
  have h4 : e.Calm p n g4 := h3.foldl fun _ _ h => h.listAdd
  exact h4.showList

/-! ## The prefix tree (R244 to R252) -/

theorem Eng.Calm.allocNode (h : e.Calm p n g) {q : Nat} : e.Calm p n (g.allocNode q).2 := by
  refine .ite2 h.onPart ?_
  split
  · exact h.onPart
  · exact h

theorem Eng.Calm.freeNode (h : e.Calm p n g) {b : BeatUnit} {q k : Nat} : e.Calm p n (g.freeNode b q k) :=
  (h.lruDrop.setNode.onPart.allReqs).showNodes

theorem Eng.Calm.climb (h : e.Calm p n g) {b : BeatUnit} {q fuel k : Nat} : e.Calm p n (g.climb b q fuel k) := by
  induction fuel generalizing g k with
  | zero => exact h
  | succ fuel ih =>
    unfold Eng.climb
    dsimp only
    split
    · exact h
    · split
      · exact .ite h.lruAdd h
      · exact ih h.unlink.freeNode

theorem Eng.Calm.evictNode (h : e.Calm p n g) {b : BeatUnit} {q k : Nat} : e.Calm p n (g.evictNode b q k) := by
  unfold Eng.evictNode
  dsimp only
  refine Eng.Calm.climb (Eng.Calm.bumpWrap ?_)
  split
  · exact h.unlink.freeNode.treeRelease
  · exact h.unlink.freeNode

theorem Eng.Calm.evict (h : e.Calm p n g) {b : BeatUnit} {q : Nat} {k : Eng} (hk : g.evict b q = some k) : e.Calm p n k := by
  obtain ⟨m, -, rfl⟩ := Option.map_eq_some_iff.mp hk
  exact h.evictNode

theorem Eng.Calm.treeErr (h : e.Calm p n g) {b : BeatUnit} {q k : Nat} : e.Calm p n (g.treeErr b q k) := by
  refine Eng.Calm.ev (Eng.Calm.climb (Eng.Calm.foldl ?_ fun _ _ h => h.treeRelease))
  exact h.unlink.foldl fun _ _ h => h.freeNode

theorem Eng.Calm.makeNodes (h : e.Calm p n g) {b : BeatUnit} {q need fuel : Nat} : e.Calm p n (g.makeNodes b q need fuel) := by
  induction fuel generalizing g with
  | zero => exact h
  | succ fuel ih =>
    unfold Eng.makeNodes
    split
    · exact h
    · split
      next k hk => exact ih (h.evict hk)
      next => exact h

theorem Eng.Calm.setRoot (h : e.Calm p n g) {q m v : Nat} (hm : m < 8) : e.Calm p n (g.setF (Reg.pageRoot q m) 27 0 v) := by
  refine h.setF fun k hk => ⟨?_, ?_⟩
  · show 0x80080 + 0x100 * q + 4 * m ≠ 0x20004 + 0x400 * k
    omega
  · show 0x80080 + 0x100 * q + 4 * m ≠ 0x100000 + 0x100 * k
    omega

theorem Eng.Calm.rootOf (h : e.Calm p n g) {b : BeatUnit} {q m : Nat} (hm : m < 8) : e.Calm p n (g.rootOf b q m).2 := by
  have hnodes : e.Calm p n (g.makeNodes b q 1 70000) := h.makeNodes
  refine .ite2 h ?_
  split
  next g1 hnode => exact (hnodes.allocNode.beside hnode).ev
  next k g1 hnode =>
    have h1 : e.Calm p n g1 := hnodes.allocNode.beside hnode
    exact (h1.setNode.setRoot hm).showNodes

theorem Eng.Calm.visit (h : e.Calm p n g) {k : Nat} : e.Calm p n (g.visit k).2 := by
  have hd : e.Calm p n g.drawFree.2 := h.rest
  unfold Eng.visit
  dsimp only
  split
  · exact hd.bumpWrap (.one (by decide))
  · exact hd.bumpWrap (.one (by decide))

theorem Eng.Calm.findKid (h : e.Calm p n g) {key : Nat} {l : List Nat} : e.Calm p n (Eng.findKid key l g).2.2 := by
  induction l generalizing g with
  | nil => exact h
  | cons k r ih =>
    have hv := h.visit (k := k)
    unfold Eng.findKid
    split
    next ok g' hvis =>
      rw [hvis] at hv
      split
      · exact hv
      · split
        · exact hv
        · split
          · exact hv
          · exact ih hv

theorem Eng.Calm.walkTree (h : e.Calm p n g) {tok : Nat → Nat} {limit fuel k : Nat} {w : Walk} :
    e.Calm p n (Eng.walkTree tok limit fuel k w g).2 := by
  induction fuel generalizing g k w with
  | zero => exact h
  | succ fuel ih =>
    have hk := h.findKid (key := tok w.pos) (l := (g.node k).kids)
    unfold Eng.walkTree
    split
    · exact h
    · split
      next g' hkid => rw [hkid] at hk; exact hk
      next g' hkid => rw [hkid] at hk; exact hk
      next k' g' hkid =>
        rw [hkid] at hk
        dsimp only
        split
        · exact ih hk
        · exact hk

theorem Eng.Calm.readTokens (h : e.Calm p n g) {b : BeatUnit} {q a i k : Nat} : e.Calm p n (g.readTokens b q a i k) := by
  unfold Eng.readTokens
  split
  · exact h.memFault
  · exact h

theorem Eng.Calm.setPath (h : e.Calm p n g) {m : Nat} {l : List Nat} : e.Calm p n (g.setPath m l) := h.onReq

theorem Eng.Calm.addChain (h : e.Calm p n g) {b : BeatUnit} {q m k : Nat} {l : List (List Nat)} {off under : Nat} :
    e.Calm p n (g.addChain b q m k l off under) := by
  induction l generalizing g off under with
  | nil => exact h
  | cons c r ih =>
    unfold Eng.addChain
    split
    next g1 hnode => exact h.allocNode.beside hnode
    next k g1 hnode =>
      have h1 : e.Calm p n g1 := h.allocNode.beside hnode
      extract_lets base g2 g3
      have h2 : e.Calm p n g2 := h1.setNode
      have h3 : e.Calm p n g3 := h2.adopt
      exact ih h3.setPath

theorem Eng.Calm.splitNode (h : e.Calm p n g) {b : BeatUnit} {q k m : Nat} : e.Calm p n (g.splitNode b q k m) := by
  unfold Eng.splitNode
  split
  next g1 hnode => exact h.allocNode.beside hnode
  next k g1 hnode =>
    have h1 : e.Calm p n g1 := h.allocNode.beside hnode
    extract_lets x lower onLru g2 g3 g4 g5
    have h2 : e.Calm p n g2 := h1.setNode.setNode
    have h3 : e.Calm p n g3 := h2.foldl fun _ _ h => h.setNode
    have h4 : e.Calm p n g4 := h3.allReqs
    have h5 : e.Calm p n g5 := .ite h4.onPart h4
    exact h5.showNodes

theorem Eng.Calm.ensureLevel1 (h : e.Calm p n g) {b : BeatUnit} {q m key : Nat} (hm : m < 8) : e.Calm p n (g.ensureLevel1 b q m key).2 := by
  unfold Eng.ensureLevel1
  split
  · exact h
  · split
    next g1 hroot => exact (h.rootOf hm).beside hroot
    next r g1 hroot =>
      have h1 : e.Calm p n g1 := (h.rootOf hm).beside hroot
      split
      next g2 hnode => exact (h1.allocNode.beside hnode).ev
      next k g2 hnode =>
        have h2 : e.Calm p n g2 := h1.allocNode.beside hnode
        extract_lets base g3
        have h3 : e.Calm p n g3 := h2.setNode
        exact h3.adopt

theorem Eng.rmodel_lt (e : Eng) (m : Nat) : e.rmodel m < 8 := bitsOf_lt _ _ _

end
end Sys2Proof.Machine

namespace Sys2Proof.Machine

set_option Elab.async false

open Sys2Proof

section
variable {p : Fin 32} {n : Nat} {e g k : Eng}

theorem Eng.Calm.insertPage (h : e.Calm p n g) {b : BeatUnit} {q m k x fuel : Nat} : e.Calm p n (g.insertPage b q m k x fuel) := by
  induction fuel generalizing g with
  | zero => exact h.ev
  | succ fuel ih =>
    unfold Eng.insertPage
    extract_lets pt m' lp addr stop
    split
    next path pos hpath =>
    split
    next w g1 hwalk =>
    have hw : e.Calm p n g1 := by
      split at hwalk
      · exact h.beside hwalk
      · exact h.walkTree.beside hwalk
    split
    next j hbad => exact ih hw.treeErr
    next hbad =>
      extract_lets g2 rest cs part tops need
      clear_value part
      have h2 : e.Calm p n g2 := hw.setPath
      split
      · exact h2
      · split
        · split
          · exact h2.ev
          · exact ih h2.makeNodes
        · split
          next top g3 htop =>
          have h3 : e.Calm p n g3 := by
            split at htop
            · exact h2.beside htop
            · exact (h2.ensureLevel1 (g.rmodel_lt m)).beside htop
          split
          · exact h3
          · extract_lets g4
            have h4 : e.Calm p n g4 := .ite h3.setPath h3
            split
            next under g5 hunder =>
            have h5 : e.Calm p n g5 := by
              split at hunder
              · exact h4.splitNode.setPath.beside hunder
              · exact h4.beside hunder
            exact Eng.Calm.bumpWrap (Eng.Calm.addChain h5.setPage)

theorem Eng.Calm.insertPages (h : e.Calm p n g) {b : BeatUnit} {q m old : Nat} : e.Calm p n (g.insertPages b q m old) :=
  h.foldl fun _ _ h => by
    split
    · exact h.readTokens.insertPage
    · exact h

/-! ## Measurements and alerts (R292 to R298) -/

theorem Eng.Calm.worst (h : e.Calm p n g) {a hi lo m : Nat} (ha : QuietReg a := by exact .fam _ (by decide)) :
    e.Calm p n (g.worst a hi lo m) := h.setF ha

theorem Eng.Calm.bumpRqf (h : e.Calm p n g) {m w hi lo : Nat} (hw : w < 24 ∧ w ≠ 0 ∧ w ≠ 5 := by exact (by decide)) :
    e.Calm p n (g.bumpRqf m w hi lo) := h.setWord hw

theorem Eng.Calm.measureFirst (h : e.Calm p n g) {b : BeatUnit} {q m : Nat} : e.Calm p n (g.measureFirst b q m) := by
  unfold Eng.measureFirst
  extract_lets t g1 g2 g3 g4
  have h1 : e.Calm p n g1 := Eng.Calm.setWord (h.setRqw (by decide) (.inr (by decide)))
  have h3 : e.Calm p n g3 := .ite h1.worst.setWord h1.worst
  exact (Eng.Calm.ite h3.bump (.ite h3.setWord.bump.ev h3)).onReq

theorem Eng.Calm.disarm (h : e.Calm p n g) {q m : Nat} : e.Calm p n (g.disarm q m) := .ite h h.onReq.onPart

theorem Eng.Calm.measure (h : e.Calm p n g) {b : BeatUnit} {q m : Nat} : e.Calm p n (g.measure b q m) := by
  unfold Eng.measure
  extract_lets first g1 g2
  have h1 : e.Calm p n g1 := .ite h.measureFirst h
  exact (Eng.Calm.ite h1.disarm h1).onReq

theorem Eng.Calm.armAlert (h : e.Calm p n g) {q m kind target start : Nat} : e.Calm p n (g.armAlert q m kind target start) := .ite h h.onReq

theorem Eng.Calm.measureStep (h : e.Calm p n g) {q m : Nat} {c : Bool} : e.Calm p n (g.measureStep q m c) := by
  unfold Eng.measureStep
  extract_lets r k old gap tbt g1 w g2 g3 g4
  split
  · exact h
  · have h1 : e.Calm p n g1 := .ite h.setWord h
    have h2 : e.Calm p n g2 := h1.setWord.worst
    have h3 : e.Calm p n g3 := .ite h (.ite h1.bump (.ite h2.bumpRqf.bump.ev h2))
    have h4 : e.Calm p n g4 := (h3.setRqw (by decide) (.inr (by decide))).onReq
    exact .ite h4.armAlert h4

/-! ## Records and their rings (R412 to R430) -/

theorem Eng.Calm.formed (h : e.Calm p n g) {b : BeatUnit} {q : Nat} : e.Calm p n (g.formed b q).2 := by
  unfold Eng.formed
  extract_lets k g1
  have h1 : e.Calm p n g1 := (h.onPart.bump (.one (by decide))).ev
  split
  · exact h
  · exact .ite h1 h1.engFault

theorem Eng.Calm.unformed (h : e.Calm p n g) {m : Nat} : e.Calm p n (g.unformed m) := .ite h.onReq h

theorem Eng.Calm.onTring (h : e.Calm p n g) {k : Nat} {f : TokenRing → TokenRing} : e.Calm p n (g.onTring k f) := h.rest

theorem Eng.Calm.onRing (h : e.Calm p n g) {q : Nat} {r : Option Nat} {f : Ring → Ring} : e.Calm p n (g.onRing q r f) := by
  cases r with
  | none => exact h.onPart
  | some k => exact h.onTring

theorem Eng.Calm.showSpill (h : e.Calm p n g) {q : Nat} : e.Calm p n (g.showSpill q) := h.setF.setF

theorem Eng.Calm.freeTring (h : e.Calm p n g) {k : Nat} : e.Calm p n (g.freeTring k) :=
  Eng.Calm.setF (Eng.Calm.setF (h.rest (k := { g with trings := kdel g.trings k }))) (.one (by decide))

theorem Eng.Calm.tryFreeTring (h : e.Calm p n g) {k : Nat} : e.Calm p n (g.tryFreeTring k) := .ite h.freeTring h

theorem Eng.Calm.issueTxn (h : e.Calm p n g) {q a : Nat} {t : TxnKind} : e.Calm p n (g.issueTxn q a t) := h.rest

theorem Eng.Calm.issueRec (h : e.Calm p n g) {b : BeatUnit} {q : Nat} {r : Option Nat} {x : QRec} : e.Calm p n (g.issueRec b q r x) := by
  refine Eng.Calm.issueTxn (Eng.Calm.onRing ?_)
  split
  · exact h.measure
  · exact h

theorem Eng.Calm.putRec (h : e.Calm p n g) {b : BeatUnit} {q : Nat} {r : Option Nat} {x : QRec} : e.Calm p n (g.putRec b q r x) :=
  .ite h.issueRec (.ite h.partStore.ev.onPart.onRing.showSpill h.onRing)

theorem Eng.Calm.putBatch (h : e.Calm p n g) {b : BeatUnit} {q : Nat} {s : Option Nat} {l : List (List Byte × Option Nat)} :
    e.Calm p n (g.putBatch b q s l) := h.foldl fun _ _ h => h.putRec

theorem Eng.Calm.putBoundary (h : e.Calm p n g) {b : BeatUnit} {q : Nat} {l : List (Option Nat × List Byte)} :
    e.Calm p n (g.putBoundary b q l) := by
  refine (Eng.Calm.foldl h fun x _ h => ?_).putBatch
  split
  · exact h.putRec
  · exact h

/-! ## Versions, groups and rounds (R433 to R454) -/

theorem Eng.Calm.phase (h : e.Calm p n g) {b : BeatUnit} {q kind v d r : Nat} {o : Option Nat} : e.Calm p n (g.phase b q kind v d r o) :=
  .ite h h.partStore.bumpWrap

theorem Eng.Calm.setVslot (h : e.Calm p n g) {q m : Nat} {v : VSlot} : e.Calm p n (g.setVslot q m v) := h.onPart

theorem Eng.Calm.newestEvents (h : e.Calm p n g) {q : Nat} : e.Calm p n (g.newestEvents q) := h.foldl fun _ _ h => .ite h.onReq h

theorem Eng.Calm.drainVersions (h : e.Calm p n g) {q : Nat} : e.Calm p n (g.drainVersions q) :=
  h.foldl fun _ _ h => .ite h.setVslot.ev h

theorem Eng.Calm.commit (h : e.Calm p n g) {b : BeatUnit} {q m : Nat} : e.Calm p n (g.commit b q m) :=
  h.setVslot.onPart.ev.phase.newestEvents

theorem Eng.Calm.onGroup (h : e.Calm p n g) {k : Nat} {f : Group → Group} : e.Calm p n (g.onGroup k f) := h.rest

theorem Eng.Calm.roundEnd (h : e.Calm p n g) {b : BeatUnit} {q : Nat} {r : Round} : e.Calm p n (g.roundEnd b q r) := h.ev.phase

theorem Eng.Calm.roundCheck (h : e.Calm p n g) {b : BeatUnit} {q : Nat} : e.Calm p n (g.roundCheck b q) := by
  unfold Eng.roundCheck
  extract_lets old g1 r
  have h1 : e.Calm p n g1 := h.onPart.foldl fun _ _ h => h.roundEnd
  exact .ite h1.roundEnd.onPart h1

theorem Eng.Calm.rmSend (h : e.Calm p n g) {k : Nat} {m : RmMsg} : e.Calm p n (g.rmSend k m) := h.rest

theorem Eng.Calm.rmPump (h : e.Calm p n g) : e.Calm p n g.rmPump :=
  Eng.Calm.foldl (g := { g with rmHeld := [] }) h.rest fun _ _ h => by
    extract_lets cls
    refine .ite h.rest ?_
    split
    · exact h.rest
    · exact h.rest

theorem onRound_steps (x : Partn) (k : Nat) (f : Round → Round) : (x.onRound k f).steps = x.steps := by
  unfold Partn.onRound
  split <;> rfl

theorem Eng.Calm.updSend (h : e.Calm p n g) {b : BeatUnit} : e.Calm p n (g.updSend b) := by
  unfold Eng.updSend
  split
  · exact h
  · extract_lets g' q shard own layer m g1 r g2
    have h1 : e.Calm p n g1 := h.onGroup
    have h2 : e.Calm p n g2 := .ite (h1.phase.onPart fun x => by rw [onRound_steps]) h1
    exact .ite h h2.rmSend.rmPump

theorem Eng.Calm.updPump (h : e.Calm p n g) {b : BeatUnit} {k : Nat} : e.Calm p n (g.updPump b k) := by
  induction k generalizing g with
  | zero => exact h
  | succ k ih => exact ih h.updSend

theorem Eng.Calm.rmFlow (h : e.Calm p n g) {b : BeatUnit} : e.Calm p n (g.rmFlow b) := h.rmPump.updPump

theorem Eng.Calm.groupAdvance (h : e.Calm p n g) {q m t : Nat} : e.Calm p n (g.groupAdvance q m t) :=
  .ite h.onGroup.onPart.onGroup.ev h.onGroup.onPart.onGroup.onPart

theorem Eng.Calm.applyRound (h : e.Calm p n g) {q t : Nat} : e.Calm p n (g.applyRound q t) :=
  (Eng.Calm.foldl h.onPart fun _ _ h => .ite h.bump.ev h.groupAdvance).bumpWrap

theorem Eng.Calm.takeVote (h : e.Calm p n g) {b : BeatUnit} {q : Nat} : e.Calm p n (g.takeVote b q).2 := h.wr.phase

theorem Eng.Calm.countVote (h : e.Calm p n g) {b : BeatUnit} {q m x v : Nat} : e.Calm p n (g.countVote b q m x v) := .ite h h.logAdd.onPart

theorem Eng.Calm.decideRound (h : e.Calm p n g) {b : BeatUnit} {q m : Nat} : e.Calm p n (g.decideRound b q m).2 := by
  unfold Eng.decideRound
  extract_lets x reason target round body g1 j g2 g3
  have h2 : e.Calm p n g2 := .ite h.onPart.tenantFault h.onPart
  exact .ite h2.setF.applyRound h2

theorem Eng.Calm.applyVerdict (h : e.Calm p n g) {b : BeatUnit} {q m body : Nat} : e.Calm p n (g.applyVerdict b q m body).2 := by
  unfold Eng.applyVerdict
  extract_lets reason count layer eng g1 g2 g3 g4
  have h3 : e.Calm p n g3 := h.bumpWrap.wr.phase
  exact .ite2 h3 h3.bump.ev.logAdd

end
end Sys2Proof.Machine

namespace Sys2Proof.Machine

set_option Elab.async false

open Sys2Proof

/-! ## Cells (R169 to R196) -/

section
variable {p : Fin 32} {n : Nat} {e g : Eng}

/-- The status of a cross-bar entry. -/
theorem QuietReg.xbStatus (q k : Nat) : QuietReg (Reg.syncXbStatus q k) := by
  intro j _
  constructor
  · show 0x500cc + 0x100 * q + 16 * k ≠ 0x20004 + 0x400 * j
    omega
  · show 0x500cc + 0x100 * q + 16 * k ≠ 0x100000 + 0x100 * j
    omega

theorem Eng.Calm.onCell (h : e.Calm p n g) {m : Nat} {f : Cell → Cell} : e.Calm p n (g.onCell m f) := h.rest

theorem Eng.Calm.satHit (h : e.Calm p n g) {m : Nat} : e.Calm p n (g.satHit m) := by
  unfold Eng.satHit
  extract_lets g1
  split
  · exact h.onCell
  · exact h.onCell.bump.ev

theorem Eng.Calm.cellAdd (h : e.Calm p n g) {m k : Nat} : e.Calm p n (g.cellAdd m k) := .ite h.onCell h.onCell.satHit

theorem Eng.Calm.tookFrom (h : e.Calm p n g) {m k : Nat} : e.Calm p n (g.tookFrom m k) := by
  unfold Eng.tookFrom
  split
  · exact h
  · exact h.onPart

theorem Eng.Calm.cellSub (h : e.Calm p n g) {m k : Nat} : e.Calm p n (g.cellSub m k) :=
  .ite h.tookFrom.onCell.satHit h.tookFrom.onCell

theorem Eng.Calm.realignEntry (h : e.Calm p n g) {q k : Nat} : e.Calm p n (g.realignEntry q k) := by
  unfold Eng.realignEntry
  split
  · exact h
  · exact .ite h h.onCell.bump.ev

theorem Eng.Calm.waitOk (h : e.Calm p n g) {b : BeatUnit} {w : Wait} : e.Calm p n (g.waitOk b w) := .ite h.onCtx h.complete

theorem Eng.Calm.walkOne {x : Eng × Bool} (h : e.Calm p n x.1) {b : BeatUnit} {m : Nat} {w : Wait} : e.Calm p n (walkOne b m x w).1 := by
  unfold Machine.walkOne
  extract_lets drop c
  have hdrop : e.Calm p n (drop x.1) := h.onCell
  split
  · exact h
  · split
    · exact hdrop.waitOk
    · exact h
  · split
    · exact h
    · split
      · exact hdrop.cellSub.waitOk
      · exact h

theorem Eng.Calm.walk (h : e.Calm p n g) {b : BeatUnit} {m : Nat} : e.Calm p n (g.walk b m) :=
  Eng.Calm.foldlOn (fun x : Eng × Bool => x.1) h fun _ _ h => h.walkOne

theorem Eng.Calm.setPair (h : e.Calm p n g) {lo hi v : Nat} (hl : QuietReg lo := by exact .fam _ (by decide))
    (hh : QuietReg hi := by exact .fam _ (by decide)) : e.Calm p n (g.setPair lo hi v) := (h.wr hl).wr hh

theorem Eng.Calm.expire (h : e.Calm p n g) {b : BeatUnit} {m : Nat} {w : Wait} : e.Calm p n (g.expire b m w) := by
  unfold Eng.expire
  extract_lets atExpiry g1 q pc g2 g3 g4
  have h4 : e.Calm p n g4 := h.onCell.bump.ev.wr.setPair
  exact .ite h4.faultOnly (.ite h4.onCtx h4.complete)

theorem Eng.Calm.expireAll (h : e.Calm p n g) {b : BeatUnit} {m : Nat} : e.Calm p n (g.expireAll b m) := h.foldl fun _ _ h => h.expire

theorem Eng.Calm.settle (h : e.Calm p n g) {b : BeatUnit} {m : Nat} {l : List (Nat × Nat)} {x : Nat × Nat} :
    e.Calm p n (g.settle b m l x) := by
  unfold Eng.settle
  extract_lets here g1 g2 y
  have h1 : e.Calm p n g1 := by
    refine .ite ?_ h
    split
    · exact h.onCell
    · exact h
  have h2 : e.Calm p n g2 := .ite h1.onCtx h1
  exact .ite h2.boundary h2

theorem Eng.Calm.releaseBars (h : e.Calm p n g) {b : BeatUnit} {m : Nat} {f : Wait → Bool} : e.Calm p n (g.releaseBars b m f).2 :=
  h.onCell.foldl fun _ _ h => h.waitOk

/-! ## Cross-bar entries (R180 to R182, R445 to R447) -/

theorem Eng.Calm.onXb (h : e.Calm p n g) {q k : Nat} {f : XbEnt → XbEnt} : e.Calm p n (g.onXb q k f) := h.onPart

theorem Eng.Calm.xbCount (h : e.Calm p n g) {b : BeatUnit} {q k x v : Nat} : e.Calm p n (g.xbCount b q k x v) := by
  have h1 := (h.setF (hi := 15) (lo := 0) (v := g.fld (Reg.syncXbStatus q k) 15 0 + 1) (.xbStatus q k)).setF (hi := 31) (lo := 30) (v := 2) (.xbStatus q k)
  exact .ite h1.countVote h1

theorem Eng.Calm.xbLocal (h : e.Calm p n g) {b : BeatUnit} {q k c : Nat} : e.Calm p n (g.xbLocal b q k c) := by
  unfold Eng.xbLocal
  extract_lets m g1
  split
  next vote g2 hvote =>
  have h2 : e.Calm p n g2 := by
    split at hvote
    · exact h.onCell.takeVote.beside hvote
    · exact h.onCell.beside hvote
  exact .ite h2.onXb.xbCount (h2.onXb.setF (.xbStatus q k)).rmSend.rmPump

theorem Eng.Calm.xbFree (h : e.Calm p n g) {b : BeatUnit} {q k body : Nat} : e.Calm p n (g.xbFree b q k body).1 := by
  unfold Eng.xbFree
  split
  next c g1 hbars =>
  have h1 : e.Calm p n g1 := h.releaseBars.beside hbars
  split
  · exact h1.applyVerdict
  · exact h1

theorem Eng.Calm.xbRelease (h : e.Calm p n g) {b : BeatUnit} {q k : Nat} : e.Calm p n (g.xbRelease b q k).1 := by
  have h1 : e.Calm p n (g.wr (Reg.syncXbStatus q k) 0) := h.wr (.xbStatus q k)
  unfold Eng.xbRelease
  extract_lets g1
  split
  next body g2 hbody =>
  have h2 : e.Calm p n g2 := by
    split at hbody
    · exact h1.decideRound.beside hbody
    · exact h1.beside hbody
  extract_lets g3 g4
  have h4 : e.Calm p n g4 := h2.rmSend.rmPump.onXb
  split
  next g5 go hfree =>
  have h5 : e.Calm p n g5 := h4.xbFree.before hfree
  exact .ite h5.roundCheck.rmFlow h5

theorem Eng.Calm.xbRun (h : e.Calm p n g) {b : BeatUnit} {q k fuel : Nat} {local_ : Bool} {c : Nat} :
    e.Calm p n (g.xbRun b q k fuel local_ c).1 := by
  induction fuel generalizing g local_ c with
  | zero => exact h
  | succ fuel ih =>
    cases local_ with
    | true =>
      unfold Eng.xbRun
      extract_lets g1
      split
      · exact ih h.xbLocal
      · exact h.xbLocal
    | false =>
      unfold Eng.xbRun
      split
      · exact h
      · extract_lets was
        split
        next g1 go hrel =>
        have h1 : e.Calm p n g1 := h.xbRelease.before hrel
        extract_lets pc
        split
        · exact ih h1
        · exact h1

theorem Eng.Calm.barCheck (h : e.Calm p n g) {b : BeatUnit} {m : Nat} : e.Calm p n (g.barCheck b m).1 := by
  unfold Eng.barCheck
  extract_lets c
  split
  · exact h
  · split
    · exact h.onCell.releaseBars
    · split
      · exact h
      · exact h.xbRun

theorem Eng.Calm.takeRelease (h : e.Calm p n g) {b : BeatUnit} {q k body : Nat} : e.Calm p n (g.takeRelease b q k body).1 := by
  unfold Eng.takeRelease
  extract_lets m late g1
  have h1 : e.Calm p n g1 := .ite h.ev h
  split
  next g2 go hfree =>
  have h2 : e.Calm p n g2 := (h1.setF (.xbStatus q k)).xbFree.before hfree
  extract_lets pc
  split
  · exact h2.xbRun
  · exact h2

theorem Eng.Calm.xbOps {b : BeatUnit} {l : List CellOp} {x : Eng × GoAdds} (h : e.Calm p n x.1) : e.Calm p n (Eng.xbOps b l x).1 := by
  have htake : ∀ {g q k body}, e.Calm p n g → e.Calm p n (Eng.takeRelease b q k body g).1 := fun h => h.takeRelease
  have hrun : ∀ {g q k s v}, e.Calm p n g → e.Calm p n (Eng.xbRun b q k 8 false 0 (g.xbCount b q k s v)).1 := fun h => h.xbCount.xbRun
  -- the kernel must not evaluate the two functions to see that the match on their answer is stuck
  obtain ⟨take, ht⟩ : ∃ take, take = Eng.takeRelease := ⟨_, rfl⟩
  obtain ⟨run, hr⟩ : ∃ run, run = Eng.xbRun := ⟨_, rfl⟩
  unfold Eng.xbOps
  rw [← ht] at htake ⊢
  rw [← hr] at hrun ⊢
  refine Eng.Calm.foldlOn (fun x : Eng × GoAdds => x.1) h fun o _ h => ?_
  cases o with
  | release => exact htake h
  | arrive => exact hrun h
  | _ => exact h

/-! ## The cycle of a cell (R175) -/

theorem Eng.Calm.ackOps (h : e.Calm p n g) {m : Nat} {s : Bool} {l : List CellOp} : e.Calm p n (g.ackOps m s l) :=
  h.foldl fun _ _ h => by
    split
    · exact h.complete
    · exact h.complete
    · exact h

theorem Eng.Calm.manualPut (h : e.Calm p n g) {b : BeatUnit} {m s : Nat} {v : Option Word} : e.Calm p n (g.manualPut b m s v) := by
  refine Eng.Calm.onCell ?_
  split
  · exact (h.logAdd.bump (.one (by decide))).ev
  · exact h.logAdd.bump (.one (by decide))

theorem Eng.Calm.cellSet (h : e.Calm p n g) {b : BeatUnit} {m : Nat} {l : List CellOp} : e.Calm p n (g.cellSet b m l) := by
  refine Eng.Calm.foldl (Eng.Calm.foldl h fun _ _ h => ?_) fun _ _ h => ?_
  · split
    · exact h.manualPut
    · exact h.onCell
    · exact h.onCell
    · exact h
  · split
    · exact h.foldl fun _ _ h => .ite h.realignEntry h
    · exact h

theorem Eng.Calm.cellCommit (h : e.Calm p n g) {b : BeatUnit} {m : Nat} : e.Calm p n (g.cellCommit b m) := by
  unfold Eng.cellCommit
  split
  · exact h
  · split
    exact .ite h (h.onCell.foldl fun _ _ h => h.commit)

theorem Eng.Calm.cellCycle (h : e.Calm p n g) {b : BeatUnit} {m : Nat} {l : List CellOp} : e.Calm p n (g.cellCycle b m l).1 := by
  unfold Eng.cellCycle
  extract_lets came ends g1 adds g2 g3 g4 subs g5 g6 news g7 queued g8
  have h2 : e.Calm p n g2 := .ite h.cellSet h.cellSet.cellAdd
  have h4 : e.Calm p n g4 := h2.ackOps.cellCommit
  have h5 : e.Calm p n g5 := .ite h4 h4.cellSub
  have h8 : e.Calm p n g8 := (h5.ackOps.foldl fun _ _ h => h.waitOk).onCell
  split
  next g9 gos hxb =>
  have h9 : e.Calm p n g9 := (Eng.Calm.xbOps h8.barCheck).before hxb
  exact h9.walk.expireAll.foldl fun _ _ h => h.settle

theorem Eng.Calm.launch (h : e.Calm p n g) {m : Nat} {o : CellOp} : e.Calm p n (g.launch m o) := h.rest

theorem Eng.Calm.cellRun (h : e.Calm p n g) {b : BeatUnit} {fuel : Nat} {l : List (Nat × List CellOp)} {ps : List Nat} :
    e.Calm p n (g.cellRun b fuel l ps) := by
  induction fuel generalizing g l ps with
  | zero => exact h.foldl fun _ _ h => h.dispatch
  | succ fuel ih =>
    cases l with
    | nil => exact h.foldl fun _ _ h => h.dispatch
    | cons x r =>
      obtain ⟨m, ops⟩ := x
      unfold Eng.cellRun
      split
      · exact ih (h.foldl fun _ _ h => h.launch)
      · extract_lets all qs
        split
        next g1 gos hcycle =>
        have h0 : e.Calm p n { g with joined := g.joined.filter fun x => decide (x.1 ≠ m) } := h.rest
        exact ih (h0.cellCycle.before hcycle)

theorem Eng.Calm.atCell (h : e.Calm p n g) {b : BeatUnit} {m : Nat} {l : List CellOp} : e.Calm p n (g.atCell b m l) :=
  .ite h.cellRun h.cellRun.showPower

end
end Sys2Proof.Machine

namespace Sys2Proof.Machine

set_option Elab.async false

open Sys2Proof

/-! ## Stage, descriptors and bank (R325, R326, R519, R539) -/

section
variable {p : Fin 32} {n : Nat} {e g : Eng}

theorem Eng.Calm.showPlane (h : e.Calm p n g) : e.Calm p n g.showPlane := by
  unfold Eng.showPlane
  extract_lets k u g1 g2
  have h1 : e.Calm p n g1 := (h.setF (.one (by decide))).setF (.one (by decide))
  have h2 : e.Calm p n g2 := h1.setF (.one (by decide))
  exact (h2.setF (.one (by decide))).setF (.one (by decide))

theorem Eng.Calm.stageGrant (h : e.Calm p n g) {fuel : Nat} : e.Calm p n (g.stageGrant fuel) := by
  induction fuel generalizing g with
  | zero => exact h
  | succ fuel ih =>
    unfold Eng.stageGrant
    split
    · exact h
    next q num pass rest hq =>
      have h1 : e.Calm p n { g with stageq := rest } := h.rest
      split
      · exact ih h1
      · split
        · exact ih h1.onStep
        · exact h

theorem Eng.Calm.placeRow (h : e.Calm p n g) {x : HRowPkt} : e.Calm p n (g.placeRow x) := by
  unfold Eng.placeRow
  extract_lets q num pass g1
  have h1 : e.Calm p n g1 := .ite h h.rest
  exact .ite h.rest (.ite (h.bump (.one (by decide))) (.ite h.onStep h1.rest))

theorem Eng.Calm.stageRound (h : e.Calm p n g) : e.Calm p n g.stageRound :=
  Eng.Calm.foldl (g := { g.stageGrant g.stageq.length with hrowHeld := [] }) h.stageGrant.rest fun _ _ h => h.placeRow

theorem Eng.Calm.stageFlow (h : e.Calm p n g) : e.Calm p n g.stageFlow :=
  (h.foldl fun _ _ h => h.stageRound).showPlane

theorem Eng.Calm.releasePass (h : e.Calm p n g) {q num pass : Nat} : e.Calm p n (g.releasePass q num pass) := by
  unfold Eng.releasePass
  extract_lets g1
  have h1 : e.Calm p n g1 := h.onStep
  exact Eng.Calm.stageFlow h1.rest

theorem Eng.Calm.rowsLeft (h : e.Calm p n g) {q num : Nat} : e.Calm p n (g.rowsLeft q num) := h.rest

theorem Eng.Calm.kdlSend (h : e.Calm p n g) {c : Nat} {l : List KdlOut} : e.Calm p n (Eng.kdlSend c l g).2 := by
  induction l generalizing g with
  | nil => exact h
  | cons d r ih =>
    unfold Eng.kdlSend
    extract_lets ph k type g1 g2
    have h1 : e.Calm p n g1 := h.rest
    have h2 : e.Calm p n g2 := .ite h1.onStep h1
    exact .ite2 (ih h2) h

theorem Eng.Calm.issueDone (h : e.Calm p n g) {b : BeatUnit} : e.Calm p n (g.issueDone b) :=
  h.foldl fun _ _ h => h.foldl fun _ _ h => by
    split
    · exact .ite (.ite h.onStep.finish h.onStep) h
    · exact h

theorem Eng.Calm.kdlPump (h : e.Calm p n g) {b : BeatUnit} : e.Calm p n (g.kdlPump b) := by
  refine (Eng.Calm.foldl h fun c _ h => ?_).issueDone
  split
  · exact h
  · split
    next hsend => exact Eng.Calm.rest (h.kdlSend.beside hsend)

theorem Eng.Calm.showLevel (h : e.Calm p n g) : e.Calm p n g.showLevel := h.setF (.one (by decide))

theorem Eng.Calm.switchBank (h : e.Calm p n g) {b : BeatUnit} {q num : Nat} : e.Calm p n (g.switchBank b q num) := by
  unfold Eng.switchBank
  split
  · exact h
  · extract_lets bank g1
    have h1 : e.Calm p n g1 := h.rest (k := { g with bankSwitch := g.bankSwitch.filter fun k => decide (k ≠ q) }) |>.setF (.one (by decide))
    exact h1.logAdd.showLevel

theorem Eng.Calm.realignCut (h : e.Calm p n g) {b : BeatUnit} {q : Nat} : e.Calm p n (g.realignCut b q) := by
  unfold Eng.realignCut
  extract_lets g1 due g2 armed
  have h2 : e.Calm p n g2 := h.onPart.onPart
  exact .ite h2 (h2.foldl fun _ _ h => h.atCell)

/-! ## Runs and drafts (R349, R360, R387 to R391, R441) -/

theorem Eng.Calm.countTree (h : e.Calm p n g) {q : Nat} {st : Step} {r : Run} : e.Calm p n (g.countTree q st r) :=
  .ite h h.bumpWrap.bumpWrap

theorem Eng.Calm.penPut (h : e.Calm p n g) {q m t : Nat} : e.Calm p n (g.penPut q m t) := .ite h (.ite h.ev h.onReq)

theorem Eng.Calm.penUpdate (h : e.Calm p n g) {b : BeatUnit} {q m : Nat} {l : List Nat} : e.Calm p n (g.penUpdate b q m l) := by
  unfold Eng.penUpdate
  split
  · exact h
  · extract_lets old addr len prompt g1 g2 g3 s
    have h2 : e.Calm p n g2 := .ite h (.ite (h.onReq.partRead.foldl fun _ _ h => h.penPut) h.onReq)
    have h3 : e.Calm p n g3 := h2.foldl fun _ _ h => h.penPut
    exact .ite h3 h3.partStore

theorem Eng.Calm.promptWrite (h : e.Calm p n g) {q m pos : Nat} {l : List Nat} : e.Calm p n (g.promptWrite q m pos l).2 := by
  induction l generalizing g pos with
  | nil => exact h
  | cons t r ih =>
    unfold Eng.promptWrite
    extract_lets a bad g1
    have h1 : e.Calm p n g1 := .ite h h.store
    split
    next hrest => exact (ih h1).beside hrest

theorem Eng.Calm.adapt (h : e.Calm p n g) {q m k d : Nat} : e.Calm p n (g.adapt q m k d) := by
  unfold Eng.adapt
  extract_lets a w g1
  have h1 : e.Calm p n g1 := h.setWord
  exact .ite h1.setWord.bump.ev (.ite h1.setWord.bump.ev h1)

theorem Eng.Calm.probe (h : e.Calm p n g) {q m : Nat} : e.Calm p n (g.probe q m) :=
  .ite h.setWord.setWord.setWord.bump h.setWord

theorem Eng.Calm.specUpdate (h : e.Calm p n g) {q : Nat} {st : Step} {r : Run} : e.Calm p n (g.specUpdate q st r) := by
  unfold Eng.specUpdate
  extract_lets m acc held w g1 lists g2 g3
  have h1 : e.Calm p n g1 := .ite h.adapt (.ite h.probe h)
  have h3 : e.Calm p n g3 := h1.onReq.setWord
  exact .ite h (.ite h1 h3.onReq)

/-! ## Records of a boundary and its events (R303, R412, R436) -/

theorem Eng.Calm.markLate (h : e.Calm p n g) {q m a : Nat} {t : Bool} {l : List Byte} : e.Calm p n (g.markLate q m a t l).2 := by
  unfold Eng.markLate
  split
  · extract_lets g1
    have h1 : e.Calm p n g1 := h.bumpWrap.setWord
    exact .ite h1.setStatus h1
  · exact h

theorem Eng.Calm.lateAt_ (h : e.Calm p n g) {q m : Nat} {o : Option Nat} {l : List Byte} : e.Calm p n (g.lateAt_ q m o l).2 := by
  cases o with
  | none => exact h
  | some t => exact h.markLate

theorem Eng.Calm.retireRec (h : e.Calm p n g) {b : BeatUnit} {q m st : Nat} {o : Option Nat} :
    e.Calm p n (g.retireRec b q m st o).2 := by
  unfold Eng.retireRec
  split
  next ok g1 hformed =>
  have h1 : e.Calm p n g1 := h.formed.beside hformed
  extract_lets l
  split
  next l' g2 hlate =>
  have h2 : e.Calm p n g2 := h1.lateAt_.beside hlate
  exact .ite h2.bump.ev h2

theorem Eng.Calm.learnRec (h : e.Calm p n g) {b : BeatUnit} {q m : Nat} {o : Option Nat} : e.Calm p n (g.learnRec b q m o).2 := by
  unfold Eng.learnRec
  split
  next ok g1 hformed =>
  have h1 : e.Calm p n g1 := h.formed.beside hformed
  extract_lets l
  split
  next l' g2 hlate => exact h1.lateAt_.beside hlate

theorem Eng.Calm.rebind (h : e.Calm p n g) {m v : Nat} : e.Calm p n (g.rebind m v) := h.setWord

theorem Eng.Calm.unbatch (h : e.Calm p n g) {q m : Nat} : e.Calm p n (g.unbatch q m) := .ite h h.onPart.onReq

theorem Eng.Calm.afterWalk {x : WalkOut × Eng} (h : e.Calm p n x.2) {b : BeatUnit} {q : Nat} : e.Calm p n (Eng.afterWalk b q x) := by
  refine (Eng.Calm.foldl (Eng.Calm.foldl h.putBoundary fun _ _ h => ?_) fun _ _ h => ?_).drainVersions
  · exact h.tryFreeTring
  · exact h.onReq

end
end Sys2Proof.Machine

namespace Sys2Proof.Machine

set_option Elab.async false

open Sys2Proof

/-! ## The walk of R20 -/

theorem kget_filter {α : Type} (d : α) (m : KMap α) {f : Nat → Bool} {k : Nat} (hk : f k = true) :
    kget d (m.filter fun x => f x.1) k = kget d m k := by
  induction m with
  | nil => rfl
  | cons x r ih =>
    obtain ⟨j, v⟩ := x
    by_cases hj : j = k
    · subst hj
      simp [kget, hk]
    · by_cases hf : f j = true
      · simp [kget, hf, hj, ih]
      · simp [kget, hf, hj, ih]

section
variable {p : Fin 32} {n : Nat} {e g k : Eng}

/-- A request changed as a whole, where the change leaves a free slot free and a request in no step in none. -/
theorem Eng.Calm.onReqAt (h : e.Calm p n g) {m : Nat} {f : Req → Req} (hl : (f (g.req m)).live = (g.req m).live := by rfl)
    (hs : (f (g.req m)).inStep = (g.req m).inStep := by rfl) : e.Calm p n (g.onReq m f) :=
  h.trans ⟨rfl, id, rfl, rfl, .inl rfl,
    fun hg => hg.put (P := fun r => r.live = false) rfl fun hm => hl.trans (hm ▸ hg.req rfl),
    fun hg => hg.put (P := fun r => r.inStep = none) rfl fun hm => hs.trans (hm ▸ hg.req rfl)⟩

/-- A request that leaves takes nothing of another slot with it (R220). -/
theorem Eng.Calm.leave (h : e.Calm p n g) {b : BeatUnit} {q m : Nat} (hm : n ≠ m) : e.Calm p n (g.leave b q m).2 := by
  unfold Eng.leave
  extract_lets ring g1 g2 g3
  clear_value ring
  have h2 : e.Calm p n g2 := by
    cases ring with
    | some k => exact h.dropPages.onTring
    | none => exact h.dropPages
  have h3 : e.Calm p n g3 := by
    have hword : ∀ w, w < 24 → g3.rqw n w = g2.rqw n w := fun w hw => kget_filter 0 g2.rqt (f := fun x => decide (x / 24 ≠ m)) (by simp; omega)
    refine h2.trans ⟨rfl, id, rfl, hword 5 (by omega), .inl ?_, fun hg x hx => hg x (List.mem_filter.mp hx).1, fun hg x hx => hg x (List.mem_filter.mp hx).1⟩
    rw [Eng.rstate, Eng.rqf, hword 0 (by omega)]
    rfl
  exact h3.onPart fun x => by simp only [List.map_map]; rfl

/-- The slot of a request that has left is free. -/
theorem Eng.leave_vacant (b : BeatUnit) (q m : Nat) (g : Eng) : (g.leave b q m).2.EachAt (fun r => r.live = false) m := by
  intro x hx hn
  exact absurd hn (mem_kdel_ne hx)

/-- What the walk of a boundary keeps for partition `p` and slot `n`: a request that stays keeps GENERATED, and PREFILLED where the
version policy is not REPREFILL, and its STATE but that it may turn WAITING or PAUSED. -/
structure Eng.Walked (p : Fin 32) (n : Nat) (e f : Eng) : Prop where
  nums : (f.part p).steps.map (fun s => s.num) = (e.part p).steps.map (fun s => s.num)
  going : e.pstate p ≠ psResetting → f.pstate p ≠ psResetting
  ctrl : f.rd (Reg.wlcCtrl p) = e.rd (Reg.wlcCtrl p)
  vacant : e.EachAt (fun r => r.live = false) n → f.EachAt (fun r => r.live = false) n
  slot : f.EachAt (fun r => r.live = false) n ∨
    f.rgenerated n = e.rgenerated n ∧ (e.fld (Reg.wlcCtrl p) 1 0 ≠ 2 → f.rprefilled n = e.rprefilled n) ∧
    (f.rstate n = e.rstate n ∨ f.rstate n = rsWaiting ∨ f.rstate n = rsPaused) ∧
    (e.EachAt (fun r => r.inStep = none) n → f.EachAt (fun r => r.inStep = none) n)

theorem Eng.Walked.trans (h : e.Walked p n g) (h' : g.Walked p n k) : e.Walked p n k where
  nums := h'.nums.trans h.nums
  going := h'.going ∘ h.going
  ctrl := h'.ctrl.trans h.ctrl
  vacant := h'.vacant ∘ h.vacant
  slot := by
    rcases h.slot with hv | ⟨hg, hp, hs, hl⟩
    · exact .inl (h'.vacant hv)
    · rcases h'.slot with hv | ⟨hg', hp', hs', hl'⟩
      · exact .inl hv
      · refine .inr ⟨hg'.trans hg, fun hc => (hp' ?_).trans (hp hc), ?_, hl' ∘ hl⟩
        · rwa [Eng.fld_congr h.ctrl]
        · rcases hs' with hs' | hs'
          · rw [hs']; exact hs
          · exact .inr hs'

theorem Eng.Calm.rgenerated (c : e.Calm p n g) : g.rgenerated n = e.rgenerated n := by
  rw [Eng.rgenerated, Eng.rqf, c.word]
  rfl

theorem Eng.Calm.rprefilled (c : e.Calm p n g) : g.rprefilled n = e.rprefilled n := by
  rw [Eng.rprefilled, Eng.rqf, c.word]
  rfl

theorem Eng.Calm.walked (h : e.Calm p n g) : e.Walked p n g := by
  refine ⟨h.nums, h.going, h.ctrl, h.vacant, .inr ⟨h.rgenerated, fun _ => h.rprefilled, ?_, h.landed⟩⟩
  · rcases h.state with hs | ⟨-, hs⟩
    · exact .inl hs
    · exact .inr (.inl hs)

/-- The walk goes on with operations that keep the slot. -/
theorem Eng.Walked.andThen (h : e.Walked p n g) (c : g.Calm p n g → g.Calm p n k) : e.Walked p n k := h.trans (c (.refl g)).walked

theorem Eng.Walked.leave (h : e.Walked p n g) {b : BeatUnit} {q m : Nat} : e.Walked p n (g.leave b q m).2 := by
  by_cases hm : n = m
  · subst hm
    -- what the partition keeps does not depend on the slot that is watched
    have c : g.Calm p (n + 1) (g.leave b q n).2 := (Eng.Calm.refl g).leave (by omega)
    exact h.trans ⟨c.nums, c.going, c.ctrl, fun _ => g.leave_vacant b q n, .inl (g.leave_vacant b q n)⟩
  · exact h.andThen fun c => c.leave hm

/-- A choice between engines of the walk. -/
theorem Eng.Walked.ite {c : Prop} [Decidable c] (h : e.Walked p n g) (h' : e.Walked p n k) : e.Walked p n (if c then g else k) := by
  split
  · exact h
  · exact h'

/-- The engine that stands beside an answer. -/
theorem Eng.Walked.beside {α : Type} {x : α × Eng} {a : α} (h : e.Walked p n x.2) (hx : x = (a, k)) : e.Walked p n k := by
  rw [hx] at h
  exact h

theorem Eng.EachAt.setRqf {P : Req → Prop} {m w hi lo v : Nat} (h : e.EachAt P n) : (e.setRqf m w hi lo v).EachAt P n := h
theorem Eng.EachAt.setRstate {P : Req → Prop} {m v : Nat} (h : e.EachAt P n) : (e.setRstate m v).EachAt P n := h.setRqf

theorem Eng.rqf_setRstate (e : Eng) (m v k : Nat) {w : Nat} (hi lo : Nat) (hw : 0 < w ∧ w < 24) :
    (e.setRstate m v).rqf k w hi lo = e.rqf k w hi lo := Eng.rqf_setRqf_ne _ _ _ _ _ _ (by omega) hw.2 (.inr (by omega))

theorem Eng.rgenerated_setRstate (e : Eng) (m v k : Nat) : (e.setRstate m v).rgenerated k = e.rgenerated k :=
  e.rqf_setRstate _ _ _ _ _ (by omega)

theorem Eng.rgenerated_onReq (e : Eng) (m k : Nat) (f : Req → Req) : (e.onReq m f).rgenerated k = e.rgenerated k := rfl

/-- PREFILLED and GENERATED share a word (R221). -/
theorem Eng.rgenerated_setPrefilled (e : Eng) (m v k : Nat) : (e.setRqf m 5 63 32 v).rgenerated k = e.rgenerated k := by
  by_cases hk : k = m
  · subst hk
    exact Eng.rqf_setRqf_apart _ _ _ _ (by omega) (by omega) (.inl (by omega))
  · exact Eng.rqf_setRqf_ne _ _ _ _ _ _ (by omega) (by omega) (.inl hk)

/-- What a rebuild writes of a request before it takes pages (R440). -/
def Eng.refilling (m v st : Nat) (f : Req → Req) (e : Eng) : Eng := ((e.setRqf m 5 63 32 v).setRstate m st).onReq m f

theorem Eng.Calm.refilling (h : e.Calm p n g) {m v st : Nat} {f : Req → Req} (hm : n ≠ m) (hl : ∀ r, (f r).live = r.live)
    (hs : ∀ r, (f r).inStep = r.inStep) : e.Calm p n (g.refilling m v st f) :=
  ((h.setRqf (by omega) (.inl (Ne.symm hm))).setRstate fun h => absurd h hm).onReq (fun r => (hl r).trans) fun r => (hs r).trans

theorem Eng.EachAt.refilling {P : Req → Prop} {m v st : Nat} {f : Req → Req} (h0 : P Req.none) (hf : ∀ r, P r → P (f r)) (h : e.EachAt P n) :
    (e.refilling m v st f).EachAt P n := h.setRqf.setRstate.onReq h0 m hf

theorem Eng.rgenerated_refilling (e : Eng) (m v st k : Nat) (f : Req → Req) : (e.refilling m v st f).rgenerated k = e.rgenerated k := by
  rw [Eng.refilling, Eng.rgenerated_onReq, Eng.rgenerated_setRstate, Eng.rgenerated_setPrefilled]

/-- A rebuild returns its request to WAITING, whatever its directory was (R440). -/
theorem Eng.Walked.refill (h : e.Walked p n g) (hpol : e.fld (Reg.wlcCtrl p) 1 0 = 2) {m v st : Nat} {f : Req → Req}
    (hl : ∀ r, (f r).live = r.live) (hs : ∀ r, (f r).inStep = r.inStep) (c : ∀ j, (g.refilling m v st f).Calm p j k) :
    e.Walked p n (k.setRstate m rsWaiting) := by
  have hk : ∀ {j}, j ≠ m → g.Calm p j (k.setRstate m rsWaiting) := fun hj =>
    (((Eng.Calm.refl g).refilling hj hl hs).trans (c _)).setRstate fun h => absurd h hj
  by_cases hm : n = m
  · subst hm
    -- what the partition keeps does not depend on the slot that is watched
    have c' : g.Calm p (n + 1) (k.setRstate n rsWaiting) := hk (by omega)
    refine h.trans ⟨c'.nums, c'.going, c'.ctrl, fun hg => ?_, .inr ⟨?_, fun hc => ?_, .inr (.inl ?_), fun hg => ?_⟩⟩
    · exact ((c n).vacant (hg.refilling rfl fun r => (hl r).trans)).setRstate
    · rw [Eng.rgenerated_setRstate, (c n).rgenerated, Eng.rgenerated_refilling]
    · exact absurd ((Eng.fld_congr h.ctrl 1 0).trans hpol) hc
    · exact Eng.rstate_setRstate _ _ (by decide)
    · exact ((c n).landed (hg.refilling rfl fun r => (hs r).trans)).setRstate
  · exact h.andThen fun _ => hk hm

theorem Eng.Walked.rebuild (h : e.Walked p n g) (hpol : e.fld (Reg.wlcCtrl p) 1 0 = 2) {b : BeatUnit} {q m : Nat} :
    e.Walked p n (g.rebuild b q m).2 := by
  unfold Eng.rebuild
  extract_lets g1 g2 ok g3 rb g4
  have h2 : e.Walked p n g2 := h.andThen fun c => c.dropPages.onReq.setWord
  have h3 : e.Walked p n g3 := h2.andThen fun c => c.unbatch
  split
  · exact h2
  · have c : ∀ j, (g3.refilling m 0 rsReprefill fun r => { r with rb := some rb, started := false }).Calm p j g4 := fun _ => .refl _
    have c' : ∀ j, _ := fun j => (c j).startList (b := b) (q := q) (m := m) (lp := g4.rlpId m)
    exact Eng.Walked.refill (f := fun r => { r with rb := some rb, started := false }) h3 hpol (fun _ => rfl) (fun _ => rfl) c'

theorem Eng.Walked.takeVersion (h : e.Walked p n g) {b : BeatUnit} {q m v pol : Nat} (hpol : pol = 2 → e.fld (Reg.wlcCtrl p) 1 0 = 2) :
    e.Walked p n (g.takeVersion b q m v pol).2 := by
  have h1 : e.Walked p n (g.rebind m v) := h.andThen fun c => c.rebind
  unfold Eng.takeVersion
  extract_lets g1
  split
  next hp => exact h1.rebuild (hpol hp)
  · exact h1

theorem Eng.Walked.versionRow (h : e.Walked p n g) {b : BeatUnit} {q m pol : Nat} (hpol : pol = 2 → e.fld (Reg.wlcCtrl p) 1 0 = 2) :
    e.Walked p n (g.versionRow b q m pol).2 := by
  unfold Eng.versionRow
  extract_lets bound
  split
  · exact h
  · split
    · exact h
    · split
      · exact h
      · exact h.takeVersion hpol

/-- A request's policy is REPREFILL only where its partition's is (R438). -/
theorem Eng.policy_eq_two {q m : Nat} (h : g.policy q m = 2) : g.fld (Reg.wlcCtrl q) 1 0 = 2 := by
  unfold Eng.policy at h
  split at h
  · exact absurd h (by omega)
  · exact h

theorem Eng.Walked.versionStep (h : e.Walked p n g) {b : BeatUnit} {m : Nat} : e.Walked p n (g.versionStep b p m).2.2 := by
  unfold Eng.versionStep
  extract_lets r pol g1 g2
  clear_value r
  have h1 : e.Walked p n g1 := h.andThen fun c => c.onReq
  have h2 : ∀ o, e.Walked p n (g1.onReq m fun r => { r with pinned := o }) := fun o => h1.andThen fun c => c.onReq
  have hc : ∀ {k : Eng}, e.Walked p n k → k.fld (Reg.wlcCtrl p) 1 0 = 2 → e.fld (Reg.wlcCtrl p) 1 0 = 2 := fun h hp =>
    (Eng.fld_congr h.ctrl 1 0).symm.trans hp
  have hpol : pol = 2 → e.fld (Reg.wlcCtrl p) 1 0 = 2 := hc h
  split
  next v hpin =>
    extract_lets g3
    split
    · exact h2 _
    · split
      · exact h2 _
      · split
        next ok g4 htake => exact ((h2 _).takeVersion hpol).beside htake
  next hpin =>
    split
    · split
      next ok g4 hrow => exact ((h2 _).versionRow hpol).beside hrow
    · exact h2 _
  next hpin =>
    split
    · split
      next ok g4 hrow => exact (h1.versionRow fun hp => hc h1 (Eng.policy_eq_two hp)).beside hrow
    · exact h1

end
end Sys2Proof.Machine

namespace Sys2Proof.Machine

set_option Elab.async false

open Sys2Proof

section
variable {p : Fin 32} {n : Nat} {e g k : Eng} {x : WalkOut × Eng} {b : BeatUnit} {m : Nat} {o : Option Nat}

theorem Eng.Walked.retireFormed (h : e.Walked p n x.2) : e.Walked p n (Eng.retireFormed b p m x).2 := by
  unfold Eng.retireFormed
  split
  next ring g1 hleave => exact h.leave.beside hleave

theorem Eng.Walked.retire (h : e.Walked p n x.2) {st : Nat} : e.Walked p n (Eng.retire b p m st o x).2 := by
  unfold Eng.retire
  split
  next r g1 hrec =>
  have h1 : e.Walked p n g1 := Eng.Walked.beside (h.andThen fun c => c.retireRec) hrec
  split
  next ring g2 hleave => exact h1.leave.beside hleave

/-- A pause leaves its request PAUSED (R308). -/
theorem Eng.Walked.pauseReq (h : e.Walked p n g) {q : Nat} : e.Walked p n (g.pauseReq q m) := by
  have h1 : e.Walked p n (g.setRstate m rsPaused) := by
    by_cases hm : n = m
    · subst hm
      have c : g.Calm p (n + 1) (g.setRstate n rsPaused) := (Eng.Calm.refl g).setRstate fun h => absurd h (by omega)
      exact h.trans ⟨c.nums, c.going, c.ctrl, fun hg => hg.setRstate, .inr ⟨Eng.rgenerated_setRstate _ _ _ _,
        fun _ => Eng.rqf_setRstate _ _ _ _ _ _ (by omega), .inr (.inr (Eng.rstate_setRstate _ _ (by decide))), fun hg => hg.setRstate⟩⟩
    · exact h.andThen fun c => c.setRstate fun h => absurd h hm
  exact h1.andThen fun c => c.setStatus.bumpRqf.disarm.onReq

theorem Eng.Walked.pauseRow (h : e.Walked p n x.2) : e.Walked p n (Eng.pauseRow b p m o x).2 := by
  unfold Eng.pauseRow
  extract_lets g1
  split
  · exact h
  · split
    · exact h.andThen fun c => c.onReq
    · split
      next ok g2 hformed =>
      have h2 : e.Walked p n g2 := (h.pauseReq.andThen fun c => c.formed).beside hformed
      split
      · exact h2.andThen fun c => c.unformed
      · split
        next l g3 hlate => exact (h2.andThen fun c => c.lateAt_).beside hlate

theorem Eng.Walked.lowRows (h : e.Walked p n x.2) : e.Walked p n (Eng.lowRows b p m o x).2 := by
  unfold Eng.lowRows
  split
  next ok later g1 hver =>
  have h1 : e.Walked p n g1 := by
    have h1 : e.Walked p n (x.2.versionStep b p m).2.2 := h.versionStep
    rw [hver] at h1
    exact h1
  split
  · exact Eng.Walked.retire (x := (x.1, g1)) h1
  · exact Eng.Walked.pauseRow (x := (_, g1)) h1

theorem Eng.Walked.walkReq (h : e.Walked p n x.2) : e.Walked p n (Eng.walkReq b p o m x).2 := by
  unfold Eng.walkReq
  extract_lets g1 r y due g2
  clear_value r
  split
  · exact h.retireFormed
  · split
    · split
      next l g2 hlearn =>
      have h2 : e.Walked p n g2 := (h.andThen fun c => c.learnRec).beside hlearn
      exact Eng.Walked.retireFormed (x := (_, g2)) h2
    · split
      · exact h.retire
      · split
        · exact h.retire
        · split
          · exact h.retire
          · have h2 : e.Walked p n g2 := .ite (h.andThen fun c => c.bump.onReq) h
            exact Eng.Walked.lowRows (x := (_, g2)) h2

theorem Eng.Walked.walkEarly (h : e.Walked p n x.2) : e.Walked p n (Eng.walkEarly b p m x).2 := by
  unfold Eng.walkEarly
  extract_lets r a masked y
  have hy : e.Walked p n y.2 := Eng.Walked.walkReq (x := (x.1, x.2.onReq m fun _ => masked)) (h.andThen fun c => c.onReqAt)
  split
  · exact hy
  · exact hy.andThen fun c => c.onReq

theorem Eng.Walked.walkSlot (h : e.Walked p n x.2) {l : List Nat} {t : Nat} : e.Walked p n (Eng.walkSlot b p l t m x).2 := by
  unfold Eng.walkSlot
  extract_lets r all y
  have hall : e.Walked p n all.2 := h.andThen fun c => c.onReq
  have hy : e.Walked p n y.2 := by
    unfold y
    split
    · exact hall.walkReq
    · split
      · exact hall.walkReq
      · exact h.walkEarly
  exact .ite hy (hy.andThen fun c => c.onReq)

theorem Eng.Walked.walk (h : e.Walked p n x.2) {l mine : List Nat} {t : Nat} :
    e.Walked p n (l.foldl (fun x s => Eng.walkSlot b p mine t s x) x).2 := by
  induction l generalizing x with
  | nil => exact h
  | cons s r ih => exact ih h.walkSlot

end
end Sys2Proof.Machine

namespace Sys2Proof.Machine

set_option Elab.async false

open Sys2Proof

/-! ## The updates of a run at its step's boundary -/

/-- PREFILLED and GENERATED of a run's request after its step (R287, R441). -/
def Eng.filled (st : Step) (r : Run) (old : Nat) (e : Eng) : Eng :=
  let e := if r.phase = phDecode ∨ (st.badLearn.contains r.slot || st.lists.any fun l => decide (l.slot = r.slot)) = true then e
    else e.setRqf r.slot 5 63 32 (old + r.rows)
  e.setRqf r.slot 5 31 0 (e.rgenerated r.slot + (st.tokensOf r.slot).length)

/-- A request's return from its step: WAITING where it was ACTIVE, and in no step (R287). -/
def Eng.returned (m tok : Nat) (e : Eng) : Eng :=
  (if e.rstate m = rsActive then e.setRstate m rsWaiting else e).onReq m fun q => { q with inStep := none, lastTok := tok, age := 0 }

/-- The event of a row that was not sampled (R349). -/
def Eng.unsampled (q : Nat) (st : Step) (r : Run) (e : Eng) : Eng :=
  if r.sampled && !st.sampledRow r then (e.bump (Reg.smpUnsampledCount q) 31 0).ev (Reg.smpEvent q) 3 else e

theorem Eng.runUpdate_eq (b : BeatUnit) (q : Nat) (st : Step) (r : Run) (g : Eng) :
    ∃ k tok, (∀ p n, ((g.unsampled q st r).filled st r (g.rprefilled r.slot)).Calm p n k) ∧ (g.runUpdate b q st r).2 = k.returned r.slot tok := by
  unfold Eng.runUpdate
  extract_lets m toks old pos bad g1 g2 g3 g4 g5 g6
  have c3 : ∀ p n, g3.Calm p n g3 := fun _ _ => .refl _
  have c4 : ∀ p n, g3.Calm p n g4 := fun p n => .ite (c3 p n) (c3 p n).insertPages
  have c6 : ∀ p n, g3.Calm p n g6 := fun p n => .ite (Eng.Calm.ite (c4 p n).onReq (c4 p n)).onReq (.ite (c4 p n).onReq (c4 p n))
  split
  next tok g7 htok =>
  have c7 : ∀ p n, g3.Calm p n g7 := fun p n => by
    split at htok
    · exact (c6 p n).beside htok
    · split at htok
      · exact (c6 p n).readTokens.beside htok
      · exact (c6 p n).beside htok
  extract_lets ledger g8
  have c8 : ∀ p n, g3.Calm p n g8 := fun p n => .ite (c7 p n) ((c7 p n).ledgCycle fun h => h.charge)
  split
  next fail g9 hprompt =>
  have c9 : ∀ p n, g3.Calm p n g9 := fun p n => by
    split at hprompt
    · exact (c8 p n).promptWrite.beside hprompt
    · exact (c8 p n).beside hprompt
  exact ⟨g9.penUpdate b q m toks, tok, fun p n => (c9 p n).penUpdate, rfl⟩

section
variable {p : Fin 32} {n : Nat} {e g k : Eng} {b : BeatUnit} {q m : Nat} {st : Step} {r : Run}

theorem Eng.Calm.unsampled (h : e.Calm p n g) : e.Calm p n (g.unsampled q st r) := .ite h.bump.ev h

theorem Eng.Calm.filled (h : e.Calm p n g) {old : Nat} (hm : r.slot ≠ n) : e.Calm p n (g.filled st r old) :=
  (Eng.Calm.ite h (h.setRqf (by omega) (.inl hm))).setRqf (by omega) (.inl hm)

theorem Eng.Calm.returned (h : e.Calm p n g) {tok : Nat} : e.Calm p n (g.returned m tok) := by
  unfold Eng.returned
  refine Eng.Calm.onReq ?_ (fun _ h => h) fun _ _ => rfl
  split
  next ha => exact h.setRstate fun _ => ⟨ha, rfl⟩
  next => exact h

theorem Eng.Calm.runUpdate (h : e.Calm p n g) (hm : r.slot ≠ n) : e.Calm p n (g.runUpdate b q st r).2 := by
  obtain ⟨k, tok, hk, heq⟩ := g.runUpdate_eq b q st r
  rw [heq]
  exact (h.unsampled.filled hm).trans (hk p n) |>.returned

/-- The updates of runs are made in turn. -/
theorem Eng.runUpdates_cons (b : BeatUnit) (q : Nat) (st : Step) (r : Run) (l : List Run) (g : Eng) :
    (Eng.runUpdates b q st (r :: l) g).2 = (Eng.runUpdates b q st l (g.runUpdate b q st r).2).2 := by
  -- the update of one run is made opaque, as the kernel would else evaluate it
  obtain ⟨f, hf⟩ : ∃ f, f = Eng.runUpdate := ⟨_, rfl⟩
  delta Eng.runUpdates Eng.runUpdates._f
  rewrite [← hf]
  rfl

theorem Eng.Calm.runUpdates (h : e.Calm p n g) {l : List Run} (hl : ∀ r ∈ l, r.slot ≠ n) : e.Calm p n (Eng.runUpdates b q st l g).2 := by
  induction l generalizing g with
  | nil => exact h
  | cons r rest ih =>
    rw [Eng.runUpdates_cons]
    exact ih (h.runUpdate (hl r (by simp))) fun y hy => hl y (by simp [hy])

/-- The request of a returned run is in no step. -/
theorem Eng.returned_landed (m tok : Nat) (g : Eng) : (g.returned m tok).EachAt (fun r => r.inStep = none) m := by
  intro x hx hn
  rcases mem_kset hx with rfl | ⟨-, hne⟩
  · rfl
  · exact absurd hn hne

/-- What the update of a run does for its request, with what it keeps of the partition (R287). -/
structure Eng.Updated (p : Fin 32) (st : Step) (r : Run) (e f : Eng) : Prop where
  nums : (f.part p).steps.map (fun s => s.num) = (e.part p).steps.map (fun s => s.num)
  going : e.pstate p ≠ psResetting → f.pstate p ≠ psResetting
  ctrl : f.rd (Reg.wlcCtrl p) = e.rd (Reg.wlcCtrl p)
  landed : f.EachAt (fun r => r.inStep = none) r.slot
  state : e.rstate r.slot = rsActive → f.rstate r.slot = rsWaiting
  generated : f.rgenerated r.slot = (e.rgenerated r.slot + (st.tokensOf r.slot).length) % 2 ^ 32
  prefilled : r.phase ≠ phDecode → r.slot ∉ st.badLearn → (∀ l, l ∈ st.lists → l.slot ≠ r.slot) →
    f.rprefilled r.slot = (e.rprefilled r.slot + r.rows) % 2 ^ 32

/-- Operations that keep the slot keep its update. -/
theorem Eng.Updated.calm (h : e.Updated p st r g) (c : g.Calm p r.slot k) : e.Updated p st r k where
  nums := c.nums.trans h.nums
  going := c.going ∘ h.going
  ctrl := c.ctrl.trans h.ctrl
  landed := c.landed h.landed
  state ha := by
    rcases c.state with hs | ⟨hs, -⟩
    · rw [hs, h.state ha]
    · exact absurd ((h.state ha).symm.trans hs) (by decide)
  generated := c.rgenerated.trans h.generated
  prefilled hp hb hl := c.rprefilled.trans (h.prefilled hp hb hl)

theorem Eng.rgenerated_filled (g : Eng) (old : Nat) :
    (g.filled st r old).rgenerated r.slot = (g.rgenerated r.slot + (st.tokensOf r.slot).length) % 2 ^ 32 := by
  unfold Eng.filled
  extract_lets g1
  have h1 : g1.rgenerated r.slot = g.rgenerated r.slot := by
    unfold g1
    split
    · rfl
    · exact Eng.rgenerated_setPrefilled _ _ _ _
  rw [Eng.rgenerated, Eng.rqf_setRqf_self _ _ _ _ (by omega) (by omega), h1]

theorem Eng.rprefilled_filled (g : Eng) (old : Nat) (hp : r.phase ≠ phDecode) (hb : r.slot ∉ st.badLearn) (hl : ∀ l, l ∈ st.lists → l.slot ≠ r.slot) :
    (g.filled st r old).rprefilled r.slot = (old + r.rows) % 2 ^ 32 := by
  have hgood : ¬(r.phase = phDecode ∨ (st.badLearn.contains r.slot || st.lists.any fun l => decide (l.slot = r.slot)) = true) := by
    simpa [hp, hb] using hl
  unfold Eng.filled
  rw [if_neg hgood, Eng.rprefilled, Eng.rqf_setRqf_apart _ _ _ _ (by omega) (by omega) (.inr (by omega)),
    Eng.rqf_setRqf_self _ _ _ _ (by omega) (by omega)]

theorem Eng.rstate_filled (g : Eng) (old : Nat) : (g.filled st r old).rstate r.slot = g.rstate r.slot := by
  unfold Eng.filled
  extract_lets g1
  have h1 : g1.rstate r.slot = g.rstate r.slot := by
    unfold g1
    split
    · rfl
    · exact Eng.rqf_setRqf_ne _ _ _ _ _ _ (by omega) (by omega) (.inr (by omega))
  rw [← h1]
  exact Eng.rqf_setRqf_ne _ _ _ _ _ _ (by omega) (by omega) (.inr (by omega))

theorem Eng.rstate_onReq (e : Eng) (m k : Nat) (f : Req → Req) : (e.onReq m f).rstate k = e.rstate k := rfl

/-- A returned request is WAITING. -/
theorem Eng.rstate_returned (g : Eng) (tok : Nat) (h : g.rstate m = rsActive ∨ g.rstate m = rsWaiting) : (g.returned m tok).rstate m = rsWaiting := by
  unfold Eng.returned
  rw [Eng.rstate_onReq]
  split
  · exact Eng.rstate_setRstate _ _ (by decide)
  next hn => exact h.resolve_left hn

theorem Eng.Calm.updated (h : e.Calm p r.slot g) : e.Updated p st r (g.runUpdate b q st r).2 := by
  obtain ⟨k, tok, hk, heq⟩ := g.runUpdate_eq b q st r
  have c1 : e.Calm p r.slot (g.unsampled q st r) := h.unsampled
  have c2 := hk p r.slot
  have cr : k.Calm p r.slot (k.returned r.slot tok) := (Eng.Calm.refl k).returned
  -- what the partition keeps does not depend on the slot that is watched
  have c' : (g.unsampled q st r).Calm p (r.slot + 1) (k.returned r.slot tok) :=
    (((Eng.Calm.refl _).filled (by omega)).trans (hk p (r.slot + 1))).returned
  rw [heq]
  refine ⟨c'.nums.trans c1.nums, c'.going ∘ c1.going, c'.ctrl.trans c1.ctrl, k.returned_landed _ _, fun ha => ?_, ?_, fun hp hb hl => ?_⟩
  · refine k.rstate_returned tok ?_
    have hf := (g.unsampled q st r).rstate_filled (st := st) (r := r) (g.rprefilled r.slot)
    have h0 : (g.unsampled q st r).rstate r.slot = rsActive ∨ (g.unsampled q st r).rstate r.slot = rsWaiting := by
      rcases c1.state with hs | ⟨-, hs⟩
      · exact .inl (hs.trans ha)
      · exact .inr hs
    rcases c2.state with hs | ⟨-, hs⟩
    · rwa [hs, hf]
    · exact .inr hs
  · rw [cr.rgenerated, c2.rgenerated, Eng.rgenerated_filled, c1.rgenerated]
  · rw [cr.rprefilled, c2.rprefilled, Eng.rprefilled_filled _ _ hp hb hl, h.rprefilled]


/-- The updates of a step's runs, of which one is of the request that is watched. -/
theorem Eng.Calm.updates {x y : List Run} (h : e.Calm p r.slot g) (hx : ∀ z ∈ x, z.slot ≠ r.slot) (hy : ∀ z ∈ y, z.slot ≠ r.slot) :
    e.Updated p st r (Eng.runUpdates b q st (x ++ r :: y) g).2 := by
  induction x generalizing g with
  | nil =>
    rw [List.nil_append, Eng.runUpdates_cons]
    exact h.updated.calm ((Eng.Calm.refl _).runUpdates hy)
  | cons z rest ih =>
    rw [List.cons_append, Eng.runUpdates_cons]
    exact ih (h.runUpdate (hx z (by simp))) fun v hv => hx v (by simp [hv])

end
end Sys2Proof.Machine

namespace Sys2Proof.Machine

set_option Elab.async false

open Sys2Proof

theorem insertBy_perm {α : Type} (lt : α → α → Bool) (x : α) (l : List α) : (insertBy lt x l).Perm (x :: l) := by
  induction l with
  | nil => exact .refl _
  | cons y r ih =>
    unfold insertBy
    split
    · exact .refl _
    · exact (ih.cons y).trans (.swap x y r)

theorem sortBy_perm {α : Type} (lt : α → α → Bool) (l : List α) : (sortBy lt l).Perm l := by
  have h : ∀ s, (l.foldl (fun s x => insertBy lt x s) s).Perm (l ++ s) := by
    induction l with
    | nil => exact fun s => .refl s
    | cons x r ih => exact fun s => (ih _).trans (((insertBy_perm lt x s).append_left r).trans List.perm_middle)
  exact (h []).trans (.of_eq (List.append_nil l))

/-- The runs of a step whose requests have not left, by slot. -/
def Step.kept (st : Step) : List Run := sortBy (fun x y : Run => decide (x.slot < y.slot)) (st.runs.filter fun r => decide (r.slot ≠ deadSlot))

/-- Each request has one run in a step whose slots differ. -/
theorem Step.kept_split {st : Step} {r : Run} (hr : r ∈ st.runs) (hd : r.slot ≠ deadSlot) (hn : st.slots.Nodup) :
    ∃ x y, st.kept = x ++ r :: y ∧ (∀ z ∈ x, z.slot ≠ r.slot) ∧ ∀ z ∈ y, z.slot ≠ r.slot := by
  have hperm : st.kept.Perm (st.runs.filter fun r => decide (r.slot ≠ deadSlot)) := sortBy_perm _ _
  have hslots : (st.kept.map fun r => r.slot).Nodup := by
    refine (hperm.map _).nodup_iff.mpr ?_
    have hs : ((st.runs.map fun r => r.slot).filter fun s => decide (s ≠ deadSlot)).Nodup := (sortBy_perm _ _).nodup_iff.mp hn
    rwa [List.filter_map] at hs
  obtain ⟨x, y, hxy⟩ := List.append_of_mem (hperm.mem_iff.mpr (List.mem_filter.mpr ⟨hr, by simpa using hd⟩))
  rw [hxy, List.map_append, List.map_cons] at hslots
  have hnot := (List.nodup_middle.mp hslots).notMem
  simp only [List.mem_append, List.mem_map, not_or, not_exists, not_and] at hnot
  exact ⟨x, y, hxy, hnot.1, hnot.2⟩

/-- A step leaves its partition. -/
def Eng.stepLeft (p num : Nat) (e : Eng) : Eng :=
  e.onPart p fun q => { q with steps := q.steps.filter (fun s => decide (s.num ≠ num)), idleDue := false }

/-- The boundary of a step outside RESETTING: what comes before the updates of its runs, the updates, the step's departure, and
the walk (R16, R17, R20). -/
theorem Eng.stepBoundary_parts (p : Fin 32) (g : Eng) (b : BeatUnit) (st : Step) :
    ∃ k u, (∀ n, g.Calm p n k) ∧ (∀ n, (Eng.runUpdates b p st st.kept k).2.Calm p n u) ∧
      (u.pstate p ≠ psResetting → ∀ n, (u.stepLeft p st.num).Walked p n (g.stepBoundary b p st)) := by
  unfold Eng.stepBoundary
  extract_lets at_ mine g1 g2 g3 rs g4 g5
  have c5 : ∀ n, g.Calm p n g5 := fun n => by
    have c2 : g.Calm p n g2 := (Eng.Calm.refl g).releasePass.releasePass.rowsLeft.realignCut
    have c3 : g.Calm p n g3 := .ite c2 c2.switchBank
    have c4 : g.Calm p n g4 := c3.foldl fun _ _ h => .ite h.dropCopy h
    exact c4.foldl fun _ _ h => h.dropList
  split
  next bad g6 hruns =>
  have h6 : (Eng.runUpdates b p st st.kept g5).2 = g6 := congrArg Prod.snd hruns
  extract_lets g7 g8 all z g9 g10 g11
  refine ⟨g5, g7, c5, fun n => ?_, fun hgo n => ?_⟩
  · rw [h6]
    exact Eng.Calm.foldl (.refl _) fun _ _ h => h.countTree
  rw [if_neg (show g8.pstate p ≠ psResetting from hgo)]
  have w9 : g8.Walked p n g9 :=
    Eng.Walked.walk (x := (_, _)) (Eng.Calm.walked (Eng.Calm.foldl (.refl g8) fun _ _ h => h.measureStep))
  exact w9.andThen fun c => Eng.Calm.foldl (Eng.Calm.afterWalk (x := (_, _)) (Eng.Calm.foldl (Eng.Calm.foldl c fun _ _ h => .ite h.onReq h)
    fun _ _ h => h.specUpdate)) fun _ _ h => .ite h.alertReturn h

theorem exec_stepBoundary (s : State) (p : Fin 32) : exec (.stepBoundary p) s = execStepBoundary p s := rfl

/-- The step boundary of a state whose oldest step has been cut. -/
theorem exec_stepBoundary_cut {s : State} {p : Fin 32} {st : Step} {rest : List Step} (h : (s.eng.part p).steps = st :: rest)
    (hc : s.eng.cutReached p st = true) : exec (.stepBoundary p) s =
      .next (s.onEng fun b e => ((e.stepBoundary b p st).phase3IfIdle b p).kdlPump b) := by
  rw [exec_stepBoundary, execStepBoundary]
  unfold State.onEng
  simp only [h, hc, if_true]

/-- A step boundary before its cut does nothing (R16). -/
theorem exec_stepBoundary_uncut {s : State} {p : Fin 32} {st : Step} {rest : List Step} (h : (s.eng.part p).steps = st :: rest)
    (hc : s.eng.cutReached p st = false) : exec (.stepBoundary p) s = .next s := by
  rw [exec_stepBoundary, execStepBoundary]
  unfold State.onEng
  simp only [h, hc, Bool.false_eq_true, if_false]

theorem Eng.phase3IfIdle_of_going {p : Nat} {e : Eng} (b : BeatUnit) (h : e.pstate p ≠ psResetting) : e.phase3IfIdle b p = e := by
  unfold Eng.phase3IfIdle
  rw [if_neg fun hc => h hc.1]

/-- The numbers of the steps that stay as a step leaves. -/
theorem Eng.nums_stepLeft (p : Fin 32) (u : Eng) (num : Nat) :
    ((u.stepLeft p num).part p).steps.map (fun y => y.num) = ((u.part p).steps.map fun y => y.num).filter fun k => decide (k ≠ num) := by
  rw [Eng.stepLeft, Eng.part_onPart_self, List.filter_map]
  rfl

/-- At its boundary a step leaves its partition. -/
theorem stepBoundary_leaves {p : Fin 32} {e : Eng} {st : Step} {rest : List Step} (b : BeatUnit) (h : (e.part p).steps = st :: rest)
    (hgo : e.pstate p ≠ psResetting) (hrest : ∀ y, y ∈ rest → y.num ≠ st.num) :
    ((e.stepBoundary b p st).part p).steps.map (fun y => y.num) = rest.map (fun y => y.num) ∧ (e.stepBoundary b p st).pstate p ≠ psResetting := by
  obtain ⟨k, u, hk, hu, hw⟩ := e.stepBoundary_parts p b st
  -- no run that is updated is of the slot of the rows of no request
  have c : e.Calm p deadSlot u := ((hk deadSlot).runUpdates fun r hr => by
    simpa using (List.mem_filter.mp ((sortBy_perm _ _).mem_iff.mp hr)).2).trans (hu _)
  have w := hw (c.going hgo) deadSlot
  refine ⟨?_, w.going (c.going hgo)⟩
  rw [w.nums, Eng.nums_stepLeft, c.nums, h, List.map_cons, List.filter_cons_of_neg (by simp)]
  refine List.filter_eq_self.mpr fun k hk => ?_
  obtain ⟨y, hy, rfl⟩ := List.mem_map.mp hk
  simpa using hrest y hy

/-- The counts and the state that a request which stays has after its step's boundary. -/
theorem stepBoundary_updates {p : Fin 32} {e f : Eng} {st : Step} {r : Run} {b : BeatUnit} (hgo : e.pstate p ≠ psResetting) (hn : st.slots.Nodup)
    (hr : r ∈ st.runs) (hd : r.slot ≠ deadSlot) (hf : (e.stepBoundary b p st).Calm p r.slot f) (hlive : (f.req r.slot).live = true) :
    (f.req r.slot).inStep = none ∧ (e.rstate r.slot = rsActive → f.rstate r.slot = rsWaiting ∨ f.rstate r.slot = rsPaused) ∧
    f.rgenerated r.slot = (e.rgenerated r.slot + (st.tokensOf r.slot).length) % 2 ^ 32 ∧
    (e.fld (Reg.wlcCtrl p) 1 0 ≠ 2 → r.phase ≠ phDecode → r.slot ∉ st.badLearn → (∀ l, l ∈ st.lists → l.slot ≠ r.slot) →
      f.rprefilled r.slot = (e.rprefilled r.slot + r.rows) % 2 ^ 32) := by
  obtain ⟨k, u, hk, hu, hw⟩ := e.stepBoundary_parts p b st
  obtain ⟨x, y, hxy, hx, hy⟩ := Step.kept_split hr hd hn
  have up : e.Updated p st r u := by
    refine Eng.Updated.calm ?_ (hu r.slot)
    rw [hxy]
    exact (hk r.slot).updates hx hy
  have w : (u.stepLeft p st.num).Walked p r.slot f := (hw (up.going hgo) r.slot).trans hf.walked
  rcases w.slot with hv | ⟨hgen, hpre, hst, hland⟩
  · have hdead : (f.req r.slot).live = false := hv.req (P := fun r => r.live = false) rfl
    rw [hdead] at hlive
    exact absurd hlive (by decide)
  · refine ⟨(hland up.landed).req (P := fun r => r.inStep = none) rfl, fun ha => ?_, hgen.trans up.generated, fun hc hp hb hl => ?_⟩
    · rcases hst with hst | hst
      · exact .inl (hst.trans (up.state ha))
      · exact hst
    · refine (hpre ?_).trans (up.prefilled hp hb hl)
      rwa [show (u.stepLeft p st.num).fld (Reg.wlcCtrl p) 1 0 = e.fld (Reg.wlcCtrl p) 1 0 from Eng.fld_congr up.ctrl 1 0]

end Sys2Proof.Machine

namespace Sys2Proof.Machine

set_option Elab.async false

open Sys2Proof

/-! ## What retires a request changes beside it -/

/-- The registers that give a partition's slots, and the head and the size of its completion ring. -/
def RingReg (p a : Nat) : Prop := a = Reg.partRqt p ∨ a = door p doorCqHead ∨ a = Reg.spoutCqSize p

/-- A register that is none of those. -/
def RingQuiet (a : Nat) : Prop := ∀ p, p < 32 → ¬RingReg p a

theorem RingQuiet.fam {c : Nat} (q : Nat) (h : 0x28000 ≤ c ∧ c % 0x100 ≠ 0x10 ∧ c % 0x100 ≠ 8) : RingQuiet (c + 0x100 * q) := by
  rintro p hp (hr | hr | hr)
  · have : c + 0x100 * q = 0x20010 + 0x400 * p := hr
    omega
  · have : c + 0x100 * q = 0x200000 + 0x10000 * p + 0x10 := hr
    omega
  · have : c + 0x100 * q = 0xf0008 + 0x100 * p := hr
    omega

theorem RingQuiet.one {a : Nat} (h : 0x28000 ≤ a ∧ a < 0x200000 ∧ (a < 0xf0000 ∨ 0xf2000 ≤ a)) : RingQuiet a := by
  rintro p hp (hr | hr | hr)
  · have : a = 0x20010 + 0x400 * p := hr
    omega
  · have : a = 0x200000 + 0x10000 * p + 0x10 := hr
    omega
  · have : a = 0xf0008 + 0x100 * p := hr
    omega

/-- The request table, the generations and the freed slots of a partition stay as they are. -/
structure Eng.Filed (p : Fin 32) (e f : Eng) : Prop where
  gens : f.gens = e.gens
  rqt : f.rqt = e.rqt
  freed : (f.part p).freed = (e.part p).freed

/-- No record leaves, and the completion ring and its registers stay as they are. -/
structure Eng.Rung (p : Fin 32) (e f : Eng) : Prop where
  txns : f.txns = e.txns
  cq : (f.part p).cq = (e.part p).cq
  regs : ∀ a, RingReg p a → f.rd a = e.rd a

/-- Neither the request table nor the completion ring sees a change. -/
structure Eng.Hushed (p : Fin 32) (e f : Eng) : Prop extends e.Filed p f, e.Rung p f

section
variable {p : Fin 32} {e g k : Eng}

theorem Eng.Filed.trans (h : e.Filed p g) (h' : g.Filed p k) : e.Filed p k :=
  ⟨h'.gens.trans h.gens, h'.rqt.trans h.rqt, h'.freed.trans h.freed⟩

theorem Eng.Filed.rqf (h : e.Filed p g) (m w hi lo : Nat) : g.rqf m w hi lo = e.rqf m w hi lo := by
  rw [Eng.rqf, Eng.rqw, h.rqt]
  rfl

theorem Eng.Rung.trans (h : e.Rung p g) (h' : g.Rung p k) : e.Rung p k :=
  ⟨h'.txns.trans h.txns, h'.cq.trans h.cq, fun a ha => (h'.regs a ha).trans (h.regs a ha)⟩

theorem Eng.Rung.ringFree (h : e.Rung p g) : g.ringFree p none = e.ringFree p none := by
  have hh : g.fld (door p doorCqHead) 31 0 = e.fld (door p doorCqHead) 31 0 := Eng.fld_congr (h.regs _ (.inr (.inl rfl))) _ _
  have hs : g.fld (Reg.spoutCqSize p) 4 0 = e.fld (Reg.spoutCqSize p) 4 0 := Eng.fld_congr (h.regs _ (.inr (.inr rfl))) _ _
  simp only [Eng.ringFree, Eng.ringLog2, Eng.ringHead, Eng.ring, hh, hs, h.cq]

theorem Eng.Hushed.refl (e : Eng) : e.Hushed p e := ⟨⟨rfl, rfl, rfl⟩, rfl, rfl, fun _ _ => rfl⟩

theorem Eng.Hushed.trans (h : e.Hushed p g) (h' : g.Hushed p k) : e.Hushed p k :=
  ⟨h.toFiled.trans h'.toFiled, h.toRung.trans h'.toRung⟩

theorem Eng.Hushed.rest (h : e.Hushed p g) (hp : k.parts = g.parts := by rfl) (hr : k.regs = g.regs := by rfl) (ht : k.rqt = g.rqt := by rfl)
    (hg : k.gens = g.gens := by rfl) (hx : k.txns = g.txns := by rfl) : e.Hushed p k :=
  h.trans ⟨⟨hg, ht, by simp only [Eng.part, hp]⟩, hx, by simp only [Eng.part, hp], fun _ _ => by simp only [Eng.rd, hr]⟩

theorem Eng.Hushed.ite {c : Prop} [Decidable c] (h : e.Hushed p g) (h' : e.Hushed p k) : e.Hushed p (if c then g else k) := by
  split
  · exact h
  · exact h'

theorem Eng.Hushed.foldl {α : Type} (h : e.Hushed p g) {f : Eng → α → Eng} {l : List α} (hf : ∀ {g} x, e.Hushed p g → e.Hushed p (f g x)) :
    e.Hushed p (l.foldl f g) := by
  induction l generalizing g with
  | nil => exact h
  | cons x r ih => exact ih (hf x h)

theorem Eng.Hushed.onPart (h : e.Hushed p g) {q : Nat} {f : Partn → Partn} (hf : ∀ x, (f x).freed = x.freed := by exact fun _ => rfl)
    (hc : ∀ x, (f x).cq = x.cq := by exact fun _ => rfl) : e.Hushed p (g.onPart q f) := by
  have hpart : ((g.onPart q f).part p).freed = (g.part p).freed ∧ ((g.onPart q f).part p).cq = (g.part p).cq := by
    by_cases hq : p.val = q
    · rw [← hq, Eng.part_onPart_self]
      exact ⟨hf _, hc _⟩
    · rw [Eng.part_onPart_ne _ _ hq]
      exact ⟨rfl, rfl⟩
  exact h.trans ⟨⟨rfl, rfl, hpart.1⟩, rfl, hpart.2, fun _ _ => rfl⟩

theorem Eng.Hushed.wr (h : e.Hushed p g) {a : Nat} {v : Word} (ha : RingQuiet a := by exact .fam _ (by decide)) : e.Hushed p (g.wr a v) :=
  h.trans ⟨⟨rfl, rfl, rfl⟩, rfl, rfl, fun _ hr => Eng.rd_wr_ne _ _ fun hra => ha p.val p.isLt (hra ▸ hr)⟩

theorem Eng.Hushed.setF (h : e.Hushed p g) {a hi lo v : Nat} (ha : RingQuiet a := by exact .fam _ (by decide)) : e.Hushed p (g.setF a hi lo v) := h.wr ha
theorem Eng.Hushed.ev (h : e.Hushed p g) {a i : Nat} (ha : RingQuiet a := by exact .fam _ (by decide)) : e.Hushed p (g.ev a i) := h.wr ha
theorem Eng.Hushed.bump (h : e.Hushed p g) {a hi lo c : Nat} (ha : RingQuiet a := by exact .fam _ (by decide)) : e.Hushed p (g.bump a hi lo c) := h.wr ha

theorem Eng.Hushed.onReq (h : e.Hushed p g) {m : Nat} {f : Req → Req} : e.Hushed p (g.onReq m f) := h.rest

theorem RingQuiet.notLog {a : Nat} (h : RingReg p a) : a ∉ logRegs := by
  have hall : ∀ a ∈ logRegs, 0x28000 ≤ a ∧ a < 0x200000 ∧ (a < 0xf0000 ∨ 0xf2000 ≤ a) := by decide
  exact fun hm => RingQuiet.one (hall a hm) p.val p.isLt h

theorem Eng.Hushed.logsOnly (h : e.Hushed p g) (k' : g.LogsOnly k) : e.Hushed p k := by
  obtain ⟨⟨r, m, l, w, rfl⟩, hr⟩ := k'
  exact h.trans ⟨⟨rfl, rfl, rfl⟩, rfl, rfl, fun a ha => hr a (RingQuiet.notLog ha)⟩

theorem Eng.Hushed.basin (h : e.Hushed p g) (k' : g.BasinOnly k) : e.Hushed p k := by
  obtain ⟨⟨r, m, l, w, pg, nd, ps, rfl⟩, hr, hp⟩ := k'
  obtain ⟨a, c, d, hq⟩ := hp p
  exact h.trans ⟨⟨rfl, rfl, by rw [hq]⟩, rfl, by rw [hq], fun a ha => hr a (RingQuiet.notLog ha)⟩

theorem Eng.Hushed.dropPages (h : e.Hushed p g) {b : BeatUnit} {q m : Nat} : e.Hushed p (g.dropPages b q m) := by
  have hcopy : e.Hushed p (g.dropCopy b q m) := by
    unfold Eng.dropCopy
    split
    · exact h
    · exact (h.basin (Eng.BasinOnly.refl g).releasePages).onReq
  have hlist : ∀ l, e.Hushed p ((g.dropCopy b q m).dropList b q l) := fun l => hcopy.basin (Eng.BasinOnly.refl _).dropList
  unfold Eng.dropPages
  dsimp only
  refine Eng.Hushed.onReq ?_
  split
  · exact .ite hcopy.onPart (hlist _)
  · exact hlist _

theorem Eng.Hushed.beside {α : Type} {x : α × Eng} {a : α} (h : e.Hushed p x.2) (hx : x = (a, k)) : e.Hushed p k := by
  rw [hx] at h
  exact h

theorem Eng.Hushed.switchBank (h : e.Hushed p g) {b : BeatUnit} {q num : Nat} : e.Hushed p (g.switchBank b q num) := by
  unfold Eng.switchBank
  extract_lets bank g1
  have h1 : e.Hushed p g1 := Eng.Hushed.setF (h.rest (k := { g with bankSwitch := g.bankSwitch.filter fun j => decide (j ≠ q) })) (.one (by decide))
  exact .ite h ((h1.logsOnly (Eng.logAdd_logsOnly _ _ _ _ _ _)).setF (.one (by decide)))

theorem Eng.Hushed.switchIdle (h : e.Hushed p g) {b : BeatUnit} {q : Nat} : e.Hushed p (g.switchIdle b q) := by
  have hd : e.Hushed p g.drawFree.2 := h.rest
  unfold Eng.switchIdle
  split
  · exact h
  · split
    next j g1 hfree => exact (hd.beside hfree).switchBank

theorem Eng.logsOnly_keeps (h : g.LogsOnly k) : k.reqs = g.reqs ∧ k.parts = g.parts := by
  obtain ⟨⟨r, m, l, w, rfl⟩, -⟩ := h
  exact ⟨rfl, rfl⟩

theorem Eng.setF_keeps (g : Eng) (a hi lo v : Nat) : (g.setF a hi lo v).reqs = g.reqs ∧ (g.setF a hi lo v).parts = g.parts := ⟨rfl, rfl⟩

theorem Eng.showLevel_keeps (g : Eng) : g.showLevel.reqs = g.reqs ∧ g.showLevel.parts = g.parts := g.setF_keeps _ _ _ _

theorem Eng.switchBank_keeps (g : Eng) (b : BeatUnit) (q num : Nat) :
    (g.switchBank b q num).reqs = g.reqs ∧ (g.switchBank b q num).parts = g.parts := by
  unfold Eng.switchBank
  extract_lets bank g1
  split
  · exact ⟨rfl, rfl⟩
  · obtain ⟨hreqs, hparts⟩ := Eng.logsOnly_keeps (Eng.logAdd_logsOnly b 0x0012 0 (some q) (leBytes 4 bank ++ leBytes 8 num) g1)
    exact ⟨(Eng.showLevel_keeps _).1.trans hreqs, (Eng.showLevel_keeps _).2.trans hparts⟩

theorem Eng.switchIdle_keeps (g : Eng) (b : BeatUnit) (q : Nat) : (g.switchIdle b q).reqs = g.reqs ∧ (g.switchIdle b q).parts = g.parts := by
  unfold Eng.switchIdle
  split
  · exact ⟨rfl, rfl⟩
  · split
    next j g1 hfree =>
      have h1 : g1 = g.drawFree.2 := (congrArg Prod.snd hfree).symm
      rw [(g1.switchBank_keeps b q _).1, (g1.switchBank_keeps b q _).2, h1]
      exact ⟨rfl, rfl⟩

theorem Eng.Hushed.freeTring (h : e.Hushed p g) {j : Nat} : e.Hushed p (g.freeTring j) := by
  unfold Eng.freeTring
  extract_lets q g1
  have h1 : e.Hushed p g1 := h.rest
  exact h1.setF.setF (.one (by decide))

theorem Eng.Hushed.tryFreeTring (h : e.Hushed p g) {j : Nat} : e.Hushed p (g.tryFreeTring j) := .ite h.freeTring h

theorem Eng.Hushed.setVslot (h : e.Hushed p g) {q m : Nat} {v : VSlot} : e.Hushed p (g.setVslot q m v) := h.onPart

theorem Eng.Hushed.drainVersions (h : e.Hushed p g) {q : Nat} : e.Hushed p (g.drainVersions q) :=
  h.foldl fun _ h => .ite h.setVslot.ev h

/-- What a request that leaves takes with it (R220). -/
theorem Eng.leave_fields (b : BeatUnit) (n : Nat) (g : Eng) :
    ∃ f, g.Hushed p f ∧ (g.leave b p n).1 = g.rring n ∧ (g.leave b p n).2.gens = kmod 0 f.gens n (· + 1) ∧
      (g.leave b p n).2.rqt = f.rqt.filter (fun x => decide (x.1 / 24 ≠ n)) ∧ (g.leave b p n).2.txns = f.txns ∧
      ((g.leave b p n).2.part p).freed = (f.part p).freed ++ [n] ∧ ((g.leave b p n).2.part p).cq = (f.part p).cq ∧
      ∀ a, (g.leave b p n).2.rd a = f.rd a := by
  unfold Eng.leave
  extract_lets ring g1 g2 g3
  have h2 : g.Hushed p g2 := by
    have h1 : g.Hushed p g1 := (Eng.Hushed.refl g).dropPages
    unfold g2
    clear_value ring
    cases ring with
    | some j => exact h1.rest
    | none => exact h1
  exact ⟨g2, h2, rfl, rfl, rfl, rfl, by rw [Eng.part_onPart_self]; rfl, by rw [Eng.part_onPart_self]; rfl, fun _ => rfl⟩

end
end Sys2Proof.Machine

namespace Sys2Proof.Machine

set_option Elab.async false

open Sys2Proof

/-! ## Records without a token (R412) -/

theorem ofLe_leBytes_four {v : Nat} (h : v < 2 ^ 32) : ofLe (leBytes 4 v) = v := by
  have hl : leBytes 4 v = [BitVec.ofNat 8 (v / 256 ^ 0), BitVec.ofNat 8 (v / 256 ^ 1), BitVec.ofNat 8 (v / 256 ^ 2), BitVec.ofNat 8 (v / 256 ^ 3)] := rfl
  rw [hl]
  simp only [ofLe, BitVec.toNat_ofNat]
  omega

/-- The handle of a record. -/
theorem recBody_handle {b : BeatUnit} {h pos tok logp v st fl aux : Nat} (hh : h < 2 ^ 32) :
    fieldAt (recBody b h pos tok logp v st fl aux) 0 4 = h := ofLe_leBytes_four hh

/-- The status of a record. -/
theorem recBody_status {b : BeatUnit} {h pos tok logp v st fl aux : Nat} (hs : st < 256) :
    fieldAt (recBody b h pos tok logp v st fl aux) 0x12 1 = st := by
  have hb : bytesAt (recBody b h pos tok logp v st fl aux) 0x12 1 = [BitVec.ofNat 8 st] := rfl
  rw [fieldAt, hb, ofLe, ofLe, BitVec.toNat_ofNat, Nat.mod_eq_of_lt hs]
  omega

/-! ## A request retires at a boundary without a step (R18, R20, R220) -/

/-- A request has left the table: its slot is free and its entry is cleared, its generation has risen, and its slot is given back. -/
structure Eng.Left (p : Fin 32) (n : Nat) (e f : Eng) : Prop where
  gens : kget 0 f.gens n = kget 0 e.gens n + 1
  words : ∀ w, w < 24 → f.rqw n w = 0
  freed : (f.part p).freed = (e.part p).freed ++ [n]
  vacant : f.EachAt (fun r => r.live = false) n

section
variable {p : Fin 32} {n : Nat} {e g k : Eng} {b : BeatUnit}

theorem Eng.Filed.left (h : e.Filed p g) (h' : g.Left p n k) : e.Left p n k :=
  ⟨by rw [h'.gens, h.gens], h'.words, by rw [h'.freed, h.freed], h'.vacant⟩

theorem Eng.Left.filed (h : e.Left p n g) (h' : g.Filed p k) (c : g.Calm p n k) : e.Left p n k :=
  ⟨by rw [h'.gens, h.gens], fun w hw => by rw [Eng.rqw, h'.rqt]; exact h.words w hw, by rw [h'.freed, h.freed], c.vacant h.vacant⟩

theorem Eng.leave_left (b : BeatUnit) (n : Nat) (g : Eng) : g.Left p n (g.leave b p n).2 ∧ g.Rung p (g.leave b p n).2 ∧ (g.leave b p n).1 = g.rring n := by
  obtain ⟨f, hf, hring, hgens, hrqt, htxns, hfreed, hcq, hrd⟩ := g.leave_fields (p := p) b n
  refine ⟨⟨?_, fun w hw => ?_, by rw [hfreed, hf.freed], g.leave_vacant b p n⟩,
    ⟨htxns.trans hf.txns, hcq.trans hf.cq, fun a ha => (hrd a).trans (hf.regs a ha)⟩, hring⟩
  · rw [hgens, kget_kmod_self, hf.gens]
  · rw [Eng.rqw, hrqt]
    refine kget_eq_default fun x hx => ?_
    have hne : x.1 / 24 ≠ n := by simpa using (List.mem_filter.mp hx).2
    omega

/-- A partition whose sources hold forms its record at once. -/
theorem Eng.formed_of_holds {q : Nat} (h : (g.part q).srcFails = 0) : g.formed b q = (true, g) := by
  unfold Eng.formed
  rw [h]
  rfl

/-- A request that retires with a status outside a step: its record, and what it leaves. -/
theorem Eng.retire_left {st : Nat} {w : WalkOut} (h : (g.part p).srcFails = 0) :
    ∃ f, g.Left p n f ∧ g.Rung p f ∧ Eng.retire b p n st none (w, g) =
      (⟨w.recs ++ [(g.rring n, g.plainRec b n st rfTerminal)], w.rings ++ (g.rring n).toList, w.later⟩, f) := by
  let g1 := if st = stDeadline then (g.bump (Reg.latDeadlines p) 31 16).ev (Reg.latEvent p) 2 else g
  have h1 : g.Hushed p g1 := .ite (Eng.Hushed.ev (Eng.Hushed.bump (.refl g))) (.refl g)
  have hring : g1.rring n = g.rring n := by simp only [Eng.rring, h1.rqf]
  have hrec : g.retireRec b p n st none = ((g1.rring n, g.plainRec b n st rfTerminal), g1) := by
    unfold Eng.retireRec
    rw [Eng.formed_of_holds h]
    rfl
  obtain ⟨hl, hr, hleave⟩ := g1.leave_left (p := p) b n
  refine ⟨_, h1.toFiled.left hl, h1.toRung.trans hr, ?_⟩
  unfold Eng.retire
  rw [hrec]
  dsimp only
  rw [hleave, hring]

/-- A cancellation comes before every other event (R20). -/
theorem Eng.walkReq_cancel {x : WalkOut × Eng} {q : Nat} (ht : (x.2.req n).termEv = none) (hc : (x.2.req n).cancel = true) :
    Eng.walkReq b q none n x = Eng.retire b q n stCancelled none x := by
  unfold Eng.walkReq
  simp [ht, hc]

/-- A HARD deadline that has come is next (R20). -/
theorem Eng.walkReq_deadline {x : WalkOut × Eng} {q : Nat} (ht : (x.2.req n).termEv = none) (hc : (x.2.req n).cancel = false)
    (hd : x.2.deadlineHit b n = true) (hh : x.2.rqf n 6 63 63 = 1) : Eng.walkReq b q none n x = Eng.retire b q n stDeadline none x := by
  unfold Eng.walkReq
  simp [ht, hc, hd, hh]

end
end Sys2Proof.Machine

namespace Sys2Proof.Machine

set_option Elab.async false

open Sys2Proof

section
variable {p : Fin 32} {n : Nat} {e g k : Eng} {b : BeatUnit} {q : Nat} {r : Option Nat} {x : QRec}

theorem Eng.Filed.onRing {f : Ring → Ring} (h : e.Filed p g) : e.Filed p (g.onRing q r f) := by
  cases r with
  | none =>
    refine h.trans ⟨rfl, rfl, ?_⟩
    by_cases hq : p.val = q
    · rw [Eng.onRing, ← hq, Eng.part_onPart_self]
    · rw [Eng.onRing, Eng.part_onPart_ne _ _ hq]
  | some j => exact h.trans ⟨rfl, rfl, rfl⟩

/-- A record of no step that measures nothing, as it is issued. -/
theorem Eng.issueRec_plain (g : Eng) (hm : x.meas = none) : g.issueRec b q r x =
    (g.onRing q r fun g => { g with next := (g.next + 1) % 2 ^ 32 }).issueTxn q (g.recAddr q r (g.ring q r).next)
      (.record q r (g.ring q r).next { x with spill := none }) := by
  unfold Eng.issueRec
  rw [hm]

theorem Eng.Filed.putRec (h : e.Filed p g) (hm : x.meas = none) (hs : x.step = none) : e.Filed p (g.putRec b q r x) := by
  unfold Eng.putRec
  split
  · rw [Eng.issueRec_plain g hm]
    exact h.onRing.trans ⟨rfl, rfl, rfl⟩
  · rw [if_neg (by simp [hs])]
    exact h.onRing

theorem Eng.Filed.putBoundary (h : e.Filed p g) {l : List Byte} : e.Filed p (g.putBoundary b q [(r, l)]) := by
  cases r with
  | none => exact h.putRec rfl rfl
  | some j => exact h.putRec rfl rfl

/-- A boundary's record leaves at once where the completion ring has room and nothing waits (R423, R425). -/
theorem Eng.putBoundary_issued (g : Eng) (l : List Byte) (hq : (g.part q).cq.queue = []) (hf : g.ringFree q none = true) :
    ∃ y x, (g.putBoundary b q [(none, l)]).txns = g.txns ++ [y] ∧ y.kind = .record q none (g.part q).cq.next x ∧ x.bytes = l := by
  have hput : g.putBoundary b q [(none, l)] = g.putRec b q none (mkRec b l none none (some (0, 1))) := rfl
  rw [hput, Eng.putRec, if_pos ⟨hq, hf⟩, Eng.issueRec_plain g rfl]
  exact ⟨_, _, rfl, rfl, rfl⟩

/-- What follows the walk of a request that has retired. -/
theorem Eng.afterWalk_retired {f : Eng} {l : List Byte} (hl : g.Left p n f) (hr : g.Rung p f) :
    let t := Eng.afterWalk b p (⟨[(g.rring n, l)], (g.rring n).toList, []⟩, f)
    g.Left p n t ∧ (g.rring n = none → (g.part p).cq.queue = [] → g.ringFree p none = true →
      ∃ y x, t.txns = g.txns ++ [y] ∧ y.kind = .record p none (g.part p).cq.next x ∧ x.bytes = l) := by
  intro t
  have ht : (f.putBoundary b p [(g.rring n, l)]).Hushed p t :=
    Eng.Hushed.drainVersions (Eng.Hushed.foldl (.refl _) fun _ h => h.tryFreeTring)
  have hp : f.Filed p (f.putBoundary b p [(g.rring n, l)]) := Eng.Filed.putBoundary ⟨rfl, rfl, rfl⟩
  refine ⟨hl.filed (hp.trans ht.toFiled) (Eng.Calm.afterWalk (x := (_, _)) (.refl f)), fun hring hq hfree => ?_⟩
  rw [ht.txns, hring, ← hr.txns, ← hr.cq]
  exact Eng.putBoundary_issued f l (by rw [hr.cq]; exact hq) (hr.ringFree.trans hfree)

/-- A request in no step and no batch that retires at the boundary. -/
theorem Eng.walkSlot_retired {st t : Nat} {w : WalkOut} (hin : (g.req n).inStep = none) (hb : (g.req n).inBatch = false)
    (hs : (g.part p).srcFails = 0) (hst : Eng.walkReq b p none n (w, g.onReq n Req.merged) = Eng.retire b p n st none (w, g.onReq n Req.merged)) :
    ∃ f, g.Left p n f ∧ g.Rung p f ∧ Eng.walkSlot b p [] t n (w, g) =
      (⟨w.recs ++ [(g.rring n, g.plainRec b n st rfTerminal)], w.rings ++ (g.rring n).toList, w.later⟩, f) := by
  obtain ⟨f, hl, hr, heq⟩ := Eng.retire_left (g := g.onReq n Req.merged) (b := b) (n := n) (st := st) (w := w) hs
  have hm : g.Hushed p (g.onReq n Req.merged) := (Eng.Hushed.refl g).onReq
  let f' := if (f.req n).early = Events.none then f else f.onReq n fun r => { r with early := Events.none }
  have hf : f.Hushed p f' := .ite (.refl f) (Eng.Hushed.onReq (.refl f))
  have cf : f.Calm p n f' := .ite (.refl f) (Eng.Calm.onReq (.refl f))
  refine ⟨f', hm.toFiled.left (hl.filed hf.toFiled cf), hm.toRung.trans (hr.trans hf.toRung), ?_⟩
  unfold Eng.walkSlot
  simp only [List.contains_nil, Bool.false_eq_true, if_false, hin, hb, Option.isNone_none, Bool.not_false, Bool.and_self, if_true, hst, heq]
  rfl

end
end Sys2Proof.Machine

namespace Sys2Proof.Machine

set_option Elab.async false

open Sys2Proof

/-! ## A boundary without a step (R18, R306, R519) -/

/-- The engine with which the walk of an idle boundary begins. -/
def Eng.idleStart (b : BeatUnit) (p : Nat) (e : Eng) : Eng := (e.onPart p fun q => { q with idleDue := false }).switchIdle b p

theorem exec_idleBoundary (s : State) (p : Fin 32) : exec (.idleBoundary p) s = execIdleBoundary p s := rfl

/-- A RUNNING partition with no step in flight walks its idle slots. -/
theorem exec_idleBoundary_running {s : State} {p : Fin 32} (hr : s.eng.running p = true) (hs : (s.eng.part p).steps = []) :
    exec (.idleBoundary p) s = .next (s.onEng fun b e => Eng.afterWalk b p
      (((e.idleStart b p).idleSlots p).foldl (fun x s => Eng.walkSlot b p [] 0 s x) (⟨[], [], []⟩, e.idleStart b p))) := by
  rw [exec_idleBoundary, execIdleBoundary]
  unfold State.onEng
  simp only [hr, hs, Bool.true_or, Bool.not_true, ne_eq, not_true_eq_false, decide_false, Bool.false_and, Bool.or_false, Bool.false_eq_true, if_false]
  rfl

/-- A HALTED partition's boundary only switches its bank (R306). -/
theorem exec_idleBoundary_halted {s : State} {p : Fin 32} (hh : s.eng.pstate p = psHalted) (hs : (s.eng.part p).steps = []) :
    exec (.idleBoundary p) s = .next (s.onEng fun b e => e.idleStart b p) := by
  have hr : s.eng.running p = false := by
    rw [Eng.running, hh]
    decide
  rw [exec_idleBoundary, execIdleBoundary]
  unfold State.onEng
  simp only [hr, hh, hs, decide_true, Bool.or_true, Bool.not_true, ne_eq, not_true_eq_false, decide_false, Bool.false_and, Bool.or_false,
    Bool.false_eq_true, if_false, Bool.not_false, if_true]
  rfl

/-- With steps in flight and no boundary due there is none. -/
theorem exec_idleBoundary_busy {s : State} {p : Fin 32} (hs : (s.eng.part p).steps ≠ []) (hd : (s.eng.part p).idleDue = false) :
    exec (.idleBoundary p) s = .next s := by
  rw [exec_idleBoundary, execIdleBoundary]
  unfold State.onEng
  simp only [hs, hd, ne_eq, not_false_eq_true, decide_true, Bool.not_false, Bool.and_self, Bool.or_true, if_true]

section
variable {p : Fin 32} {n : Nat} {e g k : Eng} {b : BeatUnit}

theorem Eng.idleStart_hushed (e : Eng) (b : BeatUnit) : e.Hushed p (e.idleStart b p) := Eng.Hushed.switchIdle (Eng.Hushed.onPart (.refl e))

theorem Eng.idleStart_reqs (e : Eng) (b : BeatUnit) (q : Nat) : (e.idleStart b q).reqs = e.reqs := (Eng.switchIdle_keeps _ _ _).1

theorem Eng.idleStart_srcFails (e : Eng) (b : BeatUnit) (q : Nat) : ((e.idleStart b q).part q).srcFails = (e.part q).srcFails := by
  have h : (e.idleStart b q).part q = (e.onPart q fun x => { x with idleDue := false }).part q := by
    rw [Eng.part, Eng.idleStart, (Eng.switchIdle_keeps _ _ _).2]
    rfl
  rw [h, Eng.part_onPart_self]

theorem Eng.req_of_reqs (h : g.reqs = e.reqs) : g.req = e.req := by
  unfold Eng.req
  rw [h]

/-- The slots of an idle boundary follow from the requests, their entries and the partition's range. -/
theorem Eng.idleSlots_congr (h : e.Hushed p g) (hq : g.reqs = e.reqs) : g.idleSlots p = e.idleSlots p := by
  have hrange : ∀ hi lo, g.fld (Reg.partRqt p) hi lo = e.fld (Reg.partRqt p) hi lo := Eng.fld_congr (h.regs _ (.inl rfl))
  have hhandle : g.rhandle = e.rhandle := funext fun m => h.rqf m 0 63 32
  unfold Eng.idleSlots Eng.liveSlots Eng.rqtBase Eng.rqtSize
  rw [hrange, hrange, hhandle, Eng.req_of_reqs hq, hq]

theorem Eng.deadlineHit_congr {q : Nat} (hd : g.rdeadline q = e.rdeadline q) (hq : g.req q = e.req q) : g.deadlineHit b q = e.deadlineHit b q := by
  unfold Eng.deadlineHit
  rw [hd, hq]

theorem Req.merged_of_none {r : Req} (h : r.early = Events.none) : r.merged = r := by
  cases r
  simp only at h
  subst h
  simp only [Req.merged, Events.none, Bool.or_false, Req.mk.injEq, true_and, and_true]
  split
  · rfl
  next hp => exact (Option.not_isSome_iff_eq_none.mp hp).symm

end
end Sys2Proof.Machine

namespace Sys2Proof.Machine

set_option Elab.async false

open Sys2Proof

section
variable {s : State} {p : Fin 32} {n : Nat}

/-- The engine as the walk of an idle boundary meets a request. -/
def State.idleAt (s : State) (p n : Nat) : Eng := (s.eng.idleStart s.beat p).onReq n Req.merged

theorem State.idleAt_hushed (s : State) (n : Nat) : s.eng.Hushed p (s.idleAt p n) := (Eng.idleStart_hushed s.eng s.beat).onReq

/-- A request with no event that waits is met as it stood. -/
theorem State.idleAt_req {q : Nat} (h : (s.eng.req n).early = Events.none) : (s.idleAt q n).req n = s.eng.req n := by
  rw [State.idleAt, Eng.req_onReq_self, Eng.req_of_reqs (s.eng.idleStart_reqs s.beat q), Req.merged_of_none h]

theorem State.idleAt_deadlineHit (h : (s.eng.req n).early = Events.none) : (s.idleAt p n).deadlineHit s.beat n = s.eng.deadlineHit s.beat n :=
  Eng.deadlineHit_congr ((s.idleAt_hushed n).rqf n 6 55 0) (State.idleAt_req h)

theorem Eng.rhandle_lt (e : Eng) (m : Nat) : e.rhandle m < 2 ^ 32 := bitsOf_lt _ _ _

/-- An idle boundary at which the one idle request retires with a status (R20, R220, R412). -/
theorem idleBoundary_retires {st : Nat} (hr : s.eng.running p = true) (hs : (s.eng.part p).steps = []) (hi : s.eng.idleSlots p = [n])
    (hin : (s.eng.req n).inStep = none) (hb : (s.eng.req n).inBatch = false) (hsrc : (s.eng.part p).srcFails = 0) (hst : st < 256)
    (hw : Eng.walkReq s.beat p none n (⟨[], [], []⟩, s.idleAt p n) = Eng.retire s.beat p n st none (⟨[], [], []⟩, s.idleAt p n)) :
    ∃ t y q, exec (.idleBoundary p) s = .next t ∧ (t.eng.req n).live = false ∧ (t.eng.part p).freed = (s.eng.part p).freed ++ [n] ∧
      kget 0 t.eng.gens n = kget 0 s.eng.gens n + 1 ∧ (∀ w, w < 24 → t.eng.rqw n w = 0) ∧
      (s.eng.rring n = none → (s.eng.part p).cq.queue = [] → s.eng.ringFree p none = true → t.eng.txns = s.eng.txns ++ [y] ∧
        y.kind = .record p none (s.eng.part p).cq.next q ∧ fieldAt q.bytes 0 4 = s.eng.rhandle n ∧ fieldAt q.bytes 0x12 1 = st) := by
  have h0 : s.eng.Hushed p (s.eng.idleStart s.beat p) := Eng.idleStart_hushed _ _
  have hq0 : (s.eng.idleStart s.beat p).req = s.eng.req := Eng.req_of_reqs (Eng.idleStart_reqs _ _ _)
  obtain ⟨f, hl, hf, hwalk⟩ := Eng.walkSlot_retired (g := s.eng.idleStart s.beat p) (t := 0) (by rw [hq0]; exact hin) (by rw [hq0]; exact hb)
    (by rw [Eng.idleStart_srcFails]; exact hsrc) hw
  obtain ⟨ha, hx⟩ := Eng.afterWalk_retired (b := s.beat) (l := (s.eng.idleStart s.beat p).plainRec s.beat n st rfTerminal) hl hf
  have hring : (s.eng.idleStart s.beat p).rring n = s.eng.rring n := by simp only [Eng.rring, h0.rqf]
  have hhandle : (s.eng.idleStart s.beat p).rhandle n = s.eng.rhandle n := h0.rqf _ _ _ _
  obtain ⟨t, hexec, ht⟩ : ∃ t, exec (.idleBoundary p) s = .next t ∧ t.eng = Eng.afterWalk s.beat p (⟨[((s.eng.idleStart s.beat p).rring n,
      (s.eng.idleStart s.beat p).plainRec s.beat n st rfTerminal)], ((s.eng.idleStart s.beat p).rring n).toList, []⟩, f) := by
    refine ⟨_, exec_idleBoundary_running hr hs, ?_⟩
    rw [State.onEng_eng, Eng.idleSlots_congr h0 (Eng.idleStart_reqs _ _ _), hi, List.foldl_cons, List.foldl_nil, hwalk]
    rfl
  rw [← ht] at ha hx
  have hleft := h0.toFiled.left ha
  have hfinal := ha.vacant.req (P := fun r => r.live = false) rfl
  by_cases hout : s.eng.rring n = none ∧ (s.eng.part p).cq.queue = [] ∧ s.eng.ringFree p none = true
  · obtain ⟨ho, hcq, hfree⟩ := hout
    obtain ⟨y, q, htx, hkind, hbytes⟩ := hx (hring.trans ho) (by rw [h0.cq]; exact hcq) (h0.toRung.ringFree.trans hfree)
    refine ⟨t, y, q, hexec, hfinal, hleft.freed, hleft.gens, hleft.words, fun _ _ _ => ⟨?_, ?_, ?_, ?_⟩⟩
    · rw [← h0.txns]
      exact htx
    · rw [hkind, h0.cq]
    · rw [hbytes, Eng.plainRec, recBody_handle (Eng.rhandle_lt _ _), hhandle]
    · rw [hbytes, Eng.plainRec, recBody_status hst]
  · exact ⟨t, ⟨0, 0, 0, 0, .record 0 none 0 (mkRec s.beat [] none none none)⟩, mkRec s.beat [] none none none, hexec, hfinal, hleft.freed, hleft.gens,
      hleft.words, fun h1 h2 h3 => absurd ⟨h1, h2, h3⟩ hout⟩

/-! ## A pause at a boundary without a step (R308) -/

theorem Eng.putRec_reqs (g : Eng) {b : BeatUnit} {q : Nat} {r : Option Nat} {x : QRec} (hm : x.meas = none) (hs : x.step = none) :
    (g.putRec b q r x).reqs = g.reqs := by
  have hring : ∀ f, (g.onRing q r f).reqs = g.reqs := fun f => by cases r <;> rfl
  unfold Eng.putRec
  split
  · rw [Eng.issueRec_plain g hm]
    exact hring _
  · rw [if_neg (by simp [hs])]
    exact hring _

theorem Eng.drainVersions_reqs (g : Eng) (q : Nat) : (g.drainVersions q).reqs = g.reqs := by
  unfold Eng.drainVersions
  generalize List.range 4 = l
  induction l generalizing g with
  | nil => rfl
  | cons x r ih =>
    rw [List.foldl_cons, ih]
    split <;> rfl

/-- A record of a request that stays leaves the requests and their entries as they are. -/
theorem Eng.afterWalk_stays (g : Eng) (b : BeatUnit) (r : Option Nat) (l : List Byte) :
    g.Filed p (Eng.afterWalk b p (⟨[(r, l)], [], []⟩, g)) ∧ (Eng.afterWalk b p (⟨[(r, l)], [], []⟩, g)).reqs = g.reqs := by
  have hput : (g.putBoundary b p [(r, l)]).reqs = g.reqs := by
    cases r with
    | none => exact Eng.putRec_reqs g rfl rfl
    | some j => exact Eng.putRec_reqs g rfl rfl
  refine ⟨?_, (Eng.drainVersions_reqs _ _).trans hput⟩
  have hf : g.Filed p (g.putBoundary b p [(r, l)]) := Eng.Filed.putBoundary ⟨rfl, rfl, rfl⟩
  exact hf.trans (Eng.Hushed.drainVersions (.refl _)).toFiled

theorem Eng.rstate_pauseReq (g : Eng) (q m : Nat) : (g.pauseReq q m).rstate m = rsPaused := by
  have c : (g.setRstate m rsPaused).Calm 0 m (g.pauseReq q m) := (Eng.Calm.refl _).setStatus.bumpRqf.disarm.onReq
  have h0 : (g.setRstate m rsPaused).rstate m = rsPaused := Eng.rstate_setRstate _ _ (by decide)
  rcases c.state with h | ⟨h, -⟩
  · rw [h, h0]
  · exact absurd (h0.symm.trans h) (by decide)

theorem Eng.req_setRqf (e : Eng) (m w hi lo v : Nat) : (e.setRqf m w hi lo v).req = e.req := rfl

theorem Eng.part_setRqf (e : Eng) (m w hi lo v : Nat) : (e.setRqf m w hi lo v).part = e.part := rfl

theorem Eng.part_onReq (e : Eng) (m : Nat) (f : Req → Req) : (e.onReq m f).part = e.part := rfl

/-- A disarmed alert (R298). -/
theorem Eng.req_disarm (e : Eng) (q m : Nat) : ((e.disarm q m).req m).alert = none ∧ ((e.disarm q m).req m).live = (e.req m).live := by
  have hpart : ∀ (e : Eng) (f : Partn → Partn), (e.onPart q f).req = e.req := fun _ _ => rfl
  unfold Eng.disarm
  split
  next ha => exact ⟨ha, rfl⟩
  next ha =>
    rw [hpart, Eng.req_onReq_self]
    exact ⟨rfl, rfl⟩

theorem Eng.disarm_srcFails (e : Eng) (q m : Nat) : ((e.disarm q m).part q).srcFails = (e.part q).srcFails := by
  unfold Eng.disarm
  split
  · rfl
  · rw [Eng.part_onPart_self, Eng.part_onReq]

/-- The request that a pause takes (R308). -/
theorem Eng.req_pauseReq (g : Eng) (q m : Nat) :
    ((g.pauseReq q m).req m).pauseEv = false ∧ ((g.pauseReq q m).req m).live = (g.req m).live ∧ ((g.pauseReq q m).req m).alert = none := by
  unfold Eng.pauseReq
  rw [Eng.req_onReq_self]
  refine ⟨rfl, ?_, (Eng.req_disarm _ q m).1⟩
  refine (Eng.req_disarm _ q m).2.trans ?_
  rw [Eng.bumpRqf, Eng.req_setRqf, Eng.req_setRqf, Eng.setRstate, Eng.req_setRqf]

theorem Eng.pauseReq_srcFails (g : Eng) (q m : Nat) : ((g.pauseReq q m).part q).srcFails = (g.part q).srcFails := by
  unfold Eng.pauseReq
  rw [Eng.part_onReq, Eng.disarm_srcFails, Eng.bumpRqf, Eng.part_setRqf, Eng.part_setRqf, Eng.setRstate, Eng.part_setRqf]

/-- A request with no version event keeps its version. -/
theorem Eng.versionStep_quiet {g : Eng} {b : BeatUnit} {q : Nat} (hp : (g.req n).pinEv = none) (hv : (g.req n).verEv = false) :
    g.versionStep b q n = (true, false, g.onReq n fun r => { r with verEv := false, pinEv := none }) := by
  unfold Eng.versionStep
  simp [hp, hv]

/-- A pause event takes a request that is not PAUSED. -/
theorem Eng.pauseRow_pauses {g : Eng} {b : BeatUnit} {w : WalkOut} {q : Nat} (hp : (g.req n).pauseEv = true) (hs : g.rstate n ≠ rsPaused)
    (hf : (g.part q).srcFails = 0) :
    Eng.pauseRow b q n none (w, g) =
      ({ w with recs := w.recs ++ [((g.pauseReq q n).rring n, (g.pauseReq q n).plainRec b n stPaused 0)] }, g.pauseReq q n) := by
  have hformed : (g.pauseReq q n).formed b q = (true, g.pauseReq q n) := Eng.formed_of_holds ((g.pauseReq_srcFails q n).trans hf)
  unfold Eng.pauseRow
  simp [hp, hs, hformed, Eng.lateAt_]

/-- A pause event alone at an idle boundary (R20, R308). -/
theorem Eng.walkReq_pauses {g : Eng} {b : BeatUnit} {w : WalkOut} {q : Nat} (ht : (g.req n).termEv = none) (hc : (g.req n).cancel = false)
    (hd : g.deadlineHit b n = false) (hfe : (g.req n).faultEv = none) (hv : (g.req n).verEv = false) (hpin : (g.req n).pinEv = none)
    (hp : (g.req n).pauseEv = true) (hs : g.rstate n ≠ rsPaused) (hf : (g.part q).srcFails = 0) :
    ∃ l, Eng.walkReq b q none n (w, g) =
      ({ w with recs := w.recs ++ [l] }, (g.onReq n fun r => { r with verEv := false, pinEv := none }).pauseReq q n) := by
  have hlow : Eng.walkReq b q none n (w, g) = Eng.lowRows b q n none (w, g) := by
    unfold Eng.walkReq
    simp [ht, hc, hd, hfe]
  have hrow := Eng.pauseRow_pauses (g := g.onReq n fun r => { r with verEv := false, pinEv := none }) (b := b) (w := w) (q := q) (n := n)
    (by rw [Eng.req_onReq_self]; exact hp) (by rw [Eng.rstate_onReq]; exact hs) hf
  refine ⟨_, hlow.trans (Eq.trans ?_ hrow)⟩
  unfold Eng.lowRows
  rw [Eng.versionStep_quiet hpin hv]
  rfl

/-- A request in no step and no batch that stays at the boundary. -/
theorem Eng.walkSlot_stays {g f : Eng} {b : BeatUnit} {w v : WalkOut} {q t : Nat} (hin : (g.req n).inStep = none) (hb : (g.req n).inBatch = false)
    (hw : Eng.walkReq b q none n (w, g.onReq n Req.merged) = (v, f)) :
    ∃ f', Eng.walkSlot b q [] t n (w, g) = (v, f') ∧ f.Hushed p f' ∧ ∀ a, (f.req n).pauseEv = a → (f.req n).live = true → (f.req n).alert = none →
      (f'.req n).pauseEv = a ∧ (f'.req n).live = true ∧ (f'.req n).alert = none := by
  refine ⟨if (f.req n).early = Events.none then f else f.onReq n fun r => { r with early := Events.none }, ?_,
    .ite (.refl f) (Eng.Hushed.onReq (.refl f)), fun a ha hl hn => ?_⟩
  · unfold Eng.walkSlot
    simp only [List.contains_nil, Bool.false_eq_true, if_false, hin, hb, Option.isNone_none, Bool.not_false, Bool.and_self, if_true, hw]
  · split
    · exact ⟨ha, hl, hn⟩
    · rw [Eng.req_onReq_self]
      exact ⟨ha, hl, hn⟩

/-- An idle boundary at which the one idle request is paused. -/
theorem idleBoundary_pauses (hr : s.eng.running p = true) (hs : (s.eng.part p).steps = []) (hi : s.eng.idleSlots p = [n])
    (he : (s.eng.req n).early = Events.none) (ht : (s.eng.req n).termEv = none) (hin : (s.eng.req n).inStep = none)
    (hb : (s.eng.req n).inBatch = false) (hsrc : (s.eng.part p).srcFails = 0) (hc : (s.eng.req n).cancel = false)
    (hd : s.eng.deadlineHit s.beat n = false) (hfe : (s.eng.req n).faultEv = none) (hv : (s.eng.req n).verEv = false)
    (hpin : (s.eng.req n).pinEv = none) (hl : (s.eng.req n).live = true) (hp : (s.eng.req n).pauseEv = true) (hst : s.eng.rstate n ≠ rsPaused) :
    ∃ t, exec (.idleBoundary p) s = .next t ∧ t.eng.rstate n = rsPaused ∧ (t.eng.req n).pauseEv = false ∧ (t.eng.req n).live = true ∧
      (t.eng.req n).alert = none := by
  have h0 : s.eng.Hushed p (s.eng.idleStart s.beat p) := Eng.idleStart_hushed _ _
  have hq0 : (s.eng.idleStart s.beat p).req = s.eng.req := Eng.req_of_reqs (Eng.idleStart_reqs _ _ _)
  have hq := State.idleAt_req (q := p) he
  obtain ⟨⟨r, l⟩, hwalk⟩ := Eng.walkReq_pauses (g := s.idleAt p n) (b := s.beat) (w := ⟨[], [], []⟩) (q := p) (n := n) (by rw [hq]; exact ht)
    (by rw [hq]; exact hc) (by rw [State.idleAt_deadlineHit he]; exact hd) (by rw [hq]; exact hfe) (by rw [hq]; exact hv) (by rw [hq]; exact hpin)
    (by rw [hq]; exact hp) (by rw [Eng.rstate, (s.idleAt_hushed n).rqf]; exact hst) ((Eng.idleStart_srcFails s.eng s.beat p).trans hsrc)
  obtain ⟨f, hslot, hf, hfq⟩ := Eng.walkSlot_stays (p := p) (t := 0) (by rw [hq0]; exact hin) (by rw [hq0]; exact hb) hwalk
  obtain ⟨ht', hreqs⟩ := f.afterWalk_stays (p := p) s.beat r l
  obtain ⟨t, hexec, ht⟩ : ∃ t, exec (.idleBoundary p) s = .next t ∧ t.eng = Eng.afterWalk s.beat p (⟨[(r, l)], [], []⟩, f) := by
    refine ⟨_, exec_idleBoundary_running hr hs, ?_⟩
    rw [State.onEng_eng, Eng.idleSlots_congr h0 (Eng.idleStart_reqs _ _ _), hi, List.foldl_cons, List.foldl_nil, hslot]
    rfl
  rw [← ht] at ht' hreqs
  obtain ⟨hpause, hlive, halert⟩ := Eng.req_pauseReq ((s.idleAt p n).onReq n fun r => { r with verEv := false, pinEv := none }) p n
  have hlive' : (((s.idleAt p n).onReq n fun r => { r with verEv := false, pinEv := none }).req n).live = true := by
    rw [Eng.req_onReq_self, hq]
    exact hl
  refine ⟨t, hexec, ?_, ?_⟩
  · rw [Eng.rstate, ht'.rqf, hf.rqf]
    exact Eng.rstate_pauseReq _ _ _
  · rw [Eng.req_of_reqs hreqs]
    exact hfq _ hpause (hlive.trans hlive') halert

end
end Sys2Proof.Machine

namespace Sys2Proof.Machine

set_option Elab.async false

open Sys2Proof

/-! ## The hand-over of a step's batch (R420) -/

/-- The steps in flight of a partition and the operations of the plane stay as they are. -/
structure Eng.Steady (p : Nat) (e f : Eng) : Prop where
  steps : (f.part p).steps = (e.part p).steps
  queue : f.planeq = e.planeq
  wait : f.planeWait = e.planeWait

section
variable {p : Nat} {e g k : Eng} {b : BeatUnit} {q m : Nat}

theorem Eng.Steady.refl (e : Eng) : e.Steady p e := ⟨rfl, rfl, rfl⟩

theorem Eng.Steady.trans (h : e.Steady p g) (h' : g.Steady p k) : e.Steady p k :=
  ⟨h'.steps.trans h.steps, h'.queue.trans h.queue, h'.wait.trans h.wait⟩

theorem Eng.Steady.rest (h : e.Steady p g) (hp : k.parts = g.parts := by rfl) (hq : k.planeq = g.planeq := by rfl)
    (hw : k.planeWait = g.planeWait := by rfl) : e.Steady p k := h.trans ⟨by simp only [Eng.part, hp], hq, hw⟩

theorem Eng.Steady.ite {c : Prop} [Decidable c] (h : e.Steady p g) (h' : e.Steady p k) : e.Steady p (if c then g else k) := by
  split
  · exact h
  · exact h'

theorem Eng.Steady.foldl {α : Type} (h : e.Steady p g) {f : Eng → α → Eng} {l : List α} (hf : ∀ {g} x, e.Steady p g → e.Steady p (f g x)) :
    e.Steady p (l.foldl f g) := by
  induction l generalizing g with
  | nil => exact h
  | cons x r ih => exact ih (hf x h)

theorem Eng.Steady.onPart (h : e.Steady p g) {f : Partn → Partn} (hf : ∀ x, (f x).steps = x.steps := by exact fun _ => rfl) :
    e.Steady p (g.onPart q f) := by
  refine h.trans ⟨?_, rfl, rfl⟩
  by_cases hq : p = q
  · rw [hq, Eng.part_onPart_self, hf]
  · rw [Eng.part_onPart_ne _ _ hq]

theorem Eng.Steady.wr (h : e.Steady p g) {a : Nat} {v : Word} : e.Steady p (g.wr a v) := h.rest
theorem Eng.Steady.setF (h : e.Steady p g) {a hi lo v : Nat} : e.Steady p (g.setF a hi lo v) := h.wr
theorem Eng.Steady.ev (h : e.Steady p g) {a i : Nat} : e.Steady p (g.ev a i) := h.wr
theorem Eng.Steady.bump (h : e.Steady p g) {a hi lo c : Nat} : e.Steady p (g.bump a hi lo c) := h.wr
theorem Eng.Steady.bumpWrap (h : e.Steady p g) {a hi lo c : Nat} : e.Steady p (g.bumpWrap a hi lo c) := h.wr
theorem Eng.Steady.store (h : e.Steady p g) {a : Nat} {d : List Byte} : e.Steady p (g.store a d) := h.rest
theorem Eng.Steady.setRqw (h : e.Steady p g) {w : Nat} {v : Dword} : e.Steady p (g.setRqw m w v) := h.rest
theorem Eng.Steady.setRqf (h : e.Steady p g) {w hi lo v : Nat} : e.Steady p (g.setRqf m w hi lo v) := h.setRqw
theorem Eng.Steady.onReq (h : e.Steady p g) {f : Req → Req} : e.Steady p (g.onReq m f) := h.rest

theorem Eng.Steady.tenantRec (h : e.Steady p g) {kind ctx pc fault : Nat} {l : List Byte} : e.Steady p (g.tenantRec b q kind ctx pc fault l) := by
  unfold Eng.tenantRec
  dsimp only
  split
  · exact h.bump
  · exact h.store.bumpWrap.ev

theorem Eng.Steady.memRec (h : e.Steady p g) {a : Nat} {w : Bool} : e.Steady p (g.memRec b q a w) := by
  unfold Eng.memRec
  split
  · exact h
  · exact h.tenantRec.onPart

theorem Eng.Steady.storeHeader (h : e.Steady p g) {r : Option Nat} : e.Steady p (g.storeHeader b q r) := by
  unfold Eng.storeHeader
  split
  · exact h.memRec
  · exact h.store

theorem Eng.Steady.halt (h : e.Steady p g) : e.Steady p (g.halt b q) := by
  unfold Eng.halt
  split
  · exact h
  · exact Eng.Steady.foldl (Eng.Steady.storeHeader (Eng.Steady.onPart (Eng.Steady.onPart (h.setF.ev)))) fun _ h => h.storeHeader

theorem Eng.Steady.partStore (h : e.Steady p g) {a : Nat} {d : List Byte} : e.Steady p (g.partStore b q a d) := by
  unfold Eng.partStore
  split
  · exact h.memRec.halt
  · exact h.store

theorem Eng.Steady.markLate (h : e.Steady p g) {a : Nat} {t : Bool} {l : List Byte} : e.Steady p (g.markLate q m a t l).2 := by
  unfold Eng.markLate
  split
  · extract_lets g1
    have h1 : e.Steady p g1 := h.bumpWrap.setRqf
    exact .ite h1.setRqf h1
  · exact h

theorem Eng.Steady.measureFirst (h : e.Steady p g) : e.Steady p (g.measureFirst b q m) := by
  unfold Eng.measureFirst
  extract_lets t g1 g2 g3 g4
  have h1 : e.Steady p g1 := h.setRqw.setRqf
  have h2 : e.Steady p g2 := h1.setF
  have h3 : e.Steady p g3 := .ite h2.setRqf h2
  exact (Eng.Steady.ite h3.bump (.ite h3.setRqf.bump.ev h3)).onReq

theorem Eng.Steady.measure (h : e.Steady p g) : e.Steady p (g.measure b q m) := by
  unfold Eng.measure
  extract_lets first g1 g2
  have h1 : e.Steady p g1 := .ite h.measureFirst h
  have h2 : e.Steady p g2 := .ite (.ite h1 h1.onReq.onPart) h1
  exact h2.onReq

theorem Eng.Steady.onRing (h : e.Steady p g) {r : Option Nat} {f : Ring → Ring} : e.Steady p (g.onRing q r f) := by
  cases r with
  | none => exact h.onPart
  | some j => exact h.rest

theorem Eng.Steady.putRec (h : e.Steady p g) {r : Option Nat} {x : QRec} : e.Steady p (g.putRec b q r x) := by
  refine .ite (Eng.Steady.rest (Eng.Steady.onRing (f := fun g => { g with next := (g.next + 1) % 2 ^ 32 }) (q := q) (r := r) ?_)) (.ite ?_ h.onRing)
  · cases x.meas with
    | none => exact h
    | some j => exact h.measure
  · exact h.partStore.ev.onPart.onRing.setF.setF

theorem Eng.Steady.putBatch (h : e.Steady p g) {s : Option Nat} {l : List (List Byte × Option Nat)} : e.Steady p (g.putBatch b q s l) :=
  h.foldl fun _ h => h.putRec

/-- Records that are taken are marked as handed over; the others stand as they are. -/
theorem Eng.takeRecs_spec (q t : Nat) (f : FormedRec → Bool) (l : List FormedRec) (g : Eng) :
    g.Steady p (Eng.takeRecs q t f l g).2.2 ∧
      (Eng.takeRecs q t f l g).2.1 = l.map (fun r => if !r.handed && f r then { r with handed := true } else r) ∧
      ((Eng.takeRecs q t f l g).1 = [] ↔ ∀ r ∈ l, r.handed = true ∨ f r = false) := by
  induction l generalizing g with
  | nil => exact ⟨.refl g, rfl, by simp [Eng.takeRecs]⟩
  | cons r rest ih =>
    unfold Eng.takeRecs
    by_cases hr : (!r.handed && f r) = true
    · obtain ⟨hs, hc, -⟩ := ih (g.markLate q r.slot t r.terminal r.bytes).2
      rw [if_pos hr, List.map_cons, if_pos hr]
      have hopen : ¬(r.handed = true ∨ f r = false) := by
        simp only [Bool.and_eq_true, Bool.not_eq_true'] at hr
        simp [hr.1, hr.2]
      refine ⟨(Eng.Steady.markLate (.refl g)).trans hs, congrArg _ hc, ⟨fun h => absurd h (by simp), fun h => absurd (h r (by simp)) hopen⟩⟩
    · obtain ⟨hs, hc, hn⟩ := ih g
      rw [if_neg hr, List.map_cons, if_neg hr]
      have hshut : r.handed = true ∨ f r = false := by
        cases hh : r.handed <;> cases hf : f r <;> simp_all
      exact ⟨hs, congrArg _ hc, hn.trans ⟨fun h y hy => (List.mem_cons.mp hy).elim (fun hy => hy ▸ hshut) (h y), fun h y hy => h y (by simp [hy])⟩⟩

/-- No operation of the step is left, as it was. -/
theorem Eng.Steady.opsLeft (h : e.Steady p g) (num : Nat) : g.opsLeft p num = e.opsLeft p num := by
  unfold Eng.opsLeft
  rw [h.queue, h.wait]

theorem Eng.Steady.stepOf (h : e.Steady p g) (num : Nat) : g.stepOf p num = e.stepOf p num := by
  unfold Eng.stepOf
  rw [h.steps]

/-- The step of a number after a change of it that keeps the number. -/
theorem Eng.stepOf_onStep (g : Eng) {num : Nat} {f : Step → Step} {st : Step} (h : g.stepOf p num = some st) (hf : ∀ s, (f s).num = s.num) :
    (g.onStep p num f).stepOf p num = some (f st) := by
  have hnum : st.num = num := by simpa using List.find?_some h
  unfold Eng.stepOf Eng.onStep at *
  rw [Eng.part_onPart_self, List.find?_map]
  have hfun : ((fun s : Step => decide (s.num = num)) ∘ fun s => if s.num = num then f s else s) = fun s => decide (s.num = num) := by
    funext s
    by_cases hs : s.num = num <;> simp [hs, hf]
  rw [hfun, h, Option.map_some, if_pos hnum]

theorem Eng.opsLeft_onStep (g : Eng) (num j : Nat) (f : Step → Step) : (g.onStep p num f).opsLeft p j = g.opsLeft p j := rfl

/-- The step once its privileged records have been handed over: a record of the completion ring stands as it did. -/
theorem Eng.flushPriv_spec {g : Eng} {num : Nat} {st : Step} (h : g.stepOf p num = some st) {r : FormedRec} (hr : r ∈ st.recs)
    (hring : g.rring r.slot = none) (hg : st.groupsDone = true) :
    ∃ u, (g.flushPriv b p num).stepOf p num = some u ∧ r ∈ u.recs ∧ u.groupsDone = true ∧ (g.flushPriv b p num).opsLeft p num = g.opsLeft p num := by
  obtain ⟨f, hf⟩ : ∃ f, g.flushPriv b p num = f := ⟨_, rfl⟩
  rw [hf]
  unfold Eng.flushPriv at hf
  rw [h] at hf
  dsimp only at hf
  generalize (if g.opsLeft p num = true then b.time else st.lateAt.getD b.time) = late at hf
  obtain ⟨hs, hc, -⟩ := Eng.takeRecs_spec (p := p) p late (fun r => (g.rring r.slot).isSome) st.recs g
  have hmem : r ∈ (Eng.takeRecs p late (fun r => (g.rring r.slot).isSome) st.recs g).2.1 := by
    rw [hc]
    exact List.mem_map.mpr ⟨r, hr, by simp [hring]⟩
  split at hf
  · subst hf
    exact ⟨st, (hs.stepOf num).trans h, hr, hg, hs.opsLeft num⟩
  · subst hf
    have hput : ∀ (e : Eng) (l : List (FormedRec × List Byte)), e.Steady p (l.foldl (fun e x => e.putRec b p (e.rring x.1.slot) (mkRec b x.2 (e.meas x.1) (some num) none)) e) :=
      fun e _ => Eng.Steady.foldl (.refl e) fun _ h => h.putRec
    have hstep := fun f hf => Eng.stepOf_onStep _ (f := f) ((hs.stepOf num).trans h) hf
    exact ⟨_, ((hput _ _).stepOf num).trans (hstep _ fun _ => rfl), hmem, hg,
      ((hput _ _).opsLeft num).trans ((Eng.opsLeft_onStep _ num num _).trans (hs.opsLeft num))⟩

/-- A batch that is ready is handed over as one unit, with nothing held back (R286, R420). -/
theorem Eng.flushBatch_spec {g : Eng} {num : Nat} {st : Step} (h : g.stepOf p num = some st) {r : FormedRec} (hr : r ∈ st.recs)
    (hh : r.handed = false) (hready : g.batchReady p st = true) :
    ∃ u, (g.flushBatch b p num).stepOf p num = some u ∧ u.batched = true ∧ ∀ r, r ∈ u.recs → r.handed = true := by
  obtain ⟨hs, hc, hn⟩ := Eng.takeRecs_spec (p := p) p (st.lateAt.getD b.time) (fun _ => true) st.recs g
  have hsome : (Eng.takeRecs p (st.lateAt.getD b.time) (fun _ => true) st.recs g).1 ≠ [] := fun hp => by simpa [hh] using hn.mp hp r hr
  unfold Eng.flushBatch
  rw [h]
  simp only [hready, Bool.not_true, Bool.false_eq_true, if_false, hsome]
  have hstep := fun f hf => Eng.stepOf_onStep _ (f := f) ((hs.stepOf num).trans h) hf
  refine ⟨_, ((Eng.Steady.putBatch (.refl _)).stepOf num).trans (hstep _ fun _ => rfl), rfl, fun x hx => ?_⟩
  obtain ⟨y, -, rfl⟩ := List.mem_map.mp (hc ▸ hx : x ∈ st.recs.map _)
  cases hy : y.handed <;> simp [hy]

/-- A step's records are handed over with its batch (R420, R423). -/
theorem Eng.flushRecs_spec {g : Eng} {st : Step} (h : g.stepOf p st.num = some st) (hready : g.batchReady p st = true)
    (hr : ∃ r, r ∈ st.recs ∧ r.handed = false ∧ g.rring r.slot = none) :
    ∃ u, (g.flushRecs b p st.num).stepOf p st.num = some u ∧ u.batched = true ∧ ∀ r, r ∈ u.recs → r.handed = true := by
  obtain ⟨r, hr, hh, hring⟩ := hr
  unfold Eng.batchReady at hready
  obtain ⟨hops, hgroups⟩ := (Bool.and_eq_true _ _).mp hready
  obtain ⟨u, hu, hru, hgu, hopsu⟩ := Eng.flushPriv_spec (b := b) h hr hring hgroups
  have hnum : u.num = st.num := by simpa using List.find?_some hu
  refine Eng.flushBatch_spec hu hru hh ?_
  unfold Eng.batchReady
  rw [hnum, hopsu, hops, hgu]
  rfl

end
end Sys2Proof.Machine

namespace Sys2Proof.Machine

set_option Elab.async false

open Sys2Proof

/-! ## The obligation -/

/-- A RUNNING partition's idle boundary: the events in the order of R20. -/
theorem idleBoundary_order (s : State) (p : Fin 32) (n : Nat) (hr : s.eng.running p = true) (hs : (s.eng.part p).steps = [])
    (hi : s.eng.idleSlots p = [n]) (he : (s.eng.req n).early = Events.none) (ht : (s.eng.req n).termEv = none)
    (hin : (s.eng.req n).inStep = none) (hb : (s.eng.req n).inBatch = false) (hsrc : (s.eng.part p).srcFails = 0) :
    let gone := fun (status : Nat) => ∃ t y q, exec (.idleBoundary p) s = .next t ∧ (t.eng.req n).live = false ∧
      (t.eng.part p).freed = (s.eng.part p).freed ++ [n] ∧ kget 0 t.eng.gens n = kget 0 s.eng.gens n + 1 ∧
      (∀ w, w < 24 → t.eng.rqw n w = 0) ∧
      (s.eng.rring n = none → (s.eng.part p).cq.queue = [] → s.eng.ringFree p none = true → t.eng.txns = s.eng.txns ++ [y] ∧
        y.kind = .record p none (s.eng.part p).cq.next q ∧ fieldAt q.bytes 0 4 = s.eng.rhandle n ∧ fieldAt q.bytes 0x12 1 = status)
    ((s.eng.req n).cancel = true → gone 0x02) ∧
    ((s.eng.req n).cancel = false → s.eng.deadlineHit s.beat n = true → s.eng.rqf n 6 63 63 = 1 → gone 0x03) := by
  have hq := State.idleAt_req (q := p) he
  refine ⟨fun hc => ?_, fun hc hd hh => ?_⟩
  · exact idleBoundary_retires hr hs hi hin hb hsrc (by decide) (Eng.walkReq_cancel (by rw [hq]; exact ht) (by rw [hq]; exact hc))
  · refine idleBoundary_retires hr hs hi hin hb hsrc (by decide) (Eng.walkReq_deadline (by rw [hq]; exact ht) (by rw [hq]; exact hc) ?_ ?_)
    · rw [State.idleAt_deadlineHit he]
      exact hd
    · rw [(s.idleAt_hushed n).rqf]
      exact hh

/-- The events of a HALTED partition's requests stay (R306). -/
theorem idleBoundary_halted_keeps (s : State) (p : Fin 32) (hh : s.eng.pstate p = psHalted) (hs : (s.eng.part p).steps = []) :
    ∃ t, exec (.idleBoundary p) s = .next t ∧ t.eng.reqs = s.eng.reqs ∧ t.eng.rqt = s.eng.rqt :=
  ⟨_, exec_idleBoundary_halted hh hs, Eng.idleStart_reqs _ _ _, (Eng.idleStart_hushed (p := p) _ _).rqt⟩

/-- The boundary of a step that has been cut (R16, R17, R287). -/
theorem stepBoundary_cut (s : State) (p : Fin 32) (st : Step) (rest : List Step) (h : (s.eng.part p).steps = st :: rest)
    (hc : s.eng.cutReached p st = true) (hgo : s.eng.pstate p ≠ psResetting) (hn : st.slots.Nodup) (hrest : ∀ y, y ∈ rest → y.num ≠ st.num) :
    ∃ t, exec (.stepBoundary p) s = .next t ∧ (t.eng.part p).steps.map (fun y => y.num) = rest.map (fun y => y.num) ∧
      ∀ r, r ∈ st.runs → r.slot ≠ deadSlot → (t.eng.req r.slot).live = true →
        (t.eng.req r.slot).inStep = none ∧
        (s.eng.rstate r.slot = rsActive → t.eng.rstate r.slot = rsWaiting ∨ t.eng.rstate r.slot = rsPaused) ∧
        t.eng.rgenerated r.slot = (s.eng.rgenerated r.slot + (st.tokensOf r.slot).length) % 2 ^ 32 ∧
        (s.eng.fld (Reg.wlcCtrl p) 1 0 = 0 → (s.eng.req r.slot).pinEv = none → (s.eng.req r.slot).early.pin = none → r.phase ≠ phDecode →
          r.slot ∉ st.badLearn → (∀ l, l ∈ st.lists → l.slot ≠ r.slot) →
          t.eng.rprefilled r.slot = (s.eng.rprefilled r.slot + r.rows) % 2 ^ 32) := by
  obtain ⟨hnums, hgo'⟩ := stepBoundary_leaves s.beat h hgo hrest
  have hpump : ∀ n, (s.eng.stepBoundary s.beat p st).Calm p n (((s.eng.stepBoundary s.beat p st).phase3IfIdle s.beat p).kdlPump s.beat) := fun n => by
    rw [Eng.phase3IfIdle_of_going _ hgo']
    exact (Eng.Calm.refl _).kdlPump
  obtain ⟨t, hexec, ht⟩ : ∃ t, exec (.stepBoundary p) s = .next t ∧ t.eng = ((s.eng.stepBoundary s.beat p st).phase3IfIdle s.beat p).kdlPump s.beat :=
    ⟨_, exec_stepBoundary_cut h hc, State.onEng_eng _ _⟩
  rw [← ht] at hpump
  refine ⟨t, hexec, (hpump 0).nums.trans hnums, fun r hr hd hlive => ?_⟩
  obtain ⟨hin, hst, hgen, hpre⟩ := stepBoundary_updates hgo hn hr hd (hpump r.slot) hlive
  exact ⟨hin, hst, hgen, fun hpol _ _ => hpre (by rw [hpol]; decide)⟩

/-- Settles O38. An idle boundary is a walk of one slot: the row of R20 that its events select, then the departure of R220 with its
record, or the pause. A step's boundary is followed through relations that hold for every slot and are kept by each of its parts:
`Eng.Calm` outside the updates of a run and the walk, `Eng.Updated` at those updates, `Eng.Walked` in the walk. -/
theorem boundariesRetirePauseAndUpdate : Obligations.BoundariesRetirePauseAndUpdate := by
  unfold Obligations.BoundariesRetirePauseAndUpdate
  refine ⟨fun s p n hr hs hi he ht hin hb hsrc => ?_, idleBoundary_halted_keeps, fun s p st rest h => ⟨?_, ?_, ?_, ?_⟩⟩
  · obtain ⟨hcancel, hdeadline⟩ := idleBoundary_order s p n hr hs hi he ht hin hb hsrc
    exact ⟨hcancel, hdeadline, fun hc hd hfe hv hpin hl hp hst => idleBoundary_pauses hr hs hi he ht hin hb hsrc hc hd hfe hv hpin hl hp hst⟩
  · exact exec_stepBoundary_uncut h
  · exact exec_idleBoundary_busy (by simp [h])
  · refine Eng.flushRecs_spec ?_
    rw [Eng.stepOf, h, List.find?_cons_of_pos (by simp)]
  · exact stepBoundary_cut s p st rest h

end Sys2Proof.Machine

section
/-! PROOFS. The beat unit (R25 to R44): what each of its operations does to beat time and to legality, and that no other
command touches either. -/

namespace Sys2Proof.Machine

set_option Elab.async false

open Sys2Proof

/-! ## Beat time and legality under the operations of the beat unit -/

/-- The beat units of two states agree in what a mean is measured from at most, and the second stays within the bounds of
R33 where the first does. -/
structure State.Measured (s t : State) : Prop where
  shape : ∃ l n m, t.beat = { s.beat with intervals := l, outRun := n, okMean := m }
  few : s.beat.intervals.length ≤ 16 → t.beat.intervals.length ≤ 16
  rare : s.beat.outRun < 16 → t.beat.outRun < 16

@[simp] theorem State.onBeat_time (s : State) (f : BeatUnit → BeatUnit) : (s.onBeat f).beat.time = s.beat.time := rfl

theorem State.legal_onBeat (s : State) (f : BeatUnit → BeatUnit) : (s.onBeat f).beat.legal ↔ (f s.beat).legal := Iff.rfl

theorem State.legal_advance (s : State) (t : Nat) : (s.advance t).beat.legal ↔ s.beat.legal := Iff.rfl

@[simp] theorem State.advance_time (s : State) (t : Nat) : (s.advance t).beat.time = max s.beat.time t := rfl

@[simp] theorem State.advance_st (s : State) (t : Nat) : (s.advance t).beat.st = s.beat.st := rfl

@[simp] theorem State.beatEv_beat (s : State) (i : Nat) : (s.beatEv i).beat = s.beat := rfl

@[simp] theorem State.setMode_beat (s : State) (m : Nat) : (s.setMode m).beat = s.beat := rfl

theorem State.takeMean_beat (s : State) (l : List Nat) :
    (s.takeMean l).beat =
      { s.beat with intervals := l, outRun := 0, okMean := if periodInRange (meanOf l) then meanOf l else s.beat.okMean } := by
  unfold State.takeMean
  dsimp only
  split <;> rfl

theorem State.takeMean_measured (s : State) {l : List Nat} (h : l.length ≤ 16) : s.Measured (s.takeMean l) := by
  constructor
  · exact ⟨_, _, _, s.takeMean_beat l⟩
  · rw [State.takeMean_beat]
    exact fun _ => h
  · rw [State.takeMean_beat]
    exact fun _ => Nat.zero_lt_succ _

theorem State.measure_measured (s : State) (iv : Nat) : s.Measured (s.measure iv) := by
  unfold State.measure
  dsimp only
  split
  · exact s.takeMean_measured (by simp)
  · split
    · exact ⟨⟨_, _, _, rfl⟩, fun _ => Nat.zero_le _, fun _ => Nat.zero_lt_succ _⟩
    · rename_i hne
      have hne : s.beat.outRun + 1 ≠ 16 := hne
      exact ⟨⟨_, _, _, rfl⟩, id, fun h => by show s.beat.outRun + 1 < 16; omega⟩

/-- A valid edge is awaited no longer, and its interval may enter the mean. -/
theorem State.validEdge_measured (s : State) (d : Edge) :
    ∃ t : State, s.Measured t ∧ (s.validEdge d).beat = { t.beat with edge := none, prevValid := true } := by
  unfold State.validEdge
  by_cases h : d.fromValid = true
  · exact ⟨_, s.measure_measured d.interval, by rw [if_pos h]; rfl⟩
  · exact ⟨s, ⟨⟨_, _, _, rfl⟩, id, id⟩, by rw [if_neg h]; rfl⟩

@[simp] theorem State.validEdge_time (s : State) (d : Edge) : (s.validEdge d).beat.time = s.beat.time := by
  obtain ⟨t, ⟨⟨l, n, m, ht⟩, -, -⟩, h⟩ := s.validEdge_measured d
  rw [h, ht]

@[simp] theorem State.validEdge_beatNo (s : State) (d : Edge) : (s.validEdge d).beat.beat = s.beat.beat := by
  simp [BeatUnit.beat]

@[simp] theorem State.validEdge_st (s : State) (d : Edge) : (s.validEdge d).beat.st = s.beat.st := by
  obtain ⟨t, ⟨⟨l, n, m, ht⟩, -, -⟩, h⟩ := s.validEdge_measured d
  rw [h, ht]

@[simp] theorem State.validEdge_edge (s : State) (d : Edge) : (s.validEdge d).beat.edge = none := by
  obtain ⟨t, -, h⟩ := s.validEdge_measured d
  rw [h]

/-- With no edge awaited, clause 5 of legality has nothing to say. -/
theorem BeatUnit.legal.measured {s t : State} {v : Bool} (hl : s.beat.legal) (h : s.Measured t) :
    ({ t.beat with edge := none, prevValid := v } : BeatUnit).legal := by
  obtain ⟨⟨l, n, m, ht⟩, hfew, hrare⟩ := h
  obtain ⟨hI, hO, hB, hS, -, hF, hM, hW, hN⟩ := hl
  have hI' := hfew hI
  have hO' := hrare hO
  rw [ht] at hI' hO' ⊢
  exact ⟨hI', hO', hB, hS, by simp, hF, hM, hW, hN⟩

theorem State.legal_validEdge {s : State} (d : Edge) (h : s.beat.legal) : (s.validEdge d).beat.legal := by
  obtain ⟨t, ht, he⟩ := s.validEdge_measured d
  rw [he]
  exact h.measured ht

theorem State.acceptMaster_beat (s : State) (id : Nat) : (s.acceptMaster id).beat = { s.beat with idSeen := true } := by
  unfold State.acceptMaster
  dsimp only
  split <;> rfl

@[simp] theorem State.acceptMaster_time (s : State) (id : Nat) : (s.acceptMaster id).beat.time = s.beat.time := by
  rw [State.acceptMaster_beat]

theorem State.legal_acceptMaster {s : State} (id : Nat) : (s.acceptMaster id).beat.legal ↔ s.beat.legal := by
  rw [State.acceptMaster_beat]
  exact Iff.rfl

theorem State.legal_enterMaster {s : State} (first : Bool) (h : s.beat.legal) : (s.enterMaster first).beat.legal := by
  obtain ⟨-, -, hB, -⟩ := h
  exact ⟨Nat.zero_le _, Nat.zero_lt_succ _, hB, nofun, nofun, fun _ => rfl, nofun, nofun, nofun⟩

/-- FREE may be entered from any unit within the bounds of R33, unless a change to FOLLOWER or OFF is waiting. -/
theorem State.legal_enterFree {s : State} (hI : s.beat.intervals.length ≤ 16) (hO : s.beat.outRun < 16)
    (hW : s.beat.waiting ≠ some .follower) (hN : s.beat.waiting ≠ some .off) : s.enterFree.beat.legal := by
  refine ⟨hI, hO, Nat.zero_lt_succ _, nofun, ?_, nofun, fun _ => .inr (.inl rfl), fun h => absurd h hW, hN⟩
  intro d hd hs
  obtain ⟨d', -, rfl⟩ := Option.map_eq_some_iff.mp (show s.beat.edge.map _ = some d from hd)
  exact absurd hs (by simp)

/-- A waiting change to FOLLOWER is legal in MASTER only. -/
theorem BeatUnit.legal.waiting_ne_follower {b : BeatUnit} (h : b.legal) (hs : b.st ≠ .master) : b.waiting ≠ some .follower := by
  obtain ⟨-, -, -, -, -, -, -, hW, -⟩ := h
  exact fun hw => hs (hW hw)

@[simp] theorem State.enterFree_time (s : State) : s.enterFree.beat.time = s.beat.time := rfl

/-- A beat of the engine's own leaves the beat unit, or takes it from FREE to EXPIRED. -/
theorem State.freeBeat_beat (s : State) :
    s.freeBeat.beat = s.beat ∨ (s.beat.st = .free ∧ s.freeBeat.beat = { s.beat with st := .expired }) := by
  unfold State.freeBeat
  dsimp only
  split
  · rename_i h
    exact .inr ⟨h.2, rfl⟩
  · exact .inl rfl

@[simp] theorem State.freeBeat_time (s : State) : s.freeBeat.beat.time = s.beat.time := by
  rcases s.freeBeat_beat with h | ⟨-, h⟩ <;> rw [h]

theorem State.legal_freeBeat {s : State} (h : s.beat.legal) : s.freeBeat.beat.legal := by
  rcases s.freeBeat_beat with hb | ⟨hst, hb⟩
  · rwa [hb]
  · rw [hb]
    obtain ⟨hI, hO, hB, hS, hE, hF, hM, hW, hN⟩ := h
    rw [hst] at hS hE hF hW
    exact ⟨hI, hO, hB, fun h => absurd (hS h) (by decide), fun d hd hs => absurd (hE d hd hs) (by decide),
      fun h => absurd (hF h) (by decide), fun _ => .inr (.inr rfl), fun h => absurd (hW h) (by decide), hN⟩

theorem State.masterBeat_beat (s : State) (n : Nat) :
    (s.masterBeat n).beat = ((s.onBeat fun b => { b with masterFirst := false }).advance (n * 256)).beat := by
  unfold State.masterBeat
  dsimp only
  split <;> rfl

@[simp] theorem State.masterBeat_time (s : State) (n : Nat) : (s.masterBeat n).beat.time = max s.beat.time (n * 256) := by
  rw [State.masterBeat_beat]
  rfl

theorem State.legal_masterBeat {s : State} (n : Nat) (h : s.beat.legal) : (s.masterBeat n).beat.legal := by
  rw [State.masterBeat_beat, State.legal_advance, State.legal_onBeat]
  obtain ⟨hI, hO, hB, hS, hE, -, hM, hW, hN⟩ := h
  exact ⟨hI, hO, hB, hS, hE, nofun, hM, hW, hN⟩

@[simp] theorem State.becomeMaster_time (s : State) : s.becomeMaster.beat.time = max s.beat.time ((s.beat.beat + 1) * 256) := by
  simp [State.becomeMaster, State.enterMaster]

theorem State.legal_becomeMaster {s : State} (h : s.beat.legal) : s.becomeMaster.beat.legal :=
  State.legal_masterBeat _ (State.legal_enterMaster _ h)

/-- A failed frame before loss is considered: counted, with its edge no longer valid (R32). -/
def State.failedFrame (s : State) (started : Bool) : State :=
  State.onBeat { s with eng := (s.eng.bump Reg.beatErrCount 15 0).ev Reg.beatEvent 4 } fun b =>
    { b with edge := none, prevValid := false, acqRun := 0, badRun := if started then b.badRun + 1 else b.badRun }

/-- The eighth of a run of failed beats in LOCKED enters FREE (R32). -/
theorem State.badFrame_eq (s : State) (started : Bool) :
    s.badFrame started =
      if started ∧ s.beat.st = .locked ∧ s.beat.badRun = 7 then ((s.failedFrame started).beatEv 0).enterFree
      else s.failedFrame started := by
  have hrun : started = true → ((s.failedFrame started).beat.badRun = 8 ↔ s.beat.badRun = 7) := by
    rintro rfl
    exact Nat.succ_inj
  unfold State.badFrame
  exact if_congr (and_congr_right fun h => and_congr_right fun _ => hrun h) rfl rfl

@[simp] theorem State.badFrame_time (s : State) (started : Bool) : (s.badFrame started).beat.time = s.beat.time := by
  rw [State.badFrame_eq]
  split <;> rfl

/-- An edge that started a beat is awaited in LOCKED only, so that the eighth failed beat always enters FREE. -/
theorem State.legal_badFrame {s : State} {started : Bool} (h : s.beat.legal) (hs : started = true → s.beat.st = .locked) :
    (s.badFrame started).beat.legal := by
  have hw := h.waiting_ne_follower
  obtain ⟨hI, hO, hB, hS, hE, hF, hM, hW, hN⟩ := h
  rw [State.badFrame_eq]
  split
  · rename_i hloss
    obtain ⟨-, hst, -⟩ := hloss
    exact State.legal_enterFree hI hO (hw (by rw [hst]; nofun)) hN
  · rename_i hloss
    refine ⟨hI, hO, ?_, hS, nofun, hF, hM, hW, hN⟩
    cases started with
    | false => exact hB
    | true =>
      have : s.beat.badRun ≠ 7 := fun h => hloss ⟨rfl, hs rfl, h⟩
      show s.beat.badRun + 1 < 8
      omega

/-- LOCKED may be entered from every legal unit that is not MASTER's. -/
theorem BeatUnit.legal.lock {b : BeatUnit} (h : b.legal) (hst : b.st ≠ .master) (still mark : Bool) :
    ({ b with st := .locked, badRun := 0, still := still, freeMark := mark } : BeatUnit).legal := by
  have hw := h.waiting_ne_follower hst
  obtain ⟨hI, hO, -, -, -, hF, -, -, hN⟩ := h
  exact ⟨hI, hO, Nat.zero_lt_succ _, fun _ => rfl, fun _ _ _ => rfl, fun h => absurd (hF h) hst, fun _ => .inl rfl,
    fun h => absurd h hw, hN⟩

theorem State.le_relockFrame (s : State) (m : Nat) : s.beat.time ≤ (s.relockFrame m).beat.time := by
  unfold State.relockFrame
  dsimp only
  split
  · exact Nat.le_max_left _ _
  · exact le_rfl

theorem State.legal_relockFrame {s : State} (m : Nat) (h : s.beat.legal) (hst : s.beat.st ≠ .master) :
    (s.relockFrame m).beat.legal := by
  have hlock := h.lock hst (!decide (s.beat.beat < m)) (!decide (s.beat.beat < m))
  unfold State.relockFrame
  dsimp only
  split <;> exact hlock

theorem State.legal_takeMean {s : State} {l : List Nat} (h : s.beat.legal) (hl : l.length ≤ 16) : (s.takeMean l).beat.legal := by
  rw [State.takeMean_beat]
  obtain ⟨-, -, hB, hS, hE, hF, hM, hW, hN⟩ := h
  exact ⟨hl, Nat.zero_lt_succ _, hB, hS, hE, hF, hM, hW, hN⟩

/-- Dropping the awaited edge keeps a unit legal. -/
theorem BeatUnit.legal.dropEdge {b : BeatUnit} (h : b.legal) : ({ b with edge := none } : BeatUnit).legal := by
  obtain ⟨hI, hO, hB, hS, -, hF, hM, hW, hN⟩ := h
  exact ⟨hI, hO, hB, hS, nofun, hF, hM, hW, hN⟩

theorem State.le_acquireFrame (s : State) (d : Edge) (m : Nat) (holdover : Bool) :
    s.beat.time ≤ (s.acquireFrame d m holdover).beat.time := by
  unfold State.acquireFrame
  extract_lets run ivs t t'
  have ht : t'.beat.time = s.beat.time := by simp [t', t, State.takeMean_beat]
  split
  · exact Nat.le_max_left _ _
  · rw [← ht]
    split <;> exact Nat.le_max_left _ _

theorem State.legal_acquireFrame {s : State} (d : Edge) (m : Nat) (holdover : Bool) (h : s.beat.legal)
    (hst : s.beat.st ≠ .master) : (s.acquireFrame d m holdover).beat.legal := by
  unfold State.acquireFrame
  extract_lets run ivs t t'
  have hivs : ivs.length ≤ 16 := by
    simp only [ivs]
    split
    · exact Nat.zero_le _
    · exact (List.length_take_le _ _).trans (by decide)
  have hlegal : t.beat.legal := h.dropEdge
  have hmean : t'.beat.legal := State.legal_takeMean hlegal hivs
  have hst' : t'.beat.st ≠ .master := by simp only [t', State.takeMean_beat]; exact hst
  split
  · exact hlegal
  · split
    · exact hmean
    · exact hmean.lock hst' false false

theorem State.le_lockedFrame (s : State) (d : Edge) (m : Nat) (step : Bool) (id : Nat) :
    s.beat.time ≤ (s.lockedFrame d m step id).beat.time := by
  unfold State.lockedFrame
  split
  · dsimp only
    split <;> simp
  · split
    · simp
    · split <;> simp

/-- In LOCKED every frame keeps the unit legal, whether it confirms, jumps, ends a stand-still or is rejected. -/
theorem State.legal_lockedFrame {s : State} (d : Edge) (m : Nat) (step : Bool) (id : Nat) (h : s.beat.legal)
    (hst : s.beat.st = .locked) : (s.lockedFrame d m step id).beat.legal := by
  have hvalid : (s.validEdge d).beat.legal := State.legal_validEdge d h
  have haccept : ((s.validEdge d).acceptMaster id).beat.legal := (State.legal_acceptMaster id).2 hvalid
  have hconfirm : (((s.validEdge d).onBeat fun b => { b with badRun := 0 }).acceptMaster id).beat.legal := by
    rw [State.legal_acceptMaster, State.legal_onBeat]
    obtain ⟨hI, hO, -, hS, hE, hF, hM, hW, hN⟩ := hvalid
    exact ⟨hI, hO, Nat.zero_lt_succ _, hS, hE, hF, hM, hW, hN⟩
  unfold State.lockedFrame
  split
  · dsimp only
    split
    · obtain ⟨hI, hO, hB, -, hE, hF, hM, hW, hN⟩ := haccept
      exact ⟨hI, hO, hB, nofun, hE, hF, hM, hW, hN⟩
    · exact haccept
  · split
    · exact hconfirm
    · split
      · exact hconfirm
      · exact State.legal_badFrame h fun _ => hst

/-! ## The edges and frames -/

/-- The state after an edge has displaced one whose frame never came (R32). -/
def State.edgeDisplaced (s : State) : State :=
  match s.beat.edge with
  | some d => s.badFrame d.started
  | none => s

@[simp] theorem State.edgeDisplaced_time (s : State) : s.edgeDisplaced.beat.time = s.beat.time := by
  unfold State.edgeDisplaced
  split
  · exact s.badFrame_time _
  · rfl

theorem State.legal_edgeDisplaced {s : State} (h : s.beat.legal) : s.edgeDisplaced.beat.legal := by
  unfold State.edgeDisplaced
  split
  · rename_i d hd
    obtain ⟨-, -, -, -, hE, -⟩ := id h
    exact State.legal_badFrame h fun hs => hE d hd hs
  · exact h

/-- An edge starts a beat: LOCKED before and after a displaced edge, no stand-still, the mean in range. -/
def State.edgeStarts (st : BeatSt) (s : State) : Bool :=
  decide (st = .locked) && decide (s.beat.st = .locked) && !s.beat.still && !s.outOfRange

/-- An edge of a follower, none other awaited any more, that starts a beat or not. -/
def State.takeEdge (interval : Nat) (starts : Bool) (s : State) : State :=
  if starts ∧ s.beat.waiting = some .master then s.becomeMaster
  else
    let t := s.onBeat fun b => { b with edge := some ⟨interval, s.beat.prevValid, starts⟩ }
    if starts then t.advance ((s.beat.beat + 1) * 256 + s.tickAfter 0) else t

/-- An edge finds a follower that hears it (R29, R533). -/
theorem execOnTimeEdge_follower {s : State} (n : Nat) (hr : s.eng.bit Reg.glbStatus 31 = true) (hi : s.beat.st ≠ .idle)
    (hm : s.beat.st ≠ .master) :
    execOnTimeEdge n s = .next (s.edgeDisplaced.takeEdge n (s.edgeDisplaced.edgeStarts s.beat.st)) := by
  unfold execOnTimeEdge
  rw [hr]
  cases hst : s.beat.st with
  | idle => exact absurd hst hi
  | master => exact absurd hst hm
  | acquire => rfl
  | locked => rfl
  | free => rfl
  | expired => rfl

/-- An edge that no follower hears changes nothing (R44, R533). -/
theorem execOnTimeEdge_unheard {s : State} (n : Nat)
    (h : s.eng.bit Reg.glbStatus 31 = false ∨ s.beat.st = .idle ∨ s.beat.st = .master) : execOnTimeEdge n s = .next s := by
  unfold execOnTimeEdge
  rcases h with h | h | h <;> rw [h]
  · rfl
  · dsimp only
    rw [ite_self]
  · dsimp only
    rw [ite_self]

theorem State.le_takeEdge (s : State) (n : Nat) (starts : Bool) : s.beat.time ≤ (s.takeEdge n starts).beat.time := by
  unfold State.takeEdge
  split
  · simp
  · dsimp only
    split
    · exact Nat.le_max_left _ _
    · exact le_rfl

theorem State.legal_takeEdge {s : State} (n : Nat) {starts : Bool} (h : s.beat.legal) (hs : starts = true → s.beat.st = .locked) :
    (s.takeEdge n starts).beat.legal := by
  have hedge : (s.onBeat fun b => { b with edge := some ⟨n, s.beat.prevValid, starts⟩ }).beat.legal := by
    rw [State.legal_onBeat]
    obtain ⟨hI, hO, hB, hS, -, hF, hM, hW, hN⟩ := h
    refine ⟨hI, hO, hB, hS, ?_, hF, hM, hW, hN⟩
    rintro d ⟨⟩ hd
    exact hs hd
  unfold State.takeEdge
  split
  · exact State.legal_becomeMaster h
  · dsimp only
    split <;> exact hedge

/-- What the beat unit's own commands keep: beat time does not fall, and a legal unit stays legal. -/
structure State.Forward (s t : State) : Prop where
  le : s.beat.time ≤ t.beat.time
  legal : s.beat.legal → t.beat.legal

theorem State.Forward.refl (s : State) : s.Forward s := ⟨le_rfl, id⟩

theorem State.Forward.trans {s t u : State} (h : s.Forward t) (h' : t.Forward u) : s.Forward u :=
  ⟨h.le.trans h'.le, fun hl => h'.legal (h.legal hl)⟩

theorem onTimeEdge_forward (n : Nat) (s : State) : ∃ t, execOnTimeEdge n s = .next t ∧ s.Forward t := by
  by_cases h : s.eng.bit Reg.glbStatus 31 = false ∨ s.beat.st = .idle ∨ s.beat.st = .master
  · exact ⟨s, execOnTimeEdge_unheard n h, .refl s⟩
  · push Not at h
    obtain ⟨hr, hi, hm⟩ := h
    refine ⟨_, execOnTimeEdge_follower n (by simpa using hr) hi hm, ?_, fun hl => ?_⟩
    · exact s.edgeDisplaced_time.symm.le.trans (State.le_takeEdge _ _ _)
    · refine State.legal_takeEdge n (State.legal_edgeDisplaced hl) fun hs => ?_
      simp only [State.edgeStarts, Bool.and_eq_true, decide_eq_true_eq] at hs
      obtain ⟨⟨⟨-, hlocked⟩, -⟩, -⟩ := hs
      exact hlocked

/-- The frame of a valid edge relocks a follower in FREE or EXPIRED (R42). -/
theorem State.forward_relockFrame {s : State} (d : Edge) (m id : Nat) (hst : s.beat.st ≠ .master) :
    (s.validEdge d).Forward (((s.validEdge d).acceptMaster id).relockFrame m) := by
  have hst' : ((s.validEdge d).acceptMaster id).beat.st ≠ .master := by
    rw [State.acceptMaster_beat]
    exact (s.validEdge_st d).trans_ne hst
  refine ⟨?_, fun h => State.legal_relockFrame m ((State.legal_acceptMaster id).2 h) hst'⟩
  exact (State.acceptMaster_time _ id).ge.trans (State.le_relockFrame _ m)

/-- A frame arrives for an awaited edge: what becomes of the state (R29 to R42). -/
theorem timecodeFrame_forward (f : BitVec 96) (s : State) : ∃ t, execTimecodeFrame f s = .next t ∧ s.Forward t := by
  unfold execTimecodeFrame
  refine ⟨_, rfl, ?_⟩
  split
  · exact .refl s
  split
  · exact .refl s
  rename_i d hd
  extract_lets m holdover step id t
  have hstarted : s.beat.legal → d.started = true → s.beat.st = .locked := fun ⟨_, _, _, _, hE, _⟩ => hE d hd
  split
  · exact ⟨(s.badFrame_time _).ge, fun h => State.legal_badFrame h (hstarted h)⟩
  split
  · have ht : t.beat.time = s.beat.time := s.validEdge_time d
    have hl : s.beat.legal → t.beat.legal := State.legal_validEdge d
    split
    · exact ⟨ht ▸ Nat.le_max_left _ _, hl⟩
    · exact ⟨ht.ge, hl⟩
  split
  case h_1 | h_2 => exact ⟨le_rfl, BeatUnit.legal.dropEdge⟩
  case h_3 hst =>
    refine ⟨?_, fun h => (State.legal_acceptMaster _).2 (State.legal_acquireFrame d m holdover h (by rw [hst]; nofun))⟩
    rw [State.acceptMaster_time]
    exact s.le_acquireFrame d m holdover
  case h_4 hst | h_5 hst =>
    have hout : s.beat.st ≠ .master := by rw [hst]; nofun
    have hv : s.Forward (s.validEdge d) := ⟨(s.validEdge_time d).ge, State.legal_validEdge d⟩
    split
    · exact hv
    · exact hv.trans (State.forward_relockFrame d m id hout)
  case h_6 hst => exact ⟨s.le_lockedFrame d m step id, fun h => State.legal_lockedFrame d m step id h hst⟩

/-- A move of beat time and a beat of the engine's own both go forward. -/
theorem State.forward_freeBeat_advance (s : State) (n : Nat) : s.Forward (s.advance n).freeBeat :=
  ⟨(Nat.le_max_left _ _).trans (s.advance n).freeBeat_time.ge, fun h => State.legal_freeBeat (s := s.advance n) h⟩

/-- A loss in LOCKED enters FREE. -/
theorem State.forward_loss {s : State} (hst : s.beat.st = .locked) : s.Forward (s.beatEv 0).enterFree := by
  refine ⟨le_rfl, fun h => ?_⟩
  have hw := h.waiting_ne_follower (by rw [hst]; nofun)
  obtain ⟨hI, hO, -, -, -, -, -, -, hN⟩ := h
  exact State.legal_enterFree hI hO hw hN

theorem beatLoss_forward (s : State) : ∃ t, execBeatLoss s = .next t ∧ s.Forward t := by
  unfold execBeatLoss
  refine ⟨_, rfl, ?_⟩
  split
  · rename_i h
    exact State.forward_loss h.1
  · split
    · rename_i h
      exact (State.forward_loss h.1).trans (State.forward_freeBeat_advance _ _)
    · exact .refl s

theorem freeRunEdge_forward (s : State) : ∃ t, execFreeRunEdge s = .next t ∧ s.Forward t := by
  have hmaster : s.Forward s.becomeMaster := ⟨s.becomeMaster_time ▸ Nat.le_max_left _ _, State.legal_becomeMaster⟩
  unfold execFreeRunEdge
  refine ⟨_, rfl, ?_⟩
  split
  case h_3 => exact .refl s
  all_goals
    split
    · exact hmaster
    · exact State.forward_freeBeat_advance _ _

/-- A waiting change to FOLLOWER is taken at a master edge: the engine is in FREE with nothing waiting (R44). -/
theorem State.forward_followAtEdge (s : State) : s.Forward (s.enterFree.onBeat fun b => { b with waiting := none }) := by
  refine ⟨le_rfl, fun h => ?_⟩
  obtain ⟨hI, hO, -, -, -, -, -, -, -⟩ := h
  exact State.legal_enterFree (s := s.onBeat fun b => { b with waiting := none }) hI hO nofun nofun

theorem masterEdge_forward (s : State) : ∃ t, execMasterEdge s = .next t ∧ s.Forward t := by
  unfold execMasterEdge
  refine ⟨_, rfl, ?_⟩
  split
  · split
    · exact s.forward_followAtEdge.trans (State.forward_freeBeat_advance _ _)
    · exact ⟨State.masterBeat_time s _ ▸ Nat.le_max_left _ _, State.legal_masterBeat _⟩
  · exact .refl s

/-- Every command that may move beat time moves it forward. -/
theorem exec_forward {c : Instr} (hc : c.movesBeat = true) (s : State) : ∃ t, exec c s = .next t ∧ s.Forward t := by
  cases c with
  | timecodeFrame f => exact timecodeFrame_forward f s
  | beatLoss => exact beatLoss_forward s
  | freeRunEdge => exact freeRunEdge_forward s
  | masterEdge => exact masterEdge_forward s
  | onTimeEdge n => exact onTimeEdge_forward n s
  | _ => exact absurd hc nofun

/-! ## Every other command leaves beat time alone -/

/-- The second state has the first one's beat time, and a legal beat unit where the first has. -/
structure State.SameTime (s t : State) : Prop where
  time : t.beat.time = s.beat.time
  legal : s.beat.legal → t.beat.legal

/-- An outcome is a next state of the same beat time. -/
def State.KeepsTime (s : State) (o : Host.Outcome State Fault Refusal) : Prop := ∃ t, o = .next t ∧ s.SameTime t

theorem State.SameTime.refl (s : State) : s.SameTime s := ⟨rfl, id⟩

theorem State.SameTime.trans {s t u : State} (h : s.SameTime t) (h' : t.SameTime u) : s.SameTime u :=
  ⟨h'.time.trans h.time, fun hl => h'.legal (h.legal hl)⟩

theorem State.SameTime.of_beat {s t : State} (h : t.beat = s.beat) : s.SameTime t := by
  obtain ⟨p, b, e, f⟩ := t
  cases h
  exact ⟨rfl, id⟩

theorem State.SameTime.next {s t : State} (h : s.SameTime t) : s.KeepsTime (.next t) := ⟨t, rfl, h⟩

theorem State.SameTime.ite {s t u : State} {p : Prop} [Decidable p] (ht : s.SameTime t) (hu : s.SameTime u) :
    s.SameTime (if p then t else u) := by
  split <;> assumption

theorem State.KeepsTime.ite {s : State} {p : Prop} [Decidable p] {o o' : Host.Outcome State Fault Refusal} (h : s.KeepsTime o)
    (h' : s.KeepsTime o') : s.KeepsTime (if p then o else o') := by
  split <;> assumption

theorem State.KeepsTime.nextOr {s : State} {o : Host.Outcome State Fault Refusal} (h : s.KeepsTime o) : s.SameTime (nextOr s o) := by
  obtain ⟨t, rfl, ht⟩ := h
  exact ht

theorem State.SameTime.keepsTime {s t : State} {o : Host.Outcome State Fault Refusal} (h : s.SameTime t) (h' : t.KeepsTime o) :
    s.KeepsTime o := by
  obtain ⟨u, ho, hu⟩ := h'
  exact ⟨u, ho, h.trans hu⟩

theorem sameTime_eng (s : State) (e : Eng) : s.SameTime { s with eng := e } := ⟨rfl, id⟩

theorem sameTime_flash (s : State) (f : Flash) : s.SameTime { s with flash := f } := ⟨rfl, id⟩

theorem sameTime_onEng (s : State) (f : BeatUnit → Eng → Eng) : s.SameTime (s.onEng f) := ⟨rfl, id⟩

theorem keepsTime_onEng (s : State) (f : BeatUnit → Eng → Eng) : s.KeepsTime (.next (s.onEng f)) := (sameTime_onEng s f).next

/-- A write of the window keeps beat time where the effect behind its gate does. -/
theorem sameTime_ctlState (path : Path) (addr : Nat) {f : State → State} {s : State} (h : s.SameTime (f s)) :
    s.SameTime (ctlState path addr f s) := by
  unfold ctlState
  split
  · exact ⟨h.time, h.legal⟩
  · exact ⟨rfl, id⟩
  · exact ⟨rfl, id⟩

theorem keepsTime_ctlWrite (path : Path) (addr : Nat) (f : BeatUnit → Eng → Eng) (s : State) :
    s.KeepsTime (ctlWrite path addr f s) := (sameTime_ctlState path addr (sameTime_onEng s f)).next

theorem keepsTime_ctlPart (path : Path) (addr p : Nat) (f : BeatUnit → Eng → Eng) (s : State) :
    s.KeepsTime (ctlPart path addr p f s) := by
  unfold ctlPart
  refine .ite ?_ (keepsTime_ctlWrite path addr f s)
  obtain ⟨ht, hl⟩ := sameTime_ctlState path addr (f := id) (.refl s)
  exact (State.SameTime.next ⟨ht, hl⟩)

theorem State.SameTime.onEng {s t : State} (h : s.SameTime t) (f : BeatUnit → Eng → Eng) : s.SameTime (t.onEng f) :=
  h.trans (sameTime_onEng t f)

/-! ### Updates and the management cores -/

theorem sameTime_updEnd (s : State) (err : Nat) : s.SameTime (s.updEnd err) := by
  unfold State.updEnd
  split
  · exact .refl s
  · exact sameTime_onEng s _

theorem sameTime_bootFail (s : State) (c : Nat) : s.SameTime (s.bootFail c) := by
  unfold State.bootFail
  extract_lets planned
  exact .ite ((sameTime_eng s _).trans (sameTime_updEnd _ 6)) (sameTime_onEng s _)

theorem sameTime_coreFail (s : State) (c trigger : Nat) : s.SameTime (s.coreFail c trigger) := by
  unfold State.coreFail
  split
  · exact .refl s
  · exact sameTime_bootFail s c
  · exact ⟨rfl, id⟩
  · exact ((sameTime_eng s _).trans (sameTime_updEnd _ 7)).onEng _

theorem sameTime_updEffect (s : State) (u : UpdCmd) : s.SameTime (s.updEffect u) := by
  unfold State.updEffect
  extract_lets img gen f
  split
  · exact (sameTime_flash s _).onEng _
  · exact sameTime_onEng s _
  · exact sameTime_flash s _
  · exact sameTime_onEng s _
  · exact .refl s

/-- An update command keeps beat time where its own part does. -/
theorem keepsTime_updStart (path : Path) (op : Nat) {f : State → State} (s : State) (h : ∀ t : State, t.SameTime (f t)) :
    s.KeepsTime (updStart path op f s) := by
  unfold updStart
  refine (sameTime_ctlState path Reg.mgmtUpdCmd ?_).next
  split
  · exact .refl s
  · exact .ite ((sameTime_onEng s _).trans (h _)) (sameTime_onEng s _)

theorem keepsTime_stage (path : Path) (s : State) : s.KeepsTime (execStage path s) := by
  refine keepsTime_updStart path 1 s fun t => ?_
  split
  exact .ite ((sameTime_onEng t _).trans (sameTime_flash _ _)) (sameTime_onEng t _)

theorem keepsTime_activateUcode (path : Path) (s : State) : s.KeepsTime (execActivateUcode path s) := by
  refine keepsTime_updStart path 2 s fun t => ?_
  exact sameTime_onEng t _

theorem keepsTime_activateMgmt (path : Path) (s : State) : s.KeepsTime (execActivateMgmt path s) := by
  refine keepsTime_updStart path 3 s fun t => ?_
  exact sameTime_onEng t _

theorem keepsTime_confirm (path : Path) (s : State) : s.KeepsTime (execConfirm path s) := by
  refine keepsTime_updStart path 4 s fun t => ?_
  exact sameTime_onEng t _

theorem keepsTime_revert (path : Path) (s : State) : s.KeepsTime (execRevert path s) := by
  refine keepsTime_updStart path 5 s fun t => ?_
  exact sameTime_onEng t _

theorem keepsTime_restart (path : Path) (s : State) : s.KeepsTime (execRestart path s) :=
  (sameTime_ctlState path Reg.mgmtCtrl ((sameTime_updEnd s 7).onEng _)).next

theorem keepsTime_kick (core : Fin 2) (s : State) : s.KeepsTime (execKick core s) :=
  (State.SameTime.ite (.refl s) (sameTime_onEng s _)).next

theorem keepsTime_updCmdDone (s : State) : s.KeepsTime (execUpdCmdDone s) := by
  unfold execUpdCmdDone
  refine State.SameTime.next ?_
  split
  · exact .refl s
  · exact .ite (.refl s) (.ite (sameTime_updEnd s _) ((sameTime_updEffect s _).trans (sameTime_updEnd _ 0)))

theorem keepsTime_logMirror (s : State) : s.KeepsTime (execLogMirror s) := by
  unfold execLogMirror
  refine (State.SameTime.ite (.refl s) ?_).next
  extract_lets e next from_ first t l all t'
  refine State.SameTime.onEng ?_ _
  have ht : s.SameTime t := .ite (.refl s) (sameTime_onEng s _)
  exact ht.trans (sameTime_flash t _)

theorem keepsTime_ucodeLoadDone (loaded : Bool) (s : State) : s.KeepsTime (execUcodeLoadDone loaded s) :=
  (State.SameTime.ite (.refl s) (.ite (sameTime_onEng s _) (sameTime_onEng s _))).next

/-! ### Writes of MODE -/

theorem sameTime_sameMode (s : State) (m : Nat) : s.SameTime (s.sameMode m) := by
  refine .ite ⟨rfl, id⟩ ⟨rfl, fun h => ?_⟩
  obtain ⟨hI, hO, hB, hS, hE, hF, -, -, -⟩ := h
  exact ⟨hI, hO, hB, hS, hE, hF, nofun, nofun, nofun⟩

theorem sameTime_modeFollower (s : State) : s.SameTime s.modeFollower := by
  unfold State.modeFollower
  split
  case h_1 hst =>
    refine ⟨rfl, fun h => ?_⟩
    obtain ⟨-, -, hB, hS, -, hF, -, -, -⟩ := h
    rw [hst] at hS hF
    exact ⟨Nat.zero_le _, Nat.zero_lt_succ _, hB, fun h => absurd (hS h) nofun, nofun, fun h => absurd (hF h) nofun, nofun,
      nofun, nofun⟩
  case h_2 hst =>
    refine .ite (.refl s) ⟨rfl, fun h => ?_⟩
    obtain ⟨hI, hO, hB, hS, hE, hF, -, -, -⟩ := h
    exact ⟨hI, hO, hB, hS, hE, hF, nofun, fun _ => hst, nofun⟩
  case h_3 => exact sameTime_sameMode s 1

theorem sameTime_modeMaster (s : State) : s.SameTime s.modeMaster := by
  unfold State.modeMaster
  split
  case h_1 | h_2 => exact ⟨rfl, State.legal_enterMaster (s := s.setMode 2) true⟩
  case h_3 => exact sameTime_sameMode s 2
  case h_4 hi ha hm =>
    refine .ite (.refl s) ⟨rfl, fun h => ?_⟩
    obtain ⟨hI, hO, hB, hS, hE, hF, -, -, -⟩ := h
    refine ⟨hI, hO, hB, hS, hE, hF, fun _ => ?_, nofun, nofun⟩
    show s.beat.st = .locked ∨ s.beat.st = .free ∨ s.beat.st = .expired
    cases hst : s.beat.st <;> simp_all

theorem sameTime_modeOff (s : State) : s.SameTime s.modeOff := by
  unfold State.modeOff
  refine .ite ⟨rfl, fun h => ?_⟩ ⟨rfl, fun h => ?_⟩
  · obtain ⟨hI, hO, hB, -, -, -, -, -, -⟩ := h
    exact ⟨hI, hO, hB, nofun, nofun, nofun, nofun, nofun, nofun⟩
  · obtain ⟨hI, hO, hB, hS, hE, hF, -, -, -⟩ := h
    exact ⟨hI, hO, hB, hS, hE, hF, nofun, nofun, nofun⟩

theorem keepsTime_modeFollower (path : Path) (s : State) : s.KeepsTime (execModeFollower path s) :=
  (sameTime_ctlState path Reg.beatCtrl (sameTime_modeFollower s)).next

theorem keepsTime_modeMaster (path : Path) (s : State) : s.KeepsTime (execModeMaster path s) :=
  (sameTime_ctlState path Reg.beatCtrl (sameTime_modeMaster s)).next

theorem keepsTime_modeOff (path : Path) (s : State) : s.KeepsTime (execModeOff path s) :=
  (sameTime_ctlState path Reg.beatCtrl (sameTime_modeOff s)).next

/-! ### Reads and writes of the window -/

theorem sameTime_readEffect (s : State) (path : Path) (a : Nat) : s.SameTime (s.readEffect path a) :=
  .ite (.refl s) (sameTime_eng s _)

theorem sameTime_readAt (s : State) (path : Path) (a : Nat) : s.SameTime (s.readAt path a) :=
  .ite (sameTime_eng s _) ((sameTime_readEffect s path a).trans (sameTime_eng _ _))

theorem keepsTime_beatWrite (path : Path) (v : Nat) (s : State) : s.KeepsTime (beatWrite path v s) := by
  unfold beatWrite
  split
  · exact keepsTime_modeOff path s
  · exact keepsTime_modeFollower path s
  · exact keepsTime_modeMaster path s
  · exact (sameTime_ctlState path _ (sameTime_eng s _)).next

theorem keepsTime_partCtrlWrite (path : Path) (p : Fin 32) (v : Nat) (s : State) : s.KeepsTime (partCtrlWrite path p v s) := by
  have hset : s.KeepsTime (if v.testBit 0 then execEnableSet path p s else execEnableClear path p s) :=
    .ite (keepsTime_ctlWrite path _ _ s) (keepsTime_ctlWrite path _ _ s)
  exact .ite (hset.nextOr.keepsTime (keepsTime_ctlPart path _ _ _ _)) hset.nextOr.next

theorem keepsTime_ctxCmdWrite (path : Path) (p : Fin 32) (v : Nat) (s : State) : s.KeepsTime (ctxCmdWrite path p v s) := by
  unfold ctxCmdWrite
  dsimp only
  split
  case h_7 => exact keepsTime_ctlWrite path _ _ s
  all_goals exact keepsTime_ctlPart path _ _ _ s

theorem keepsTime_manualWrite (path : Path) (strings : Bool) (a : Nat) (v : Word) (s : State) :
    s.KeepsTime (manualWrite path strings a v s) := by
  refine .ite (keepsTime_ctlWrite path _ _ s) (.ite (keepsTime_ctlWrite path _ _ s) ?_)
  split <;> exact keepsTime_ctlWrite path _ _ s

theorem keepsTime_updWrite (path : Path) (v : Nat) (s : State) : s.KeepsTime (updWrite path v s) := by
  have hslot : s.SameTime (if s.eng.bit Reg.mgmtUpdCmd 31 then s else nextOr s (selectorWrite path Reg.mgmtUpdCmd 0 v s)) :=
    .ite (.refl s) (keepsTime_ctlWrite path _ _ s).nextOr
  unfold updWrite
  dsimp only
  split
  · exact hslot.keepsTime (keepsTime_stage path _)
  · exact hslot.keepsTime (keepsTime_activateUcode path _)
  · exact hslot.keepsTime (keepsTime_activateMgmt path _)
  · exact hslot.keepsTime (keepsTime_confirm path _)
  · exact hslot.keepsTime (keepsTime_revert path _)
  · exact keepsTime_ctlWrite path _ _ s

theorem keepsTime_kickWrite (path : Path) (s : State) : s.KeepsTime (kickWrite path s) := by
  unfold kickWrite
  split
  · exact (sameTime_ctlState _ Reg.mgmtKick (f := id) (.refl s)).keepsTime (keepsTime_kick _ _)
  · exact keepsTime_ctlWrite _ _ _ s

/-- Where a register's write is a command, the command keeps beat time. -/
def State.CommandKeepsTime (s : State) (o : Option (Host.Outcome State Fault Refusal)) : Prop := ∀ x, o = some x → s.KeepsTime x

theorem State.commandKeepsTime_none (s : State) : s.CommandKeepsTime none := by
  intro x h
  cases h

theorem State.CommandKeepsTime.ite {s : State} {p : Prop} [Decidable p] {x : Host.Outcome State Fault Refusal}
    {o : Option (Host.Outcome State Fault Refusal)} (h : s.KeepsTime x) (ho : s.CommandKeepsTime o) :
    s.CommandKeepsTime (if p then some x else o) := by
  split
  · rintro y ⟨⟩
    exact h
  · exact ho

theorem commandKeepsTime_engine (path : Path) (strings : Bool) (r : RegRow) (v : Word) (s : State) :
    s.CommandKeepsTime (engineCommand path strings r v s) := by
  have ctl := keepsTime_ctlWrite path (s := s)
  unfold engineCommand
  extract_lets b n
  refine .ite (keepsTime_beatWrite path n s) ?_
  refine .ite (.ite (ctl _ _) (ctl _ _)) ?_
  refine .ite (keepsTime_manualWrite path strings b v s) ?_
  refine .ite (ctl _ _) <| .ite (ctl _ _) <| .ite (ctl _ _) <| .ite (ctl _ _) <| .ite (ctl _ _) <| .ite (ctl _ _) ?_
  refine .ite (by split <;> exact ctl _ _) ?_
  refine .ite (by split <;> exact ctl _ _) ?_
  refine .ite (by split <;> exact ctl _ _) ?_
  refine .ite (ctl _ _) ?_
  refine .ite (.ite (keepsTime_restart path s) (ctl _ _)) ?_
  refine .ite (ctl _ _) <| .ite (keepsTime_updWrite path n s) <| .ite (ctl _ _) ?_
  refine .ite (sameTime_ctlState path b ((sameTime_onEng s _).trans (sameTime_flash _ _))).next ?_
  exact .ite (keepsTime_kickWrite path s) <| .ite (ctl _ _) <| .ite (ctl _ _) s.commandKeepsTime_none

theorem commandKeepsTime_part (path : Path) (strings : Bool) (r : RegRow) (a p n : Nat) (v : Word) (s : State) :
    s.CommandKeepsTime (partCommand path strings r a p n v s) := by
  have ctl := keepsTime_ctlWrite path (s := s)
  unfold partCommand
  extract_lets b q w
  refine .ite (keepsTime_partCtrlWrite path q w s) <| .ite (keepsTime_ctxCmdWrite path q w s) ?_
  refine .ite (ctl _ _) <| .ite (ctl _ _) <| .ite (ctl _ _) <| .ite (ctl _ _) ?_
  refine .ite (.ite (ctl _ _) (ctl _ _)) <| .ite (ctl _ _) <| .ite (ctl _ _) ?_
  refine .ite (by split <;> exact ctl _ _) ?_
  exact .ite (ctl _ _) <| .ite (ctl _ _) s.commandKeepsTime_none

theorem sameTime_doorPage (path : Path) (a : Nat) (v : Word) (s : State) : s.SameTime (doorPage path a v s) := by
  have door := keepsTime_ctlWrite .host (s := s)
  refine .ite (sameTime_ctlState path a (f := id) (.refl s)) (State.KeepsTime.nextOr ?_)
  exact .ite (door _ _) <| .ite (door _ _) <| .ite (door _ _) <| .ite (door _ _) <| .ite (door _ _) <|
    .ite (door _ _) (door _ _)

theorem sameTime_windowWrite (path : Path) (strings : Bool) (a : Nat) (v : Word) (s : State) :
    s.SameTime (windowWrite path strings a v s) := by
  refine .ite (sameTime_doorPage path a v s) ?_
  split
  · exact sameTime_ctlState path a (f := id) (.refl s)
  · rename_i r _
    extract_lets p n
    have hcmd : s.CommandKeepsTime (if r.pstride = 0 then engineCommand path strings r v s else partCommand path strings r a p n v s) := by
      split
      · exact commandKeepsTime_engine path strings r v s
      · exact commandKeepsTime_part path strings r a p n v s
    split
    · rename_i o ho
      exact (hcmd o ho).nextOr
    · exact sameTime_ctlState path a (sameTime_onEng s _)

/-! ### Strings -/

theorem sameTime_strRead (s : State) (src : StringsSrc) (space : BitVec 2) (addr : Dword) : s.SameTime (s.strRead src space addr) := by
  unfold State.strRead
  extract_lets err v t
  have ht : s.SameTime t := .ite (sameTime_readEffect s _ _) (sameTime_onEng s _)
  exact ht.onEng _

theorem sameTime_strPut (s : State) (src : StringsSrc) (space : BitVec 2) (addr data : Dword) :
    s.SameTime (s.strPut src space addr data) := by
  unfold State.strPut
  split
  · exact ((sameTime_onEng s _).trans (sameTime_windowWrite _ _ _ _ _)).trans (sameTime_eng _ _)
  · exact .ite (sameTime_onEng s _) (.refl s)
  · exact sameTime_onEng s _
  · exact .refl s

theorem sameTime_strWrite (s : State) (src : StringsSrc) (space : BitVec 2) (addr data : Dword) :
    s.SameTime (s.strWrite src space addr data) :=
  .ite (sameTime_onEng s _) (.onEng ((sameTime_onEng s _).trans (sameTime_strPut _ src space addr data)) _)

theorem sameTime_dbgCommand (s : State) (src : StringsSrc) (cmd : Nat) : s.SameTime (s.dbgCommand src cmd) := by
  unfold State.dbgCommand
  dsimp only
  split
  · exact (sameTime_onEng s _).trans (sameTime_strRead _ _ _ _)
  · exact (sameTime_onEng s _).trans (sameTime_strWrite _ _ _ _ _)
  · exact sameTime_onEng s _

theorem keepsTime_registerWrite (path : Path) (addr : BitVec 22) (data : Word) (strbFull : Bool) (s : State) :
    s.KeepsTime (execRegisterWrite path addr data strbFull s) := by
  refine State.SameTime.next (.ite (sameTime_eng s _) (.ite ?_ (sameTime_windowWrite path false _ data s)))
  exact sameTime_ctlState path _ (sameTime_dbgCommand s .mgmt _)

theorem keepsTime_i2cRead (s : State) : s.KeepsTime (execI2cRead s) :=
  (State.SameTime.onEng (.ite (sameTime_readEffect s .i2c _) (.refl s)) _).next

theorem keepsTime_jtagUpdateDr (bits : BitVec 160) (s : State) : s.KeepsTime (execJtagUpdateDr bits s) :=
  (State.SameTime.ite (sameTime_onEng s _)
    (.trans (.onEng (sameTime_onEng s _) _) (sameTime_dbgCommand _ .jtag _))).next

/-! ### All commands -/

/-- A command that neither moves nor drops beat time leaves it as it is. -/
theorem exec_keepsTime {c : Instr} (hm : c.movesBeat = false) (hd : c.dropsBeat = false) (s : State) : s.KeepsTime (exec c s) := by
  cases c with
  | timecodeFrame | beatLoss | freeRunEdge | masterEdge | onTimeEdge => exact absurd hm nofun
  | coldReset | powerLoss => exact absurd hd nofun
  | ucodeLoadDone loaded => exact keepsTime_ucodeLoadDone loaded s
  | modeFollower path => exact keepsTime_modeFollower path s
  | modeMaster path => exact keepsTime_modeMaster path s
  | modeOff path => exact keepsTime_modeOff path s
  | readBeatNowLo path => exact (sameTime_readAt s path _).next
  | latchingRead path addr => exact (sameTime_readAt s path _).next
  | readProbeWord path => exact (sameTime_eng s _).next
  | registerWrite path addr data strbFull => exact keepsTime_registerWrite path addr data strbFull s
  | i2cPointerWrite => exact (State.SameTime.ite (sameTime_onEng s _) (.refl s)).next
  | i2cRead => exact keepsTime_i2cRead s
  | stringsRead src space addr => exact (State.SameTime.ite (sameTime_strRead s src space addr) (.refl s)).next
  | stringsWrite src space addr data => exact (State.SameTime.ite (sameTime_strWrite s src space addr data) (.refl s)).next
  | jtagUpdateDr bits => exact keepsTime_jtagUpdateDr bits s
  | kick core => exact keepsTime_kick core s
  | mgmtWatchdog => exact (State.SameTime.ite (sameTime_coreFail s _ _) (.refl s)).next
  | mgmtCoreFault => exact (State.SameTime.ite (.refl s) (sameTime_coreFail s _ _)).next
  | bootLimitExpiry => exact (State.SameTime.ite (sameTime_bootFail s _) (.refl s)).next
  | restart path => exact keepsTime_restart path s
  | logMirror => exact keepsTime_logMirror s
  | stage path => exact keepsTime_stage path s
  | activateUcode path => exact keepsTime_activateUcode path s
  | activateMgmt path => exact keepsTime_activateMgmt path s
  | confirm path => exact keepsTime_confirm path s
  | revert path => exact keepsTime_revert path s
  | updCmdDone => exact keepsTime_updCmdDone s
  | partitionReset | ctxStart | ctxStop | ctxSave | ctxRestore | ctxReset | ctxResume => exact keepsTime_ctlPart _ _ _ _ s
  | warm | enableSet | enableClear | sqTail | cancel | cqHead | trHead | hostSignal | satClr | realignArm
  | ledgerBalStage | ledgerBalCommit | ledgerBoundWrite | modelCfgWrite | lpLoad | lpUnload | flush | drawSw | drawMgmt
  | gramLoad | gramUnload | announce | retire | nfReport | abort | clear | fltHead | efrHead | hlogHead | levelSet =>
    exact keepsTime_ctlWrite _ _ _ s
  | _ => exact keepsTime_onEng s _

/-- A tick moves a legal unit's beat time by at most one (R25, R34). -/
theorem State.tick_cases (s : State) : s.tick = s.advance (s.beat.time + 1) ∨ s.tick = s := by
  unfold State.tick
  split
  · exact .inl rfl
  · exact .inr rfl

theorem State.forward_tick (s : State) : s.Forward s.tick := by
  rcases s.tick_cases with h | h <;> rw [h]
  · exact ⟨Nat.le_max_left _ _, id⟩
  · exact .refl s

theorem State.tick_time_le (s : State) : s.tick.beat.time ≤ s.beat.time + 1 := by
  rcases s.tick_cases with h | h <;> rw [h]
  · exact max_le (Nat.le_succ _) le_rfl
  · exact Nat.le_succ _

theorem execColdReset_beat (powerOn : Bool) (s : State) : ∃ t, execColdReset powerOn s = .next t ∧ t.beat = BeatUnit.cold := by
  unfold execColdReset
  exact ⟨_, rfl, rfl⟩

theorem execPowerLoss_beat (s : State) : ∃ t, execPowerLoss s = .next t ∧ t.beat = BeatUnit.cold := by
  unfold execPowerLoss
  exact ⟨_, rfl, rfl⟩

theorem BeatUnit.cold_legal : BeatUnit.cold.legal := by simp [BeatUnit.legal, BeatUnit.cold]

/-- A reset or a loss of power leaves the beat unit at reset, which is legal. -/
theorem exec_dropped_legal {c : Instr} (hd : c.dropsBeat = true) (s : State) : ∃ t, exec c s = .next t ∧ t.beat.legal := by
  cases c with
  | coldReset powerOn =>
    obtain ⟨t, ht, hb⟩ := execColdReset_beat powerOn s
    exact ⟨t, ht, hb ▸ BeatUnit.cold_legal⟩
  | powerLoss =>
    obtain ⟨t, ht, hb⟩ := execPowerLoss_beat s
    exact ⟨t, ht, hb ▸ BeatUnit.cold_legal⟩
  | _ => exact absurd hd nofun

theorem step_empty {s : State} (h : s.pending = []) : step s = .next s.tick := by
  unfold step
  rw [h]

theorem step_front (c : Instr) (rest : List Instr) (s : State) :
    step { s with pending := c :: rest } = exec c { s with pending := rest } := rfl

/-- Settles O59: both clauses are the two arms of the step. -/
theorem aStepRunsTheFrontCommand : Obligations.AStepRunsTheFrontCommand := by
  unfold Obligations.AStepRunsTheFrontCommand
  exact ⟨step_front, fun _ => step_empty⟩

/-- A step with a command in front runs it on the state without it. -/
theorem step_of_front {s : State} {c : Instr} {rest : List Instr} (h : s.pending = c :: rest) :
    step s = exec c { s with pending := rest } := by
  obtain ⟨p, b, e, f⟩ := s
  subst h
  rfl

/-- A command that is no reset moves beat time forward, if it moves it at all. -/
theorem exec_time {c : Instr} (hd : c.dropsBeat = false) (s : State) :
    ∃ t, exec c s = .next t ∧ s.beat.time ≤ t.beat.time ∧ (c.movesBeat = false → t.beat.time = s.beat.time) := by
  cases hm : c.movesBeat with
  | true =>
    obtain ⟨t, ht, hle, -⟩ := exec_forward hm s
    exact ⟨t, ht, hle, nofun⟩
  | false =>
    obtain ⟨t, ht, hsame, -⟩ := exec_keepsTime hm hd s
    exact ⟨t, ht, hsame.ge, fun _ => hsame⟩

/-- Settles O1: a tick moves time by one, the beat unit's own commands move it forward, and every other command keeps it. -/
theorem beatTimeNeverDecreases : Obligations.BeatTimeNeverDecreases := by
  unfold Obligations.BeatTimeNeverDecreases
  intro s t hstep hdrop
  cases hp : s.pending with
  | nil =>
    obtain rfl : s.tick = t := by simpa [step_empty hp] using hstep
    exact ⟨s.forward_tick.le, fun _ => s.tick_time_le, by simp⟩
  | cons c rest =>
    rw [step_of_front hp] at hstep
    obtain ⟨u, hu, hle, hsame⟩ := exec_time (hdrop c (by rw [hp]; rfl)) { s with pending := rest }
    obtain rfl : u = t := by simpa [hu] using hstep
    exact ⟨hle, by simp, by simpa using hsame⟩

/-- Every command leaves a legal beat unit legal. -/
theorem exec_legal (c : Instr) {s : State} (hl : s.beat.legal) : ∃ t, exec c s = .next t ∧ t.beat.legal := by
  cases hd : c.dropsBeat with
  | true => exact exec_dropped_legal hd s
  | false =>
    cases hm : c.movesBeat with
    | true =>
      obtain ⟨t, ht, -, hlegal⟩ := exec_forward hm s
      exact ⟨t, ht, hlegal hl⟩
    | false =>
      obtain ⟨t, ht, -, hlegal⟩ := exec_keepsTime hm hd s
      exact ⟨t, ht, hlegal hl⟩

/-- Settles O2: every operation of the beat unit keeps it legal, a reset leaves a legal one, and no other command makes it
illegal. -/
theorem beatUnitStaysLegal : Obligations.BeatUnitStaysLegal := by
  unfold Obligations.BeatUnitStaysLegal
  intro s t hl hstep
  cases hp : s.pending with
  | nil =>
    obtain rfl : s.tick = t := by simpa [step_empty hp] using hstep
    exact s.forward_tick.legal hl
  | cons c rest =>
    rw [step_of_front hp] at hstep
    obtain ⟨u, hu, hul⟩ := exec_legal c (s := { s with pending := rest }) hl
    obtain rfl : u = t := by simpa [hu] using hstep
    exact hul

end Sys2Proof.Machine
end

section
/-! PROOFS. The edges and frames of a LOCKED follower, and of FREE (R29 to R42). -/

namespace Sys2Proof.Machine

set_option Elab.async false

open Sys2Proof

/-! ## What a move of beat time leaves alone -/

/-- No more than partitions of the engine have changed. -/
def Eng.PartsOnly (e t : Eng) : Prop := ∃ q, t = { e with parts := q }

theorem Eng.when_raDue_partsOnly (e : Eng) (c : Bool) (p : Nat) :
    e.PartsOnly (e.when c fun e => e.onPart p fun q => { q with raDue := true }) := by
  cases c with
  | false => exact ⟨_, rfl⟩
  | true => exact ⟨_, rfl⟩

theorem Eng.realignPoints_partsOnly (before now : Nat) (e : Eng) : e.PartsOnly (e.realignPoints before now) := by
  unfold Eng.realignPoints
  induction List.range 32 generalizing e with
  | nil => exact ⟨_, rfl⟩
  | cons p l ih =>
    obtain ⟨q, hq⟩ := e.when_raDue_partsOnly (periodPassed (e.fld (Reg.syncRealign p) 15 0) before now) p
    obtain ⟨r, hr⟩ := ih (e.when (periodPassed (e.fld (Reg.syncRealign p) 15 0) before now) fun e =>
      e.onPart p fun q => { q with raDue := true })
    rw [hq] at hr
    exact ⟨r, by rw [List.foldl_cons, hq, hr]⟩

/-- A move of beat time refills ledgers and marks realignment points; registers, host memory and what the ports have driven
stand. -/
theorem State.advance_keeps (s : State) (n : Nat) :
    (s.advance n).eng.regs = s.eng.regs ∧ (s.advance n).eng.mem = s.eng.mem ∧ (s.advance n).eng.out = s.eng.out := by
  unfold State.advance
  dsimp only
  split
  · obtain ⟨q, hq⟩ := s.eng.refill.realignPoints_partsOnly (s.beat.time / 256) (max s.beat.time n / 256)
    rw [hq]
    exact ⟨rfl, rfl, rfl⟩
  · exact ⟨rfl, rfl, rfl⟩

@[simp] theorem State.advance_rd (s : State) (n a : Nat) : (s.advance n).eng.rd a = s.eng.rd a := by
  rw [Eng.rd, (s.advance_keeps n).1, Eng.rd]

@[simp] theorem State.advance_fld (s : State) (n a hi lo : Nat) : (s.advance n).eng.fld a hi lo = s.eng.fld a hi lo :=
  Eng.fld_congr (s.advance_rd n a) hi lo

@[simp] theorem State.advance_bit (s : State) (n a i : Nat) : (s.advance n).eng.bit a i = s.eng.bit a i :=
  Eng.bit_congr (s.advance_rd n a) i

@[simp] theorem State.advance_tickAfter (s : State) (n cycles : Nat) : (s.advance n).tickAfter cycles = s.tickAfter cycles := by
  have hperiod : (s.advance n).period = s.period := s.advance_fld n _ _ _
  rw [State.tickAfter, hperiod, State.advance_fld, State.tickAfter]

/-- A beat number after the present one lies ahead of beat time. -/
theorem BeatUnit.time_le {b : BeatUnit} {m : Nat} (h : b.beat < m) (k : Nat) : b.time ≤ m * 256 + k := by
  unfold BeatUnit.beat at h
  omega

/-- A move to a later beat arrives there. -/
theorem State.advance_ahead (s : State) {m : Nat} (h : s.beat.beat < m) (k : Nat) :
    (s.advance (m * 256 + k)).beat.time = m * 256 + k := by
  rw [State.advance_time, Nat.max_eq_right (BeatUnit.time_le h k)]

/-- A bit of an event register is set by its event. -/
theorem Eng.bit_ev_self (e : Eng) (a : Nat) {i : Nat} (h : i < 32) : (e.ev a i).bit a i = true := by
  rw [Eng.ev, Eng.bit_setF_self _ _ _ _ h]
  rfl

theorem Eng.bit_setF_ne (e : Eng) {a b : Nat} (i hi lo n : Nat) (h : b ≠ a) : (e.setF a hi lo n).bit b i = e.bit b i :=
  Eng.bit_congr (Eng.rd_setF_ne _ _ _ _ h) i

/-- Setting one event bit leaves the others. -/
theorem Eng.bit_ev_apart (e : Eng) (a : Nat) {i j : Nat} (hi : i < 32) (h : j ≠ i) : (e.ev a i).bit a j = e.bit a j := by
  rw [Eng.bit, Eng.ev, Eng.toNat_rd_setF e a 1 (by omega) hi, testBit_putBits _ _ (by omega), if_neg (by omega), Eng.bit]

/-! ## An edge in LOCKED -/

/-- An edge of a LOCKED follower with nothing in its way starts the next beat at once. -/
theorem execOnTimeEdge_starts {s : State} (n : Nat) (hr : s.eng.bit Reg.glbStatus 31 = true) (hst : s.beat.st = .locked)
    (he : s.beat.edge = none) (hs : s.beat.still = false) (ho : s.outOfRange = false) (hw : s.beat.waiting = none) :
    execOnTimeEdge n s = .next ((s.onBeat fun b => { b with edge := some ⟨n, s.beat.prevValid, true⟩ }).advance
      ((s.beat.beat + 1) * 256 + s.tickAfter 0)) := by
  have hdis : s.edgeDisplaced = s := by rw [State.edgeDisplaced, he]
  have hstarts : s.edgeStarts s.beat.st = true := by simp [State.edgeStarts, hst, hs, ho]
  rw [execOnTimeEdge_follower n hr (by rw [hst]; nofun) (by rw [hst]; nofun), hdis, hstarts, State.takeEdge, if_neg (by simp [hw])]
  rfl

/-! ## A frame in LOCKED -/

section
variable {s : State} {d : Edge} {f : BitVec 96}

/-- A frame that passes R29 in LOCKED is judged by its beat number. -/
theorem execTimecodeFrame_locked (hr : s.eng.bit Reg.glbStatus 31 = true) (hst : s.beat.st = .locked) (he : s.beat.edge = some d)
    (ho : s.outOfRange = false) (hg : frameGood f = true) :
    execTimecodeFrame f s =
      .next (s.lockedFrame d (bitsOf f.toNat 87 40) (f.getLsbD 38) (bitsOf f.toNat 31 16)) := by
  simp [execTimecodeFrame, hr, he, hg, ho, hst]

/-- A frame that fails R29 is a bad frame in every state. -/
theorem execTimecodeFrame_bad (hr : s.eng.bit Reg.glbStatus 31 = true) (he : s.beat.edge = some d) (hg : frameGood f = false) :
    execTimecodeFrame f s = .next (s.badFrame d.started) := by
  simp [execTimecodeFrame, hr, he, hg]

/-- While wx_ready_o is low a frame is ignored (R533). -/
theorem execTimecodeFrame_closed (f : BitVec 96) (hr : s.eng.bit Reg.glbStatus 31 = false) : execTimecodeFrame f s = .next s := by
  simp [execTimecodeFrame, hr]

/-- A frame with the predicted beat confirms it. -/
theorem State.lockedFrame_confirms (m : Nat) (step : Bool) (id : Nat) (hs : s.beat.still = false) (hm : m = s.beat.beat) :
    s.lockedFrame d m step id = ((s.validEdge d).onBeat fun b => { b with badRun := 0 }).acceptMaster id := by
  simp [State.lockedFrame, hs, hm]

/-- A frame with a later beat and STEP jumps. -/
theorem State.lockedFrame_jumps {m : Nat} (id : Nat) (hs : s.beat.still = false) (hm : s.beat.beat < m) :
    s.lockedFrame d m true id =
      ((((s.validEdge d).onBeat fun b => { b with badRun := 0 }).acceptMaster id).beatEv 3).advance
        (m * 256 + ((((s.validEdge d).onBeat fun b => { b with badRun := 0 }).acceptMaster id).beatEv 3).tickAfter frameCycles) := by
  have hne : m ≠ s.beat.beat := by omega
  simp [State.lockedFrame, hs, hm, hne]

/-- Every other frame is rejected. -/
theorem State.lockedFrame_rejects {m : Nat} {step : Bool} (id : Nat) (hs : s.beat.still = false)
    (hm : m < s.beat.beat ∨ (s.beat.beat < m ∧ step = false)) : s.lockedFrame d m step id = s.badFrame d.started := by
  have hne : m ≠ s.beat.beat := by omega
  have hjump : ¬(s.beat.beat < m ∧ step = true) := by
    rintro ⟨hlt, rfl⟩
    rcases hm with h | ⟨-, h⟩
    · omega
    · exact absurd h nofun
  simp [State.lockedFrame, hs, hne, hjump]

end

@[simp] theorem State.acceptMaster_fld (s : State) (id : Nat) : (s.acceptMaster id).eng.fld Reg.beatMasterId 15 0 = id % 2 ^ 16 := by
  unfold State.acceptMaster
  dsimp only
  exact Eng.fld_setF_self _ _ _ (by decide) (by decide)

theorem State.acceptMaster_edge (s : State) (id : Nat) : (s.acceptMaster id).beat.edge = s.beat.edge := by
  rw [State.acceptMaster_beat]

/-- What a bad frame of a started beat in LOCKED leaves: BAD_FRAME, the edge gone, beat time as it was, and FREE with LOSS at the
eighth in a row (R32). -/
theorem State.badFrame_locked {s : State} (hst : s.beat.st = .locked) :
    (s.badFrame true).beat.edge = none ∧ (s.badFrame true).beat.time = s.beat.time ∧
      (s.badFrame true).eng.bit Reg.beatEvent 4 = true ∧ (s.beat.badRun < 7 → (s.badFrame true).beat.st = .locked) ∧
      (s.beat.badRun = 7 → (s.badFrame true).beat.st = .free ∧ (s.badFrame true).eng.bit Reg.beatEvent 0 = true) := by
  have hbad : (s.failedFrame true).eng.bit Reg.beatEvent 4 = true := Eng.bit_ev_self _ _ (by decide)
  rw [State.badFrame_eq]
  by_cases hrun : s.beat.badRun = 7
  · rw [if_pos ⟨rfl, hst, hrun⟩]
    have hev : ∀ i, ((s.failedFrame true).beatEv 0).enterFree.eng.bit Reg.beatEvent i = ((s.failedFrame true).beatEv 0).eng.bit Reg.beatEvent i :=
      fun i => Eng.bit_setF_ne _ _ _ _ _ (by decide)
    refine ⟨rfl, rfl, ?_, fun h => absurd hrun (Nat.ne_of_lt h), fun _ => ⟨rfl, ?_⟩⟩
    · rw [hev]
      exact (Eng.bit_ev_apart _ _ (by decide) (by decide)).trans hbad
    · rw [hev]
      exact Eng.bit_ev_self _ _ (by decide)
  · rw [if_neg fun h => hrun h.2.2]
    exact ⟨rfl, rfl, hbad, fun _ => hst, fun h => absurd h hrun⟩

/-! ## FREE -/

/-- FREE_COUNT after a beat of the engine's own, and where it ends. -/
theorem State.freeBeat_spec (s : State) :
    s.freeBeat.eng.fld Reg.beatFreeCount 12 0 = min (s.eng.fld Reg.beatFreeCount 12 0 + 1) 4096 ∧
      (s.eng.fld Reg.beatFreeCount 12 0 < 4095 →
        s.freeBeat.beat.st = s.beat.st ∧ s.freeBeat.eng.rd Reg.beatEvent = s.eng.rd Reg.beatEvent) ∧
      (s.beat.st = .free → s.eng.fld Reg.beatFreeCount 12 0 = 4095 →
        s.freeBeat.beat.st = .expired ∧ s.freeBeat.eng.bit Reg.beatEvent 2 = true) := by
  have hset : ∀ n, n ≤ 4096 → (s.eng.setF Reg.beatFreeCount 12 0 n).fld Reg.beatFreeCount 12 0 = n := by
    intro n hn
    rw [Eng.fld_setF_self _ _ _ (by decide) (by decide), Nat.mod_eq_of_lt (by omega)]
  unfold State.freeBeat
  extract_lets n t t'
  split
  · rename_i h
    obtain ⟨hn, hst⟩ := h
    have hlog : t'.eng.LogsOnly (t'.eng.engFault t'.beat 0x8A none (engDetail 0 0 0 0 0 0 0)) := Eng.engFault_logsOnly _ _ _ _ _
    refine ⟨?_, fun hlt => absurd hn (by simp only [n]; omega), fun _ _ => ⟨rfl, ?_⟩⟩
    · refine (Eng.fld_congr (hlog.rd _ (by decide)) 12 0).trans ?_
      exact (Eng.fld_congr (Eng.rd_ev_ne _ 2 (by decide)) 12 0).trans (hset _ (Nat.min_le_right _ _))
    · exact (Eng.bit_congr (hlog.rd _ (by decide)) 2).trans (Eng.bit_ev_self _ _ (by decide))
  · rename_i h
    refine ⟨hset _ (Nat.min_le_right _ _), fun _ => ⟨rfl, Eng.rd_setF_ne _ _ _ _ (by decide)⟩, fun hst hc => absurd ⟨?_, hst⟩ h⟩
    simp only [n]
    omega

/-- The loss deadline of R40 with no edge awaited. -/
theorem execBeatLoss_lost {s : State} (hst : s.beat.st = .locked) (he : s.beat.edge = none) (hs : s.beat.still = false)
    (ht : s.beat.time % 256 = 255) :
    execBeatLoss s = .next ((((s.beatEv 0).enterFree).advance ((s.beat.beat + 1) * 256 + 32)).freeBeat) := by
  simp [execBeatLoss, hst, he, hs, ht]

theorem execFreeRunEdge_free {s : State} (hst : s.beat.st = .free ∨ s.beat.st = .expired) (hw : s.beat.waiting = none) :
    execFreeRunEdge s = .next (s.advance ((s.beat.beat + 1) * 256)).freeBeat := by
  rcases hst with h | h <;> simp [execFreeRunEdge, h, hw]

/-- FREE is entered with FREE_COUNT at 0. -/
@[simp] theorem State.enterFree_count (s : State) : s.enterFree.eng.fld Reg.beatFreeCount 12 0 = 0 := by
  unfold State.enterFree
  exact Eng.fld_setF_self _ _ _ (by decide) (by decide)

/-! ## The statement -/

/-- Settles O3, one clause for each of the equations above. -/
theorem lockedEdgesAndFrames : Obligations.LockedEdgesAndFrames := by
  unfold Obligations.LockedEdgesAndFrames
  refine ⟨?_, ⟨?_, ?_⟩, ?_, ?_⟩
  · intro s n hr hst he hs ho hw
    obtain ⟨hregs, hmem, -⟩ := State.advance_keeps (s.onBeat fun b => { b with edge := some ⟨n, s.beat.prevValid, true⟩ })
      ((s.beat.beat + 1) * 256 + s.tickAfter 0)
    refine ⟨_, execOnTimeEdge_starts n hr hst he hs ho hw, ?_, hst, rfl, hregs, hmem, rfl⟩
    exact State.advance_ahead (s.onBeat _) (Nat.lt_succ_self _) _
  · intro s n f hr
    exact ⟨execOnTimeEdge_unheard n (.inl hr), execTimecodeFrame_closed f hr⟩
  · intro s f d hr hst he hd hs ho
    refine ⟨?_, ?_, ?_⟩
    · intro hg hm
      refine ⟨_, execTimecodeFrame_locked hr hst he ho hg, ?_⟩
      rw [State.lockedFrame_confirms _ _ _ hs hm]
      have hid : bitsOf f.toNat 31 16 < 2 ^ 16 := bitsOf_lt _ _ _
      rw [State.acceptMaster_fld, Nat.mod_eq_of_lt hid, State.acceptMaster_beat]
      exact ⟨s.validEdge_edge d, s.validEdge_time d, (s.validEdge_st d).trans hst, rfl, rfl⟩
    · intro hg hm hstep
      refine ⟨_, execTimecodeFrame_locked hr hst he ho hg, ?_⟩
      rw [hstep, State.lockedFrame_jumps _ hs hm, State.advance_tickAfter, State.advance_bit]
      refine ⟨?_, State.advance_ahead _ ?_ _, Eng.bit_ev_self _ _ (by decide)⟩
      · exact (State.acceptMaster_edge _ _).trans (s.validEdge_edge d)
      · rw [State.beatEv_beat, State.acceptMaster_beat]
        exact (s.validEdge_beatNo d).trans_lt hm
    · intro hbad
      have hexec : execTimecodeFrame f s = .next (s.badFrame true) := by
        rw [← hd]
        cases hg : frameGood f with
        | false => exact execTimecodeFrame_bad hr he hg
        | true =>
          rw [execTimecodeFrame_locked hr hst he ho hg]
          rw [State.lockedFrame_rejects _ hs (hbad.resolve_left (by simp [hg]))]
      exact ⟨_, hexec, State.badFrame_locked hst⟩
  · intro s hst he hs ht
    obtain ⟨-, hfew, -⟩ := State.freeBeat_spec ((s.beatEv 0).enterFree.advance ((s.beat.beat + 1) * 256 + 32))
    rw [State.advance_fld, State.enterFree_count] at hfew
    refine ⟨_, execBeatLoss_lost hst he hs ht, (hfew (by decide)).1, ?_, ?_⟩
    · rw [State.freeBeat_time]
      exact State.advance_ahead (s.beatEv 0).enterFree (Nat.lt_succ_self _) 32
    · rw [Eng.bit_congr (hfew (by decide)).2, State.advance_bit]
      exact (Eng.bit_setF_ne _ _ _ _ _ (by decide)).trans (Eng.bit_ev_self _ _ (by decide))
  · intro s hst hw
    obtain ⟨hcount, hfew, hlast⟩ := State.freeBeat_spec (s.advance ((s.beat.beat + 1) * 256))
    rw [State.advance_fld] at hcount hfew hlast
    refine ⟨_, execFreeRunEdge_free hst hw, ?_, hcount, fun hf hn => (hfew hn).1.trans hf, fun hf hn => hlast hf hn⟩
    rw [State.freeBeat_time]
    simpa using s.advance_ahead (Nat.lt_succ_self _) 0

end Sys2Proof.Machine
end

section
/-! PROOFS. The master's edges and frames (R28, R29, R43, R579), and writes of MODE (R44). -/

namespace Sys2Proof.Machine

set_option Elab.async false

open Sys2Proof

/-! ## A master's edge -/

/-- A master's edge starts beat `n` and sends its frame. -/
theorem State.masterBeat_out (s : State) (n : Nat) :
    (s.masterBeat n).eng.out =
      s.eng.out ++ (if s.eng.bit Reg.glbStatus 31 then [.frame (masterFrame n (s.eng.fld Reg.beatOwnId 15 0))] else []) := by
  unfold State.masterBeat
  extract_lets t e
  have hout : t.eng.out = s.eng.out := (State.advance_keeps _ _).2.2
  have hready : e.bit Reg.glbStatus 31 = s.eng.bit Reg.glbStatus 31 :=
    (Eng.bit_setF_ne _ _ _ _ _ (by decide)).trans (State.advance_bit _ _ _ _)
  have hid : e.fld Reg.beatOwnId 15 0 = s.eng.fld Reg.beatOwnId 15 0 :=
    (Eng.fld_congr (Eng.rd_setF_ne _ _ _ _ (by decide)) _ _).trans (State.advance_fld _ _ _ _ _)
  rw [hready]
  cases s.eng.bit Reg.glbStatus 31 with
  | false =>
    rw [if_pos (by rfl), if_neg (by simp), List.append_nil]
    exact hout
  | true =>
    rw [if_neg (by simp), if_pos rfl]
    show t.eng.out ++ [Out.frame (masterFrame n (e.fld Reg.beatOwnId 15 0))] = _
    rw [hout, hid]

theorem execMasterEdge_master {s : State} (hst : s.beat.st = .master) (hw : s.beat.waiting = none) :
    execMasterEdge s = .next (s.masterBeat (if s.beat.masterFirst ∧
        s.beat.time ≤ ((s.eng.rd Reg.beatMasterStartLo).toNat + s.eng.fld Reg.beatMasterStartHi 15 0 * 2 ^ 32) * 256
      then (s.eng.rd Reg.beatMasterStartLo).toNat + s.eng.fld Reg.beatMasterStartHi 15 0 * 2 ^ 32 else s.beat.beat + 1)) := by
  simp [execMasterEdge, hst, hw]

/-! ## The frame that a master sends -/

/-- The frame of a beat and an identity before its check value. -/
def frameBody (beat id : Nat) : BitVec 96 := BitVec.ofNat 96 (0xD5 * 2 ^ 88 + beat % 2 ^ 48 * 2 ^ 40 + id * 2 ^ 16)

/-- The check value reads the frame's bits 16 to 87 only (R579). -/
theorem frameCrc_congr {f g : BitVec 96} (h : ∀ i, 16 ≤ i → f.getLsbD i = g.getLsbD i) : frameCrc f = frameCrc g := by
  unfold frameCrc
  have hstep : ∀ i ∈ (List.range 72).map fun i => 87 - i, ∀ c, crc16Step f c i = crc16Step g c i := by
    intro i hi c
    obtain ⟨k, hk, rfl⟩ := List.mem_map.mp hi
    have hk : k < 72 := List.mem_range.mp hk
    rw [crc16Step, h _ (by omega), crc16Step]
  exact List.foldl_ext _ _ _ fun c i hi => hstep i hi c

/-- The check value covers none of its own bits. -/
theorem frameCrc_masterFrame (beat id : Nat) : frameCrc (masterFrame beat id) = frameCrc (frameBody beat id) := by
  refine frameCrc_congr fun i hi => ?_
  show (frameBody beat id ||| BitVec.ofNat 96 (frameCrc (frameBody beat id)).toNat).getLsbD i = _
  have hc : (frameCrc (frameBody beat id)).toNat.testBit i = false :=
    Nat.testBit_lt_two_pow ((frameCrc _).isLt.trans_le (Nat.pow_le_pow_right (by decide) hi))
  rw [BitVec.getLsbD_or, BitVec.getLsbD_ofNat, hc]
  simp

section
variable {beat id : Nat} (hb : beat < 2 ^ 48) (hi : id < 2 ^ 16)
include hb hi

theorem frameBody_toNat : (frameBody beat id).toNat = 0xD5 * 2 ^ 88 + beat * 2 ^ 40 + id * 2 ^ 16 := by
  rw [frameBody, BitVec.toNat_ofNat]
  omega

/-- A master's frame as a number: its fields side by side. -/
theorem masterFrame_toNat :
    (masterFrame beat id).toNat = 0xD5 * 2 ^ 88 + beat * 2 ^ 40 + id * 2 ^ 16 + (frameCrc (frameBody beat id)).toNat := by
  have hc : (frameCrc (frameBody beat id)).toNat < 2 ^ 16 := (frameCrc _).isLt
  have hbody := frameBody_toNat hb hi
  have hshift : (frameBody beat id).toNat = 2 ^ 16 * (0xD5 * 2 ^ 72 + beat * 2 ^ 24 + id) := by
    rw [hbody]
    ring
  show (frameBody beat id ||| BitVec.ofNat 96 (frameCrc (frameBody beat id)).toNat).toNat = _
  rw [BitVec.toNat_or, BitVec.toNat_ofNat, Nat.mod_eq_of_lt (hc.trans (by decide)), ← hbody, hshift,
    Nat.two_pow_add_eq_or_of_lt hc]

theorem frameGood_masterFrame : frameGood (masterFrame beat id) = true := by
  have hc : (frameCrc (frameBody beat id)).toNat < 2 ^ 16 := (frameCrc _).isLt
  have hsync : bitsOf (masterFrame beat id).toNat 95 88 = 0xD5 := by
    rw [masterFrame_toNat hb hi, bitsOf]
    omega
  have hreserved : bitsOf (masterFrame beat id).toNat 37 32 = 0 := by
    rw [masterFrame_toNat hb hi, bitsOf]
    omega
  have hcheck : bitsOf (masterFrame beat id).toNat 15 0 = (frameCrc (masterFrame beat id)).toNat := by
    rw [frameCrc_masterFrame, masterFrame_toNat hb hi, bitsOf]
    omega
  simp [frameGood, hsync, hreserved, hcheck]

theorem masterFrame_beat : bitsOf (masterFrame beat id).toNat 87 40 = beat := by
  have hc : (frameCrc (frameBody beat id)).toNat < 2 ^ 16 := (frameCrc _).isLt
  rw [masterFrame_toNat hb hi, bitsOf]
  omega

theorem masterFrame_id : bitsOf (masterFrame beat id).toNat 31 16 = id := by
  have hc : (frameCrc (frameBody beat id)).toNat < 2 ^ 16 := (frameCrc _).isLt
  rw [masterFrame_toNat hb hi, bitsOf]
  omega

/-- Bits 32 to 39 of a master's frame, STEP and HOLDOVER among them, are 0. -/
theorem masterFrame_flags {i : Nat} (hl : 32 ≤ i) (hh : i < 40) : (masterFrame beat id).getLsbD i = false := by
  have hc : (frameCrc (frameBody beat id)).toNat < 2 ^ 16 := (frameCrc _).isLt
  rw [BitVec.getLsbD, masterFrame_toNat hb hi, Nat.testBit_eq_decide_div_mod_eq]
  interval_cases i <;> simp <;> omega

end

/-- Settles O5: the edge's beat is at or after the time held, so that beat time arrives there; the frame's fields do not overlap
its check value. -/
theorem masterEdgeStartsBeatAndSendsFrame : Obligations.MasterEdgeStartsBeatAndSendsFrame := by
  unfold Obligations.MasterEdgeStartsBeatAndSendsFrame
  refine ⟨fun s hst hw => ?_, fun beat id hb hi => ?_⟩
  · extract_lets start
    have hnext : s.beat.time ≤ (s.beat.beat + 1) * 256 := by simpa using BeatUnit.time_le (Nat.lt_succ_self s.beat.beat) 0
    have harrive : ∀ n, s.beat.time ≤ n * 256 → (s.masterBeat n).beat.time = n * 256 ∧ (s.masterBeat n).beat.masterFirst = false := by
      intro n hn
      refine ⟨by rw [State.masterBeat_time, Nat.max_eq_right hn], ?_⟩
      rw [State.masterBeat_beat]
      rfl
    by_cases hfirst : s.beat.masterFirst = true ∧ s.beat.time ≤ start * 256
    · obtain ⟨ht, hm⟩ := harrive start hfirst.2
      refine ⟨_, start, execMasterEdge_master hst hw, ?_⟩
      rw [if_pos hfirst]
      exact ⟨ht, hm, s.masterBeat_out start, fun h => absurd (h ▸ hfirst.1) nofun, fun _ _ => rfl,
        fun _ h => absurd hfirst.2 (Nat.not_le.mpr h)⟩
    · obtain ⟨ht, hm⟩ := harrive (s.beat.beat + 1) hnext
      refine ⟨_, s.beat.beat + 1, execMasterEdge_master hst hw, ?_⟩
      rw [if_neg hfirst]
      exact ⟨ht, hm, s.masterBeat_out _, fun _ => rfl, fun h hle => absurd ⟨h, hle⟩ hfirst, fun _ _ => rfl⟩
  · exact ⟨frameGood_masterFrame hb hi, masterFrame_beat hb hi, masterFrame_id hb hi, masterFrame_flags hb hi (by decide) (by decide),
      masterFrame_flags hb hi (by decide) (by decide)⟩

/-! ## Writes of MODE -/

/-- A host's write of MODE in an open window takes its effect. -/
theorem hostMode_open {s : State} (h : s.eng.windowOpen = true) (f : State → State) :
    ctlState .host Reg.beatCtrl f s = { f s with eng := { (f s).eng with resp := ⟨true, 0⟩ } } :=
  ctlState_pass _ _ _ _ (by simp [Eng.gate, h])

theorem Eng.setMode_fld (s : State) {m : Nat} (h : m < 4) : (s.setMode m).eng.fld Reg.beatCtrl 1 0 = m :=
  (Eng.fld_setF_self _ _ _ (by decide) (by decide)).trans (Nat.mod_eq_of_lt h)

/-- Settles O6, by the rows of R44. -/
theorem modeWritesFollowTheirTable : Obligations.ModeWritesFollowTheirTable := by
  unfold Obligations.ModeWritesFollowTheirTable
  intro s hopen
  have hf : exec (.modeFollower .host) s = .next _ := congrArg Host.Outcome.next (hostMode_open hopen State.modeFollower)
  have hm : exec (.modeMaster .host) s = .next _ := congrArg Host.Outcome.next (hostMode_open hopen State.modeMaster)
  have ho : exec (.modeOff .host) s = .next _ := congrArg Host.Outcome.next (hostMode_open hopen State.modeOff)
  refine ⟨⟨_, _, _, hf, hm, ho, ?_, ?_, ?_⟩, ?_, ?_, ?_, ?_, ?_, ?_⟩
  · exact (sameTime_modeFollower s).time
  · exact (sameTime_modeMaster s).time
  · exact (sameTime_modeOff s).time
  · intro hst
    exact ⟨_, hf, by simp [State.modeFollower, hst, State.onBeat]⟩
  · intro hst
    refine ⟨_, hm, ?_⟩
    rcases hst with hst | hst <;> simp [State.modeMaster, hst, State.enterMaster, State.onBeat]
  · intro hst hw
    refine ⟨_, hm, ?_⟩
    have hrow : s.modeMaster = (s.setMode 2).onBeat fun b => { b with waiting := some .master } := by
      rcases hst with hst | hst | hst <;> simp [State.modeMaster, hst, hw]
    rw [hrow]
    exact ⟨rfl, rfl, Eng.setMode_fld s (by decide)⟩
  · intro hst hw
    refine ⟨_, hf, ?_⟩
    have hrow : s.modeFollower = (s.setMode 1).onBeat fun b => { b with waiting := some .follower } := by
      simp [State.modeFollower, hst, hw]
    rw [hrow]
    exact ⟨hst, rfl, Eng.setMode_fld s (by decide)⟩
  · intro hall
    refine ⟨_, ho, ?_⟩
    rw [State.modeOff, if_pos (by simpa using hall)]
    exact ⟨rfl, Eng.setMode_fld s (by decide)⟩
  · rintro ⟨p, hp, hne⟩
    refine ⟨_, ho, ?_⟩
    rw [State.modeOff, if_neg (by simpa using ⟨p, hp, hne⟩)]
    exact ⟨rfl, Eng.bit_ev_self _ _ (by decide)⟩

end Sys2Proof.Machine
end

section
/-! PROOFS. The reset state (R560, R565, R578): maps that list nothing read their defaults. -/

namespace Sys2Proof.Machine

set_option Elab.async false

open Sys2Proof

theorem Eng.cold_ledger (i : Nat) : Eng.cold.ledger i = Ledger.fresh false := rfl

theorem Eng.cold_vslot (p n : Nat) : Eng.cold.vslot p n = VSlot.empty := rfl

theorem Eng.cold_core (c : Nat) : Eng.cold.core c = MCore.boot := rfl

/-- A cold engine reads the register map's words. -/
theorem Eng.cold_rd (a : Nat) : Eng.cold.rd a = resetWord a := rfl

theorem Eng.cold_pstate : ∀ p, p < 32 → Eng.cold.pstate p = psDisabled ∧ Eng.cold.bit (Reg.partStatus p) 2 = false := by
  have hword : ∀ p, p < 32 → resetWord (Reg.partStatus p) = 0 := by decide +kernel
  intro p hp
  rw [Eng.pstate, Eng.fld, Eng.bit, Eng.cold_rd, hword p hp]
  decide

theorem Eng.cold_sound : Eng.cold.sound := by
  refine ⟨rfl, rfl, rfl, rfl, rfl, rfl, rfl, fun i => ?_, fun p m n _ _ _ hm => ?_, ?_⟩
  · rw [Eng.cold_ledger]
    decide
  · exact absurd rfl hm
  · rw [Eng.cold_core, Eng.cold_core]
    exact fun h => absurd h.1 nofun

/-- Settles O57: every map of the cold engine is empty, so that each reading is the map's default. -/
theorem resetStateIsAsTheSpecGives : Obligations.ResetStateIsAsTheSpecGives := by
  unfold Obligations.ResetStateIsAsTheSpecGives
  have hsreg : ∀ k, Ctx.cleared.sreg k = 0 := fun k => ite_self _
  have hphase : resetWord Reg.glbStatus = 0 := by decide +kernel
  have hlevel : resetWord Reg.mgmtLevel = 0x03000300 := by decide +kernel
  have hcore : ∀ c, (Eng.cold.core c).role = .booting := fun _ => rfl
  refine ⟨rfl, rfl, rfl, BeatUnit.cold_legal, Eng.cold_rd, rfl, fun _ => rfl, fun _ _ => rfl, rfl, hsreg, rfl, rfl,
    fun _ => rfl, fun _ => rfl, rfl, fun _ => rfl, fun _ => rfl, Eng.cold_pstate, ?_, ?_, hcore, ?_, ?_, rfl, rfl, Eng.cold_sound⟩
  · show bitsOf (resetWord Reg.glbStatus).toNat 3 0 = 0
    rw [hphase]
    rfl
  · show (resetWord Reg.glbStatus).toNat.testBit 31 = false
    rw [hphase]
    rfl
  · show bitsOf (resetWord Reg.mgmtLevel).toNat 15 0 = 0x0300
    rw [hlevel]
    rfl
  · show bitsOf (resetWord Reg.mgmtLevel).toNat 31 16 = 0x0300
    rw [hlevel]
    rfl

end Sys2Proof.Machine
end

section
/-! PROOFS. A warm reset where a core that is none of the block's waits for a spare (R487, R561). -/

namespace Sys2Proof.Machine

set_option Elab.async false

open Sys2Proof

/-- A warm reset runs while a failed core of a "partition 128", which the block does not have, waits for a spare and none is
left. What stands where its WX_PART_STATUS would be is WX_SCHED_PRIO of partition 0, whose low bits happen to read RUNNING. -/
def strayCore : State :=
  { State.reset with
    eng := { Eng.cold with regs := [(Reg.schedPrio 0 0, 0x10101011), (Reg.intSpares, 0x08000402)], warm := true, coreWait := [128] } }

theorem partStatus_stray : Reg.partStatus 128 = Reg.schedPrio 0 0 := rfl

/-- Settling the waiting core halts its partition, which writes HALTED into the priority word; phases 4 and 5 keep it there. -/
theorem strayCore_prio :
    ((((strayCore.eng.warmSettle strayCore.beat).afterWarm).showKept strayCore.beat).warmEnd).rd (Reg.schedPrio 0 0) = 0x10101013 := by
  decide +kernel

theorem execWarmResetComplete_runs {s : State} (hw : s.eng.warm = true) (ht : s.eng.txns = []) :
    execWarmResetComplete s =
      .next { s with eng := (((s.eng.warmSettle s.beat).afterWarm).showKept s.beat).warmEnd } := by
  simp [execWarmResetComplete, State.onEng, hw, ht]

/-- Refutes O56: its last clause lets the list of waiting cores name any number, and for 128 the settling before phase 4 changes
RWS bits of WX_SCHED_PRIO of partition 0, from 0x11 to 0x13. -/
theorem not_startUpAndResetsLeaveTheirState : ¬ Obligations.StartUpAndResetsLeaveTheirState := by
  unfold Obligations.StartUpAndResetsLeaveTheirState
  rintro ⟨-, -, -, -, -, hcomplete⟩
  obtain ⟨t, ht, -, -, -, -, -, -, -, -, -, -, hkeep⟩ := hcomplete strayCore rfl rfl (by decide)
  have heng : t.eng = (((strayCore.eng.warmSettle strayCore.beat).afterWarm).showKept strayCore.beat).warmEnd := by
    rw [← Host.Outcome.next.inj ((execWarmResetComplete_runs rfl rfl).symm.trans ht)]
  have hrow : (regRow (Reg.schedPrio 0 0)).map RegRow.rws = some 0x1F1F1F1F := by decide +kernel
  obtain ⟨r, hr, hrws⟩ := Option.map_eq_some_iff.mp hrow
  have hne : ∀ p, p < 32 → Reg.schedPrio 0 0 ≠ Reg.partCtrl p := by decide
  have hsame := hkeep _ r hr hne
  rw [heng, strayCore_prio, hrws] at hsame
  exact absurd hsame (by decide +kernel)

end Sys2Proof.Machine
end

section
/-! PROOFS. What an operation of the engine leaves of a partition's WX_PART_CTRL and WX_PART_STATUS (R54, R60, R62): the first
always, the second but for the halt of a RUNNING partition. -/

namespace Sys2Proof.Machine

set_option Elab.async false

open Sys2Proof

/-- A register that is no WX_PART_CTRL and no WX_PART_STATUS. -/
def PartFree (a : Nat) : Prop := ∀ p, p < 32 → a ≠ Reg.partCtrl p ∧ a ≠ Reg.partStatus p

/-- The registers above those of WX_PART. -/
theorem PartFree.high {a : Nat} (h : 0x28000 ≤ a) : PartFree a := by
  intro p hp
  constructor
  · show a ≠ 0x20000 + 0x400 * p
    omega
  · show a ≠ 0x20004 + 0x400 * p
    omega

/-- The registers below those of WX_PART. -/
theorem PartFree.low {a : Nat} (h : a < 0x20000) : PartFree a := by
  intro p hp
  constructor
  · show a ≠ 0x20000 + 0x400 * p
    omega
  · show a ≠ 0x20004 + 0x400 * p
    omega

/-- The registers of WX_PART at other offsets. -/
theorem PartFree.part {c : Nat} (q : Nat) (h : c % 0x400 ≠ 0 ∧ c % 0x400 ≠ 4) : PartFree (c + 0x400 * q) := by
  intro p hp
  constructor
  · show c + 0x400 * q ≠ 0x20000 + 0x400 * p
    omega
  · show c + 0x400 * q ≠ 0x20004 + 0x400 * p
    omega

/-- Of partition `p`, WX_PART_CTRL stands, and so does WX_PART_STATUS: in every state, or with `halts` in every state but RUNNING,
from which a fault may take the partition to HALTED. -/
structure Eng.Abides (p : Fin 32) (halts : Bool) (e f : Eng) : Prop where
  ctrl : f.rd (Reg.partCtrl p) = e.rd (Reg.partCtrl p)
  status : (halts = true → e.pstate p ≠ psRunning) → f.rd (Reg.partStatus p) = e.rd (Reg.partStatus p)

section
variable {p : Fin 32} {halts : Bool} {e g k : Eng}

theorem Eng.Abides.refl (e : Eng) : e.Abides p halts e := ⟨rfl, fun _ => rfl⟩

theorem Eng.Abides.trans (h : e.Abides p halts g) (k' : g.Abides p halts k) : e.Abides p halts k := by
  refine ⟨k'.ctrl.trans h.ctrl, fun hr => ?_⟩
  have hg := h.status hr
  exact (k'.status fun hh => by rw [Eng.pstate, Eng.fld_congr hg]; exact hr hh).trans hg

/-- A change of anything but registers. -/
theorem Eng.Abides.rest (h : e.Abides p halts g) (hr : k.regs = g.regs := by rfl) : e.Abides p halts k :=
  h.trans ⟨by rw [Eng.rd, hr, Eng.rd], fun _ => by rw [Eng.rd, hr, Eng.rd]⟩

theorem Eng.Abides.ite {c : Prop} [Decidable c] (h : e.Abides p halts g) (h' : e.Abides p halts k) :
    e.Abides p halts (if c then g else k) := by
  split
  · exact h
  · exact h'

/-- A choice between engines that carry an answer. -/
theorem Eng.Abides.ite2 {α : Type} {c : Prop} [Decidable c] {x y : α × Eng} (h : e.Abides p halts x.2) (h' : e.Abides p halts y.2) :
    e.Abides p halts (if c then x else y).2 := by
  split
  · exact h
  · exact h'

/-- The engine that stands beside an answer. -/
theorem Eng.Abides.beside {α : Type} {x : α × Eng} {a : α} (h : e.Abides p halts x.2) (hx : x = (a, k)) : e.Abides p halts k := by
  rw [hx] at h
  exact h

theorem Eng.Abides.before {α : Type} {x : Eng × α} {a : α} (h : e.Abides p halts x.1) (hx : x = (k, a)) : e.Abides p halts k := by
  rw [hx] at h
  exact h

theorem Eng.Abides.foldl {α : Type} (h : e.Abides p halts g) {f : Eng → α → Eng} {l : List α}
    (hf : ∀ {g} x, e.Abides p halts g → e.Abides p halts (f g x)) : e.Abides p halts (l.foldl f g) := by
  induction l generalizing g with
  | nil => exact h
  | cons x r ih => exact ih (hf x h)

/-- A fold that carries the engine with something else. -/
theorem Eng.Abides.foldlOn {α β : Type} (π : β → Eng) {z : β} (h : e.Abides p halts (π z)) {f : β → α → β} {l : List α}
    (hf : ∀ {z} x, e.Abides p halts (π z) → e.Abides p halts (π (f z x))) : e.Abides p halts (π (l.foldl f z)) := by
  induction l generalizing z with
  | nil => exact h
  | cons x r ih => exact ih (hf x h)

/-! ## Registers -/

theorem Eng.Abides.wr (h : e.Abides p halts g) {a : Nat} {v : Word}
    (ha : PartFree a := by exact .high (Nat.le_add_right_of_le (by decide))) : e.Abides p halts (g.wr a v) := by
  obtain ⟨hc, hs⟩ := ha p.val p.isLt
  exact h.trans ⟨Eng.rd_wr_ne _ _ hc.symm, fun _ => Eng.rd_wr_ne _ _ hs.symm⟩

theorem Eng.Abides.setF (h : e.Abides p halts g) {a hi lo v : Nat}
    (ha : PartFree a := by exact .high (Nat.le_add_right_of_le (by decide))) : e.Abides p halts (g.setF a hi lo v) := h.wr ha
theorem Eng.Abides.ev (h : e.Abides p halts g) {a i : Nat}
    (ha : PartFree a := by exact .high (Nat.le_add_right_of_le (by decide))) : e.Abides p halts (g.ev a i) := h.wr ha
theorem Eng.Abides.bump (h : e.Abides p halts g) {a hi lo c : Nat}
    (ha : PartFree a := by exact .high (Nat.le_add_right_of_le (by decide))) : e.Abides p halts (g.bump a hi lo c) := h.wr ha
theorem Eng.Abides.bumpWrap (h : e.Abides p halts g) {a hi lo c : Nat}
    (ha : PartFree a := by exact .high (Nat.le_add_right_of_le (by decide))) : e.Abides p halts (g.bumpWrap a hi lo c) := h.wr ha
theorem Eng.Abides.setPair (h : e.Abides p halts g) {lo hi v : Nat}
    (hl : PartFree lo := by exact .high (Nat.le_add_right_of_le (by decide)))
    (hh : PartFree hi := by exact .high (Nat.le_add_right_of_le (by decide))) : e.Abides p halts (g.setPair lo hi v) := (h.wr hl).wr hh

theorem PartFree.notLog (q : Fin 32) : Reg.partCtrl q ∉ logRegs ∧ Reg.partStatus q ∉ logRegs := by
  have hlog : ∀ a ∈ logRegs, PartFree a := fun a ha => .high ((by decide : ∀ a ∈ logRegs, 0x28000 ≤ a) a ha)
  exact ⟨fun h => (hlog _ h q.val q.isLt).1 rfl, fun h => (hlog _ h q.val q.isLt).2 rfl⟩

theorem Eng.Abides.logsOnly (h : e.Abides p halts g) (k' : g.LogsOnly k) : e.Abides p halts k :=
  h.trans ⟨k'.rd _ (PartFree.notLog p).1, fun _ => k'.rd _ (PartFree.notLog p).2⟩

theorem Eng.Abides.logAdd (h : e.Abides p halts g) {b : BeatUnit} {type src : Nat} {part : Option Nat} {l : List Byte} :
    e.Abides p halts (g.logAdd b type src part l) := h.logsOnly (Eng.logAdd_logsOnly b type src part l g)

theorem Eng.Abides.partEv (h : e.Abides p halts g) {q i : Nat} : e.Abides p halts (g.partEv q i) := h.ev (.part q (by decide))

theorem Eng.Abides.onPart (h : e.Abides p halts g) {q : Nat} {f : Partn → Partn} : e.Abides p halts (g.onPart q f) := h.rest
theorem Eng.Abides.onCtx (h : e.Abides p halts g) {q c : Nat} {f : Ctx → Ctx} : e.Abides p halts (g.onCtx q c f) := h.rest
theorem Eng.Abides.onStep (h : e.Abides p halts g) {q m : Nat} {f : Step → Step} : e.Abides p halts (g.onStep q m f) := h.rest
theorem Eng.Abides.onReq (h : e.Abides p halts g) {m : Nat} {f : Req → Req} : e.Abides p halts (g.onReq m f) := h.rest
theorem Eng.Abides.onCell (h : e.Abides p halts g) {m : Nat} {f : Cell → Cell} : e.Abides p halts (g.onCell m f) := h.rest

/-! ## The issue slot -/

theorem Eng.Abides.showPower (h : e.Abides p halts g) {d : Nat} : e.Abides p halts (g.showPower d) :=
  ((h.setF (.high (by decide))).setF (.high (by decide))).setF (.high (by decide))

theorem Eng.Abides.ungate (h : e.Abides p halts g) {q : Nat} : e.Abides p halts (g.ungate q) := by
  have hgate : e.Abides p halts (g.setF Reg.pwrGated q q 0) := h.setF (.high (by decide))
  exact .ite hgate.rest.showPower h

theorem Eng.Abides.dispatch (h : e.Abides p halts g) {q : Nat} : e.Abides p halts (g.dispatch q) := by
  unfold Eng.dispatch
  split
  · exact h
  · split
    · exact h
    · dsimp only
      split
      · exact h.ungate.onCtx.onPart
      · exact h.ungate.bumpWrap.onCtx.onPart

end
end Sys2Proof.Machine
end

section
/-! PROOFS. Stopping the contexts of a partition, and what that sets going at cells and ledgers, changes its WX_PART_STATUS by
no more than a halt (R60, R95, R175). -/

namespace Sys2Proof.Machine

set_option Elab.async false

open Sys2Proof

section
variable {p : Fin 32} {halts : Bool} {e g k : Eng}

/-! ## Records and HALTED -/

theorem Eng.Abides.tenantRec (h : e.Abides p halts g) {b : BeatUnit} {q kind ctx pc fault : Nat} {l : List Byte} :
    e.Abides p halts (g.tenantRec b q kind ctx pc fault l) := by
  have hstore : ∀ a d, e.Abides p halts (g.store a d) := fun _ _ => h.rest
  exact .ite h.bump (hstore _ _).bumpWrap.partEv

theorem Eng.Abides.memRec (h : e.Abides p halts g) {b : BeatUnit} {q a : Nat} {w : Bool} : e.Abides p halts (g.memRec b q a w) :=
  .ite h h.tenantRec.onPart

theorem Eng.Abides.storeHeaders (h : e.Abides p halts g) {b : BeatUnit} {q st : Nat} : e.Abides p halts (g.storeHeaders b q st) := by
  have hone : ∀ {g r}, e.Abides p halts g → e.Abides p halts (g.storeHeader b q r) := fun h => .ite h.memRec h.rest
  exact Eng.Abides.foldl (hone h.onPart) fun _ h => hone h

/-- The halt of a partition: of this one, only from RUNNING. -/
theorem Eng.Abides.halt (h : e.Abides p true g) {b : BeatUnit} {q : Nat} : e.Abides p true (g.halt b q) := by
  unfold Eng.halt
  split
  · exact h
  · rename_i hrun
    refine Eng.Abides.storeHeaders (Eng.Abides.onPart (Eng.Abides.partEv (h.trans ⟨Eng.rd_setF_ne _ _ _ _ ?_, fun hp => ?_⟩)))
    · show 0x20000 + 0x400 * p.val ≠ 0x20004 + 0x400 * q
      omega
    · refine Eng.rd_setF_ne _ _ _ _ ?_
      have hne : p.val ≠ q := fun hpq => hrun (hpq ▸ hp rfl)
      show 0x20004 + 0x400 * p.val ≠ 0x20004 + 0x400 * q
      omega

theorem Eng.Abides.tenantFault (h : e.Abides p true g) {b : BeatUnit} {q kind : Nat} {l : List Byte} :
    e.Abides p true (g.tenantFault b q kind l) := .ite h h.tenantRec.halt

theorem Eng.Abides.phase (h : e.Abides p true g) {b : BeatUnit} {q kind v d r : Nat} {o : Option Nat} :
    e.Abides p true (g.phase b q kind v d r o) := by
  have hstore : ∀ a d, e.Abides p true (g.partStore b q a d) := fun _ _ => .ite h.memRec.halt h.rest
  exact .ite h (hstore _ _).bumpWrap

/-! ## Instruction boundaries -/

theorem Eng.Abides.vacate (h : e.Abides p halts g) {q c : Nat} : e.Abides p halts (g.vacate q c) := .ite h.onPart h

theorem Eng.Abides.release (h : e.Abides p halts g) {q c : Nat} : e.Abides p halts (g.release q c) := h.vacate.dispatch

theorem Eng.Abides.preempt (h : e.Abides p halts g) {q c : Nat} : e.Abides p halts (g.preempt q c) := by
  have hout : e.Abides p halts (g.switchOut q c) := h.onCtx.onPart.dispatch
  exact .ite hout hout.bumpWrap

theorem Eng.Abides.postAlert (h : e.Abides p halts g) {q m : Nat} : e.Abides p halts (g.postAlert q m) := by
  have hclear : e.Abides p halts (g.onReq m fun r => { r with alert := none }) := h.onReq
  unfold Eng.postAlert
  split
  · exact h
  · exact .ite hclear (.ite (Eng.Abides.bumpWrap hclear.rest) h.onPart.ev)

theorem Eng.Abides.discardBatch (h : e.Abides p halts g) {q : Nat} : e.Abides p halts (g.discardBatch q) := by
  have halert : ∀ {g m}, e.Abides p halts g → e.Abides p halts (g.alertReturn q m) := fun h => by
    unfold Eng.alertReturn
    split
    · exact .ite h.postAlert h
    · exact h
  unfold Eng.discardBatch
  split
  · exact h
  · exact Eng.Abides.foldl (Eng.Abides.onPart (h.foldl fun _ h => h.rest)) fun _ h => halert h

theorem Eng.Abides.faultOnly (h : e.Abides p halts g) {b : BeatUnit} {q c kind operand detail : Nat} {l : List Byte} :
    e.Abides p halts (g.faultOnly b q c kind operand detail l) := by
  have hdrop : e.Abides p halts (if g.ownsBatch q c then g.discardBatch q else g) := .ite h.discardBatch h
  exact (Eng.Abides.ite hdrop.onCtx hdrop.onCtx.tenantRec.partEv).vacate

theorem Eng.Abides.withdraw (h : e.Abides p halts g) {b : BeatUnit} {q c : Nat} {r : StopReq} :
    e.Abides p halts (g.withdraw b q c r) := by
  unfold Eng.withdraw
  split
  · split
    · exact h
    · exact h.onCell.onCtx
  · exact h.onPart.onCtx
  · exact h

theorem Eng.Abides.stopCtx (h : e.Abides p halts g) {b : BeatUnit} {q c : Nat} {r : StopReq} :
    e.Abides p halts (g.stopCtx b q c r) := by
  have hput : ∀ {g m v s}, e.Abides p halts g → e.Abides p halts (Eng.putCell m v s g) := fun h => .ite h.rest h.rest
  have hdrop : e.Abides p halts (if r ≠ .stop ∧ (g.withdraw b q c r).ownsBatch q c then (g.withdraw b q c r).discardBatch q
      else g.withdraw b q c r) :=
    .ite h.withdraw.discardBatch h.withdraw
  unfold Eng.stopCtx
  dsimp only
  split
  · exact Eng.Abides.onCtx (hdrop.foldl fun _ h => hput h)
  · exact hdrop.onCtx
  · exact hdrop.onCtx

theorem Eng.Abides.boundary (h : e.Abides p halts g) {b : BeatUnit} {q c : Nat} : e.Abides p halts (g.boundary b q c) := by
  unfold Eng.boundary
  dsimp only
  split
  · exact h.stopCtx.release
  · exact .ite h.release (.ite h.preempt h.dispatch)

theorem Eng.Abides.complete (h : e.Abides p halts g) {q c : Nat} {f : Ctx → Ctx} : e.Abides p halts (g.complete q c f) := h.onCtx
theorem Eng.Abides.finish (h : e.Abides p halts g) {b : BeatUnit} {q c : Nat} {f : Ctx → Ctx} : e.Abides p halts (g.finish b q c f) :=
  h.complete.boundary

/-! ## Ledgers -/

theorem Eng.Abides.charge (h : e.Abides p halts g) {q i j : Nat} : e.Abides p halts (g.charge q i j) := by
  have hset : ∀ l, e.Abides p halts (g.setLedger i l) := fun _ => h.rest
  exact .ite (hset _) (hset _).bump.ev

theorem Eng.Abides.ledgFirst (h : e.Abides p halts g) {i row : Nat} : e.Abides p halts (g.ledgFirst i row).2 := by
  refine Eng.Abides.foldlOn (fun x : List (LedgOp × Option Dword) × Eng => x.2) h.rest fun o h => ?_
  unfold ledgOne
  dsimp only
  split
  · exact h
  · exact h.rest
  · exact h.charge
  · exact .ite2 h.charge h

theorem Eng.Abides.ledgCycle (h : e.Abides p halts g) {b : BeatUnit} {i row : Nat} : e.Abides p halts (g.ledgCycle b i row id) := by
  refine Eng.Abides.foldl (Eng.Abides.ledgFirst (Eng.Abides.ledgFirst h)) fun x h => ?_
  split
  · exact h.finish
  · exact h

/-! ## The links and the rounds of a version -/

theorem Eng.Abides.rmSend (h : e.Abides p halts g) {j : Nat} {m : RmMsg} : e.Abides p halts (g.rmSend j m) := h.rest

theorem Eng.Abides.rmPump (h : e.Abides p halts g) : e.Abides p halts g.rmPump :=
  Eng.Abides.foldl (g := { g with rmHeld := [] }) h.rest fun _ h => by
    extract_lets cls
    refine .ite h.rest ?_
    split
    · exact h.rest
    · exact h.rest

theorem Eng.Abides.onGroup (h : e.Abides p halts g) {j : Nat} {f : Group → Group} : e.Abides p halts (g.onGroup j f) := h.rest

theorem Eng.Abides.updSend (h : e.Abides p true g) {b : BeatUnit} : e.Abides p true (g.updSend b) := by
  unfold Eng.updSend
  split
  · exact h
  · extract_lets g' q shard own layer m g1 r g2
    have h1 : e.Abides p true g1 := h.onGroup
    have h2 : e.Abides p true g2 := .ite h1.phase.onPart h1
    exact .ite h h2.rmSend.rmPump

theorem Eng.Abides.rmFlow (h : e.Abides p true g) {b : BeatUnit} : e.Abides p true (g.rmFlow b) := by
  have hpump : ∀ j {g}, e.Abides p true g → e.Abides p true (Eng.updPump b j g) := by
    intro j
    induction j with
    | zero => exact fun h => h
    | succ j ih => exact fun h => ih h.updSend
  exact hpump _ h.rmPump

theorem Eng.Abides.applyRound (h : e.Abides p halts g) {q t : Nat} : e.Abides p halts (g.applyRound q t) := by
  have hadvance : ∀ {g j}, e.Abides p halts g → e.Abides p halts (Eng.groupAdvance q j t g) := fun h =>
    .ite h.onGroup.onPart.onGroup.ev h.onGroup.onPart.onGroup.onPart
  exact Eng.Abides.bumpWrap (Eng.Abides.foldl h.onPart fun _ h => .ite h.bump.ev (hadvance h))

theorem Eng.Abides.countVote (h : e.Abides p halts g) {b : BeatUnit} {q m x v : Nat} : e.Abides p halts (g.countVote b q m x v) :=
  .ite h h.logAdd.onPart

theorem Eng.Abides.decideRound (h : e.Abides p true g) {b : BeatUnit} {q m : Nat} : e.Abides p true (g.decideRound b q m).2 := by
  unfold Eng.decideRound
  extract_lets x reason target round body g1 j g2 g3
  have h2 : e.Abides p true g2 := .ite h.onPart.tenantFault h.onPart
  exact .ite h2.setF.applyRound h2

theorem Eng.Abides.applyVerdict (h : e.Abides p true g) {b : BeatUnit} {q m body : Nat} :
    e.Abides p true (g.applyVerdict b q m body).2 := by
  unfold Eng.applyVerdict
  extract_lets reason count layer eng g1 g2 g3 g4
  have h3 : e.Abides p true g3 := h.bumpWrap.wr.phase
  exact .ite2 h3 h3.bump.ev.logAdd

theorem Eng.Abides.roundCheck (h : e.Abides p true g) {b : BeatUnit} {q : Nat} : e.Abides p true (g.roundCheck b q) := by
  have hend : ∀ {g r}, e.Abides p true g → e.Abides p true (Eng.roundEnd b q r g) := fun h => h.ev.phase
  unfold Eng.roundCheck
  extract_lets old g1 r
  have h1 : e.Abides p true g1 := Eng.Abides.foldl h.onPart fun _ h => hend h
  exact .ite (hend h1).onPart h1

/-! ## The cycle of a cell -/

theorem Eng.Abides.satHit (h : e.Abides p halts g) {m : Nat} : e.Abides p halts (g.satHit m) := by
  unfold Eng.satHit
  extract_lets g1
  split
  · exact h.onCell
  · exact h.onCell.bump.ev

theorem Eng.Abides.cellSub (h : e.Abides p halts g) {m j : Nat} : e.Abides p halts (g.cellSub m j) := by
  have htook : ∀ i, e.Abides p halts (g.tookFrom m i) := fun i => by
    unfold Eng.tookFrom
    split
    · exact h
    · exact h.onPart
  exact .ite (htook _).onCell.satHit (htook _).onCell

theorem Eng.Abides.realignEntry (h : e.Abides p halts g) {q j : Nat} : e.Abides p halts (g.realignEntry q j) := by
  unfold Eng.realignEntry
  split
  · exact h
  · exact .ite h h.onCell.bump.ev

theorem Eng.Abides.waitOk (h : e.Abides p halts g) {b : BeatUnit} {w : Wait} : e.Abides p halts (g.waitOk b w) := .ite h.onCtx h.complete

theorem Eng.Abides.walk (h : e.Abides p halts g) {b : BeatUnit} {m : Nat} : e.Abides p halts (g.walk b m) := by
  refine Eng.Abides.foldlOn (fun x : Eng × Bool => x.1) h fun w h => ?_
  unfold walkOne
  extract_lets drop c
  split
  · exact h
  · split
    · exact h.onCell.waitOk
    · exact h
  · split
    · exact h
    · split
      · exact h.onCell.cellSub.waitOk
      · exact h

theorem Eng.Abides.expire (h : e.Abides p halts g) {b : BeatUnit} {m : Nat} {w : Wait} : e.Abides p halts (g.expire b m w) := by
  unfold Eng.expire
  extract_lets atExpiry g1 q pc g2 g3 g4
  have h4 : e.Abides p halts g4 := h.onCell.bump.ev.wr.setPair
  exact .ite h4.faultOnly (.ite h4.onCtx h4.complete)

theorem Eng.Abides.settle (h : e.Abides p halts g) {b : BeatUnit} {m : Nat} {l : List (Nat × Nat)} {x : Nat × Nat} :
    e.Abides p halts (g.settle b m l x) := by
  unfold Eng.settle
  extract_lets here g1 g2 y
  have h1 : e.Abides p halts g1 := by
    refine .ite ?_ h
    split
    · exact h.onCell
    · exact h
  have h2 : e.Abides p halts g2 := .ite h1.onCtx h1
  exact .ite h2.boundary h2

theorem Eng.Abides.releaseBars (h : e.Abides p halts g) {b : BeatUnit} {m : Nat} {f : Wait → Bool} :
    e.Abides p halts (g.releaseBars b m f).2 := Eng.Abides.foldl h.onCell fun _ h => h.waitOk

theorem PartFree.xbStatus (q j : Nat) : PartFree (Reg.syncXbStatus q j) :=
  .high (Nat.le_add_right_of_le (Nat.le_add_right_of_le (by decide)))

theorem Eng.Abides.xbCount (h : e.Abides p halts g) {b : BeatUnit} {q j x v : Nat} : e.Abides p halts (g.xbCount b q j x v) := by
  have hcount := (h.setF (hi := 15) (lo := 0) (v := g.fld (Reg.syncXbStatus q j) 15 0 + 1) (.xbStatus q j)).setF (hi := 31) (lo := 30)
    (v := 2) (.xbStatus q j)
  exact .ite hcount.countVote hcount

theorem Eng.Abides.xbLocal (h : e.Abides p true g) {b : BeatUnit} {q j c : Nat} : e.Abides p true (g.xbLocal b q j c) := by
  have hvoted : ∀ {g}, e.Abides p true g → e.Abides p true (Eng.takeVote b q g).2 := fun h => h.wr.phase
  unfold Eng.xbLocal
  extract_lets m g1
  split
  next vote g2 hvote =>
  have h2 : e.Abides p true g2 := by
    split at hvote
    · exact (hvoted h.onCell).beside hvote
    · exact h.onCell.beside hvote
  exact .ite (Eng.Abides.xbCount h2.onPart) (Eng.Abides.setF h2.onPart (.xbStatus q j)).rmSend.rmPump

theorem Eng.Abides.xbFree (h : e.Abides p true g) {b : BeatUnit} {q j body : Nat} : e.Abides p true (g.xbFree b q j body).1 := by
  unfold Eng.xbFree
  split
  next c g1 hbars =>
  have h1 : e.Abides p true g1 := h.releaseBars.beside hbars
  split
  · exact h1.applyVerdict
  · exact h1

theorem Eng.Abides.xbRelease (h : e.Abides p true g) {b : BeatUnit} {q j : Nat} : e.Abides p true (g.xbRelease b q j).1 := by
  have h1 : e.Abides p true (g.wr (Reg.syncXbStatus q j) 0) := h.wr (.xbStatus q j)
  unfold Eng.xbRelease
  extract_lets g1
  split
  next body g2 hbody =>
  have h2 : e.Abides p true g2 := by
    split at hbody
    · exact h1.decideRound.beside hbody
    · exact h1.beside hbody
  extract_lets g3 g4
  have h4 : e.Abides p true g4 := h2.rmSend.rmPump.onPart
  split
  next g5 go hfree =>
  have h5 : e.Abides p true g5 := h4.xbFree.before hfree
  exact .ite h5.roundCheck.rmFlow h5

theorem Eng.Abides.xbRun (h : e.Abides p true g) {b : BeatUnit} {q j fuel : Nat} {local_ : Bool} {c : Nat} :
    e.Abides p true (g.xbRun b q j fuel local_ c).1 := by
  induction fuel generalizing g local_ c with
  | zero => exact h
  | succ fuel ih =>
    cases local_ with
    | true =>
      unfold Eng.xbRun
      extract_lets g1
      split
      · exact ih h.xbLocal
      · exact h.xbLocal
    | false =>
      unfold Eng.xbRun
      split
      · exact h
      · extract_lets was
        split
        next g1 go hrel =>
        have h1 : e.Abides p true g1 := h.xbRelease.before hrel
        extract_lets pc
        split
        · exact ih h1
        · exact h1

theorem Eng.Abides.barCheck (h : e.Abides p true g) {b : BeatUnit} {m : Nat} : e.Abides p true (g.barCheck b m).1 := by
  unfold Eng.barCheck
  extract_lets c
  split
  · exact h
  · split
    · exact h.onCell.releaseBars
    · split
      · exact h
      · exact h.xbRun

theorem Eng.Abides.takeRelease (h : e.Abides p true g) {b : BeatUnit} {q j body : Nat} :
    e.Abides p true (g.takeRelease b q j body).1 := by
  unfold Eng.takeRelease
  extract_lets m late g1
  have h1 : e.Abides p true g1 := .ite h.ev h
  split
  next g2 go hfree =>
  have h2 : e.Abides p true g2 := (h1.setF (.xbStatus q j)).xbFree.before hfree
  extract_lets pc
  split
  · exact h2.xbRun
  · exact h2

/-- The operations on spanning entries. The two functions that run them stay opaque here: the kernel would evaluate them to see that
the match on their answer is stuck. -/
theorem Eng.Abides.xbOps {b : BeatUnit} {l : List CellOp} {x : Eng × GoAdds} (h : e.Abides p true x.1) :
    e.Abides p true (Eng.xbOps b l x).1 := by
  have htake : ∀ {g q j body}, e.Abides p true g → e.Abides p true (Eng.takeRelease b q j body g).1 := fun h => h.takeRelease
  have hrun : ∀ {g q j s v}, e.Abides p true g → e.Abides p true (Eng.xbRun b q j 8 false 0 (g.xbCount b q j s v)).1 :=
    fun h => h.xbCount.xbRun
  obtain ⟨take, hteq⟩ : ∃ take, take = Eng.takeRelease := ⟨_, rfl⟩
  obtain ⟨run, hreq⟩ : ∃ run, run = Eng.xbRun := ⟨_, rfl⟩
  unfold Eng.xbOps
  rw [← hteq] at htake ⊢
  rw [← hreq] at hrun ⊢
  refine Eng.Abides.foldlOn (fun x : Eng × GoAdds => x.1) h fun o h => ?_
  cases o with
  | release => exact htake h
  | arrive => exact hrun h
  | _ => exact h

theorem Eng.Abides.ackOps (h : e.Abides p halts g) {m : Nat} {s : Bool} {l : List CellOp} : e.Abides p halts (g.ackOps m s l) :=
  h.foldl fun _ h => by
    split
    · exact h.complete
    · exact h.complete
    · exact h

theorem Eng.Abides.cellSet (h : e.Abides p halts g) {b : BeatUnit} {m : Nat} {l : List CellOp} : e.Abides p halts (g.cellSet b m l) := by
  refine Eng.Abides.foldl (Eng.Abides.foldl h fun _ h => ?_) fun _ h => ?_
  · split
    · refine Eng.Abides.onCell ?_
      split
      · exact (h.logAdd.bump (.high (by decide))).ev
      · exact h.logAdd.bump (.high (by decide))
    · exact h.onCell
    · exact h.onCell
    · exact h
  · split
    · exact h.foldl fun _ h => .ite h.realignEntry h
    · exact h

theorem Eng.Abides.cellCommit (h : e.Abides p true g) {b : BeatUnit} {m : Nat} : e.Abides p true (g.cellCommit b m) := by
  have hevents : ∀ {g q}, e.Abides p true g → e.Abides p true (Eng.newestEvents q g) := fun h => h.foldl fun _ h => .ite h.onReq h
  have hslot : ∀ {g q j v}, e.Abides p true g → e.Abides p true (Eng.setVslot q j v g) := fun h => h.onPart
  have hcommit : ∀ {g q j}, e.Abides p true g → e.Abides p true (Eng.commit b q j g) := fun h => hevents (hslot h).onPart.ev.phase
  unfold Eng.cellCommit
  split
  · exact h
  · split
    exact .ite h (Eng.Abides.foldl h.onCell fun _ h => hcommit h)

theorem Eng.Abides.cellCycle (h : e.Abides p true g) {b : BeatUnit} {m : Nat} {l : List CellOp} :
    e.Abides p true (g.cellCycle b m l).1 := by
  unfold Eng.cellCycle
  extract_lets came ends g1 adds g2 g3 g4 subs g5 g6 news g7 queued g8
  have h2 : e.Abides p true g2 := .ite h.cellSet (.ite h.cellSet.onCell h.cellSet.onCell.satHit)
  have h4 : e.Abides p true g4 := h2.ackOps.cellCommit
  have h5 : e.Abides p true g5 := .ite h4 h4.cellSub
  have h8 : e.Abides p true g8 := Eng.Abides.onCell (h5.ackOps.foldl fun _ h => h.waitOk)
  split
  next g9 gos hxb =>
  have h9 : e.Abides p true g9 := (Eng.Abides.xbOps h8.barCheck).before hxb
  exact Eng.Abides.foldl (Eng.Abides.foldl h9.walk fun _ h => h.expire) fun _ h => h.settle

theorem Eng.Abides.cellRun (h : e.Abides p true g) {b : BeatUnit} {fuel : Nat} {l : List (Nat × List CellOp)} {ps : List Nat} :
    e.Abides p true (g.cellRun b fuel l ps) := by
  induction fuel generalizing g l ps with
  | zero => exact h.foldl fun _ h => h.dispatch
  | succ fuel ih =>
    cases l with
    | nil => exact h.foldl fun _ h => h.dispatch
    | cons x r =>
      obtain ⟨m, ops⟩ := x
      unfold Eng.cellRun
      split
      · exact ih (h.foldl fun _ h => h.rest)
      · extract_lets all qs
        split
        next g1 gos hcycle =>
        have h0 : e.Abides p true { g with joined := g.joined.filter fun x => decide (x.1 ≠ m) } := h.rest
        exact ih (h0.cellCycle.before hcycle)

theorem Eng.Abides.atCell (h : e.Abides p true g) {b : BeatUnit} {m : Nat} {l : List CellOp} : e.Abides p true (g.atCell b m l) :=
  .ite h.cellRun h.cellRun.showPower

theorem Eng.Abides.stopNow (h : e.Abides p true g) {b : BeatUnit} {q c : Nat} {r : StopReq} :
    e.Abides p true (g.stopNow b q c r) := by
  unfold Eng.stopNow
  extract_lets g1
  have h1 : e.Abides p true g1 := .ite h.onCtx h.stopCtx.release
  split
  · exact .ite h1.atCell h1
  · exact h1.ledgCycle
  · exact h1

/-! ## The stage and the Dispatch Link -/

theorem Eng.Abides.showBacklog (h : e.Abides p halts g) : e.Abides p halts g.showBacklog :=
  (h.setF (.high (by decide))).setF (.high (by decide))

theorem Eng.Abides.showPlane (h : e.Abides p halts g) : e.Abides p halts g.showPlane := by
  unfold Eng.showPlane
  extract_lets j u g1 g2
  have h1 : e.Abides p halts g1 := (h.setF (.high (by decide))).setF (.high (by decide))
  have h2 : e.Abides p halts g2 := h1.setF (.high (by decide))
  exact (h2.setF (.high (by decide))).setF (.high (by decide))

theorem Eng.Abides.stageGrant (h : e.Abides p halts g) {fuel : Nat} : e.Abides p halts (g.stageGrant fuel) := by
  induction fuel generalizing g with
  | zero => exact h
  | succ fuel ih =>
    unfold Eng.stageGrant
    split
    · exact h
    next q num pass rest hq =>
      have h1 : e.Abides p halts { g with stageq := rest } := h.rest
      split
      · exact ih h1
      · exact .ite (ih h1.onStep) h

theorem Eng.Abides.placeRow (h : e.Abides p halts g) {x : HRowPkt} : e.Abides p halts (g.placeRow x) := by
  unfold Eng.placeRow
  extract_lets q num pass g1
  have h1 : e.Abides p halts g1 := .ite h h.rest
  exact .ite h.rest (.ite (h.bump (.low (by decide))) (.ite h.onStep h1.rest))

theorem Eng.Abides.stageFlow (h : e.Abides p halts g) : e.Abides p halts g.stageFlow := by
  have hround : ∀ {g}, e.Abides p halts g → e.Abides p halts g.stageRound := fun {g} h =>
    Eng.Abides.foldl (g := { g.stageGrant g.stageq.length with hrowHeld := [] }) h.stageGrant.rest fun _ h => h.placeRow
  exact (h.foldl fun _ h => hround h).showPlane

theorem Eng.Abides.kdlSend (h : e.Abides p halts g) {c : Nat} {l : List KdlOut} : e.Abides p halts (Eng.kdlSend c l g).2 := by
  induction l generalizing g with
  | nil => exact h
  | cons d r ih =>
    unfold Eng.kdlSend
    extract_lets ph j type g1 g2
    have h1 : e.Abides p halts g1 := h.rest
    have h2 : e.Abides p halts g2 := .ite h1.onStep h1
    exact .ite2 (ih h2) h

theorem Eng.Abides.kdlPump (h : e.Abides p halts g) {b : BeatUnit} : e.Abides p halts (g.kdlPump b) := by
  have hdone : ∀ {g}, e.Abides p halts g → e.Abides p halts (g.issueDone b) := fun h =>
    h.foldl fun _ h => h.foldl fun _ h => by
      split
      · exact .ite (.ite h.onStep.finish h.onStep) h
      · exact h
  refine hdone (Eng.Abides.foldl h fun c h => ?_)
  split
  · exact h
  · split
    next hsend => exact Eng.Abides.rest (h.kdlSend.beside hsend)

theorem Eng.Abides.spoutDiscard (h : e.Abides p halts g) {q : Nat} : e.Abides p halts (g.spoutDiscard q) := by
  have hrings : e.Abides p halts ((g.onPart q fun q => { q with admRec := none }).onRing q none fun g => { g with queue := [] }) := h.rest
  exact Eng.Abides.setF (Eng.Abides.setF (hrings.foldl fun _ h => h.rest))

end
end Sys2Proof.Machine
end

section
/-! PROOFS. ENABLE, the start of a partition and the withdrawal of ENABLE (R52, R55, R60, R62, R418). -/

namespace Sys2Proof.Machine

set_option Elab.async false

open Sys2Proof

/-! ## What drawdown and the trees of a starting partition leave -/

/-- The refusals of host memory, the token rings and the lost channels stand, and so do the registers of `A`. -/
structure Eng.Spares (A : Nat → Prop) (e f : Eng) : Prop where
  deny : f.deny = e.deny
  trings : f.trings = e.trings
  chanLost : f.chanLost = e.chanLost
  rd : ∀ a, A a → f.rd a = e.rd a

section
variable {A : Nat → Prop} {e g k : Eng}

theorem Eng.Spares.refl (e : Eng) : e.Spares A e := ⟨rfl, rfl, rfl, fun _ _ => rfl⟩

theorem Eng.Spares.trans (h : e.Spares A g) (k' : g.Spares A k) : e.Spares A k :=
  ⟨k'.deny.trans h.deny, k'.trings.trans h.trings, k'.chanLost.trans h.chanLost, fun a ha => (k'.rd a ha).trans (h.rd a ha)⟩

theorem Eng.Spares.rest (h : e.Spares A g) (hr : k.regs = g.regs := by rfl) (hd : k.deny = g.deny := by rfl)
    (ht : k.trings = g.trings := by rfl) (hc : k.chanLost = g.chanLost := by rfl) : e.Spares A k :=
  h.trans ⟨hd, ht, hc, fun _ _ => by rw [Eng.rd, hr, Eng.rd]⟩

theorem Eng.Spares.ite {c : Prop} [Decidable c] (h : e.Spares A g) (h' : e.Spares A k) : e.Spares A (if c then g else k) := by
  split
  · exact h
  · exact h'

theorem Eng.Spares.ite2 {α : Type} {c : Prop} [Decidable c] {x y : α × Eng} (h : e.Spares A x.2) (h' : e.Spares A y.2) :
    e.Spares A (if c then x else y).2 := by
  split
  · exact h
  · exact h'

/-- The engine that stands beside an answer. -/
theorem Eng.Spares.beside {α : Type} {x : α × Eng} {a : α} (h : e.Spares A x.2) (hx : x = (a, k)) : e.Spares A k := by
  rw [hx] at h
  exact h

theorem Eng.Spares.foldl {α : Type} (h : e.Spares A g) {f : Eng → α → Eng} {l : List α}
    (hf : ∀ {g} x, x ∈ l → e.Spares A g → e.Spares A (f g x)) : e.Spares A (l.foldl f g) := by
  induction l generalizing g with
  | nil => exact h
  | cons x r ih => exact ih (hf x List.mem_cons_self h) fun y hy => hf y (List.mem_cons_of_mem x hy)

theorem Eng.Spares.wr (h : e.Spares A g) {a : Nat} {v : Word} (ha : ¬ A a) : e.Spares A (g.wr a v) :=
  h.trans ⟨rfl, rfl, rfl, fun _ hb => Eng.rd_wr_ne _ _ fun hab => ha (hab ▸ hb)⟩

theorem Eng.Spares.setF (h : e.Spares A g) {a hi lo v : Nat} (ha : ¬ A a) : e.Spares A (g.setF a hi lo v) := h.wr ha
theorem Eng.Spares.ev (h : e.Spares A g) {a i : Nat} (ha : ¬ A a) : e.Spares A (g.ev a i) := h.wr ha
theorem Eng.Spares.bumpWrap (h : e.Spares A g) {a hi lo c : Nat} (ha : ¬ A a) : e.Spares A (g.bumpWrap a hi lo c) := h.wr ha
theorem Eng.Spares.onPart (h : e.Spares A g) {q : Nat} {f : Partn → Partn} : e.Spares A (g.onPart q f) := h.rest
theorem Eng.Spares.setNode (h : e.Spares A g) {j : Nat} {f : Node → Node} : e.Spares A (g.setNode j f) := h.rest
theorem Eng.Spares.allReqs (h : e.Spares A g) {l : KMap Req} : e.Spares A { g with reqs := l } := h.rest
theorem Eng.Spares.onReq (h : e.Spares A g) {m : Nat} {f : Req → Req} : e.Spares A (g.onReq m f) := h.rest

/-- Drawdown writes DRAW_STATUS and EVENT of WX_LAT (R307, R317). -/
theorem Eng.Spares.drawSource (h : e.Spares A g) {b : BeatUnit} {q src : Nat} {on : Bool} (hs : ¬ A (Reg.latDrawStatus q))
    (hv : ¬ A (Reg.latEvent q)) : e.Spares A (g.drawSource b q src on) := by
  have hset : e.Spares A (g.setSource q src on) := h.setF hs
  refine .ite ?_ (.ite ?_ hset)
  · exact Eng.Spares.foldl ((hset.setF hs).ev hv).onPart fun _ _ h => .ite h.onReq h
  · exact (((hset.setF hs).ev hv).foldl fun _ _ h => h.onReq).onPart

end

/-- The registers outside WX_PAGE to WX_LAT, and below those of the log. -/
def Unplanted (a : Nat) : Prop := (a < 0x80000 ∨ 0xb0000 ≤ a) ∧ a < 0x100000

/-- The registers of a partition in WX_PAGE, WX_WEIR or WX_LAT. -/
theorem not_unplanted {c : Nat} (p : Fin 32) (h : 0x80000 ≤ c ∧ c < 0xae000) : ¬ Unplanted (c + 0x100 * p.val) := by
  unfold Unplanted
  omega

section
variable {p : Fin 32} {e g k : Eng} {b : BeatUnit}

theorem Eng.Spares.basin (h : e.Spares Unplanted g) (k' : g.BasinOnly k) : e.Spares Unplanted k := by
  obtain ⟨⟨r, m, l, w, pg, nd, ps, rfl⟩, hr, -⟩ := k'
  have hlog : ∀ a ∈ logRegs, 0x100000 ≤ a := by decide
  exact h.trans ⟨rfl, rfl, rfl, fun a ha => hr a fun hl => absurd ha.2 (Nat.not_lt.mpr (hlog a hl))⟩

theorem Eng.Spares.roleRestart (h : e.Spares Unplanted g) : e.Spares Unplanted (g.roleRestart b p) := by
  have hrole : ¬ Unplanted (Reg.weirRoleStatus p) := not_unplanted p (by decide)
  exact ((h.setF hrole).setF hrole).onPart

theorem Eng.Spares.showNodes (h : e.Spares Unplanted g) {q : Nat} {l : List Nat} : e.Spares Unplanted (g.showNodes b q l) :=
  h.basin (Eng.BasinOnly.refl g).showNodes

theorem Eng.Spares.freeNode (h : e.Spares Unplanted g) {q j : Nat} : e.Spares Unplanted (g.freeNode b q j) :=
  (h.basin (Eng.BasinOnly.refl g).lruDrop).setNode.onPart.allReqs.showNodes

theorem Eng.Spares.climb (h : e.Spares Unplanted g) {q fuel j : Nat} : e.Spares Unplanted (g.climb b q fuel j) := by
  induction fuel generalizing g j with
  | zero => exact h
  | succ fuel ih =>
    unfold Eng.climb
    dsimp only
    split
    · exact h
    · split
      · exact .ite (h.basin (Eng.BasinOnly.refl g).lruAdd) h
      · exact ih (h.basin (Eng.BasinOnly.refl g).unlink).freeNode

theorem Eng.Spares.evictNode (h : e.Spares Unplanted g) {j : Nat} : e.Spares Unplanted (g.evictNode b p j) := by
  have hfree : e.Spares Unplanted ((g.unlink b p j).freeNode b p j) := (h.basin (Eng.BasinOnly.refl g).unlink).freeNode
  unfold Eng.evictNode
  dsimp only
  refine Eng.Spares.climb (Eng.Spares.bumpWrap ?_ (not_unplanted p (by decide)))
  split
  · exact hfree.basin (Eng.BasinOnly.refl _).treeRelease
  · exact hfree

theorem Eng.Spares.makeNodes (h : e.Spares Unplanted g) {need fuel : Nat} : e.Spares Unplanted (g.makeNodes b p need fuel) := by
  induction fuel generalizing g with
  | zero => exact h
  | succ fuel ih =>
    unfold Eng.makeNodes
    split
    · exact h
    · split
      next f hf =>
        obtain ⟨m, -, rfl⟩ := Option.map_eq_some_iff.mp hf
        exact ih h.evictNode
      next => exact h

theorem Eng.Spares.allocNode (h : e.Spares Unplanted g) {q : Nat} : e.Spares Unplanted (g.allocNode q).2 := by
  refine .ite2 h.onPart ?_
  split
  · exact h.onPart
  · exact h

theorem Eng.Spares.rootOf (h : e.Spares Unplanted g) {m : Nat} (hm : m < 8) : e.Spares Unplanted (g.rootOf b p m).2 := by
  have hnodes : e.Spares Unplanted (g.makeNodes b p 1 70000) := h.makeNodes
  have hroot : ¬ Unplanted (Reg.pageRoot p m) := by
    unfold Unplanted Reg.pageRoot
    omega
  refine .ite2 h ?_
  split
  next g1 hnode => exact (hnodes.allocNode.beside hnode).ev (not_unplanted p (by decide))
  next j g1 hnode =>
    have h1 : e.Spares Unplanted g1 := hnodes.allocNode.beside hnode
    exact (h1.setNode.setF hroot).showNodes

theorem Eng.Spares.plantRoots (h : e.Spares Unplanted g) : e.Spares Unplanted (g.plantRoots b p) :=
  h.foldl fun _ hm h => h.rootOf (List.mem_range.mp (List.mem_filter.mp hm).1)

end

/-! ## The checks of ENABLE (R55) -/

/-- The registers that the checks of ENABLE may read: all but those of WX_LAT and a partition's WX_PART_CTRL. -/
def EnableReg (a : Nat) : Prop := (a < 0xa0000 ∨ 0xb0000 ≤ a) ∧ ∀ q, q < 32 → a ≠ Reg.partCtrl q

section
variable {e f : Eng}

theorem EnableReg.part {c q : Nat} (hq : q < 32) (h : 0x20000 < c ∧ c < 0x20400) : EnableReg (c + 0x400 * q) := by
  refine ⟨by omega, fun k _ => ?_⟩
  show c + 0x400 * q ≠ 0x20000 + 0x400 * k
  omega

theorem EnableReg.block {c q : Nat} (hq : q < 32) (h : 0x28000 ≤ c ∧ c < 0x9e000 ∨ 0xb0000 ≤ c) : EnableReg (c + 0x100 * q) := by
  refine ⟨by omega, fun k _ => ?_⟩
  show c + 0x100 * q ≠ 0x20000 + 0x400 * k
  omega

theorem EnableReg.above {a : Nat} (h : 0xb0000 ≤ a) : EnableReg a := by
  refine ⟨.inr h, fun k _ => ?_⟩
  show a ≠ 0x20000 + 0x400 * k
  omega

theorem EnableReg.global {a : Nat} (h : 0x80000 ≤ a ∧ a < 0xa0000) : EnableReg a := by
  refine ⟨.inl h.2, fun k _ => ?_⟩
  show a ≠ 0x20000 + 0x400 * k
  omega

theorem Eng.Spares.fld (h : e.Spares EnableReg f) {a : Nat} (ha : EnableReg a) (hi lo : Nat) : f.fld a hi lo = e.fld a hi lo :=
  Eng.fld_congr (h.rd a ha) hi lo

theorem Eng.Spares.pstate (h : e.Spares EnableReg f) {q : Nat} (hq : q < 32) : f.pstate q = e.pstate q :=
  h.fld (.part hq (by decide)) 1 0

theorem Eng.Spares.inUse (h : e.Spares EnableReg f) {q : Nat} (hq : q < 32) : f.inUse q = e.inUse q := by
  rw [Eng.inUse, h.pstate hq, Eng.bit_congr (h.rd _ (.part hq (by decide))), Eng.inUse]

theorem Eng.Spares.rangeGood (h : e.Spares EnableReg f) {p : Nat} (hp : p < 32) (total : Nat) {lo size lo' size' : Nat → Nat}
    (hl : ∀ q, q < 32 → lo' q = lo q) (hs : ∀ q, q < 32 → size' q = size q) :
    f.rangeGood p total lo' size' = e.rangeGood p total lo size := by
  rw [Bool.eq_iff_iff]
  simp only [Eng.rangeGood, Bool.and_eq_true, List.all_eq_true, List.mem_range, hl p hp, hs p hp]
  refine and_congr_right fun _ => forall₂_congr fun q hq => ?_
  rw [hl q hq, hs q hq, h.inUse hq]

theorem Eng.Spares.dispMask (h : e.Spares EnableReg f) {q : Nat} (hq : q < 32) : f.dispMask q = e.dispMask q :=
  Eng.pair_congr (h.rd _ (.part hq (by decide))) (h.rd _ (.part hq (by decide)))

theorem Eng.Spares.sharesGood (h : e.Spares EnableReg f) {p : Nat} (hp : p < 32) : f.sharesGood p = e.sharesGood p := by
  have hpart : ∀ {c}, 0x20000 < c ∧ c < 0x20400 → ∀ hi lo q, q < 32 → f.fld (c + 0x400 * q) hi lo = e.fld (c + 0x400 * q) hi lo :=
    fun hc hi lo q hq => h.fld (.part hq hc) hi lo
  have hrqt := h.rangeGood hp 131072 (lo := e.rqtBase) (lo' := f.rqtBase) (size := e.rqtSize) (size' := f.rqtSize)
    (fun q hq => congrArg (· * 1024) (hpart (by decide) _ _ q hq)) fun q hq => congrArg (· * 1024) (hpart (by decide) _ _ q hq)
  have hsem := h.rangeGood hp 65536 (lo := e.semBase) (lo' := f.semBase) (size := e.semSize) (size' := f.semSize)
    (fun q hq => congrArg (· * 256) (hpart (by decide) _ _ q hq)) fun q hq => congrArg (· * 256) (hpart (by decide) _ _ q hq)
  have hled := h.rangeGood hp 8192 (lo := e.ledBase) (lo' := f.ledBase) (size := e.ledSize) (size' := f.ledSize)
    (fun q hq => congrArg (· * 32) (hpart (by decide) _ _ q hq)) fun q hq => congrArg (· * 32) (hpart (by decide) _ _ q hq)
  have hchans : f.dispChans p = e.dispChans p := by rw [Eng.dispChans, h.dispMask hp, h.chanLost, Eng.dispChans]
  rw [Eng.sharesGood, hrqt, hsem, hled, hchans, Eng.sharesGood, Bool.eq_iff_iff]
  simp only [Bool.and_eq_true, List.all_eq_true, List.mem_range]
  refine and_congr_right fun _ => forall₂_congr fun q hq => ?_
  rw [h.inUse hq, h.dispMask hp, h.dispMask hq]

theorem Eng.Spares.basinGood (h : e.Spares EnableReg f) {p : Nat} (hp : p < 32) : f.basinGood p = e.basinGood p := by
  have hblock : ∀ {c}, (0x28000 ≤ c ∧ c < 0x9e000 ∨ 0xb0000 ≤ c) → ∀ hi lo q, q < 32 →
      f.fld (c + 0x100 * q) hi lo = e.fld (c + 0x100 * q) hi lo :=
    fun hc hi lo q hq => h.fld (.block hq hc) hi lo
  have hlo : ∀ q, q < 32 → f.pageLo q = e.pageLo q := fun q hq => congrArg (· * 4096) (hblock (by decide) _ _ q hq)
  have hspan : ∀ q, q < 32 → f.pageSpan q = e.pageSpan q := fun q hq => congrArg (· * 4096) (hblock (by decide) _ _ q hq)
  have hnodes := h.rangeGood hp (2 ^ 28) (lo := e.nodeLo) (lo' := f.nodeLo) (size := e.nodeSpan) (size' := f.nodeSpan)
    (fun q hq => congrArg (· * 65536) (hblock (by decide) _ _ q hq)) fun q hq => congrArg (· * 65536) (hblock (by decide) _ _ q hq)
  have hpool := h.fld (a := Reg.pagePool) (.global (by decide))
  have hlearned := h.fld (a := Reg.pageLpRange) (.global (by decide))
  have hrange := h.fld (a := Reg.pageRange p) (.block hp (by decide))
  have hnode := h.fld (a := Reg.pageNodes p) (.block hp (by decide))
  have hlist : f.listSpan p = e.listSpan p := hblock (by decide) _ _ p hp
  have hcfg := h.fld (a := Reg.pageCfg p) (.block hp (by decide))
  unfold Eng.basinGood
  dsimp only
  rw [h.rangeGood hp _ hlo hspan, hnodes, hlo p hp, hspan p hp, hpool, hlearned, hlearned, hrange, hnode, hlist, hcfg]

theorem Eng.Spares.templateGood (h : e.Spares EnableReg f) {p : Nat} (hp : p < 32) : f.templateGood p = e.templateGood p := by
  have hent : f.treeEnt p = e.treeEnt p := by
    funext j
    have htree : EnableReg (Reg.specTree p (j / 2)) := .above (Nat.le_add_right_of_le (Nat.le_add_right_of_le (by decide)))
    simp only [Eng.treeEnt, h.fld htree]
  have hctrl := h.fld (a := Reg.specCtrl p) (.block hp (by decide))
  have hcand : f.pair (Reg.specCandBaseLo p) (Reg.specCandBaseHi p) = e.pair (Reg.specCandBaseLo p) (Reg.specCandBaseHi p) :=
    Eng.pair_congr (h.rd _ (.block hp (by decide))) (h.rd _ (.block hp (by decide)))
  have hdepths : f.treeDepths p = e.treeDepths p := by rw [Eng.treeDepths, hctrl, hent, Eng.treeDepths]
  unfold Eng.templateGood
  dsimp only
  rw [hdepths, hent, hctrl, hcand]

theorem Eng.Spares.ringsGood (h : e.Spares EnableReg f) {p : Nat} (hp : p < 32) : f.ringsGood p = e.ringsGood p := by
  have hblock : ∀ {c}, (0x28000 ≤ c ∧ c < 0x9e000 ∨ 0xb0000 ≤ c) → EnableReg (c + 0x100 * p) := fun hc => .block hp hc
  have hpair : ∀ {c d}, (0x28000 ≤ c ∧ c < 0x9e000 ∨ 0xb0000 ≤ c) → (0x28000 ≤ d ∧ d < 0x9e000 ∨ 0xb0000 ≤ d) →
      f.pair (c + 0x100 * p) (d + 0x100 * p) = e.pair (c + 0x100 * p) (d + 0x100 * p) :=
    fun hc hd => Eng.pair_congr (h.rd _ (hblock hc)) (h.rd _ (hblock hd))
  have hcq : f.cqBase p = e.cqBase p := hpair (by decide) (by decide)
  have htr : f.trBase p = e.trBase p := hpair (by decide) (by decide)
  have hspill : f.pair (Reg.spoutSpillBaseLo p) (Reg.spoutSpillBaseHi p) = e.pair (Reg.spoutSpillBaseLo p) (Reg.spoutSpillBaseHi p) :=
    hpair (by decide) (by decide)
  simp only [Eng.ringsGood, hcq, htr, hspill, h.fld (a := Reg.admSqSize p) (hblock (by decide)),
    h.fld (a := Reg.spoutCqSize p) (hblock (by decide)), h.fld (a := Reg.spoutTrCfg p) (hblock (by decide))]

theorem Eng.Spares.enableGood (h : e.Spares EnableReg f) {p : Nat} (hp : p < 32) : f.enableGood p = e.enableGood p := by
  rw [Eng.enableGood, h.sharesGood hp, h.basinGood hp, h.templateGood hp, h.ringsGood hp, Eng.enableGood]

end

section
variable {p : Fin 32} {e : Eng}

/-- Clearing or setting ENABLE leaves WX_PART_STATUS. -/
theorem Eng.rd_partStatus_setCtrl (e : Eng) (hi lo n : Nat) :
    (e.setF (Reg.partCtrl p) hi lo n).rd (Reg.partStatus p) = e.rd (Reg.partStatus p) := by
  refine Eng.rd_setF_ne _ _ _ _ ?_
  show 0x20004 + 0x400 * p.val ≠ 0x20000 + 0x400 * p.val
  omega

theorem Eng.rd_partCtrl_setStatus (e : Eng) (hi lo n : Nat) :
    (e.setF (Reg.partStatus p) hi lo n).rd (Reg.partCtrl p) = e.rd (Reg.partCtrl p) := by
  refine Eng.rd_setF_ne _ _ _ _ ?_
  show 0x20000 + 0x400 * p.val ≠ 0x20004 + 0x400 * p.val
  omega

/-- Once ENABLE is set, checking it leaves DISABLED, and ENABLE as the checks say. -/
theorem Eng.tryEnable_good {g : Eng} (hg : g.enableGood p = true) : g.tryEnable p = g.setF (Reg.partStatus p) 2 2 1 := if_pos hg

theorem Eng.tryEnable_bad {g : Eng} (hg : g.enableGood p = false) : g.tryEnable p = (g.setF (Reg.partCtrl p) 0 0 0).cfgErr p :=
  if_neg (by simp [hg])

/-- ENABLE is 1 and RECOVER inactive, before the checks of ENABLE. -/
def Eng.enabling (b : BeatUnit) (p : Fin 32) (e : Eng) : Eng :=
  ((e.setF (Reg.partCtrl p) 0 0 1).onPart p fun q => { q with recoverAt := none }).drawSource b p dsRecover false

theorem Eng.spares_enabling (b : BeatUnit) (p : Fin 32) (e : Eng) : e.Spares EnableReg (e.enabling b p) := by
  have hlat : ∀ {c}, 0xa0000 ≤ c ∧ c < 0xae000 → ¬ EnableReg (c + 0x100 * p.val) := by
    intro c hc ha
    have := ha.1
    omega
  have hctrl : e.Spares EnableReg (e.setF (Reg.partCtrl p) 0 0 1) := (Eng.Spares.refl e).setF fun ha => ha.2 p.val p.isLt rfl
  exact hctrl.onPart.drawSource (hlat (by decide)) (hlat (by decide))

theorem Eng.bit_partCtrl_enabling (b : BeatUnit) (p : Fin 32) (e : Eng) : (e.enabling b p).bit (Reg.partCtrl p) 0 = true := by
  have hdraw : (e.setF (Reg.partCtrl p) 0 0 1).Spares (· = Reg.partCtrl p) (e.enabling b p) := by
    refine (Eng.Spares.refl _).onPart.drawSource ?_ ?_
    · show 0xa0010 + 0x100 * p.val ≠ 0x20000 + 0x400 * p.val
      omega
    · show 0xa0014 + 0x100 * p.val ≠ 0x20000 + 0x400 * p.val
      omega
  rw [Eng.bit_congr (hdraw.rd _ rfl), Eng.bit_setF_self _ _ _ _ (by decide)]
  rfl

end

theorem warm_of_windowOpen {e : Eng} (h : e.windowOpen = true) : e.warm = false := by
  simpa using (Bool.and_eq_true_iff.mp h).2

/-- A host's write in an open window takes its effect on the registers; its response is none of them. -/
theorem hostWrite_open {s : State} (h : s.eng.windowOpen = true) (addr : Nat) (f : BeatUnit → Eng → Eng) :
    ∃ t, ctlWrite .host addr f s = .next t ∧ ∀ a, t.eng.rd a = (f s.beat s.eng).rd a :=
  ⟨_, ctlWrite_pass _ _ _ _ (by simp [Eng.gate, h]), fun _ => rfl⟩

/-- A host's write of 1 to ENABLE of a DISABLED partition, in an open window. -/
theorem execEnableSet_disabled {s : State} {p : Fin 32} (hopen : s.eng.windowOpen = true) (hst : s.eng.pstate p = psDisabled)
    (hoff : s.eng.bit (Reg.partCtrl p) 0 = false) :
    ∃ t, exec (.enableSet .host p) s = .next t ∧ ∀ a, t.eng.rd a = ((s.eng.enabling s.beat p).tryEnable p).rd a := by
  have hst' : (s.eng.setF (Reg.partCtrl p) 0 0 1).pstate p = psDisabled :=
    (Eng.fld_congr (Eng.rd_partStatus_setCtrl _ _ _ _) 1 0).trans hst
  have hwarm := warm_of_windowOpen hopen
  obtain ⟨t, ht, hrd⟩ := hostWrite_open hopen (Reg.partCtrl p) _
  refine ⟨t, ht, fun a => (hrd a).trans ?_⟩
  dsimp only
  rw [if_neg (by simp [hoff, hwarm, hst']), Eng.enabling]

/-- A DISABLED partition stays so while ENABLE is checked, and its bits say how that ended. -/
theorem enabled_or_rejected {e : Eng} (b : BeatUnit) {p : Fin 32} (hst : e.pstate p = psDisabled) :
    (e.enableGood p = true → ((e.enabling b p).tryEnable p).pstate p = psDisabled ∧
      ((e.enabling b p).tryEnable p).bit (Reg.partStatus p) 2 = true ∧ ((e.enabling b p).tryEnable p).bit (Reg.partCtrl p) 0 = true) ∧
    (e.enableGood p = false → ((e.enabling b p).tryEnable p).pstate p = psDisabled ∧
      ((e.enabling b p).tryEnable p).bit (Reg.partCtrl p) 0 = false ∧ ((e.enabling b p).tryEnable p).bit (Reg.partEvent p) 1 = true) := by
  have hspare := e.spares_enabling b p
  have hst' : (e.enabling b p).pstate p = psDisabled := (hspare.pstate p.isLt).trans hst
  have hon := e.bit_partCtrl_enabling b p
  refine ⟨fun hgood => ?_, fun hbad => ?_⟩
  · rw [Eng.tryEnable_good ((hspare.enableGood p.isLt).trans hgood)]
    refine ⟨(Eng.fld_setF_apart _ _ _ (by decide) (by decide) (.inl (by decide))).trans hst', ?_, ?_⟩
    · rw [Eng.bit_setF_self _ _ _ _ (by decide)]
      rfl
    · exact (Eng.bit_congr (Eng.rd_partCtrl_setStatus _ _ _ _) 0).trans hon
  · rw [Eng.tryEnable_bad ((hspare.enableGood p.isLt).trans hbad)]
    refine ⟨?_, ?_, Eng.bit_ev_self _ _ (by decide)⟩
    · have hev : Reg.partStatus p ≠ Reg.partEvent p := by
        show 0x20004 + 0x400 * p.val ≠ 0x20008 + 0x400 * p.val
        omega
      exact (Eng.fld_congr ((Eng.rd_ev_ne _ _ hev).trans (Eng.rd_partStatus_setCtrl _ _ _ _)) 1 0).trans hst'
    · have hev : Reg.partCtrl p ≠ Reg.partEvent p := by
        show 0x20000 + 0x400 * p.val ≠ 0x20008 + 0x400 * p.val
        omega
      rw [Eng.cfgErr, Eng.partEv, Eng.bit_congr (Eng.rd_ev_ne _ _ hev), Eng.bit_setF_self _ _ _ _ (by decide)]
      rfl

/-! ## The start of a pending partition (R55, R418) -/

section
variable {e g k : Eng} {b : BeatUnit} {p : Fin 32} {halts : Bool}

/-- With no host protection set, no access is refused. -/
theorem Eng.refused_of_deny_nil (h : e.deny = []) (part : Option Nat) (w : Bool) (a n : Nat) : e.refused part w a n = false := by
  rw [Eng.refused, h]
  rfl

theorem Eng.Abides.store (h : e.Abides p halts g) {a : Nat} {d : List Byte} : e.Abides p halts (g.store a d) := h.rest

theorem Eng.storeHeader_of_deny_nil (h : e.deny = []) (q : Nat) (r : Option Nat) :
    e.storeHeader b q r = e.store (e.headerAddr q r) (e.headerBytes q r) :=
  if_neg (by simp [Eng.refused_of_deny_nil h])

theorem Eng.heldRings_congr (h : g.trings = e.trings) (q : Nat) : g.heldRings q = e.heldRings q := by rw [Eng.heldRings, h, Eng.heldRings]

/-- The headers of a partition without token rings, with no host protection set: the completion ring's. -/
theorem Eng.setHeader_store (hd : g.deny = []) (hr : g.heldRings p = []) {st : Nat} (hk : k = g.onPart p fun q => { q with hdr := st }) :
    g.setHeader b p st = k.store (k.headerAddr p none) (k.headerBytes p none) := by
  have hkd : k.deny = [] := by simp [hk, hd]
  have hkt : (k.store (k.headerAddr p none) (k.headerBytes p none)).trings = g.trings := by simp [hk]
  unfold Eng.setHeader Eng.storeHeaders
  dsimp only
  rw [← hk, Eng.storeHeader_of_deny_nil hkd, Eng.heldRings_congr hkt, hr, Eng.refused_of_deny_nil hd]
  simp

theorem Eng.bytes_store (e : Eng) (a : Nat) {n : Nat} {d : List Byte} (hd : d.length ≤ 2 ^ 64) (hn : n ≤ d.length) :
    (e.store a d).bytes a n = d.take n := by
  refine List.ext_getElem (by simp [Eng.bytes, hn]) fun i hi _ => ?_
  have hi : i < n := by simpa [Eng.bytes] using hi
  simp [Eng.bytes, Eng.byte_store_in e a i d hd (by omega)]

/-- A header begins with STATE (R417). -/
theorem Eng.headerBytes_take (e : Eng) (p : Nat) : (e.headerBytes p none).take 4 = leBytes 4 (e.part p).hdr := by
  simp [Eng.headerBytes, padTo, leBytes, List.take_append]

theorem Eng.headerBytes_length (e : Eng) (p : Nat) : (e.headerBytes p none).length = 64 := by
  simp [Eng.headerBytes, padTo, leBytes]

/-- STATE as a header holds it in memory. -/
theorem Eng.num_setHeader (hd : g.deny = []) (hr : g.heldRings p = []) {st : Nat} (hst : st < 2 ^ 32) :
    (g.setHeader b p st).num (g.headerAddr p none) 4 = st := by
  obtain ⟨k, hk⟩ : ∃ k, k = g.onPart p fun q => { q with hdr := st } := ⟨_, rfl⟩
  have hlen := k.headerBytes_length p
  have haddr : g.headerAddr p none = k.headerAddr p none := by rw [hk]; rfl
  have hstate : (k.part p).hdr = st := by rw [hk, Eng.part_onPart_self]
  rw [Eng.setHeader_store hd hr hk, haddr, Eng.num, Eng.bytes_store _ _ (by omega) (by omega), Eng.headerBytes_take, hstate,
    ofLe_leBytes_four hst]

theorem Eng.Abides.setHeader (h : e.Abides p false g) (hd : g.deny = []) (hr : g.heldRings p = []) {st : Nat} :
    e.Abides p false (g.setHeader b p st) := by
  rw [Eng.setHeader_store hd hr rfl]
  exact h.onPart.store

theorem Eng.num_dispatch (e : Eng) (q a n : Nat) : (e.dispatch q).num a n = e.num a n := by
  obtain ⟨hmem, -⟩ := (e.dispatch_frame q 0).1
  simp only [Eng.num, Eng.bytes, Eng.byte, hmem]

/-- A partition enters RUNNING: its STATE and PENDING, before the roots of its trees and its headers. -/
def Eng.entering (b : BeatUnit) (p : Nat) (e : Eng) : Eng :=
  let e := (e.setF (Reg.partStatus p) 2 2 0).setF (Reg.partStatus p) 1 0 psRunning
  let e := (e.roleRestart b p).onPart p fun q => { q.freshLists with memFaulted := false, lastKind := none }
  let e := e.onPart p fun q => { q with startAt := some b.beat }
  (e.drawSource b p dsStart (e.startLive b p)).plantRoots b p

theorem Eng.startPart_eq (b : BeatUnit) (p : Nat) (e : Eng) :
    e.startPart b p = ((e.entering b p).setHeader b p hdOnline).dispatch p := rfl

/-- Before its headers a partition that starts has changed no register outside WX_PAGE to WX_LAT but its WX_PART_STATUS. -/
theorem Eng.spares_entering (b : BeatUnit) (p : Fin 32) (e : Eng) :
    ((e.setF (Reg.partStatus p) 2 2 0).setF (Reg.partStatus p) 1 0 psRunning).Spares Unplanted (e.entering b p) := by
  have hrole := Eng.Spares.roleRestart (b := b) (p := p)
    (Eng.Spares.refl ((e.setF (Reg.partStatus p) 2 2 0).setF (Reg.partStatus p) 1 0 psRunning))
  exact (hrole.onPart.onPart.drawSource (not_unplanted p (by decide)) (not_unplanted p (by decide))).plantRoots

/-- STATE and PENDING of WX_PART_STATUS as a partition starts. -/
theorem Eng.running_setF (e : Eng) (a : Nat) :
    ((e.setF a 2 2 0).setF a 1 0 psRunning).fld a 1 0 = psRunning ∧ ((e.setF a 2 2 0).setF a 1 0 psRunning).bit a 2 = false := by
  refine ⟨Eng.fld_setF_self _ _ _ (by decide) (by decide), ?_⟩
  rw [Eng.bit, Eng.toNat_rd_setF _ _ _ (by decide) (by decide), testBit_putBits _ _ (by decide), if_neg (by decide)]
  exact Eng.bit_setF_self _ _ _ _ (by decide)

/-- The start of a partition: RUNNING, no longer pending, and ONLINE in its header. -/
theorem Eng.startPart_online (b : BeatUnit) {p : Fin 32} {e : Eng} (hd : e.deny = []) (hr : e.heldRings p = []) :
    (e.startPart b p).pstate p = psRunning ∧ (e.startPart b p).bit (Reg.partStatus p) 2 = false ∧
      (e.startPart b p).num (e.headerAddr p none) 4 = hdOnline := by
  have hspare := e.spares_entering b p
  have hd' : (e.entering b p).deny = [] := hspare.deny.trans hd
  have hr' : (e.entering b p).heldRings p = [] := (Eng.heldRings_congr hspare.trings p).trans hr
  have hstatus : (e.startPart b p).rd (Reg.partStatus p) =
      ((e.setF (Reg.partStatus p) 2 2 0).setF (Reg.partStatus p) 1 0 psRunning).rd (Reg.partStatus p) := by
    have hkeep : (e.entering b p).Abides p false (e.startPart b p) := by
      rw [Eng.startPart_eq]
      exact ((Eng.Abides.refl _).setHeader hd' hr').dispatch
    refine (hkeep.status nofun).trans (hspare.rd _ ?_)
    unfold Unplanted Reg.partStatus
    omega
  have haddr : (e.entering b p).headerAddr p none = e.headerAddr p none := by
    have hcq : ∀ {c}, 0xf0000 ≤ c ∧ c < 0xf1000 →
        (e.entering b p).rd (c + 0x100 * p.val) = e.rd (c + 0x100 * p.val) := by
      intro c hc
      have hne : c + 0x100 * p.val ≠ Reg.partStatus p := by
        show c + 0x100 * p.val ≠ 0x20004 + 0x400 * p.val
        omega
      refine (hspare.rd _ ?_).trans ((Eng.rd_setF_ne _ _ _ _ hne).trans (Eng.rd_setF_ne _ _ _ _ hne))
      unfold Unplanted
      omega
    exact Eng.pair_congr (hcq (by decide)) (hcq (by decide))
  obtain ⟨hrun, hpend⟩ := e.running_setF (Reg.partStatus p)
  refine ⟨(Eng.fld_congr hstatus 1 0).trans hrun, (Eng.bit_congr hstatus 2).trans hpend, ?_⟩
  rw [Eng.startPart_eq, Eng.num_dispatch, ← haddr]
  exact Eng.num_setHeader hd' hr' (by decide)

end

/-- A partition whose conditions hold starts. -/
theorem execPartitionStart_ready {s : State} {p : Fin 32} (h : s.eng.startReady s.beat p = true) :
    exec (.partitionStart p) s = .next (s.onEng fun b e => e.startPart b p) := by
  show Host.Outcome.next (s.onEng fun b e => if e.startReady b p then e.startPart b p else e) = _
  rw [State.onEng, if_pos h, State.onEng]

theorem execPartitionStart_unready {s : State} {p : Fin 32} (h : s.eng.startReady s.beat p = false) :
    exec (.partitionStart p) s = .next s := by
  show Host.Outcome.next (s.onEng fun b e => if e.startReady b p then e.startPart b p else e) = _
  rw [State.onEng, if_neg (by simp [h])]

/-! ## ENABLE is cleared: a partition reset (R60, R62) -/

section
variable {p : Fin 32} {e g : Eng} {b : BeatUnit}

theorem Eng.Abides.abortCmd (h : e.Abides p true g) {q : Nat} : e.Abides p true (g.abortCmd q) := by
  unfold Eng.abortCmd
  split
  · exact h
  · exact ((h.setF (.part q (by decide))).setF (.part q (by decide))).partEv.onPart

/-- Phase 3 with no step in flight leaves STATE and ENABLE. -/
theorem Eng.phase3IfIdle_keeps (b : BeatUnit) (hst : g.pstate p ≠ psRunning) :
    (g.phase3IfIdle b p).rd (Reg.partCtrl p) = g.rd (Reg.partCtrl p) ∧ (g.phase3IfIdle b p).pstate p = g.pstate p := by
  unfold Eng.phase3IfIdle
  split
  next hidle =>
    obtain ⟨-, -, hsteps⟩ := hidle
    obtain ⟨k, hk⟩ : ∃ k, k = g.bump (Reg.partStatus p) 31 16 (g.part p).steps.length := ⟨_, rfl⟩
    have hkst : k.pstate p = g.pstate p := by
      rw [hk]
      exact Eng.fld_setF_apart _ _ _ (by decide) (by decide) (.inl (by decide))
    have hkctrl : k.rd (Reg.partCtrl p) = g.rd (Reg.partCtrl p) := by
      rw [hk]
      exact Eng.rd_partCtrl_setStatus _ _ _ _
    have hkpart : k.part p = g.part p := by rw [hk, Eng.part, Eng.bump_parts, Eng.part]
    have hksteps : (k.part p).steps = [] := by rw [hkpart, hsteps]
    have hkeep : k.Abides p true (g.phase3 b p) := by
      unfold Eng.phase3 Eng.abandonAll
      dsimp only
      rw [← hk, hksteps, List.foldl_nil]
      exact (Eng.Abides.refl k).stageFlow.kdlPump.spoutDiscard.onPart
    exact ⟨hkeep.ctrl.trans hkctrl, (Eng.fld_congr (hkeep.status fun _ => hkst ▸ hst) 1 0).trans hkst⟩
  next => exact ⟨rfl, rfl⟩

/-- A partition reset enters RESETTING and leaves ENABLE. -/
theorem Eng.startReset_keeps (b : BeatUnit) (p : Fin 32) (e : Eng) :
    (e.startReset b p).rd (Reg.partCtrl p) = e.rd (Reg.partCtrl p) ∧ (e.startReset b p).pstate p = psResetting := by
  obtain ⟨k, hk⟩ : ∃ k, k = (e.setF (Reg.partStatus p) 2 2 0).setF (Reg.partStatus p) 1 0 psResetting := ⟨_, rfl⟩
  have hkst : k.pstate p = psResetting := by
    rw [hk]
    exact Eng.fld_setF_self _ _ _ (by decide) (by decide)
  have hkctrl : k.rd (Reg.partCtrl p) = e.rd (Reg.partCtrl p) := by
    rw [hk]
    exact (Eng.rd_partCtrl_setStatus _ _ _ _).trans (Eng.rd_partCtrl_setStatus _ _ _ _)
  have hidle : ∀ g, k.Abides p true g →
      (g.phase3IfIdle b p).rd (Reg.partCtrl p) = e.rd (Reg.partCtrl p) ∧ (g.phase3IfIdle b p).pstate p = psResetting := by
    intro g hg
    have hst : g.pstate p = psResetting := (Eng.fld_congr (hg.status fun _ => by simp [hkst]) 1 0).trans hkst
    obtain ⟨hc, hs⟩ := Eng.phase3IfIdle_keeps (g := g) b (p := p) (by simp [hst])
    exact ⟨hc.trans (hg.ctrl.trans hkctrl), hs.trans hst⟩
  unfold Eng.startReset
  dsimp only
  rw [← hk]
  have hdrop : k.Abides p true ((k.abortCmd p).discardBatch p) := (Eng.Abides.refl k).abortCmd.discardBatch
  have hseals : ∀ {g l}, k.Abides p true g → k.Abides p true ({ g with seals := l } : Eng).showBacklog :=
    fun h => Eng.Abides.showBacklog h.rest
  refine hidle _ (Eng.Abides.storeHeaders (Eng.Abides.foldl (hseals hdrop).onPart fun c h => ?_))
  split
  · exact h.stopNow
  · exact h.stopNow
  · exact h.stopNow
  · exact h.stopNow
  · exact h

/-- What a host's write of 0 to ENABLE does in an open window. -/
def Eng.disabling (b : BeatUnit) (p : Fin 32) (e : Eng) : Eng :=
  let e := e.setF (Reg.partCtrl p) 0 0 0
  if e.pstate p = psRunning ∨ e.pstate p = psHalted then e.startReset b p
  else if e.pstate p = psDisabled then e.setF (Reg.partStatus p) 2 2 0
  else e

theorem execEnableClear_open {s : State} (p : Fin 32) (hopen : s.eng.windowOpen = true) :
    ∃ t, exec (.enableClear .host p) s = .next t ∧ ∀ a, t.eng.rd a = (s.eng.disabling s.beat p).rd a := by
  have hwarm := warm_of_windowOpen hopen
  obtain ⟨t, ht, hrd⟩ := hostWrite_open hopen (Reg.partCtrl p) _
  refine ⟨t, ht, fun a => (hrd a).trans ?_⟩
  dsimp only
  rw [if_neg (by simp [hwarm]), Eng.disabling]

/-- ENABLE cleared reads 0; DISABLED stays and is no longer pending; RUNNING and HALTED turn to RESETTING. -/
theorem Eng.disabling_keeps (b : BeatUnit) (p : Fin 32) (e : Eng) :
    (e.disabling b p).bit (Reg.partCtrl p) 0 = false ∧
      (e.pstate p = psDisabled → (e.disabling b p).pstate p = psDisabled ∧ (e.disabling b p).bit (Reg.partStatus p) 2 = false) ∧
      (e.pstate p = psRunning ∨ e.pstate p = psHalted → (e.disabling b p).pstate p = psResetting) := by
  obtain ⟨k, hk⟩ : ∃ k, k = e.setF (Reg.partCtrl p) 0 0 0 := ⟨_, rfl⟩
  have hoff : k.bit (Reg.partCtrl p) 0 = false := by
    rw [hk, Eng.bit_setF_self _ _ _ _ (by decide)]
    rfl
  have hst : k.pstate p = e.pstate p := by
    rw [hk]
    exact Eng.fld_congr (Eng.rd_partStatus_setCtrl _ _ _ _) 1 0
  unfold Eng.disabling
  dsimp only
  rw [← hk, ← hst]
  split
  next hserve =>
    obtain ⟨hctrl, hreset⟩ := k.startReset_keeps b p
    exact ⟨(Eng.bit_congr hctrl 0).trans hoff, fun hdis => by simp [hdis] at hserve, fun _ => hreset⟩
  next hserve =>
    split
    next hdis =>
      refine ⟨(Eng.bit_congr (Eng.rd_partCtrl_setStatus _ _ _ _) 0).trans hoff, fun _ => ⟨?_, ?_⟩, fun h => absurd h hserve⟩
      · exact (Eng.fld_setF_apart _ _ _ (by decide) (by decide) (.inl (by decide))).trans hdis
      · exact Eng.bit_setF_self _ _ _ _ (by decide)
    next hdis => exact ⟨hoff, fun h => absurd h hdis, fun h => absurd h hserve⟩

end

/-- Settles O7: the checks read no register that ENABLE or drawdown writes, and what a start or a reset sets going changes STATE no
more. -/
theorem enablingStartsAndEndsAPartition : Obligations.EnablingStartsAndEndsAPartition := by
  unfold Obligations.EnablingStartsAndEndsAPartition
  refine ⟨fun s p hopen hst hoff => ?_, fun s p => ⟨fun hready hd hr => ?_, execPartitionStart_unready⟩, fun s p hopen => ?_⟩
  · obtain ⟨hgood, hbad⟩ := enabled_or_rejected s.beat hst
    obtain ⟨t, ht, hrd⟩ := execEnableSet_disabled hopen hst hoff
    have hstate : t.eng.pstate p = ((s.eng.enabling s.beat p).tryEnable p).pstate p := Eng.fld_congr (hrd _) 1 0
    refine ⟨fun h => ⟨t, ht, ?_⟩, fun h => ⟨t, ht, ?_⟩⟩
    · rw [hstate, Eng.bit_congr (hrd _), Eng.bit_congr (hrd _)]
      exact hgood h
    · rw [hstate, Eng.bit_congr (hrd _), Eng.bit_congr (hrd _)]
      exact hbad h
  · refine ⟨_, execPartitionStart_ready hready, ?_⟩
    rw [State.onEng_eng]
    exact Eng.startPart_online s.beat hd hr
  · obtain ⟨hoff, hdis, hserve⟩ := s.eng.disabling_keeps s.beat p
    obtain ⟨t, ht, hrd⟩ := execEnableClear_open p hopen
    have hstate : t.eng.pstate p = (s.eng.disabling s.beat p).pstate p := Eng.fld_congr (hrd _) 1 0
    refine ⟨⟨t, ht, ?_⟩, fun h => ⟨t, ht, ?_⟩, fun h => ⟨t, ht, hstate.trans (hserve h)⟩⟩
    · rw [Eng.bit_congr (hrd _)]
      exact hoff
    · rw [hstate, Eng.bit_congr (hrd _)]
      exact hdis h

end Sys2Proof.Machine
end

section
/-! PROOFS. Sparse data in its one form, and what soundness asks of each part of the engine (R50, R209, R213, R221, R434, R504, R505, R520, R574). -/

namespace Sys2Proof.Machine
set_option Elab.async false

open Sys2Proof

/-! ## Canonical sparse data -/

theorem kwf_kmod {α : Type} [DecidableEq α] (d : α) {m : KMap α} (n : Nat) (f : α → α) (h : kwf d m = true) :
    kwf d (kmod d m n f) = true := kwf_kset d m n _ h

theorem kwf_filter {α : Type} [DecidableEq α] (d : α) {m : KMap α} (p : Nat × α → Bool) (h : kwf d m = true) :
    kwf d (m.filter p) = true := by
  induction m with
  | nil => rfl
  | cons x r ih =>
    obtain ⟨k, v⟩ := x
    simp only [kwf, Bool.and_eq_true, decide_eq_true_eq, List.all_eq_true] at h
    obtain ⟨⟨hv, hk⟩, hr⟩ := h
    rw [List.filter_cons]
    split
    · simp only [kwf, Bool.and_eq_true, decide_eq_true_eq, List.all_eq_true]
      exact ⟨⟨hv, fun y hy => hk y (List.mem_of_mem_filter hy)⟩, ih hr⟩
    · exact ih hr

/-- Values changed in place, with those dropped that the map does not list. -/
theorem kwf_map_filter {α β : Type} [DecidableEq α] [DecidableEq β] {d : α} {d' : β} {m : KMap α} (f : Nat × α → β) (p : Nat × β → Bool)
    (hp : ∀ k v, p (k, v) = true → v ≠ d') (h : kwf d m = true) :
    kwf d' ((m.map fun x => (x.1, f x)).filter p) = true := by
  induction m with
  | nil => rfl
  | cons x r ih =>
    simp only [kwf, Bool.and_eq_true, decide_eq_true_eq, List.all_eq_true] at h
    obtain ⟨⟨-, hk⟩, hr⟩ := h
    rw [List.map_cons, List.filter_cons]
    split
    next hx =>
      simp only [kwf, Bool.and_eq_true, decide_eq_true_eq, List.all_eq_true]
      refine ⟨⟨hp _ _ hx, fun y hy => ?_⟩, ih hr⟩
      obtain ⟨z, hz, rfl⟩ := List.mem_map.mp (List.mem_of_mem_filter hy)
      exact hk z hz
    · exact ih hr

theorem kwf_kmapAll {α : Type} [DecidableEq α] (d : α) {m : KMap α} (f : α → α) (h : kwf d m = true) :
    kwf d (kmapAll d m f) = true := kwf_map_filter (fun x => f x.2) _ (fun _ _ hx => of_decide_eq_true hx) h

/-- Stored register words are canonical where the keys rise and no word is its address's reset word. -/
theorem regsWf_iff {m : KMap Word} :
    regsWf m = true ↔ m.Pairwise (fun x y => x.1 < y.1) ∧ ∀ x ∈ m, x.2 ≠ resetWord x.1 := by
  induction m with
  | nil => simp [regsWf]
  | cons x r ih =>
    obtain ⟨k, v⟩ := x
    simp only [regsWf, Bool.and_eq_true, decide_eq_true_eq, List.all_eq_true, List.pairwise_cons, List.forall_mem_cons, ih]
    tauto

theorem kins_rises {α : Type} {m : KMap α} {n : Nat} (v : α) (hn : ∀ e ∈ m, e.1 ≠ n) (h : m.Pairwise fun x y => x.1 < y.1) :
    (kins n v m).Pairwise fun x y => x.1 < y.1 := by
  induction m with
  | nil => exact List.pairwise_singleton _ _
  | cons x r ih =>
    obtain ⟨k, w⟩ := x
    have hkn : k ≠ n := hn (k, w) List.mem_cons_self
    obtain ⟨hk, hr⟩ := List.pairwise_cons.mp h
    rw [kins]
    split
    next hlt =>
      refine List.pairwise_cons.mpr ⟨fun y hy => ?_, h⟩
      rcases List.mem_cons.mp hy with rfl | hy
      · exact hlt
      · exact hlt.trans (hk y hy)
    next hlt =>
      refine List.pairwise_cons.mpr ⟨fun y hy => ?_, ih (fun y hy => hn y (List.mem_cons_of_mem _ hy)) hr⟩
      rcases mem_kins hy with rfl | hy
      · exact lt_of_le_of_ne (not_lt.mp hlt) hkn
      · exact hk y hy

theorem regsWf_filter {m : KMap Word} (p : Nat × Word → Bool) (h : regsWf m = true) : regsWf (m.filter p) = true := by
  obtain ⟨hrise, hword⟩ := regsWf_iff.mp h
  exact regsWf_iff.mpr ⟨hrise.filter p, fun x hx => hword x (List.mem_of_mem_filter hx)⟩

/-- A write keeps the register words canonical. -/
theorem regsWf_write {m : KMap Word} (a : Nat) (v : Word) (h : regsWf m = true) :
    regsWf (if v = resetWord a then kdel m a else kins a v (kdel m a)) = true := by
  have hdel : regsWf (kdel m a) = true := regsWf_filter _ h
  split
  · exact hdel
  next hv =>
    obtain ⟨hrise, hword⟩ := regsWf_iff.mp hdel
    refine regsWf_iff.mpr ⟨kins_rises v (fun _ => mem_kdel_ne) hrise, fun x hx => ?_⟩
    rcases mem_kins hx with rfl | hx
    · exact hv
    · exact hword x hx

/-! ## What soundness reads -/

/-- Every balance lies from −FLOOR to CAP (R209). -/
def Eng.Bounded (e : Eng) : Prop := ∀ i, -((e.ledger i).floor : Int) ≤ (e.ledger i).bal ∧ (e.ledger i).bal ≤ (e.ledger i).cap

/-- No version stands in two slots (R434). -/
def Partn.Distinct (q : Partn) : Prop :=
  ∀ m n, m < 4 → n < 4 → m ≠ n → (q.vslot m).st ≠ vsEmpty → (q.vslot n).st ≠ vsEmpty → (q.vslot m).version ≠ (q.vslot n).version

/-- At most one management core is ACTIVE (R504). -/
def Eng.OneActive (e : Eng) : Prop := ¬((e.core 0).role = .active ∧ (e.core 1).role = .active)

theorem Eng.sound.bounded {e : Eng} (h : e.sound) : e.Bounded := by
  obtain ⟨-, -, -, -, -, -, -, hbal, -, -⟩ := h
  exact hbal

theorem Eng.sound.distinct {e : Eng} (h : e.sound) (p : Nat) : (e.part p).Distinct := by
  obtain ⟨-, -, -, -, -, -, -, -, hver, -⟩ := h
  exact hver p

theorem Eng.sound.oneActive {e : Eng} (h : e.sound) : e.OneActive := by
  obtain ⟨-, -, -, -, -, -, -, -, -, hcore⟩ := h
  exact hcore

section
variable {e k : Eng}

/-- A change of anything that soundness does not read. -/
theorem Eng.sound.rest (h : e.sound) (hregs : k.regs = e.regs := by rfl) (hmem : k.mem = e.mem := by rfl)
    (hcells : k.cells = e.cells := by rfl) (hrqt : k.rqt = e.rqt := by rfl) (hreqs : k.reqs = e.reqs := by rfl)
    (hled : k.ledgers = e.ledgers := by rfl) (href : k.refilled = e.refilled := by rfl) (hgrp : k.groups = e.groups := by rfl)
    (hparts : k.parts = e.parts := by rfl) (hcores : k.mcores = e.mcores := by rfl) : k.sound := by
  simpa only [Eng.sound, Eng.ledger, Eng.vslot, Eng.part, Eng.core, hregs, hmem, hcells, hrqt, hreqs, hled, href, hgrp, hparts, hcores] using h

theorem Eng.sound.ite {c : Prop} {_ : Decidable c} (h : e.sound) (h' : k.sound) : (if c then e else k).sound := by
  split
  · exact h
  · exact h'

/-- A choice between engines that carry an answer. -/
theorem Eng.sound.ite2 {α : Type} {c : Prop} {_ : Decidable c} {x y : α × Eng} (h : x.2.sound) (h' : y.2.sound) :
    (if c then x else y).2.sound := by
  split
  · exact h
  · exact h'

theorem Eng.sound.ite22 {α β : Type} {c : Prop} {_ : Decidable c} {x y : α × β × Eng} (h : x.2.2.sound) (h' : y.2.2.sound) :
    (if c then x else y).2.2.sound := by
  split
  · exact h
  · exact h'

theorem Eng.sound.ite1 {α : Type} {c : Prop} {_ : Decidable c} {x y : Eng × α} (h : x.1.sound) (h' : y.1.sound) :
    (if c then x else y).1.sound := by
  split
  · exact h
  · exact h'

theorem Eng.sound.foldl {α : Type} (h : e.sound) {f : Eng → α → Eng} {l : List α} (hf : ∀ {g : Eng} x, g.sound → (f g x).sound) :
    (l.foldl f e).sound := by
  induction l generalizing e with
  | nil => exact h
  | cons x r ih => exact ih (hf x h)

/-- A fold that carries the engine with something else. -/
theorem Eng.sound.foldlOn {α β : Type} (π : β → Eng) {z : β} (h : (π z).sound) {f : β → α → β} {l : List α}
    (hf : ∀ {z} x, (π z).sound → (π (f z x)).sound) : (π (l.foldl f z)).sound := by
  induction l generalizing z with
  | nil => exact h
  | cons x r ih => exact ih (hf x h)

/-! ## The plain updates -/

theorem Eng.sound.wr (h : e.sound) {a : Nat} {v : Word} : (e.wr a v).sound := by
  obtain ⟨hregs, hother⟩ := h
  exact ⟨regsWf_write a v hregs, hother⟩

theorem Eng.sound.setF (h : e.sound) {a hi lo n : Nat} : (e.setF a hi lo n).sound := h.wr
theorem Eng.sound.ev (h : e.sound) {a i : Nat} : (e.ev a i).sound := h.wr
theorem Eng.sound.bump (h : e.sound) {a hi lo n : Nat} : (e.bump a hi lo n).sound := h.wr
theorem Eng.sound.bumpWrap (h : e.sound) {a hi lo n : Nat} : (e.bumpWrap a hi lo n).sound := h.wr
theorem Eng.sound.setPair (h : e.sound) {lo hi v : Nat} : (e.setPair lo hi v).sound := h.wr.wr

theorem Eng.sound.store (h : e.sound) {a : Nat} {l : List Byte} : (e.store a l).sound := by
  obtain ⟨hregs, hmem, hother⟩ := h
  exact ⟨hregs, Memory.wf_memStore _ a l hmem, hother⟩

theorem Eng.sound.onCell (h : e.sound) {n : Nat} {f : Cell → Cell} : (e.onCell n f).sound := by
  obtain ⟨hregs, hmem, hcells, hother⟩ := h
  exact ⟨hregs, hmem, kwf_kmod _ n f hcells, hother⟩

theorem Eng.sound.withRqt (h : e.sound) {m : KMap Dword} (hm : kwf 0 m = true) : ({ e with rqt := m } : Eng).sound := by
  obtain ⟨hregs, hmem, hcells, -, hother⟩ := h
  exact ⟨hregs, hmem, hcells, hm, hother⟩

theorem Eng.sound.withReqs (h : e.sound) {m : KMap Req} (hm : kwf Req.none m = true) : ({ e with reqs := m } : Eng).sound := by
  obtain ⟨hregs, hmem, hcells, hrqt, -, hother⟩ := h
  exact ⟨hregs, hmem, hcells, hrqt, hm, hother⟩

theorem Eng.sound.rqt (h : e.sound) : kwf 0 e.rqt = true := by
  obtain ⟨-, -, -, hrqt, -⟩ := h
  exact hrqt

theorem Eng.sound.reqs (h : e.sound) : kwf Req.none e.reqs = true := by
  obtain ⟨-, -, -, -, hreqs, -⟩ := h
  exact hreqs

theorem Eng.sound.mapReqs (h : e.sound) {f : Req → Req} : ({ e with reqs := kmapAll Req.none e.reqs f } : Eng).sound :=
  h.withReqs (kwf_kmapAll _ f h.reqs)

theorem Eng.sound.setRqw (h : e.sound) {n w : Nat} {v : Dword} : (e.setRqw n w v).sound := h.withRqt (kwf_kset _ _ _ _ h.rqt)
theorem Eng.sound.onReq (h : e.sound) {n : Nat} {f : Req → Req} : (e.onReq n f).sound := h.withReqs (kwf_kmod _ n f h.reqs)

theorem Eng.sound.onGroup (h : e.sound) {n : Nat} {f : Group → Group} : (e.onGroup n f).sound := by
  obtain ⟨hregs, hmem, hcells, hrqt, hreqs, hled, hgrp, hother⟩ := h
  exact ⟨hregs, hmem, hcells, hrqt, hreqs, hled, kwf_kmod _ n f hgrp, hother⟩

/-- A change of a partition whose versions stay distinct. -/
theorem Eng.sound.onPartOf (h : e.sound) {p : Nat} {f : Partn → Partn} (hf : (f (e.part p)).Distinct) : (e.onPart p f).sound := by
  obtain ⟨hregs, hmem, hcells, hrqt, hreqs, hled, hgrp, hbal, hver, hcore⟩ := h
  refine ⟨hregs, hmem, hcells, hrqt, hreqs, hled, hgrp, hbal, fun q => ?_, hcore⟩
  by_cases hq : q = p
  · subst hq
    show ((e.onPart q f).part q).Distinct
    rwa [Eng.part_onPart_self]
  · show ((e.onPart p f).part q).Distinct
    rw [Eng.part_onPart_ne e f hq]
    exact hver q

/-- A change of a partition that leaves its version slots. -/
theorem Eng.sound.onPart (h : e.sound) {p : Nat} {f : Partn → Partn} (hf : ∀ q, (f q).vslots = q.vslots := by exact fun _ => rfl) :
    (e.onPart p f).sound := by
  refine h.onPartOf ?_
  have hd := h.distinct p
  simpa only [Partn.Distinct, Partn.vslot, hf] using hd

theorem Eng.sound.onCtx (h : e.sound) {p c : Nat} {f : Ctx → Ctx} : (e.onCtx p c f).sound := h.onPart

/-- The engine of an answer that has been taken apart. -/
theorem Eng.sound.snd {α : Type} {x : α × Eng} {a : α} (h : x.2.sound) (hx : x = (a, e)) : e.sound := by
  rwa [hx] at h

theorem Eng.sound.fst {α : Type} {x : Eng × α} {a : α} (h : x.1.sound) (hx : x = (e, a)) : e.sound := by
  rwa [hx] at h

theorem Eng.sound.trd {α β : Type} {x : α × β × Eng} {a : α} {c : β} (h : x.2.2.sound) (hx : x = (a, c, e)) : e.sound := by
  rwa [hx] at h

end

end Sys2Proof.Machine
end

section
/-! PROOFS. The engine's own operations keep it sound, in the order of the model's files. -/

namespace Sys2Proof.Machine
set_option Elab.async false

open Sys2Proof

section
variable {e k : Eng}

/-! ### Registers, events, logs and memory -/

theorem Eng.sound.when (h : e.sound) {c : Bool} {f : Eng → Eng} (hf : ∀ {g : Eng}, g.sound → (f g).sound) : (e.when c f).sound :=
  .ite (hf h) h

theorem Eng.sound.partEv (h : e.sound) {p i : Nat} : (e.partEv p i).sound := h.ev

theorem Eng.sound.cfgErr (h : e.sound) {p : Nat} : (e.cfgErr p).sound := h.partEv

theorem Eng.sound.logPut (h : e.sound) {l : LogEnt} : (e.logPut l).sound := h.rest.bumpWrap.setF

theorem Eng.sound.logRaw (h : e.sound) {b : BeatUnit} {type src : Nat} {part : Option Nat} {payload : List Byte} :
    (e.logRaw b type src part payload).sound :=
  .ite h.ev.rest (.ite h.logPut (.ite h.ev.rest h.bump.ev))

theorem Eng.sound.tenantRec (h : e.sound) {b : BeatUnit} {p kind ctx pc fault : Nat} {detail : List Byte} :
    (e.tenantRec b p kind ctx pc fault detail).sound :=
  .ite h.bump h.store.bumpWrap.partEv

theorem Eng.sound.engFaultRaw (h : e.sound) {b : BeatUnit} {kind : Nat} {part : Option Nat} {detail : List Byte} :
    (e.engFaultRaw b kind part detail).sound :=
  .ev (.logRaw (.ite h.bump h.store.bumpWrap))

theorem Eng.sound.hlogOne (h : e.sound) {b : BeatUnit} : (e.hlogOne b).sound := by
  unfold Eng.hlogOne
  split
  · exact h
  · exact .ite h (.ite h.rest.bumpWrap.engFaultRaw h.rest.bumpWrap.store)

theorem Eng.sound.hlogPump (h : e.sound) {b : BeatUnit} : (e.hlogPump b).sound := .foldl h fun _ h => h.hlogOne

theorem Eng.sound.logAdd (h : e.sound) {b : BeatUnit} {type src : Nat} {part : Option Nat} {payload : List Byte} :
    (e.logAdd b type src part payload).sound :=
  h.logRaw.hlogPump

theorem Eng.sound.strLog (h : e.sound) {b : BeatUnit} {src space addr old new : Nat} {part : Option Nat} :
    (e.strLog b src part space addr old new).sound :=
  h.logAdd.bump.setF

theorem Eng.sound.engFault (h : e.sound) {b : BeatUnit} {kind : Nat} {part : Option Nat} {detail : List Byte} :
    (e.engFault b kind part detail).sound :=
  h.engFaultRaw.hlogPump

theorem Eng.sound.memRec (h : e.sound) {b : BeatUnit} {p addr : Nat} {write : Bool} : (e.memRec b p addr write).sound :=
  .ite h h.tenantRec.onPart

theorem Eng.sound.storeHeader (h : e.sound) {b : BeatUnit} {p : Nat} {r : Option Nat} : (e.storeHeader b p r).sound :=
  .ite h.memRec h.store

theorem Eng.sound.storeHeaders (h : e.sound) {b : BeatUnit} {p st : Nat} : (e.storeHeaders b p st).sound :=
  .foldl h.onPart.storeHeader fun _ h => h.storeHeader

theorem Eng.sound.halt (h : e.sound) {b : BeatUnit} {p : Nat} : (e.halt b p).sound := .ite h h.setF.partEv.onPart.storeHeaders

theorem Eng.sound.tenantFault (h : e.sound) {b : BeatUnit} {p kind : Nat} {detail : List Byte} :
    (e.tenantFault b p kind detail).sound :=
  .ite h h.tenantRec.halt

theorem Eng.sound.memFault (h : e.sound) {b : BeatUnit} {p addr : Nat} {write : Bool} : (e.memFault b p addr write).sound :=
  h.memRec.halt

theorem Eng.sound.setHeader (h : e.sound) {b : BeatUnit} {p st : Nat} : (e.setHeader b p st).sound :=
  .ite h.storeHeaders.halt h.storeHeaders

theorem Eng.sound.partStore (h : e.sound) {b : BeatUnit} {p a : Nat} {d : List Byte} : (e.partStore b p a d).sound :=
  .ite h.memFault h.store

theorem Eng.sound.partRead (h : e.sound) {b : BeatUnit} {p a n : Nat} : (e.partRead b p a n).sound := .ite h.memFault h

theorem Eng.sound.sysStore (h : e.sound) {b : BeatUnit} {a : Nat} {d : List Byte} : (e.sysStore b a d).sound :=
  .ite h.engFault h.store

theorem Eng.sound.issueTxn (h : e.sound) {p a : Nat} {k : TxnKind} : (e.issueTxn p a k).sound := h.rest

theorem Eng.sound.rmSend (h : e.sound) {kind : Nat} {m : RmMsg} : (e.rmSend kind m).sound := h.rest

theorem Eng.sound.rmPump (h : e.sound) : e.rmPump.sound := by
  refine .foldl h.rest fun _ h => .ite h.rest ?_
  split
  · exact h.rest
  · exact h.rest

theorem Eng.sound.hsSend (h : e.sound) {port vc : Nat} {bytes : List Byte} : (e.hsSend port vc bytes).sound := h.rest

theorem Eng.sound.hsPump (h : e.sound) : e.hsPump.sound := by
  unfold Eng.hsPump
  dsimp only
  refine .foldl h.rest fun _ h => ?_
  split
  · exact h.rest
  · exact h.rest

theorem Eng.sound.showPower (h : e.sound) {d : Nat} : (e.showPower d).sound := h.setF.setF.setF

theorem Eng.sound.ungate (h : e.sound) {p : Nat} : (e.ungate p).sound := .ite h.setF.rest.showPower h

theorem Eng.sound.oneCycle (h : e.sound) {f : Eng → Eng} (hf : ∀ {g : Eng}, g.sound → (f g).sound) : (e.oneCycle f).sound :=
  .ite (hf h) (.showPower (hf h))

theorem Eng.sound.dispatch (h : e.sound) {p : Nat} : (e.dispatch p).sound := by
  refine .ite h ?_
  split
  · exact h
  · exact .onPart (.onCtx (.ite h.ungate h.ungate.bumpWrap))

theorem Eng.sound.vacate (h : e.sound) {p c : Nat} : (e.vacate p c).sound := .ite h.onPart h

theorem Eng.sound.release (h : e.sound) {p c : Nat} : (e.release p c).sound := h.vacate.dispatch

theorem Eng.sound.switchOut (h : e.sound) {p c : Nat} : (e.switchOut p c).sound := h.onCtx.onPart.dispatch

theorem Eng.sound.preempt (h : e.sound) {p c : Nat} : (e.preempt p c).sound := .ite h.switchOut h.switchOut.bumpWrap

theorem Eng.sound.putItem (h : e.sound) {p l : Nat} {v : Dword} : (e.putItem p l v).sound := h.onPart

theorem Eng.sound.postAlert (h : e.sound) {p slot : Nat} : (e.postAlert p slot).sound := by
  unfold Eng.postAlert
  split
  · exact h
  · exact .ite h.onReq (.ite h.onReq.putItem.bumpWrap h.onPart.ev)

theorem Eng.sound.alertReturn (h : e.sound) {p slot : Nat} : (e.alertReturn p slot).sound := by
  unfold Eng.alertReturn
  split
  · exact .ite h.postAlert h
  · exact h

theorem Eng.sound.discardBatch (h : e.sound) {p : Nat} : (e.discardBatch p).sound := by
  unfold Eng.discardBatch
  split
  · exact h
  · refine .foldl (.onPart (.foldl h fun {g} r h => ?_)) fun _ h => h.alertReturn
    have hrqt : kwf 0 (if bitsOf (kget 0 g.rqt (24 * r.slot)).toNat 31 24 = 2 then
        kset 0 g.rqt (24 * r.slot) (BitVec.ofNat 64 (putBits (kget 0 g.rqt (24 * r.slot)).toNat 31 24 1)) else g.rqt) = true := by
      split
      · exact kwf_kset _ _ _ _ h.rqt
      · exact h.rqt
    exact (h.withRqt hrqt).onReq

theorem Eng.sound.faultOnly (h : e.sound) {b : BeatUnit} {p c kind operand detail : Nat} {recDetail : List Byte} :
    (e.faultOnly b p c kind operand detail recDetail).sound :=
  .vacate (.ite (.onCtx (.ite h.discardBatch h)) (.partEv (.tenantRec (.onCtx (.ite h.discardBatch h)))))

theorem Eng.sound.ctxFault (h : e.sound) {b : BeatUnit} {p c kind operand detail : Nat} {recDetail : List Byte} :
    (e.ctxFault b p c kind operand detail recDetail).sound :=
  h.faultOnly.dispatch

theorem Eng.sound.fresh (h : e.sound) : e.fresh.2.sound := h.rest

theorem Eng.sound.drawFree (h : e.sound) : e.drawFree.2.sound := h.rest

theorem Eng.sound.reject (h : e.sound) {p : Nat} : (e.reject p).sound := h.bump.ev

theorem Eng.sound.rejectGlobal (h : e.sound) : e.rejectGlobal.sound := h.bump

/-! ### Requests -/

/-- A ledger whose balance is within its bounds is stored (R209). -/
theorem Eng.sound.setLedger (h : e.sound) {i : Nat} {l : Ledger} (hlo : -(l.floor : Int) ≤ l.bal) (hhi : l.bal ≤ l.cap) :
    (e.setLedger i l).sound := by
  obtain ⟨hregs, hmem, hcells, hrqt, hreqs, hled, hgrp, hbal, hother⟩ := h
  refine ⟨hregs, hmem, hcells, hrqt, hreqs, kwf_kset _ _ _ _ hled, hgrp, fun j => ?_, hother⟩
  by_cases hj : j = i
  · subst hj
    rw [Eng.ledger_setLedger_self]
    exact ⟨hlo, hhi⟩
  · rw [Eng.ledger_setLedger_ne e l hj]
    exact hbal j

/-- A ledger is stored with its balance clamped to its own bounds (R209). -/
theorem Eng.sound.setClamped (h : e.sound) {i : Nat} {l : Ledger} {n : Int} : (e.setLedger i (l.clamp n)).sound := by
  have hcap : (l.clamp n).cap = l.cap := rfl
  obtain ⟨hlo, hhi⟩ := l.clamp_bounds n
  exact h.setLedger hlo (by omega)

theorem kget_of_mem {α : Type} [DecidableEq α] {d : α} {m : KMap α} {n : Nat} {v : α} (h : kwf d m = true) (hv : (n, v) ∈ m) : kget
    d m n = v := by
  induction m with
  | nil => exact absurd hv List.not_mem_nil
  | cons x r ih =>
    obtain ⟨k, w⟩ := x
    simp only [kwf, Bool.and_eq_true, decide_eq_true_eq, List.all_eq_true] at h
    obtain ⟨⟨-, hk⟩, hr⟩ := h
    rw [kget]
    rcases List.mem_cons.mp hv with hx | hx
    · obtain ⟨rfl, rfl⟩ := Prod.mk.inj hx
      exact if_pos rfl
    · rw [if_neg (hk _ hx).ne]
      exact ih hr hx

/-- A refill leaves a ledger as at cold reset, or clamps it at CAP (R212). -/
theorem Eng.sound.ledger_refill (h : e.sound) (i : Nat) :
    e.refill.ledger i = Ledger.fresh true ∨ e.refill.ledger i = (e.ledger i).clamp ((e.ledger i).bal + (e.ledger i).refill) := by
  obtain ⟨-, -, -, -, -, hled, -⟩ := h
  show (kget none e.refill.ledgers i).getD (Ledger.fresh true) = _ ∨ (kget none e.refill.ledgers i).getD (Ledger.fresh true) = _
  rcases kget_mem none e.refill.ledgers i with hnone | hmem
  · exact .inl (by rw [hnone]; rfl)
  · obtain ⟨⟨k, v⟩, hv, hx⟩ := List.mem_map.mp (List.mem_of_mem_filter hmem)
    obtain ⟨rfl, hval⟩ := Prod.mk.inj hx
    rw [← hval, Eng.ledger, kget_of_mem hled hv]
    cases v with
    | none => exact .inl rfl
    | some l =>
      dsimp only [Option.bind_some]
      split
      · exact .inl rfl
      · exact .inr rfl

theorem Eng.sound.refill (h : e.sound) : e.refill.sound := by
  have hled : kwf none e.refill.ledgers = true := by
    obtain ⟨-, -, -, -, -, hled, -⟩ := h
    exact kwf_map_filter _ _ (fun _ _ hv => Option.isSome_iff_ne_none.mp hv) hled
  have hbal : e.refill.Bounded := fun i => by
    rcases h.ledger_refill i with hi | hi <;> rw [hi]
    · decide
    · obtain ⟨hlo, hhi⟩ := (e.ledger i).clamp_bounds ((e.ledger i).bal + (e.ledger i).refill)
      have hcap : ((e.ledger i).clamp ((e.ledger i).bal + (e.ledger i).refill)).cap = (e.ledger i).cap := rfl
      exact ⟨hlo, by omega⟩
  obtain ⟨hregs, hmem, hcells, hrqt, hreqs, -, hgrp, -, hother⟩ := h
  exact ⟨hregs, hmem, hcells, hrqt, hreqs, hled, hgrp, hbal, hother⟩

theorem Eng.sound.charge (h : e.sound) {p i n : Nat} : (e.charge p i n).sound :=
  .ite h.setClamped h.setClamped.bump.ev

theorem Eng.sound.credit (h : e.sound) {i n : Nat} : (e.credit i n).sound := h.setClamped

theorem Eng.sound.setRqf (h : e.sound) {slot w hi lo v : Nat} : (e.setRqf slot w hi lo v).sound := h.setRqw

theorem Eng.sound.bumpRqf (h : e.sound) {slot w hi lo n : Nat} : (e.bumpRqf slot w hi lo n).sound := h.setRqf

theorem Eng.sound.setRstate (h : e.sound) {slot st : Nat} : (e.setRstate slot st).sound := h.setRqf

theorem Eng.sound.onStep (h : e.sound) {p num : Nat} {f : Step → Step} : (e.onStep p num f).sound := h.onPart

theorem Eng.sound.drawBegin (h : e.sound) {p : Nat} : (e.drawBegin p).sound := .foldl h.setF.ev.onPart fun _ h => .ite h.onReq h

theorem Eng.sound.drawEnd (h : e.sound) {b : BeatUnit} {p : Nat} : (e.drawEnd b p).sound :=
  .onPart (.foldl h.setF.ev fun _ h => h.onReq)

theorem Eng.sound.setSource (h : e.sound) {p src : Nat} {on : Bool} : (e.setSource p src on).sound := h.setF

theorem Eng.sound.drawTurn (h : e.sound) {b : BeatUnit} {p : Nat} : (e.drawTurn b p).sound := .ite h.drawBegin (.ite h.drawEnd h)

theorem Eng.sound.drawSource (h : e.sound) {b : BeatUnit} {p src : Nat} {on : Bool} : (e.drawSource b p src on).sound :=
  h.setSource.drawTurn

theorem Eng.sound.timedSources (h : e.sound) {b : BeatUnit} {p : Nat} : (e.timedSources b p).sound := h.setSource.setSource

theorem Eng.sound.recover (h : e.sound) {b : BeatUnit} {p : Nat} : (e.recover b p).sound := .ite h h.onPart.drawSource

theorem Eng.sound.recoverAll (h : e.sound) {b : BeatUnit} : (e.recoverAll b).sound := .foldl h fun _ h => h.recover

/-! ### Beat time -/

theorem Eng.sound.realignPoints (h : e.sound) {before now : Nat} : (e.realignPoints before now).sound :=
  .foldl h fun _ h => h.when fun h => h.onPart

/-! ### The page manager -/

theorem Eng.sound.setPage (h : e.sound) {b : BeatUnit} {g : Nat} {f : PageRec → PageRec} : (e.setPage b g f).sound :=
  h.rest.sysStore

theorem Eng.sound.holdPage (h : e.sound) {b : BeatUnit} {g : Nat} : (e.holdPage b g).sound := h.setPage

theorem Eng.sound.joinFree (h : e.sound) {b : BeatUnit} {p g : Nat} : (e.joinFree b p g).sound := by
  refine .onPart (.setPage ?_)
  split
  · exact h.setPage
  · exact h

theorem Eng.sound.showNodes (h : e.sound) {b : BeatUnit} {p : Nat} {ns : List Nat} : (e.showNodes b p ns).sound :=
  .foldl h fun _ h => h.sysStore

theorem Eng.sound.setNode (h : e.sound) {n : Nat} {f : Node → Node} : (e.setNode n f).sound := h.rest

theorem Eng.sound.visit (h : e.sound) {n : Nat} : (e.visit n).2.sound := .ite2 h.drawFree.bumpWrap h.drawFree.bumpWrap

theorem Eng.sound.allocNode (h : e.sound) {p : Nat} : (e.allocNode p).2.sound := by
  refine .ite2 h.onPart ?_
  split
  · exact h.onPart
  · exact h

theorem Eng.sound.setLru (h : e.sound) {b : BeatUnit} {p n : Nat} {f : List Nat → List Nat} : (e.setLru b p n f).sound :=
  h.onPart.showNodes

theorem Eng.sound.lruAdd (h : e.sound) {b : BeatUnit} {p n : Nat} {head : Bool} : (e.lruAdd b p n head).sound := h.setLru

theorem Eng.sound.lruDrop (h : e.sound) {b : BeatUnit} {p n : Nat} : (e.lruDrop b p n).sound := .ite h.setLru h

theorem Eng.sound.freeNode (h : e.sound) {b : BeatUnit} {p n : Nat} : (e.freeNode b p n).sound :=
  h.lruDrop.setNode.onPart.mapReqs.showNodes

theorem Eng.sound.treeRelease (h : e.sound) {b : BeatUnit} {p g : Nat} : (e.treeRelease b p g).sound :=
  .ite h.setPage.joinFree h.setPage

theorem Eng.sound.unlink (h : e.sound) {b : BeatUnit} {p n : Nat} : (e.unlink b p n).sound := h.setNode.showNodes

theorem Eng.sound.climb (h : e.sound) {b : BeatUnit} {p f n : Nat} : (Eng.climb b p f n e).sound := by
  induction f generalizing e n with
  | zero => exact h
  | succ f ih =>
    unfold Eng.climb
    refine .ite h ?_
    split
    · exact .ite h.lruAdd h
    · exact ih h.unlink.freeNode

theorem Eng.sound.evictNode (h : e.sound) {b : BeatUnit} {p n : Nat} : (e.evictNode b p n).sound := by
  refine .climb (.bumpWrap ?_)
  split
  · exact h.unlink.freeNode.treeRelease
  · exact h.unlink.freeNode

theorem Eng.sound.evict (h : e.sound) {b : BeatUnit} {p : Nat} {k : Eng} (hk : e.evict b p = some k) : k.sound := by
  obtain ⟨n, -, rfl⟩ := Option.map_eq_some_iff.mp hk
  exact h.evictNode

theorem Eng.sound.dropTree (h : e.sound) {b : BeatUnit} {p n : Nat} : (e.dropTree b p n).sound :=
  .climb (.foldl (.foldl h.unlink fun _ h => h.freeNode) fun _ h => h.treeRelease)

theorem Eng.sound.treeErr (h : e.sound) {b : BeatUnit} {p n : Nat} : (e.treeErr b p n).sound := h.dropTree.ev

theorem Eng.sound.makeNodes (h : e.sound) {b : BeatUnit} {p need f : Nat} : (Eng.makeNodes b p need f e).sound := by
  induction f generalizing e with
  | zero => exact h
  | succ f ih =>
    unfold Eng.makeNodes
    refine .ite h ?_
    split
    next hk => exact ih (h.evict hk)
    next => exact h

theorem Eng.sound.rootOf (h : e.sound) {b : BeatUnit} {p m : Nat} : (e.rootOf b p m).2.sound := by
  unfold Eng.rootOf
  refine .ite2 h ?_
  split
  next hx => exact (h.makeNodes.allocNode.snd hx).ev
  next hx => exact (h.makeNodes.allocNode.snd hx).setNode.setF.showNodes

theorem Eng.sound.plantRoots (h : e.sound) {b : BeatUnit} {p : Nat} : (e.plantRoots b p).sound := .foldl h fun _ h => h.rootOf

theorem Eng.sound.flushTrees (h : e.sound) {b : BeatUnit} {p : Nat} : (e.flushTrees b p).sound := .foldl h fun _ h => h.dropTree

theorem Eng.sound.dropVersion (h : e.sound) {b : BeatUnit} {p v : Nat} : (e.dropVersion b p v).sound :=
  .foldl h fun _ h => h.dropTree

theorem Eng.sound.dropProfile (h : e.sound) {b : BeatUnit} {p m : Nat} : (e.dropProfile b p m).sound :=
  .ite h (.setF (.freeNode (.foldl h fun _ h => h.dropTree)))

/-- A page taken where one is free. -/
def Eng.takePage (b : BeatUnit) (p : Nat) (e : Eng) : Option Nat × Eng :=
  let q := e.part p
  if q.pageCur < e.pageSpan p then
    let g := e.pageLo p + q.pageCur
    (some g, (e.onPart p fun q => { q with pageCur := q.pageCur + 1 }).setPage b g fun _ => ⟨1, false, 0xFFFFFF⟩)
  else match q.freePages with
    | g :: r => (some g, (e.onPart p fun q => { q with freePages := r }).setPage b g fun _ => ⟨1, false, 0xFFFFFF⟩)
    | [] => (none, e)

theorem Eng.allocPage_eq (b : BeatUnit) (p : Nat) (e : Eng) :
    e.allocPage b p = match e.takePage b p with
      | (some g, e) => (some g, e)
      | (none, e) => match e.evict b p with
        | some e => e.takePage b p
        | none => (none, e) := rfl

theorem Eng.sound.takePage (h : e.sound) {b : BeatUnit} {p : Nat} : (e.takePage b p).2.sound := by
  unfold Eng.takePage
  refine .ite2 h.onPart.setPage ?_
  split
  · exact h.onPart.setPage
  · exact h

theorem Eng.sound.allocPage (h : e.sound) {b : BeatUnit} {p : Nat} : (e.allocPage b p).2.sound := by
  rw [Eng.allocPage_eq]
  split
  next hx => exact h.takePage.snd hx
  next hx =>
    have hg := h.takePage.snd hx
    split
    next hk => exact (hg.evict hk).takePage
    next => exact hg

theorem Eng.sound.releasePages (h : e.sound) {b : BeatUnit} {p : Nat} {gs : List Nat} : (e.releasePages b p gs).sound := by
  refine .foldl (.foldl h fun _ h => .ite ?_ h.setPage) fun _ h => h.joinFree
  split
  · exact .ite h.setPage.lruAdd h.setPage
  · exact h.setPage

theorem Eng.sound.allocBlock (h : e.sound) {p : Nat} : (e.allocBlock p).2.sound := by
  refine .ite2 h.onPart ?_
  split
  · exact h.onPart
  · exact h

theorem Eng.sound.listPut (h : e.sound) {b : BeatUnit} {p blk i v : Nat} : (e.listPut b p blk i v).sound := h.partStore

theorem Eng.sound.showList (h : e.sound) {slot lp shared : Nat} : (e.showList slot lp shared).sound := h.setRqw

theorem Eng.sound.listAdd (h : e.sound) {b : BeatUnit} {p slot g extra : Nat} : (e.listAdd b p slot g extra).2.sound := by
  unfold Eng.listAdd
  split
  next hy =>
    have hg := h.allocBlock.snd hy
    exact .ite2 (.ev (.ite2 hg h)) (.showList (.listPut (.onReq (.ite2 hg h))))
  next hy =>
    have hg := h.allocBlock.snd hy
    exact .ite2 (.ev (.ite2 hg.onReq.listPut h)) (.showList (.listPut (.onReq (.ite2 hg.onReq.listPut h))))

theorem Eng.sound.grow (h : e.sound) {b : BeatUnit} {p slot need f : Nat} : (Eng.grow b p slot need f e).2.sound := by
  induction f generalizing e with
  | zero => exact h
  | succ f ih =>
    unfold Eng.grow
    refine .ite2 h (.ite2 h.ev ?_)
    split
    next hx => exact h.allocPage.snd hx
    next hx => exact ih (h.allocPage.snd hx).listAdd

theorem Eng.sound.cover (h : e.sound) {b : BeatUnit} {p slot upto : Nat} : (e.cover b p slot upto).2.sound := h.grow

theorem Eng.sound.dropCopy (h : e.sound) {b : BeatUnit} {p slot : Nat} : (e.dropCopy b p slot).sound := by
  unfold Eng.dropCopy
  split
  · exact h
  · exact h.releasePages.onReq

theorem Eng.sound.dropList (h : e.sound) {b : BeatUnit} {p : Nat} {l : OldList} : (e.dropList b p l).sound := h.releasePages.onPart

theorem Eng.sound.dropPages (h : e.sound) {b : BeatUnit} {p slot : Nat} : (e.dropPages b p slot).sound := by
  refine .onReq ?_
  split
  · exact .ite h.dropCopy.onStep h.dropCopy.dropList
  · exact h.dropCopy.dropList

theorem Eng.sound.findKid (h : e.sound) {key : Nat} {l : List Nat} : (Eng.findKid key l e).2.2.sound := by
  induction l generalizing e with
  | nil => exact h
  | cons k r ih => exact .ite22 h.visit (.ite22 h.visit (.ite22 h.visit (ih h.visit)))

theorem Eng.sound.walkTree (h : e.sound) {tok : Nat → Nat} {limit f cur : Nat} {w : Walk} : (Eng.walkTree tok limit f cur w e).2.sound := by
  induction f generalizing e cur w with
  | zero => exact h
  | succ f ih =>
    unfold Eng.walkTree
    refine .ite2 h ?_
    split
    next hx => exact h.findKid.trd hx
    next hx => exact h.findKid.trd hx
    next hx => exact .ite2 (ih (h.findKid.trd hx)) (h.findKid.trd hx)

theorem Eng.sound.readTokens (h : e.sound) {b : BeatUnit} {p a i n : Nat} : (e.readTokens b p a i n).sound := by
  unfold Eng.readTokens
  split
  · exact h.memFault
  · exact h

theorem Eng.sound.firstPage (h : e.sound) {b : BeatUnit} {p top f n : Nat} : (Eng.firstPage b p top f n e).2.sound := by
  induction f generalizing e n with
  | zero => exact h
  | succ f ih =>
    unfold Eng.firstPage
    split
    · exact h
    · exact h
    · exact .ite2 (ih h.visit) (ih h.visit.treeErr)

theorem Eng.sound.matchPrompt (h : e.sound) {b : BeatUnit} {p m key addr len : Nat} : (e.matchPrompt b p m key addr len).2.sound := by
  unfold Eng.matchPrompt
  split
  · exact h
  split
  next hv =>
  have hv := h.visit.snd hv
  refine .ite2 hv.treeErr ?_
  split
  next w _ hw =>
  have hw := (hv.walkTree.snd hw).readTokens (b := b) (p := p) (a := addr) (i := 0) (n := min (w.pos + 1) (len - 1))
  dsimp only
  cases w.bad with
  | none =>
    split
    · exact .ite2 hw hw.firstPage
    · exact hw
  | some k =>
    split
    · exact .ite2 hw.treeErr hw.treeErr.firstPage
    · exact hw.treeErr

theorem Eng.sound.touch (h : e.sound) {b : BeatUnit} {p : Nat} {ns : List Nat} : (e.touch b p ns).sound :=
  .foldl h fun _ h => .ite h.setNode.lruAdd h.setNode.showNodes

theorem Eng.sound.adopt (h : e.sound) {b : BeatUnit} {p n k : Nat} : (e.adopt b p n k).sound := h.setNode.lruDrop.showNodes

theorem Eng.sound.setPath (h : e.sound) {slot : Nat} {l : List Nat} : (e.setPath slot l).sound := h.onReq

theorem Eng.sound.addChain (h : e.sound) {b : BeatUnit} {p slot g off under : Nat} {l : List (List Nat)} :
    (Eng.addChain b p slot g l off under e).sound := by
  induction l generalizing e off under with
  | nil => exact h
  | cons x r ih =>
    unfold Eng.addChain
    split
    next hx => exact h.allocNode.snd hx
    next hx => exact ih (h.allocNode.snd hx).setNode.adopt.setPath

theorem Eng.sound.splitNode (h : e.sound) {b : BeatUnit} {p k n : Nat} : (e.splitNode b p k n).sound := by
  unfold Eng.splitNode
  split
  next hx => exact h.allocNode.snd hx
  next hx =>
    have hg := h.allocNode.snd hx
    exact .showNodes (.ite (.onPart (.mapReqs (.foldl hg.setNode.setNode fun _ h => h.setNode)))
      (.mapReqs (.foldl hg.setNode.setNode fun _ h => h.setNode)))

theorem Eng.sound.ensureLevel1 (h : e.sound) {b : BeatUnit} {p m key : Nat} : (e.ensureLevel1 b p m key).2.sound := by
  unfold Eng.ensureLevel1
  split
  · exact h
  split
  next hx => exact h.rootOf.snd hx
  next hx =>
    split
    next hy => exact ((h.rootOf.snd hx).allocNode.snd hy).ev
    next hy => exact ((h.rootOf.snd hx).allocNode.snd hy).setNode.adopt

/-- The walk of an insertion from the deepest node of the path (R248). -/
def Eng.walkPath (p slot stop : Nat) (x : List Nat × Nat) (e : Eng) : Walk × Eng :=
  match x.1.getLast? with
  | none => (⟨[], 0, none, none⟩, e)
  | some n => e.walkTree (fun i => e.token p (e.rqw slot 3).toNat i) stop (stop + 1) n ⟨[], x.2, none, none⟩

/-- The node under which an insertion goes on, made at level 1 where there is none (R248). -/
def Eng.insertTop (b : BeatUnit) (p m key : Nat) (path : List Nat) (e : Eng) : Option Nat × Eng :=
  match path.getLast? with
  | some n => (some n, e)
  | none => e.ensureLevel1 b p m key

/-- A node matched in part is split, and the path runs along its upper half (R248). -/
def Eng.splitAt (b : BeatUnit) (p slot n : Nat) (part : Option (Nat × Nat)) (e : Eng) : Nat × Eng :=
  match part with
  | some (c, j) => let e := e.splitNode b p c j; (c, e.setPath slot ((e.req slot).path ++ [c]))
  | none => (n, e)

/-- What learned entry a request is bound to. -/
def Eng.boundLp (e : Eng) (slot : Nat) : Option Nat := if e.rqf slot 1 15 15 = 1 then some (e.rqf slot 1 31 16) else none

/-- Where a node matched in part is cut. -/
def Walk.cut (w : Walk) : Option (Nat × Nat) :=
  match w.part with
  | some (c, n) => if n = 0 then none else some (c, n)
  | none => none

theorem Eng.insertPage_succ (b : BeatUnit) (p slot k g f : Nat) (e : Eng) :
    Eng.insertPage b p slot k g (f + 1) e =
      (let pt := e.pageTok p
      let m := e.rmodel slot
      let lp := e.boundLp slot
      let stop := (k + 1) * pt
      let addr := (e.rqw slot 3).toNat
      let x := e.pathOf p slot
      let (w, e) := e.walkPath p slot stop x
      match w.bad with
      | some n => Eng.insertPage b p slot k g f (e.treeErr b p n)
      | none =>
        let e := e.setPath slot (x.1 ++ w.full)
        if w.pos = stop ∨ w.pos < k * pt then e
        else
          let cs := chunks 3 ((List.range (stop - w.pos)).map fun i => e.token p addr (w.pos + i))
          let need := cs.length + w.cut.toList.length + if x.1 ≠ [] then 0 else if e.fld (Reg.pageRoot p m) 27 0 = noNode then 2 else 1
          if e.nodesLeft p < need then
            if (e.part p).lru = [] then e.ev (Reg.pageEvent p) 1 else Eng.insertPage b p slot k g f (e.makeNodes b p need 70000)
          else
            let (top, e) := e.insertTop b p m (level1Key (e.rversion slot) lp) (x.1 ++ w.full)
            match top with
            | none => e
            | some n =>
              let e := if x.1 = [] then e.setPath slot [n] else e
              let (under, e) := e.splitAt b p slot n w.cut
              let e := e.setPage b g fun r => { r with ref := r.ref + 1, tree := true }
              (e.addChain b p slot g cs (w.pos - k * pt) under).bumpWrap (Reg.pageInserts p) 31 0) := rfl

theorem Eng.sound.walkPath (h : e.sound) {p slot stop : Nat} {x : List Nat × Nat} : (e.walkPath p slot stop x).2.sound := by
  unfold Eng.walkPath
  split
  · exact h
  · exact h.walkTree

theorem Eng.sound.insertTop (h : e.sound) {b : BeatUnit} {p m key : Nat} {path : List Nat} : (e.insertTop b p m key path).2.sound := by
  unfold Eng.insertTop
  split
  · exact h
  · exact h.ensureLevel1

theorem Eng.sound.splitAt (h : e.sound) {b : BeatUnit} {p slot n : Nat} {part : Option (Nat × Nat)} :
    (e.splitAt b p slot n part).2.sound := by
  unfold Eng.splitAt
  split
  · exact h.splitNode.setPath
  · exact h

theorem Eng.sound.insertPage (h : e.sound) {b : BeatUnit} {p slot k g f : Nat} : (Eng.insertPage b p slot k g f e).sound := by
  induction f generalizing e with
  | zero => exact h.ev
  | succ f ih =>
    rw [Eng.insertPage_succ]
    dsimp only
    split
    · exact ih h.walkPath.treeErr
    · refine .ite h.walkPath.setPath (.ite (.ite h.walkPath.setPath.ev (ih h.walkPath.setPath.makeNodes)) ?_)
      split
      · exact h.walkPath.setPath.insertTop
      · exact .bumpWrap (.addChain (.setPage (.splitAt (.ite h.walkPath.setPath.insertTop.setPath h.walkPath.setPath.insertTop))))

theorem Eng.sound.insertPages (h : e.sound) {b : BeatUnit} {p slot old : Nat} : (e.insertPages b p slot old).sound := by
  refine .foldl h fun _ h => ?_
  split
  · exact h.readTokens.insertPage
  · exact h

/-! ### Operands and contexts -/

theorem Eng.sound.launch (h : e.sound) {n : Nat} {op : CellOp} : (e.launch n op).sound := h.rest

theorem Eng.sound.putCell (h : e.sound) {n : Nat} {count : Word} {sat : Option Bool} : (e.putCell n count sat).sound :=
  .ite h.launch h.onCell

theorem Eng.sound.withdraw (h : e.sound) {b : BeatUnit} {p c : Nat} {k : StopReq} : (e.withdraw b p c k).sound := by
  unfold Eng.withdraw
  split
  · split
    · exact h
    · exact h.onCell.onCtx
  · exact h.onPart.onCtx
  · exact h

theorem Eng.sound.zeroPrivates (h : e.sound) {p c : Nat} {saved : Bool} : (e.zeroPrivates p c saved).sound :=
  .foldl h fun _ h => h.putCell

theorem Eng.sound.stopCtx (h : e.sound) {b : BeatUnit} {p c : Nat} {k : StopReq} : (e.stopCtx b p c k).sound := by
  unfold Eng.stopCtx
  split
  · exact .onCtx (.zeroPrivates (.ite h.withdraw.discardBatch h.withdraw))
  · exact .onCtx (.ite h.withdraw.discardBatch h.withdraw)
  · exact .onCtx (.ite h.withdraw.discardBatch h.withdraw)

theorem Eng.sound.askStop (h : e.sound) {b : BeatUnit} {p c : Nat} {k : StopReq} : (e.askStop b p c k).sound :=
  .ite h.onCtx h.stopCtx.release

theorem Eng.sound.boundary (h : e.sound) {b : BeatUnit} {p c : Nat} : (e.boundary b p c).sound := by
  unfold Eng.boundary
  dsimp only
  split
  · exact h.stopCtx.release
  · exact .ite h.release (.ite h.preempt h.dispatch)

theorem Eng.sound.complete (h : e.sound) {p c : Nat} {f : Ctx → Ctx} : (e.complete p c f).sound := h.onCtx

theorem Eng.sound.finish (h : e.sound) {b : BeatUnit} {p c : Nat} {f : Ctx → Ctx} : (e.finish b p c f).sound := h.complete.boundary

theorem Eng.sound.wait_ (h : e.sound) {b : BeatUnit} {p c : Nat} {k : Pend} : (e.wait_ b p c k).sound := h.onCtx.boundary

theorem Eng.sound.illegal (h : e.sound) {b : BeatUnit} {i : Ins} {n : Enc} {operand : Nat} : (e.illegal b i n operand).sound :=
  h.ctxFault

theorem Eng.sound.giveSlot (h : e.sound) {p c : Nat} : (e.giveSlot p c).sound := h.onCtx.release

theorem Eng.sound.raise (h : e.sound) {b : BeatUnit} {i : Ins} {kind operand detail : Nat} :
    (e.raise b i kind operand detail).sound :=
  h.ctxFault

theorem Eng.sound.finS (h : e.sound) {b : BeatUnit} {i : Ins} {v : Dword} : (e.finS b i v).sound := h.finish

theorem Eng.sound.fin (h : e.sound) {b : BeatUnit} {i : Ins} : (e.fin b i).sound := h.finish

theorem Eng.sound.ledgOne {x : List (LedgOp × Option Dword) × Eng} (h : x.2.sound) {o : LedgOp} : (Machine.ledgOne x o).2.sound := by
  unfold Machine.ledgOne
  split
  · exact h
  · exact h.credit
  · exact h.charge
  · exact .ite2 h.charge h

theorem Eng.sound.ledgFirst (h : e.sound) {n row : Nat} : (e.ledgFirst n row).2.sound :=
  .foldlOn Prod.snd h.rest fun _ h => h.ledgOne

theorem Eng.sound.ledgRest (h : e.sound) {b : BeatUnit} {n : Nat} {done : List (LedgOp × Option Dword)} :
    (e.ledgRest b n done).sound :=
  .foldl h.ledgFirst fun _ h => .ite h.finish h

theorem Eng.sound.ledgCycle (h : e.sound) {b : BeatUnit} {n row : Nat} {f : Eng → Eng} (hf : ∀ {g : Eng}, g.sound → (f g).sound) :
    (e.ledgCycle b n row f).sound :=
  .ledgRest (hf h.ledgFirst)

/-! ### Context memory -/

theorem Eng.sound.ctxMemDone (h : e.sound) {b : BeatUnit} {t : Txn} {ok : Bool} : (e.ctxMemDone b t ok).sound := by
  unfold Eng.ctxMemDone
  split
  · exact .ite h.finish h.ctxFault
  · exact .ite h.store.finish h.ctxFault
  · exact h

/-! ### Access gates -/

theorem Eng.sound.dbDrop (h : e.sound) {p : Nat} : (e.dbDrop p).sound := h.bump.partEv

/-! ### Latency and drawdown -/

theorem Eng.sound.worst (h : e.sound) {a hi lo n : Nat} : (e.worst a hi lo n).sound := h.setF

theorem Eng.sound.measureFirst (h : e.sound) {b : BeatUnit} {p slot : Nat} : (e.measureFirst b p slot).sound := by
  unfold Eng.measureFirst
  extract_lets t timed worst marked viol
  have hworst : worst.sound := h.setRqw.setRqf.worst
  have hmarked : marked.sound := .ite hworst.setRqf hworst
  have hviol : viol.sound := .ite hmarked.bump (.ite hmarked.setRqf.bump.ev hmarked)
  exact hviol.onReq

theorem Eng.sound.disarm (h : e.sound) {p slot : Nat} : (e.disarm p slot).sound := .ite h h.onReq.onPart

theorem Eng.sound.measure (h : e.sound) {b : BeatUnit} {p slot : Nat} : (e.measure b p slot).sound :=
  .onReq (.ite (.disarm (.ite h.measureFirst h)) (.ite h.measureFirst h))

theorem Eng.sound.armAlert (h : e.sound) {p slot kind target start : Nat} : (e.armAlert p slot kind target start).sound :=
  .ite h h.onReq

theorem Eng.sound.measureStep (h : e.sound) {p slot : Nat} {continues : Bool} : (e.measureStep p slot continues).sound := by
  unfold Eng.measureStep
  extract_lets r
  split
  · exact h
  next n old gap tbt marked w worst counted shown _ =>
  have hmarked : marked.sound := .ite h.setRqf h
  have hworst : worst.sound := hmarked.setRqf.worst
  have hcounted : counted.sound := .ite h (.ite hmarked.bump (.ite hworst.bumpRqf.bump.ev hworst))
  have hshown : shown.sound := hcounted.setRqw.onReq
  exact .ite hshown.armAlert hshown

theorem Eng.sound.postHeld (h : e.sound) {p : Nat} {l : List Nat} : (Eng.postHeld p l e).sound := by
  induction l generalizing e with
  | nil => exact h
  | cons s r ih => exact .ite (ih h.onPart.onPart) (.ite (ih h.onPart.postAlert.onPart) h.onPart.onPart)

theorem Eng.sound.unage (h : e.sound) {p slot : Nat} : (e.unage p slot).sound := h.onPart

theorem Eng.sound.putSw (h : e.sound) {p : Nat} {on : Bool} : (e.putSw p on).sound := h.setF.setSource

theorem Eng.sound.putMgmt (h : e.sound) {p : Nat} {on : Bool} : (e.putMgmt p on).sound := h.setF.setSource

theorem Eng.sound.setSw (h : e.sound) {b : BeatUnit} {p : Nat} {on : Bool} : (e.setSw b p on).sound := h.putSw.drawTurn

theorem Eng.sound.setMgmt (h : e.sound) {b : BeatUnit} {p : Nat} {on : Bool} : (e.setMgmt b p on).sound := h.putMgmt.drawTurn

/-! ### Completion and trace rings -/

theorem Eng.sound.formed (h : e.sound) {b : BeatUnit} {p : Nat} : (e.formed b p).2.sound :=
  .ite2 h (.ite h.onPart.bump.ev h.onPart.bump.ev.engFault)

theorem Eng.sound.unformed (h : e.sound) {slot : Nat} : (e.unformed slot).sound := .ite h.onReq h

theorem Eng.sound.onTring (h : e.sound) {n : Nat} {f : TokenRing → TokenRing} : (e.onTring n f).sound := h.rest

theorem Eng.sound.onRing (h : e.sound) {p : Nat} {r : Option Nat} {f : Ring → Ring} : (e.onRing p r f).sound := by
  unfold Eng.onRing
  split
  · exact h.onPart
  · exact h.onTring

theorem Eng.sound.showHeader (h : e.sound) {b : BeatUnit} {p : Nat} {r : Option Nat} : (e.showHeader b p r).sound :=
  .ite h.storeHeader.halt h.storeHeader

theorem Eng.sound.showSpill (h : e.sound) {p : Nat} : (e.showSpill p).sound := h.setF.setF

theorem Eng.sound.freeTring (h : e.sound) {n : Nat} : (e.freeTring n).sound := h.rest.setF.setF

theorem Eng.sound.tryFreeTring (h : e.sound) {n : Nat} : (e.tryFreeTring n).sound := .ite h.freeTring h

theorem Eng.sound.recWritten (h : e.sound) {b : BeatUnit} {p idx : Nat} {r : Option Nat} {x : QRec} :
    (e.recWritten b p r idx x).sound := by
  unfold Eng.recWritten
  dsimp only
  split
  · refine .tryFreeTring (.ite (.ite h.onRing.bumpWrap.ev h.onRing.bumpWrap) ?_)
    split
    · exact .showHeader (.setF (.ite h.onRing.bumpWrap.ev h.onRing.bumpWrap))
    · exact .showHeader (.ite h.onRing.bumpWrap.ev h.onRing.bumpWrap)
  · refine .ite (.ite h.onRing.bumpWrap.ev h.onRing.bumpWrap) ?_
    split
    · exact .showHeader (.setF (.ite h.onRing.bumpWrap.ev h.onRing.bumpWrap))
    · exact .showHeader (.ite h.onRing.bumpWrap.ev h.onRing.bumpWrap)

theorem Eng.sound.issueRec (h : e.sound) {b : BeatUnit} {p : Nat} {r : Option Nat} {x : QRec} : (e.issueRec b p r x).sound := by
  refine .issueTxn (.onRing ?_)
  split
  · exact h.measure
  · exact h

theorem Eng.sound.putRec (h : e.sound) {b : BeatUnit} {p : Nat} {r : Option Nat} {x : QRec} : (e.putRec b p r x).sound :=
  .ite h.issueRec (.ite h.partStore.ev.onPart.onRing.showSpill h.onRing)

theorem Eng.sound.drain (h : e.sound) {b : BeatUnit} {p : Nat} {r : Option Nat} {unspilled : Bool} {f : Nat} :
    (Eng.drain b p r unspilled f e).sound := by
  induction f generalizing e with
  | zero => exact h
  | succ f ih =>
    unfold Eng.drain
    split
    · exact h
    refine .ite h ?_
    dsimp only
    split
    · exact ih h.onRing.issueRec
    · exact .ite (ih h.onRing.onRing.memFault.recWritten) (ih h.onRing.issueRec)

theorem Eng.sound.drainRing (h : e.sound) {b : BeatUnit} {p : Nat} {r : Option Nat} {unspilled : Bool} :
    (e.drainRing b p r unspilled).sound :=
  h.drain.showSpill

theorem Eng.sound.recDone (h : e.sound) {b : BeatUnit} {t : Txn} {ok : Bool} : (e.recDone b t ok).sound := by
  unfold Eng.recDone
  split
  · exact .recWritten (.ite h.store h.memFault)
  · exact h

theorem Eng.sound.takeTring (h : e.sound) {b : BeatUnit} {p handle : Nat} : (e.takeTring b p handle).2.sound := by
  unfold Eng.takeTring
  split
  · exact h
  · exact h.onTring.setF.setF.wr.showHeader

theorem Eng.sound.putBatch (h : e.sound) {b : BeatUnit} {p : Nat} {step : Option Nat} {l : List (List Byte × Option Nat)} :
    (e.putBatch b p step l).sound :=
  .foldl h fun _ h => h.putRec

theorem Eng.sound.putBoundary (h : e.sound) {b : BeatUnit} {p : Nat} {l : List (Option Nat × List Byte)} :
    (e.putBoundary b p l).sound := by
  refine .putBatch (.foldl h fun _ h => ?_)
  split
  · exact h.putRec
  · exact h

theorem Eng.sound.spoutDiscard (h : e.sound) {p : Nat} : (e.spoutDiscard p).sound :=
  .showSpill (.foldl h.onPart.onRing fun _ h => h.onRing)

/-! ### Links between engines -/

theorem Eng.sound.phase (h : e.sound) {b : BeatUnit} {p kind version detail reason : Nat} {engine : Option Nat} :
    (e.phase b p kind version detail reason engine).sound :=
  .ite h h.partStore.bumpWrap

theorem Partn.Distinct.setVslot {q : Partn} {n : Nat} {v : VSlot} (h : q.Distinct)
    (hv : v.st ≠ vsEmpty → ∀ m, m < 4 → m ≠ n → (q.vslot m).st ≠ vsEmpty → v.version ≠ (q.vslot m).version) :
    ({ q with vslots := kset VSlot.empty q.vslots n v } : Partn).Distinct := by
  have hself : ({ q with vslots := kset VSlot.empty q.vslots n v } : Partn).vslot n = v := kget_kset_self _ _ _ _
  have hother : ∀ {m : Nat}, m ≠ n → ({ q with vslots := kset VSlot.empty q.vslots n v } : Partn).vslot m = q.vslot m :=
    fun hm => kget_kset_ne _ _ _ hm
  intro a c ha hc hac hsa hsc
  by_cases han : a = n
  · subst han
    rw [hself] at hsa ⊢
    rw [hother hac.symm] at hsc ⊢
    exact hv hsa c hc hac.symm hsc
  · rw [hother han] at hsa ⊢
    by_cases hcn : c = n
    · subst hcn
      rw [hself] at hsc ⊢
      exact (hv hsc a ha han hsa).symm
    · rw [hother hcn] at hsc ⊢
      exact h a c ha hc hac hsa hsc

/-- A version slot is written with a version that no other slot holds. -/
theorem Eng.sound.setVslot (h : e.sound) {p n : Nat} {v : VSlot}
    (hv : v.st ≠ vsEmpty → ∀ m, m < 4 → m ≠ n → (e.vslot p m).st ≠ vsEmpty → v.version ≠ (e.vslot p m).version) :
        (e.setVslot p n v).sound :=
  h.onPartOf ((h.distinct p).setVslot hv)

theorem Eng.sound.clearVslot (h : e.sound) {p n : Nat} : (e.setVslot p n VSlot.empty).sound := h.setVslot fun hv => absurd rfl hv

/-- A version slot in use keeps its version. -/
theorem Eng.sound.keepVslot (h : e.sound) {p n : Nat} {v : VSlot} (hn : n < 4) (hst : (e.vslot p n).st ≠ vsEmpty)
    (hver : v.version = (e.vslot p n).version) : (e.setVslot p n v).sound :=
  h.setVslot fun _ m hm hmn hsm => hver ▸ h.distinct p n m hn hm hmn.symm hst hsm

theorem Eng.sound.newestEvents (h : e.sound) {p : Nat} : (e.newestEvents p).sound := .foldl h fun _ h => .ite h.onReq h

theorem Eng.sound.leaveEvents (h : e.sound) {p v : Nat} : (e.leaveEvents p v).sound := .foldl h fun _ h => .ite h.onReq h

theorem Eng.sound.drainVersions (h : e.sound) {p : Nat} : (e.drainVersions p).sound := .foldl h fun _ h => .ite h.clearVslot.ev h

theorem Eng.sound.commit (h : e.sound) {b : BeatUnit} {p n : Nat} (hn : n < 4) (hst : (e.vslot p n).st ≠ vsEmpty) :
    (e.commit b p n).sound :=
  (h.keepVslot (v := { e.vslot p n with st := vsResident, committed := (e.part p).vseq }) hn hst rfl).onPart.ev.phase.newestEvents

theorem Eng.sound.roundEnd (h : e.sound) {b : BeatUnit} {p : Nat} {r : Round} : (e.roundEnd b p r).sound := h.ev.phase

theorem Eng.sound.roundCheck (h : e.sound) {b : BeatUnit} {p : Nat} : (e.roundCheck b p).sound :=
  .ite (.onPart (.roundEnd (.foldl h.onPart fun _ h => h.roundEnd))) (.foldl h.onPart fun _ h => h.roundEnd)

theorem Partn.onRound_vslots (q : Partn) (n : Nat) (f : Round → Round) : (q.onRound n f).vslots = q.vslots := by
  unfold Partn.onRound
  split <;> rfl

theorem Eng.sound.updSend (h : e.sound) {b : BeatUnit} : (e.updSend b).sound := by
  unfold Eng.updSend
  split
  · exact h
  · exact .ite h (.rmPump (.rmSend (.ite (h.onGroup.phase.onPart fun q => q.onRound_vslots _ _) h.onGroup)))

theorem Eng.sound.updPump (h : e.sound) {b : BeatUnit} {f : Nat} : (Eng.updPump b f e).sound := by
  induction f generalizing e with
  | zero => exact h
  | succ f ih => exact ih h.updSend

theorem Eng.sound.rmFlow (h : e.sound) {b : BeatUnit} : (e.rmFlow b).sound := h.rmPump.updPump

theorem Eng.sound.groupAdvance (h : e.sound) {p n target : Nat} : (e.groupAdvance p n target).sound :=
  .ite h.onGroup.onPart.onGroup.ev h.onGroup.onPart.onGroup.onPart

theorem Eng.sound.applyRound (h : e.sound) {p target : Nat} : (e.applyRound p target).sound :=
  .bumpWrap (.foldl h.onPart fun _ h => .ite h.bump.ev h.groupAdvance)

theorem Eng.sound.nfReport (h : e.sound) {p layer : Nat} : (e.nfReport p layer).sound := .ite h h.setF.setF

theorem Eng.sound.takeVote (h : e.sound) {b : BeatUnit} {p : Nat} : (e.takeVote b p).2.sound := h.wr.phase

theorem Eng.sound.countVote (h : e.sound) {b : BeatUnit} {p n engine vote : Nat} : (e.countVote b p n engine vote).sound :=
  .ite h h.logAdd.onPart

theorem Eng.sound.decideRound (h : e.sound) {b : BeatUnit} {p n : Nat} : (e.decideRound b p n).2.sound :=
  .ite (.applyRound (.setF (.ite h.onPart.tenantFault h.onPart))) (.ite h.onPart.tenantFault h.onPart)

theorem Eng.sound.applyVerdict (h : e.sound) {b : BeatUnit} {p k body : Nat} : (e.applyVerdict b p k body).2.sound :=
  .ite2 h.bumpWrap.wr.phase h.bumpWrap.wr.phase.bump.ev.logAdd

theorem Eng.sound.sendResync (h : e.sound) {n shard : Nat} : (e.sendResync n shard).sound := h.rmSend

theorem Eng.sound.skewed (h : e.sound) {b : BeatUnit} {n shard got : Nat} {isResync : Bool} :
    (e.skewed b n shard got isResync).sound :=
  .ite h.bump.ev.logAdd.phase.onGroup.ev h.bump.ev.logAdd.phase.onGroup.sendResync

theorem Eng.sound.groupDone (h : e.sound) {b : BeatUnit} {n : Nat} : (e.groupDone b n).sound := .ite h.onGroup.roundCheck h

theorem Eng.sound.takeEcho (h : e.sound) {b : BeatUnit} {body : Nat} : (e.takeEcho b body).sound :=
  have hround := h.onGroup.onPart fun q => q.onRound_vslots _ _
  .ite h.bump (.ite (.ite h.bump (.ite h.onGroup.groupDone.rmFlow h.skewed.rmFlow))
      (.ite h.bump (.ite hround.groupDone.rmFlow hround.skewed.rmFlow)))

/-! ### Grammars -/

theorem Eng.sound.setGram (h : e.sound) {b : BeatUnit} {p slot st : Nat} {stack : List Nat} : (e.setGram b p slot st stack).sound :=
  .ite h.setRqf.setRqf.onReq h.setRqf.setRqf.onReq.partStore

theorem Eng.sound.gramCache (h : e.sound) : e.gramCache.sound := .ite h.drawFree h.drawFree.bumpWrap

theorem Eng.sound.gramRead (h : e.sound) {b : BeatUnit} {slot : Nat} : (e.gramRead b slot).sound := .ite h.engFault h

theorem Eng.sound.buildMask (h : e.sound) {b : BeatUnit} {p slot : Nat} : (e.buildMask b p slot).sound := by
  unfold Eng.buildMask
  split
  · exact h
  · exact .ite h h.gramRead.gramCache.bumpWrap.partStore

theorem Eng.sound.padMask (h : e.sound) {b : BeatUnit} {p slot v : Nat} : (e.padMask b p slot v).sound := .ite h h.partStore

theorem Eng.sound.showGram (h : e.sound) {load : Bool} {permille pos : Nat} : (e.showGram load permille pos).sound :=
  .setF (.ite h.setPair h)

/-! ### Batches and steps -/

theorem Eng.sound.grant (h : e.sound) {b : BeatUnit} {p slot w : Nat} {forced : Bool} {bt : Batch} :
    (e.grant b p slot w forced bt).2.2.sound := by
  unfold Eng.grant
  extract_lets ph m natural room asked n
  split
  · exact h
  split
  next upto f hcover =>
  have hf : f.sound := h.cover.snd hcover
  extract_lets rows
  split
  · exact hf
  split
  extract_lets mixedEv run bt cutEv held active
  have hmixed : mixedEv.sound := .ite hf.ev hf
  have hcut : cutEv.sound := .ite hmixed.ev hmixed
  have hactive : active.sound := .ite hcut hcut.setRstate
  exact hactive.onReq

theorem Eng.sound.bopen (h : e.sound) {p c : Nat} {learning : Bool} : (e.bopen p c learning).sound := h.onPart

theorem Eng.sound.raiseBatch (h : e.sound) {b : BeatUnit} {i : Ins} {operand code : Nat} : (e.raiseBatch b i operand code).sound :=
  h.raise

theorem Eng.sound.bopenIns (h : e.sound) {b : BeatUnit} {i : Ins} {learning : Bool} : (e.bopenIns b i learning).sound :=
  .ite h.raiseBatch h.bopen.fin

theorem Eng.sound.force (h : e.sound) {b : BeatUnit} {p : Nat} {l : List Nat} {bt : Batch} : (Eng.force b p l bt e).2.sound := by
  induction l generalizing e bt with
  | nil => exact h
  | cons s r ih =>
    unfold Eng.force
    exact .ite2 (ih (.ite h.grant.bumpWrap (.ite h.grant.ev h.grant))) (ih h)

theorem Eng.sound.age (h : e.sound) {p : Nat} {bt : Batch} {ran : List Nat} : (e.age p bt ran).sound :=
  .foldl h.onPart fun _ h => .ite h.onReq (.ite (.ite (.onPart (.ite h.onReq.ev h.onReq)) (.ite h.onReq.ev h.onReq)) h)

theorem Eng.sound.bindRun (h : e.sound) {p num : Nat} {r : Run} : (e.bindRun p num r).2.sound := .onReq (.ite h.bumpWrap h)

theorem Eng.sound.bindRuns (h : e.sound) {p num : Nat} {l : List Run} : (Eng.bindRuns p num l e).2.sound := by
  induction l generalizing e with
  | nil => exact h
  | cons r rest ih => exact ih h.bindRun

theorem Eng.sound.showBacklog (h : e.sound) : e.showBacklog.sound := h.setF.setF

theorem Eng.sound.keepIdle (h : e.sound) {b : BeatUnit} {p : Nat} : (e.keepIdle b p).sound := .ite h h.onPart

theorem Eng.sound.seals (h : e.sound) {l : List (Nat × Nat)} : ({ e with seals := l } : Eng).sound := h.rest

theorem Eng.sound.seal (h : e.sound) {b : BeatUnit} {p : Nat} {bt : Batch} : (e.seal b p bt).2.sound := by
  unfold Eng.seal
  extract_lets num kept bytes two
  split
  next runs f hbind =>
  have hf : f.sound := h.keepIdle.bindRuns.snd hbind
  extract_lets rows grps st aged split_ drafted kind phased sealed onPart
  have hsplit : split_.sound := .ite hf.age.ev hf.age
  have hdrafted : drafted.sound := .foldl hsplit fun _ h => h.bumpWrap
  have hphased : phased.sound := .ite hdrafted.phase (.ite hdrafted.phase hdrafted)
  exact .showBacklog (.seals hphased.bumpWrap.bumpWrap.setPair.onPart)

theorem Eng.sound.queueGroup (h : e.sound) {p : Nat} {st : Step} {g : StepGrp} : (e.queueGroup p st g).sound := h.rest

theorem Eng.sound.kdlSend (h : e.sound) {c : Nat} {l : List KdlOut} : (Eng.kdlSend c l e).2.sound := by
  induction l generalizing e with
  | nil => exact h
  | cons d r ih => exact .ite2 (ih (.ite h.rest.onStep h.rest)) h

theorem Eng.sound.issueDone (h : e.sound) {b : BeatUnit} : (e.issueDone b).sound := by
  refine .foldl h fun _ h => .foldl h fun _ h => ?_
  split
  · exact .ite (.ite h.onStep.finish h.onStep) h
  · exact h

theorem Eng.sound.kdlPump (h : e.sound) {b : BeatUnit} : (e.kdlPump b).sound := by
  refine .issueDone (.foldl h fun _ h => ?_)
  split
  · exact h
  · exact h.kdlSend.rest

theorem Eng.sound.issueStep (h : e.sound) {b : BeatUnit} {p num : Nat} : (e.issueStep b p num).sound := by
  unfold Eng.issueStep
  split
  · exact h
  · exact .ite (.kdlPump (.onStep (.foldl h fun _ h => h.queueGroup))) h

theorem Eng.sound.roleRestart (h : e.sound) {b : BeatUnit} {p : Nat} : (e.roleRestart b p).sound := h.setF.setF.onPart

/-! ### Admission -/

theorem Eng.sound.planModel (h : e.sound) {p m : Nat} : (e.planModel p m).sound := .ite h.wr.wr h.setF.setF.setF

theorem Eng.sound.recap (h : e.sound) {p m : Nat} : (e.recap p m).sound := h.onPart

theorem Eng.sound.takeSlot (h : e.sound) {p : Nat} : (e.takeSlot p).2.sound := by
  refine .ite2 h.onPart ?_
  split
  · exact h.onPart
  · exact h

theorem Eng.sound.planDesc (h : e.sound) {b : BeatUnit} {p : Nat} {l : List Byte} : (e.planDesc b p l).2.sound := by
  unfold Eng.planDesc
  extract_lets f m v lp bad
  split
  · exact h
  split
  next hit g hmatch =>
  have hg : (g.touch b p hit.passed).sound := (h.matchPrompt.snd hmatch).touch
  exact .ite2 hg.ev (.ite2 hg (.ite2 hg (.ite2 hg (.ite2 hg hg))))

theorem Eng.sound.holdTree (h : e.sound) {b : BeatUnit} {p g : Nat} : (e.holdTree b p g).sound := by
  unfold Eng.holdTree
  dsimp only
  split
  · exact h.holdPage.lruDrop
  · exact h.holdPage

theorem Eng.sound.startList (h : e.sound) {b : BeatUnit} {p slot : Nat} {lp : Option Nat} : (e.startList b p slot lp).sound :=
  .showList (.foldl (.foldl h.allocBlock.onReq fun _ h => h.holdPage) fun _ h => h.listAdd)

theorem Eng.sound.writeEntry (he : e.sound) {b : BeatUnit} {slot h version mtok raise_ : Nat} {lp : Option Nat} {l : List Byte} :
    (e.writeEntry b slot h version lp mtok raise_ l).sound :=
  .foldl he fun _ h => h.setRqw

theorem Eng.sound.commitReq (h : e.sound) {b : BeatUnit} {p : Nat} {l : List Byte} {plan : Plan} : (e.commitReq b p l plan).2.sound := by
  unfold Eng.commitReq
  extract_lets f learn
  split
  next s g hslot =>
  have hg : g.sound := h.takeSlot.snd hslot
  extract_lets slot hd entry fresh counted held copied list lpn listed shown
  have hlist : list.sound :=
    have hheld := Eng.sound.foldl (l := plan.hit.shared) hg.writeEntry.onReq.onPart fun _ h => h.holdTree
    .startList (.foldl hheld fun _ h => h.holdTree)
  have hshown : shown.sound := .showList (.foldl hlist fun _ h => h.listAdd)
  split
  next _ grown hgrow =>
  have hgrown : grown.sound := hshown.grow.snd hgrow
  extract_lets dst copying matched ringed gram pen ver armed
  have hmatched : matched.sound := by
    unfold matched copying
    split
    · exact hgrown.onReq.bumpWrap
    · exact hgrown.bumpWrap
  clear_value matched
  have hringed : ringed.sound := by
    unfold ringed
    split
    · split
      next hring =>
      split
      · exact (hmatched.takeTring.snd hring).setRqf.setRqf
      · exact hmatched.takeTring.snd hring
    · exact hmatched
  clear_value ringed
  have hgram : gram.sound := by
    unfold gram
    split
    · exact hringed.setGram
    · exact hringed
  have hpen : pen.sound := .ite hgram.partStore hgram
  have hver : ver.sound := .ite hpen.onReq hpen
  exact .ite hver hver.armAlert

theorem Eng.sound.pauseReq (h : e.sound) {p slot : Nat} : (e.pauseReq p slot).sound := h.setRstate.setRqf.bumpRqf.disarm.onReq

theorem Eng.sound.waitRec (h : e.sound) {b : BeatUnit} {p : Nat} {l : Option (List Byte × Option (Option Nat × List Byte))} :
    (e.waitRec b p l).sound :=
  h.onPart

theorem Eng.sound.rejectDesc (h : e.sound) {b : BeatUnit} {p idx status detail version : Nat} :
    (e.rejectDesc b p idx status detail version).sound :=
  h.formed.waitRec.bumpWrap.wr.ev

theorem Eng.sound.dropReq (h : e.sound) {slot : Nat} :
    ({ e with reqs := kdel e.reqs slot, rqt := e.rqt.filter fun x => decide (x.1 / 24 ≠ slot) } : Eng).sound :=
  Eng.sound.withRqt (e := { e with reqs := kdel e.reqs slot }) (h.withReqs (kwf_kdel _ _ _ h.reqs)) (kwf_filter _ _ h.rqt)

theorem Eng.sound.uncommit (h : e.sound) {b : BeatUnit} {p slot : Nat} : (e.uncommit b p slot).sound := by
  unfold Eng.uncommit
  dsimp only
  split
  · exact h.dropPages.freeTring.dropReq.rest.onPart
  · exact h.dropPages.dropReq.rest.onPart

theorem Eng.sound.refundDesc (h : e.sound) {b : BeatUnit} {p idx status detail version : Nat} {c : Charge} :
    (e.refundDesc b p idx status detail version c).sound :=
  .rejectDesc (h.ledgCycle fun h => h.credit)

theorem Eng.sound.descLost (h : e.sound) {b : BeatUnit} {p : Nat} : (e.descLost b p).sound := h.bump.ev.engFault

theorem Eng.sound.admitDesc (h : e.sound) {b : BeatUnit} {p idx : Nat} {l : List Byte} {plan : Plan} {c : Charge} :
    (e.admitDesc b p idx l plan c).sound :=
  .ite h.commitReq.uncommit.refundDesc (.ite h.commitReq.bumpWrap.formed.unformed
      (.ite h.commitReq.bumpWrap.formed.pauseReq.waitRec h.commitReq.bumpWrap.formed.waitRec))

/-- What a ledger pays out of its balance leaves it within its bounds (R210). -/
theorem Eng.sound.pay (h : e.sound) {i n : Nat} (hn : ¬(e.ledger i).bal < n) :
    (e.setLedger i { e.ledger i with bal := (e.ledger i).bal - n }).sound := by
  obtain ⟨hlo, hhi⟩ := h.bounded i
  exact h.setLedger (by dsimp only; omega) (by dsimp only; omega)

theorem Eng.sound.receive (h : e.sound) {b : BeatUnit} {p idx : Nat} {l : List Byte} {ue : Option Nat} :
    (e.receive b p idx l ue).sound := by
  unfold Eng.receive
  refine .ite h.descLost.rejectDesc (.ite h.rejectDesc (.ite h.descLost.rejectDesc ?_))
  split
  next => exact h.rejectDesc
  refine .ite h.descLost.rejectDesc ?_
  split
  next hfirst =>
  have hjoined := h.ledgFirst.snd hfirst
  dsimp only
  split
  next => exact hjoined.ledgRest.rejectDesc
  next hbal =>
  have hpaid := hjoined.pay hbal
  refine .ite hpaid.ledgRest.descLost.refundDesc ?_
  refine .ite hpaid.ledgRest.planDesc.refundDesc ?_
  split
  · exact hpaid.ledgRest.planDesc.refundDesc
  · exact .ite hpaid.ledgRest.planDesc.descLost.refundDesc hpaid.ledgRest.planDesc.admitDesc

theorem Eng.sound.writeBudget (h : e.sound) {p v : Nat} : (e.writeBudget p v).sound :=
  .ite h.cfgErr (.foldl h.setF fun _ h => h.planModel)

theorem Eng.sound.writeModel (h : e.sound) {b : BeatUnit} {p m k v : Nat} : (e.writeModel b p m k v).sound := by
  refine .ite h.cfgErr (.recap (.planModel ?_))
  split
  · exact .ite (.plantRoots (.wr (.ite h.dropProfile h))) (.wr (.ite h.dropProfile h))
  · exact h.setF
  · exact h.setF

theorem Eng.sound.showLps (h : e.sound) : e.showLps.sound := h.setF

/-! ### Failures -/

theorem Eng.sound.useSpare (h : e.sound) {lo : Nat} : (e.useSpare lo).sound := h.setF.ev

theorem Eng.sound.sparesOut (h : e.sound) {b : BeatUnit} {unit phys logical : Nat} {part : Option Nat} :
    (e.sparesOut b unit phys logical part).sound :=
  h.engFault

theorem Eng.sound.markPort (h : e.sound) {b : BeatUnit} {unit n bit kind : Nat} : (e.markPort b unit n bit kind).sound :=
  h.ev.ev.engFault

theorem Eng.sound.failPort (h : e.sound) {b : BeatUnit} {unit n bit kind : Nat} : (e.failPort b unit n bit kind).sound :=
  .ite h h.markPort.recoverAll

theorem Eng.sound.failHs (h : e.sound) {b : BeatUnit} {n : Nat} : (e.failHs b n).sound := h.failPort

theorem Eng.sound.cellLost (h : e.sound) {b : BeatUnit} {n : Nat} : (e.cellLost b n).sound := h.onCell.bump.ev.engFault

theorem Eng.sound.sliceTake (h : e.sound) {b : BeatUnit} {slice : Nat} : (e.sliceTake b slice).sound :=
  .ite (.foldl h.engFault.rest.useSpare fun _ h => h.recover)
      (.foldl (.sparesOut (.foldl h.engFault.rest fun _ h => h.cellLost)) fun _ h => h.halt)

theorem Eng.sound.sliceFail (h : e.sound) {b : BeatUnit} {slice : Nat} : (e.sliceFail b slice).sound := .ite h.sliceTake h.rest

theorem Eng.sound.sliceNext (h : e.sound) {b : BeatUnit} {f : Nat} : (Eng.sliceNext b f e).sound := by
  induction f generalizing e with
  | zero => exact h
  | succ f ih =>
    unfold Eng.sliceNext
    split
    · exact h
    · exact .ite (ih (.sliceTake h.rest)) (.sliceTake h.rest)

/-- A core changes; where it becomes ACTIVE, the other one is not (R504). -/
theorem Eng.sound.onCore (h : e.sound) {c : Nat} {f : MCore → MCore}
    (hf : (f (e.core c)).role = .active → (e.core c).role = .active ∨ (e.core (otherCore c)).role ≠ .active) : (e.onCore c f).sound := by
  have hself : (e.onCore c f).core c = f (e.core c) := kget_kmod_self _ _ _ _
  have hother : ∀ {d : Nat}, d ≠ c → (e.onCore c f).core d = e.core d := fun hd => kget_kmod_ne _ _ _ hd
  have hone : (e.onCore c f).OneActive := fun ⟨hzero, hsecond⟩ => by
    by_cases hc0 : c = 0
    · subst hc0
      rw [hself] at hzero
      rw [hother (by decide)] at hsecond
      rcases hf hzero with hc | hd
      · exact h.oneActive ⟨hc, hsecond⟩
      · exact hd hsecond
    · rw [hother (Ne.symm hc0)] at hzero
      by_cases hc1 : c = 1
      · subst hc1
        rw [hself] at hsecond
        rcases hf hsecond with hc | hd
        · exact h.oneActive ⟨hzero, hc⟩
        · exact hd hzero
      · rw [hother (Ne.symm hc1)] at hsecond
        exact h.oneActive ⟨hzero, hsecond⟩
  obtain ⟨hregs, hmem, hcells, hrqt, hreqs, hled, hgrp, hbal, hver, -⟩ := h
  exact ⟨regsWf_write _ _ hregs, hmem, hcells, hrqt, hreqs, hled, hgrp, hbal, hver, hone⟩

theorem Eng.sound.showLevel (h : e.sound) : e.showLevel.sound := h.setF

theorem Eng.sound.switchBank (h : e.sound) {b : BeatUnit} {p num : Nat} : (e.switchBank b p num).sound :=
  .ite h h.rest.setF.logAdd.showLevel

theorem Eng.sound.switchIdle (h : e.sound) {b : BeatUnit} {p : Nat} : (e.switchIdle b p).sound := .ite h h.drawFree.switchBank

/-! ### Random draws -/

theorem Eng.sound.bitServe (h : e.sound) {port : Nat} {req : List Byte} {k1 k2 : Dword} : (e.bitServe port req k1 k2).sound :=
  h.bumpWrap.hsSend.hsPump

theorem Eng.sound.bitReject (h : e.sound) {port : Nat} {req : List Byte} : (e.bitReject port req).sound := h.hsSend.hsPump

/-! ### Sampling -/

theorem Eng.sound.auxErr (h : e.sound) {p slot code : Nat} : (e.auxErr p slot code).sound := h.setF.wr.bump.ev

theorem Eng.sound.auxCheck (h : e.sound) {p slot : Nat} {v : Option Nat} : (e.auxCheck p slot v).2.sound := by
  unfold Eng.auxCheck
  split
  · exact h.auxErr
  · exact .ite2 h.auxErr (.ite2 h.auxErr (.ite h h.onReq))

theorem Eng.sound.gramMove (h : e.sound) {b : BeatUnit} {p slot : Nat} {mv : Option (Nat × List Nat)} :
    (e.gramMove b p slot mv).sound := by
  unfold Eng.gramMove
  split
  · exact h.gramRead.gramCache.setGram
  · exact h

theorem Eng.sound.formRec (h : e.sound) {b : BeatUnit} {p num slot row pos logp status : Nat} {tok : Option Nat} {terminal : Bool} :
    (Eng.formRec b p num slot row pos tok logp status terminal e).sound := by
  unfold Eng.formRec
  split
  · exact h
  split
  next ok g hformed =>
  have hg : g.sound := h.formed.snd hformed
  refine .ite hg.unformed ?_
  extract_lets ver flags bytes kept told
  have htold : told.sound := .setRqf (.ite hg.onStep.onReq hg.onStep)
  exact .ite htold.bumpWrap (.ite htold.bump.ev htold)

theorem Eng.sound.markLate (h : e.sound) {p slot at_ : Nat} {terminal : Bool} {l : List Byte} :
    (e.markLate p slot at_ terminal l).2.sound :=
  .ite2 (.ite h.bumpWrap.setRqf.setRqf h.bumpWrap.setRqf) h

theorem Eng.sound.takeRecs (h : e.sound) {p at_ : Nat} {f : FormedRec → Bool} {l : List FormedRec} :
    (Eng.takeRecs p at_ f l e).2.2.sound := by
  induction l generalizing e with
  | nil => exact h
  | cons r rest ih => exact .ite22 (ih h.markLate) (ih h)

theorem Eng.sound.flushPriv (h : e.sound) {b : BeatUnit} {p num : Nat} : (e.flushPriv b p num).sound := by
  unfold Eng.flushPriv
  split
  · exact h
  · exact .ite h.takeRecs (.foldl h.takeRecs.onStep fun _ h => h.putRec)

theorem Eng.sound.flushBatch (h : e.sound) {b : BeatUnit} {p num : Nat} : (e.flushBatch b p num).sound := by
  unfold Eng.flushBatch
  split
  · exact h
  · exact .ite h (.ite h.takeRecs h.takeRecs.onStep.putBatch)

theorem Eng.sound.flushRecs (h : e.sound) {b : BeatUnit} {p num : Nat} : (e.flushRecs b p num).sound := h.flushPriv.flushBatch

theorem Eng.sound.opDone (h : e.sound) {b : BeatUnit} {p num : Nat} : (e.opDone b p num).sound :=
  .ite h.flushPriv h.onStep.flushRecs

theorem Eng.sound.treeWalk (h : e.sound) {b : BeatUnit} {p num : Nat} {r : Run} {x : Aux} {sp : SampP} {logp : Nat} {z : Nat → List Nat}
    {f : Nat} {node : Option Nat} {path acc : List Nat} {n : Nat} : (Eng.treeWalk b p num r x sp logp z f node path acc n e).sound := by
  induction f generalizing e node path acc n with
  | zero => exact h
  | succ f ih =>
    unfold Eng.treeWalk
    refine .ite h ?_
    dsimp only
    split
    · exact h.onStep.formRec
    · have hdrawn {c d : Prop} [Decidable c] [Decidable d] {f : Step → Step} :
          (if c then (if d then (e.onStep p num f).bumpWrap (Reg.smpSampled p) 31 0 else e.onStep p num f)
            else (if d then (e.onStep p num f).bumpWrap (Reg.smpSampled p) 31 0 else e.onStep p num f).bumpWrap (Reg.smpGreedy p) 31
                0).sound :=
        .ite (.ite h.onStep.bumpWrap h.onStep) (.bumpWrap (.ite h.onStep.bumpWrap h.onStep))
      refine .ite hdrawn.formRec (.ite hdrawn.formRec.gramMove ?_)
      split
      · exact hdrawn.formRec.gramMove
      · exact ih hdrawn.formRec.gramMove

theorem Eng.sound.sampleRun (h : e.sound) {b : BeatUnit} {p v : Nat} {st : Step} {z : Nat → List Nat} {r : Run} :
    (e.sampleRun b p st v z r).sound := by
  unfold Eng.sampleRun
  dsimp only
  split
  · exact h.onStep.auxCheck.formRec
  · exact h.onStep.auxCheck.treeWalk

theorem Eng.sound.emit (h : e.sound) {b : BeatUnit} {i : Ins} {final : Option Nat} : (e.emit b i final).sound := by
  unfold Eng.emit
  dsimp only
  split
  · exact h.raise
  · split
    · exact h.raiseBatch
    · split
      · exact h.raiseBatch
      · split
        · exact h.raiseBatch
        · refine .ite h.raiseBatch (.ite h.ev.fin (.ite h.raiseBatch ?_))
          split
          · exact h.bump.ev.fin
          · split
            · exact h.auxCheck.raise
            · exact .fin (.flushRecs (.ite h.auxCheck.formRec (.ite h.auxCheck.formRec h.auxCheck.formRec.gramMove.onStep)))

/-! ### Vector instructions -/

theorem Eng.sound.locStore (h : e.sound) {p c off : Nat} {l : Loc} {d : List Byte} : (e.locStore p c l off d).sound := by
  unfold Eng.locStore
  split
  · exact h.onCtx
  · exact h.store
  · exact h

theorem Eng.sound.vWrite (he : e.sound) {p c : Nat} {h : VHandle} {l : Loc} {rnd : Nat → Option Word} {v : List Nat} :
    (e.vWrite p c h l rnd v).sound := by
  refine .foldl he.locStore fun _ h => ?_
  split
  · exact h.onCtx
  · exact h.store

theorem Eng.sound.vec (h : e.sound) {self : Instr} {i : Ins} {ops : List VOp} {req : Bool} {range : Eng → Option (Nat × Nat × Nat)}
    {rom : Bool}
    {body : BeatUnit → Eng → List Loc → Eng} {b : BeatUnit} (hbody : ∀ l, (body b e l).sound) :
        (e.vec self i ops req range rom body b).sound := by
  unfold Eng.vec
  dsimp only
  split
  · exact h.raise
  refine .ite h.raise (.ite h.raise ?_)
  split
  · exact h.raise
  split
  · exact h.raise
  refine .ite h.wait_ ?_
  split
  · exact h.raise
  · exact hbody _

theorem Eng.sound.vFin (h : e.sound) {b : BeatUnit} {i : Ins} {l : List Loc} {rnd : Nat → Option Word} {v : List Nat} :
    (e.vFin b i l rnd v).sound :=
  h.vWrite.fin

theorem Eng.sound.valu (h : e.sound) {self : Instr} {i : Ins} {f : Nat → Nat → Nat} {b : BeatUnit} : (e.valu self i f b).sound :=
  h.vec fun _ => h.vFin

theorem Eng.sound.vred (h : e.sound) {self : Instr} {i : Ins} {f : List Nat → Nat} {b : BeatUnit} : (e.vred self i f b).sound :=
  h.vec fun _ => h.finS

theorem Eng.sound.rowIns (h : e.sound) {self : Instr} {i : Ins} {src : List VOp} {req : Bool} {f : Eng → List Loc → List Nat → List Nat}
    {b : BeatUnit} : (e.rowIns self i src req f b).sound := h.vec fun _ => h.vFin

theorem Eng.sound.freeMask (h : e.sound) {n : Nat} : (e.freeMask n).2.sound := h.rest

/-! ### The plane -/

theorem Eng.sound.showPlane (h : e.sound) : e.showPlane.sound := h.setF.setF.setF.setF.setF

theorem Eng.sound.placeRow (he : e.sound) {h : HRowPkt} : (e.placeRow h).sound := by
  refine .ite he.rest (.ite he.bump (.ite he.onStep (.rest ?_)))
  exact .ite he he.rest

theorem Eng.sound.stageGrant (h : e.sound) {f : Nat} : (Eng.stageGrant f e).sound := by
  induction f generalizing e with
  | zero => exact h
  | succ f ih =>
    unfold Eng.stageGrant
    split
    · exact h
    split
    · exact ih h.rest
    · exact .ite (ih (.onStep h.rest)) h

theorem Eng.sound.stageRound (h : e.sound) : e.stageRound.sound := .foldl h.stageGrant.rest fun _ h => h.placeRow

theorem Eng.sound.stageFlow (h : e.sound) : e.stageFlow.sound := .showPlane (.foldl h fun _ h => h.stageRound)

theorem Eng.sound.releasePass (h : e.sound) {p num pass : Nat} : (e.releasePass p num pass).sound := h.onStep.rest.stageFlow

theorem Eng.sound.rowsLeft (h : e.sound) {p num : Nat} : (e.rowsLeft p num).sound := h.rest

theorem Eng.sound.hrowFailed (he : e.sound) {b : BeatUnit} {h : HRowPkt} : (e.hrowFailed b h).sound :=
  .ite he.rest.hsSend.bump.hsPump.failHs he.rest.hsSend.bump.hsPump

theorem Eng.sound.opComplete (h : e.sound) {b : BeatUnit} {o : PlaneOp} : (e.opComplete b o).sound :=
  h.rest.onStep.drainVersions.showPlane.opDone

theorem Eng.sound.queueOp (h : e.sound) {b : BeatUnit} {o : PlaneOp} : (e.queueOp b o).sound := by
  unfold Eng.queueOp
  extract_lets f
  have hf : f.sound := h.rest.showPlane
  clear_value f
  split
  · exact hf
  extract_lets g
  have hg : g.sound := .ite (.foldl hf fun _ h => h.padMask) hf
  exact .ite hg.opComplete hg

theorem Eng.sound.planeIns (h : e.sound) {b : BeatUnit} {i : Ins} {head : Nat} {back : Bool} : (e.planeIns b i head back).sound := by
  unfold Eng.planeIns
  dsimp only
  split
  · exact h.raise
  · exact .ite h.fresh.rest.ev.wait_ h.fresh.queueOp.fin

theorem Eng.sound.onOp (h : e.sound) {id : Nat} {f : PlaneOp → PlaneOp} : (e.onOp id f).sound := h.rest

theorem Eng.sound.learnBlocks (h : e.sound) {b : BeatUnit} {p : Nat} {st : Step} {rs : List Run} : (e.learnBlocks b p st rs).sound :=
  .flushPriv (.foldl h fun _ h => .ite h (.ite h.onStep h.onStep.onStep.formRec))

theorem Eng.sound.dropTiles (h : e.sound) : e.dropTiles.sound := .foldl h.rest fun _ h => .setF (.setF (.ite h.rest h))

theorem Eng.sound.readUnit (h : e.sound) {b : BeatUnit} {o : PlaneOp} {u : Nat} : (e.readUnit b o u).sound := by
  unfold Eng.readUnit
  dsimp only
  split
  · exact .ite h.partRead.partRead h.partRead
  · exact .ite (.partRead (.partRead (.partRead (.partRead (.ite h.partRead.partRead h.partRead)))))
      (.partRead (.partRead (.ite h.partRead.partRead h.partRead)))

theorem Eng.sound.tileOf (h : e.sound) {rows u : Nat} {o : PlaneOp} : (e.tileOf rows o u).2.sound := h.drawFree

theorem Eng.sound.roundStep (h : e.sound) {id rows : Nat} : (e.roundStep id rows).sound := by
  unfold Eng.roundStep
  split
  · exact h
  · exact .ite h h.dropTiles.onOp

theorem Eng.sound.tileFail (h : e.sound) {b : BeatUnit} {o : PlaneOp} {rows t u : Nat} : (e.tileFail b o rows t u).sound :=
  .ite h.ev.engFault.sparesOut.recoverAll.rest.onOp.roundStep h.ev.engFault.rest

theorem Eng.sound.reexec (h : e.sound) {b : BeatUnit} {o : PlaneOp} {rows t u : Nat} : (e.reexec b o rows t u).sound :=
  .ite h.onOp.tileFail h.bump.onOp

theorem Eng.sound.residue (h : e.sound) {o : PlaneOp} {rows u : Nat} : (e.residue o rows u).2.sound := by
  have ht := h.tileOf (rows := rows) (o := o) (u := u)
  exact ht.bump.ev.wr

theorem Eng.sound.mismatch (h : e.sound) {b : BeatUnit} {o : PlaneOp} {rows u : Nat} : (e.mismatch b o rows u).sound :=
  h.readUnit.residue.reexec

theorem Eng.sound.stopUnit (h : e.sound) {u : Nat} : (e.stopUnit u).sound := by
  unfold Eng.stopUnit
  split
  · exact h
  · exact .ite h.rest.dropTiles.ev.showPlane h.rest

theorem Eng.sound.unitDone (h : e.sound) {b : BeatUnit} {st : Step} {o : PlaneOp} {k u : Nat} : (e.unitDone b st o k u).sound :=
  .onOp (.foldl h.readUnit fun _ h => .ite h.onOp.partStore h.onOp)

theorem Eng.sound.tileSwap (h : e.sound) : e.tileSwap.sound := by
  unfold Eng.tileSwap
  split
  · exact h
  · exact h.rest.useSpare

theorem Eng.sound.draftLists (h : e.sound) {st : Step} {o : PlaneOp} {k : Nat} : (e.draftLists st o k).sound :=
  .foldl h fun _ h => .ite h.onStep h

theorem Eng.sound.learnRow (h : e.sound) {b : BeatUnit} {o : PlaneOp} {r : Run} {t : Nat} : (e.learnRow b o r t).sound :=
  .onStep (.ite (.partStore (.partRead (.drawFree (.ite h.partRead h))))
      (.partStore (.partStore (.partRead (.drawFree (.ite h.partRead h))))))

theorem Eng.sound.lostRow (h : e.sound) {b : BeatUnit} {p t : Nat} {r : Run} : (e.lostRow b p r t).sound := h.partStore.nfReport

theorem Eng.sound.learnRows (h : e.sound) {b : BeatUnit} {st : Step} {o : PlaneOp} {k : Nat} : (e.learnRows b st o k).sound :=
  .foldl h fun _ h => .foldl h fun _ h => .ite h.lostRow h.learnRow

theorem Eng.sound.dwChunk (h : e.sound) {b : BeatUnit} {st : Step} {fwd o : PlaneOp} {chunk : Nat} {rows : List Nat} :
    (e.dwChunk b st fwd o chunk rows).2.sound := .foldlOn Prod.snd (.ite h h.partRead) fun _ h => h.partStore

theorem Eng.sound.backPass (h : e.sound) {b : BeatUnit} {st : Step} {o : PlaneOp} {k : Nat} : (e.backPass b st o k).sound := by
  unfold Eng.backPass
  split
  · exact h
  · dsimp only
    refine .ite (.nfReport (.ev (.wr (.bump ?_)))) ?_
    all_goals exact .foldlOn Prod.snd (.hsPump (.foldl (.foldl
        (.foldl h fun _ h => h.readUnit) fun _ h => h.partRead) fun _ h => h.hsSend)) fun _ h => h.dwChunk

theorem Eng.sound.autoTail (h : e.sound) {b : BeatUnit} {st : Step} {o : PlaneOp} : (e.autoTail b st o).sound :=
  .ite h (.foldl h fun _ h => h.sampleRun)

theorem Eng.sound.stopPass (h : e.sound) {o : PlaneOp} {st : Step} {k : Nat} : (e.stopPass o st k).sound :=
  .ite h.rest.dropTiles.ev h.rest

theorem Eng.sound.planeAbandon (h : e.sound) {b : BeatUnit} {p num : Nat} : (e.planeAbandon b p num).sound := by
  refine .rowsLeft (.releasePass (.releasePass (.drainVersions (.foldl (.rest ?_) fun _ h => h.finish))))
  split
  · exact .ite h.stopPass h
  · exact h

/-! ### Abandoned steps -/

theorem Eng.sound.abandonGroup (h : e.sound) {p num : Nat} {g : StepGrp} : (e.abandonGroup p num g).sound := .ite h.rest h.rest

theorem Eng.sound.abandonStep (h : e.sound) {b : BeatUnit} {p : Nat} {st : Step} : (e.abandonStep b p st).sound := by
  unfold Eng.abandonStep
  split
  · refine .ite ?_ ?_
    · refine .finish (.onPart (.foldl (.showBacklog (.rest ?_)) fun _ h => h.onReq))
      exact .foldl h.planeAbandon fun _ h => h.abandonGroup
    · refine .onPart (.foldl (.showBacklog (.rest ?_)) fun _ h => h.onReq)
      exact .foldl h.planeAbandon fun _ h => h.abandonGroup
  · refine .onPart (.foldl (.showBacklog (.rest ?_)) fun _ h => h.onReq)
    exact .foldl h.planeAbandon fun _ h => h.abandonGroup

theorem Eng.sound.abandonAll (h : e.sound) {b : BeatUnit} {p : Nat} : (e.abandonAll b p).sound :=
  .kdlPump (.stageFlow (.foldl h fun _ h => h.abandonStep))

theorem Eng.sound.phase3 (h : e.sound) {b : BeatUnit} {p : Nat} : (e.phase3 b p).sound := h.bump.abandonAll.spoutDiscard.onPart

theorem Eng.sound.phase3IfIdle (h : e.sound) {b : BeatUnit} {p : Nat} : (e.phase3IfIdle b p).sound := .ite h.phase3 h

/-! ### Cells -/

theorem Eng.sound.satHit (h : e.sound) {n : Nat} : (e.satHit n).sound := by
  unfold Eng.satHit
  dsimp only
  split
  · exact h.onCell
  · exact h.onCell.bump.ev

theorem Eng.sound.cellAdd (h : e.sound) {n k : Nat} : (e.cellAdd n k).sound := .ite h.onCell h.onCell.satHit

theorem Eng.sound.tookFrom (h : e.sound) {n k : Nat} : (e.tookFrom n k).sound := by
  unfold Eng.tookFrom
  split
  · exact h
  · exact h.onPart

theorem Eng.sound.cellSub (h : e.sound) {n k : Nat} : (e.cellSub n k).sound := .ite h.tookFrom.onCell.satHit h.tookFrom.onCell

theorem Eng.sound.realignEntry (h : e.sound) {p k : Nat} : (e.realignEntry p k).sound := by
  unfold Eng.realignEntry
  split
  · exact h
  · exact .ite h h.onCell.bump.ev

theorem Eng.sound.waitOk (h : e.sound) {b : BeatUnit} {w : Wait} : (e.waitOk b w).sound := .ite h.onCtx h.complete

theorem Eng.sound.walkOne {b : BeatUnit} {n : Nat} {x : Eng × Bool} (h : x.1.sound) {w : Wait} : (Machine.walkOne b n x w).1.sound := by
  unfold Machine.walkOne
  dsimp only
  split
  · exact h
  · exact .ite1 h.onCell.waitOk h
  · exact .ite1 h (.ite1 h.onCell.cellSub.waitOk h)

theorem Eng.sound.walk (h : e.sound) {b : BeatUnit} {n : Nat} : (e.walk b n).sound := .foldlOn Prod.fst h fun _ h => h.walkOne

theorem Eng.sound.expire (h : e.sound) {b : BeatUnit} {n : Nat} {w : Wait} : (e.expire b n w).sound :=
  .ite h.onCell.bump.ev.wr.setPair.faultOnly (.ite h.onCell.bump.ev.wr.setPair.onCtx h.onCell.bump.ev.wr.setPair.complete)

theorem Eng.sound.expireAll (h : e.sound) {b : BeatUnit} {n : Nat} : (e.expireAll b n).sound := .foldl h fun _ h => h.expire

theorem Eng.sound.settle (h : e.sound) {b : BeatUnit} {n : Nat} {came : List (Nat × Nat)} {x : Nat × Nat} :
    (e.settle b n came x).sound := by
  unfold Eng.settle
  extract_lets here taken still y
  have htaken : taken.sound := by
    unfold taken
    split
    · split
      · exact h.onCell
      · exact h
    · exact h
  have hstill : still.sound := .ite htaken.onCtx htaken
  exact .ite hstill.boundary hstill

theorem Eng.sound.releaseBars (h : e.sound) {b : BeatUnit} {n : Nat} {f : Wait → Bool} : (e.releaseBars b n f).2.sound :=
  .foldl h.onCell fun _ h => h.waitOk

theorem Eng.sound.onXb (h : e.sound) {p k : Nat} {f : XbEnt → XbEnt} : (e.onXb p k f).sound := h.onPart

theorem Eng.sound.xbCount (h : e.sound) {b : BeatUnit} {p k engine vote : Nat} : (e.xbCount b p k engine vote).sound :=
  .ite h.setF.setF.countVote h.setF.setF

theorem Eng.sound.xbLocal (h : e.sound) {b : BeatUnit} {p k pCount : Nat} : (e.xbLocal b p k pCount).sound :=
  .ite (.xbCount (.onXb (.ite2 h.onCell.takeVote h.onCell))) (.rmPump (.rmSend (.setF (.onXb (.ite2 h.onCell.takeVote h.onCell)))))

theorem Eng.sound.xbFree (h : e.sound) {b : BeatUnit} {p k body : Nat} : (e.xbFree b p k body).1.sound :=
  .ite1 h.releaseBars.applyVerdict h.releaseBars

theorem Eng.sound.xbRelease (h : e.sound) {b : BeatUnit} {p k : Nat} : (e.xbRelease b p k).1.sound := by
  unfold Eng.xbRelease
  extract_lets f
  split
  next body g hround =>
  have hg : g.sound := Eng.sound.snd (.ite2 h.wr.decideRound h.wr) hround
  extract_lets sent
  have hsent : (sent.onXb p k fun x => { x with localIn := false }).sound := hg.rmSend.rmPump.onXb
  split
  next u go hfree =>
  have hu : u.sound := hsent.xbFree.fst hfree
  exact .ite (hu.roundCheck).rmFlow hu

theorem Eng.sound.xbRun (h : e.sound) {b : BeatUnit} {p k f pCount : Nat} {here : Bool} : (Eng.xbRun b p k f here pCount e).1.sound := by
  induction f generalizing e here pCount with
  | zero => exact h
  | succ f ih =>
    cases here with
    | true => exact .ite1 (ih h.xbLocal) h.xbLocal
    | false => exact .ite1 h (.ite1 (ih h.xbRelease) h.xbRelease)

theorem Eng.sound.barCheck (h : e.sound) {b : BeatUnit} {n : Nat} : (e.barCheck b n).1.sound := by
  unfold Eng.barCheck
  dsimp only
  split
  · exact h
  · split
    · exact h.onCell.releaseBars
    · exact .ite1 h h.xbRun

theorem Eng.sound.ackOps (h : e.sound) {n : Nat} {sub : Bool} {ops : List CellOp} : (e.ackOps n sub ops).sound := by
  refine .foldl h fun _ h => ?_
  split
  · exact h.complete
  · exact h.complete
  · exact h

theorem Eng.sound.manualPut (h : e.sound) {b : BeatUnit} {n src : Nat} {value : Option Word} : (e.manualPut b n src value).sound := by
  refine .onCell ?_
  split
  · exact h.logAdd.bump.ev
  · exact h.logAdd.bump

theorem Eng.sound.cellSet (h : e.sound) {b : BeatUnit} {n : Nat} {ops : List CellOp} : (e.cellSet b n ops).sound := by
  refine .foldl ?_ fun _ h => ?_
  · refine .foldl h fun _ h => ?_
    split
    · exact h.manualPut
    · exact h.onCell
    · exact h.onCell
    · exact h
  · split
    · exact .foldl h fun _ h => .ite h.realignEntry h
    · exact h

/-- The slots in use of every partition stay in use. -/
def Eng.KeepsSlots (e k : Eng) : Prop := ∀ p n, (e.vslot p n).st ≠ vsEmpty → (k.vslot p n).st ≠ vsEmpty

theorem Eng.KeepsSlots.rest {g : Eng} (h : e.KeepsSlots g) (hp : k.parts = g.parts := by rfl) : e.KeepsSlots k := fun p n hn => by
  rw [Eng.vslot, Eng.part, hp]
  exact h p n hn

theorem Eng.KeepsSlots.onPart (h : e.KeepsSlots k) {p : Nat} {f : Partn → Partn}
    (hf : ∀ q n, (Partn.vslot q n).st ≠ vsEmpty → ((f q).vslot n).st ≠ vsEmpty := by exact fun _ _ h => h) : e.KeepsSlots
        (k.onPart p f) := fun q n hn => by
  by_cases hq : q = p
  · subst hq
    rw [Eng.vslot, Eng.part_onPart_self]
    exact hf _ n (h q n hn)
  · rw [Eng.vslot, Eng.part_onPart_ne _ _ hq]
    exact h q n hn

theorem Eng.KeepsSlots.ite {g : Eng} {c : Prop} {_ : Decidable c} (h : e.KeepsSlots k) (h' : e.KeepsSlots g) : e.KeepsSlots
    (if c then k else g) := by
  split
  · exact h
  · exact h'

theorem Eng.KeepsSlots.foldl {α : Type} (h : e.KeepsSlots k) {f : Eng → α → Eng} {l : List α}
    (hf : ∀ {g : Eng} x, e.KeepsSlots g → e.KeepsSlots (f g x)) :
    e.KeepsSlots (l.foldl f k) := by
  induction l generalizing k with
  | nil => exact h
  | cons x r ih => exact ih (hf x h)

theorem Eng.KeepsSlots.ev (h : e.KeepsSlots k) {a i : Nat} : e.KeepsSlots (k.ev a i) := h.rest

theorem Eng.KeepsSlots.memRec (h : e.KeepsSlots k) {b : BeatUnit} {p a : Nat} {w : Bool} : e.KeepsSlots (k.memRec b p a w) :=
  .ite h (.onPart (.ite h.rest h.rest))

theorem Eng.KeepsSlots.storeHeader (h : e.KeepsSlots k) {b : BeatUnit} {p : Nat} {r : Option Nat} : e.KeepsSlots
    (k.storeHeader b p r) := .ite h.memRec h.rest

theorem Eng.KeepsSlots.halt (h : e.KeepsSlots k) {b : BeatUnit} {p : Nat} : e.KeepsSlots (k.halt b p) :=
  .ite h (.foldl (.storeHeader (.onPart (.onPart h.rest))) fun _ h => h.storeHeader)

theorem Eng.KeepsSlots.partStore (h : e.KeepsSlots k) {b : BeatUnit} {p a : Nat} {d : List Byte} : e.KeepsSlots (k.partStore b p a d) :=
  .ite h.memRec.halt h.rest

theorem Eng.KeepsSlots.phase (h : e.KeepsSlots k) {b : BeatUnit} {p kind v d r : Nat} {o : Option Nat} : e.KeepsSlots
    (k.phase b p kind v d r o) :=
  .ite h h.partStore.rest

theorem Eng.KeepsSlots.newestEvents (h : e.KeepsSlots k) {p : Nat} : e.KeepsSlots (k.newestEvents p) := .foldl h fun _ h => .ite h.rest h

theorem Eng.commit_keepsSlots (e : Eng) (b : BeatUnit) (p n : Nat) : e.KeepsSlots (e.commit b p n) := by
  have hset : e.KeepsSlots (e.setVslot p n { e.vslot p n with st := vsResident, committed := (e.part p).vseq }) :=
    Eng.KeepsSlots.onPart (fun _ _ h => h) fun q m hm => by
      by_cases hn : m = n
      · subst hn
        rw [Partn.vslot, kget_kset_self]
        exact Nat.succ_ne_zero 1
      · rwa [Partn.vslot, kget_kset_ne _ _ _ hn]
  exact hset.onPart.ev.phase.newestEvents

/-- The slots that a cell's count commits are LOADING. -/
theorem Partn.mem_commitList {q : Partn} {off count n : Nat} (h : n ∈ (q.commitList off count).2) : n < 4 ∧ (q.vslot n).st = vsLoading := by
  have hkept : ∀ (l : List Nat) (x : Nat × List Nat), (∀ m ∈ x.2, m < 4 ∧ (q.vslot m).st = vsLoading) →
      (∀ m ∈ l, m < 4 ∧ (q.vslot m).st = vsLoading) →
      ∀ m ∈ (l.foldl (fun x n => if (q.vslot n).cell = off ∧ (q.vslot n).layers ≤ x.1 then (x.1 -
          (q.vslot n).layers, x.2 ++ [n]) else x) x).2,
        m < 4 ∧ (q.vslot m).st = vsLoading := by
    intro l
    induction l with
    | nil => exact fun x hx _ => hx
    | cons a r ih =>
      intro x hx hl
      obtain ⟨ha, hr⟩ := List.forall_mem_cons.mp hl
      refine ih _ ?_ hr
      dsimp only
      split
      · intro m hm
        rcases List.mem_append.mp hm with hm | hm
        · exact hx m hm
        · rwa [List.mem_singleton.mp hm]
      · exact hx
  refine hkept _ _ (fun m hm => absurd hm List.not_mem_nil) (fun m hm => ?_) n h
  obtain ⟨hlt, hst⟩ := List.mem_filter.mp ((sortBy_perm _ _).mem_iff.mp hm)
  exact ⟨List.mem_range.mp hlt, of_decide_eq_true hst⟩

theorem Eng.sound.commits (h : e.sound) {b : BeatUnit} {p : Nat} {l : List Nat} (hl : ∀ n ∈ l, n < 4 ∧ (e.vslot p n).st ≠ vsEmpty) :
    (l.foldl (fun e n => e.commit b p n) e).sound := by
  induction l generalizing e with
  | nil => exact h
  | cons n r ih =>
    obtain ⟨⟨hn, hst⟩, hr⟩ := List.forall_mem_cons.mp hl
    exact ih (h.commit hn hst) fun m hm => ⟨(hr m hm).1, e.commit_keepsSlots b p n p m (hr m hm).2⟩

theorem Eng.sound.cellCommit (h : e.sound) {b : BeatUnit} {n : Nat} : (e.cellCommit b n).sound := by
  unfold Eng.cellCommit
  split
  · exact h
  · refine .ite h (.commits h.onCell fun m hm => ?_)
    obtain ⟨hlt, hst⟩ := Partn.mem_commitList hm
    exact ⟨hlt, fun hempty => absurd (hempty.symm.trans hst) (by decide)⟩

theorem Eng.sound.takeRelease (h : e.sound) {b : BeatUnit} {p k body : Nat} : (e.takeRelease b p k body).1.sound := by
  unfold Eng.takeRelease
  dsimp only
  exact .ite1 (.xbRun (.xbFree (.setF (.ite h.ev h)))) (.xbFree (.setF (.ite h.ev h)))

theorem Eng.sound.xbOps {b : BeatUnit} {ops : List CellOp} {x : Eng × GoAdds} (h : x.1.sound) : (Eng.xbOps b ops x).1.sound := by
  have htake : ∀ {g : Eng} {p k body : Nat}, g.sound → (Eng.takeRelease b p k body g).1.sound := fun h => h.takeRelease
  have hrun : ∀ {g : Eng} {p k src vote : Nat}, g.sound → (Eng.xbRun b p k 8 false 0 (g.xbCount b p k src vote)).1.sound :=
    fun h => h.xbCount.xbRun
  -- both are made opaque, as the kernel would else evaluate them
  obtain ⟨take, hteq⟩ : ∃ take, take = Eng.takeRelease := ⟨_, rfl⟩
  obtain ⟨run, hreq⟩ : ∃ run, run = Eng.xbRun := ⟨_, rfl⟩
  unfold Eng.xbOps
  rw [← hteq] at htake ⊢
  rw [← hreq] at hrun ⊢
  refine .foldlOn Prod.fst h fun o h => ?_
  cases o with
  | release => exact htake h
  | arrive => exact hrun h
  | _ => exact h

theorem Eng.sound.cellCycle (h : e.sound) {b : BeatUnit} {n : Nat} {ops : List CellOp} : (e.cellCycle b n ops).1.sound := by
  refine .foldl (.expireAll (.walk (.xbOps (.barCheck (.onCell (.foldl (.ackOps (.ite ?_ (.cellSub ?_))) fun _ h => h.waitOk))))))
      fun _ h => h.settle
  all_goals exact .cellCommit (.ackOps (.ite h.cellSet h.cellSet.cellAdd))

theorem Eng.sound.join (h : e.sound) {n : Nat} {op : CellOp} : (e.join n op).sound := h.rest

theorem Eng.sound.cellRun (h : e.sound) {b : BeatUnit} {f : Nat} {l : List (Nat × List CellOp)} {ps : List Nat} :
    (Eng.cellRun b f l ps e).sound := by
  induction f generalizing e l ps with
  | zero => exact .foldl h fun _ h => h.dispatch
  | succ f ih =>
    cases l with
    | nil => exact .foldl h fun _ h => h.dispatch
    | cons x r => exact .ite (ih (.foldl h fun _ h => h.launch)) (ih (.cellCycle h.rest))

theorem Eng.sound.atCells (h : e.sound) {b : BeatUnit} {l : List (Nat × List CellOp)} : (e.atCells b l).sound :=
  h.oneCycle fun h => h.cellRun

theorem Eng.sound.atCell (h : e.sound) {b : BeatUnit} {n : Nat} {ops : List CellOp} : (e.atCell b n ops).sound := h.atCells

theorem Eng.sound.stopNow (h : e.sound) {b : BeatUnit} {p c : Nat} {k : StopReq} : (e.stopNow b p c k).sound := by
  unfold Eng.stopNow
  dsimp only
  split
  · exact .ite h.askStop.atCell h.askStop
  · exact h.askStop.ledgCycle fun h => h
  · exact h.askStop

theorem Eng.sound.reach (h : e.sound) {b : BeatUnit} {joins : Bool} {n : Nat} {op : CellOp} : (e.reach b joins n op).sound :=
  .ite h.join h.atCell

/-! ### Boundaries -/

theorem Eng.sound.leave (h : e.sound) {b : BeatUnit} {p slot : Nat} : (e.leave b p slot).2.sound := by
  unfold Eng.leave
  dsimp only
  split
  · exact h.dropPages.onTring.dropReq.rest.onPart
  · exact h.dropPages.dropReq.rest.onPart

theorem Eng.sound.lateAt_ (h : e.sound) {p slot : Nat} {at_ : Option Nat} {l : List Byte} : (e.lateAt_ p slot at_ l).2.sound := by
  unfold Eng.lateAt_
  split
  · exact h.markLate
  · exact h

theorem Eng.sound.retireRec (h : e.sound) {b : BeatUnit} {p slot status : Nat} {at_ : Option Nat} :
    (e.retireRec b p slot status at_).2.sound :=
  .ite h.formed.lateAt_.bump.ev h.formed.lateAt_

theorem Eng.sound.rebind (h : e.sound) {slot v : Nat} : (e.rebind slot v).sound := h.setRqf

theorem Eng.sound.unbatch (h : e.sound) {p slot : Nat} : (e.unbatch p slot).sound := .ite h h.onPart.onReq

theorem Eng.sound.rebuild (h : e.sound) {b : BeatUnit} {p slot : Nat} : (e.rebuild b p slot).2.sound :=
  .ite2 h.dropPages.onReq.setRqf h.dropPages.onReq.setRqf.unbatch.setRqf.setRstate.onReq.startList.setRstate

theorem Eng.sound.takeVersion (h : e.sound) {b : BeatUnit} {p slot v policy : Nat} : (e.takeVersion b p slot v policy).2.sound :=
  .ite2 h.rebind.rebuild h.rebind

theorem Eng.sound.versionRow (h : e.sound) {b : BeatUnit} {p slot policy : Nat} : (e.versionRow b p slot policy).2.sound := by
  refine .ite2 h ?_
  split
  · exact h
  · exact .ite2 h h.takeVersion

theorem Eng.sound.versionStep (h : e.sound) {b : BeatUnit} {p slot : Nat} : (e.versionStep b p slot).2.2.sound := by
  unfold Eng.versionStep
  dsimp only
  split
  · exact .ite22 h.onReq.onReq (.ite22 h.onReq.onReq h.onReq.onReq.takeVersion)
  · exact .ite22 h.onReq.onReq.versionRow h.onReq.onReq
  · exact .ite22 h.onReq.versionRow h.onReq

theorem Eng.sound.retire {x : WalkOut × Eng} (h : x.2.sound) {b : BeatUnit} {p slot status : Nat} {at_ : Option Nat} :
    (Eng.retire b p slot status at_ x).2.sound := h.retireRec.leave

theorem Eng.sound.retireFormed {x : WalkOut × Eng} (h : x.2.sound) {b : BeatUnit} {p slot : Nat} :
    (Eng.retireFormed b p slot x).2.sound := h.leave

theorem Eng.sound.learnRec (h : e.sound) {b : BeatUnit} {p slot : Nat} {at_ : Option Nat} : (e.learnRec b p slot at_).2.sound :=
  h.formed.lateAt_

theorem Eng.sound.pauseRow {x : WalkOut × Eng} (h : x.2.sound) {b : BeatUnit} {p slot : Nat} {at_ : Option Nat} :
    (Eng.pauseRow b p slot at_ x).2.sound := .ite2 h (.ite2 h.onReq (.ite2 h.pauseReq.formed.unformed h.pauseReq.formed.lateAt_))

theorem Eng.sound.lowRows {x : WalkOut × Eng} (h : x.2.sound) {b : BeatUnit} {p slot : Nat} {at_ : Option Nat} :
    (Eng.lowRows b p slot at_ x).2.sound := by
  unfold Eng.lowRows
  split
  next hx =>
    have hg := h.versionStep.trd hx
    exact .ite2 (.retire hg) (.pauseRow hg)

theorem Eng.sound.walkReq {x : WalkOut × Eng} (h : x.2.sound) {b : BeatUnit} {p slot : Nat} {at_ : Option Nat} :
    (Eng.walkReq b p at_ slot x).2.sound := by
  refine .ite2 h.retireFormed (.ite2 (.retireFormed h.learnRec) (.ite2 h.retire (.ite2 h.retire ?_)))
  split
  · exact h.retire
  · exact .lowRows (.ite h.bump.onReq h)

theorem Eng.sound.walkEarly {x : WalkOut × Eng} (h : x.2.sound) {b : BeatUnit} {p slot : Nat} : (Eng.walkEarly b p slot x).2.sound :=
  .ite2 (.walkReq h.onReq) (.onReq (.walkReq h.onReq))

theorem Eng.sound.walkSlot {x : WalkOut × Eng} (h : x.2.sound) {b : BeatUnit} {p slot at_ : Nat} {mine : List Nat} :
    (Eng.walkSlot b p mine at_ slot x).2.sound := by
  unfold Eng.walkSlot
  extract_lets r all y
  have hy : y.2.sound := .ite2 (.walkReq h.onReq) (.ite2 (.walkReq h.onReq) h.walkEarly)
  exact .ite hy hy.onReq

theorem Eng.sound.afterWalk {b : BeatUnit} {p : Nat} {x : WalkOut × Eng} (h : x.2.sound) : (Eng.afterWalk b p x).sound :=
  .drainVersions (.foldl (.foldl h.putBoundary fun _ h => h.tryFreeTring) fun _ h => h.onReq)

theorem Eng.sound.penPut (h : e.sound) {p slot tok : Nat} : (e.penPut p slot tok).sound := .ite h (.ite h.ev h.onReq)

theorem Eng.sound.penUpdate (h : e.sound) {b : BeatUnit} {p slot : Nat} {toks : List Nat} : (e.penUpdate b p slot toks).sound := by
  refine .ite h ?_
  extract_lets old addr len prompt done f g s
  have hf : f.sound := .ite h (.ite (.foldl h.onReq.partRead fun _ h => h.penPut) h.onReq)
  have hg : g.sound := .foldl hf fun _ h => h.penPut
  exact .ite hg hg.partStore

theorem Eng.sound.promptWrite (h : e.sound) {p slot pos : Nat} {l : List Nat} : (Eng.promptWrite p slot pos l e).2.sound := by
  induction l generalizing e pos with
  | nil => exact h
  | cons t r ih =>
    rw [Eng.promptWrite]
    dsimp only
    exact ih (.ite h h.store)

theorem Eng.sound.runUpdate (h : e.sound) {b : BeatUnit} {p : Nat} {st : Step} {r : Run} : (e.runUpdate b p st r).2.sound := by
  unfold Eng.runUpdate
  extract_lets slot toks old pos bad e1 e2 e3 e4 e5 e6
  have h1 : e1.sound := .ite h.bump.ev h
  have h3 : e3.sound := .setRqf (.ite h1 h1.setRqf)
  have h4 : e4.sound := .ite h3 h3.insertPages
  have h5 : e5.sound := .ite h4.onReq h4
  have h6 : e6.sound := .ite h5.onReq h5
  clear_value e6
  split
  next e7 htok =>
  have h7 : e7.sound := by
    split at htok
    · exact (Prod.mk.inj htok).2 ▸ h6
    · split at htok
      · exact (Prod.mk.inj htok).2 ▸ h6.readTokens
      · exact (Prod.mk.inj htok).2 ▸ h6
  extract_lets ledger e8
  have h8 : e8.sound := .ite h7 (h7.ledgCycle fun h => h.charge)
  split
  next e9 hwrite =>
  have h9 : e9.sound := .snd (.ite2 h8.promptWrite h8) hwrite
  exact .onReq (.ite h9.penUpdate.setRstate h9.penUpdate)

theorem Eng.sound.runUpdates (h : e.sound) {b : BeatUnit} {p : Nat} {st : Step} {l : List Run} : (Eng.runUpdates b p st l e).2.sound := by
  induction l generalizing e with
  | nil => exact h
  | cons r rest ih =>
    rw [Eng.runUpdates_cons]
    exact ih h.runUpdate

theorem Eng.sound.adapt (h : e.sound) {p slot m d : Nat} : (e.adapt p slot m d).sound :=
  .ite h.setRqf.setRqf.bump.ev (.ite h.setRqf.setRqf.bump.ev h.setRqf)

theorem Eng.sound.probe (h : e.sound) {p slot : Nat} : (e.probe p slot).sound := .ite h.setRqf.setRqf.setRqf.bump h.setRqf

theorem Eng.sound.specUpdate (h : e.sound) {p : Nat} {st : Step} {r : Run} : (e.specUpdate p st r).sound :=
  .ite h (.ite (.ite h.adapt (.ite h.probe h)) (.onReq (.setRqf (.onReq (.ite h.adapt (.ite h.probe h))))))

theorem Eng.sound.countTree (h : e.sound) {p : Nat} {st : Step} {r : Run} : (e.countTree p st r).sound := .ite h h.bumpWrap.bumpWrap

theorem Eng.sound.realignCut (h : e.sound) {b : BeatUnit} {p : Nat} : (e.realignCut b p).sound :=
  .ite h.onPart.onPart (.foldl h.onPart.onPart fun _ h => h.atCell)

theorem Eng.sound.stepBoundary (h : e.sound) {b : BeatUnit} {p : Nat} {st : Step} : (e.stepBoundary b p st).sound := by
  unfold Eng.stepBoundary
  extract_lets at_ mine e1 e2 e3 rs e4 e5
  have h3 : e3.sound := .ite h.releasePass.releasePass.rowsLeft.realignCut h.releasePass.releasePass.rowsLeft.realignCut.switchBank
  have h5 : e5.sound := .foldl (.foldl h3 fun _ h => .ite h.dropCopy h) fun _ h => h.dropList
  clear_value e5
  split
  next bad e6 hruns =>
  have h6 : e6.sound := h5.runUpdates.snd hruns
  extract_lets e7 e8 all x
  have h8 : e8.sound := .onPart (.foldl h6 fun _ h => h.countTree)
  refine .ite (.foldl h8 fun _ h => h.measureStep) ?_
  have h9 : x.2.sound := .foldlOn Prod.snd (.foldl h8 fun _ h => h.measureStep) fun _ h => h.walkSlot
  exact .foldl (.afterWalk (.foldl (.foldl h9 fun _ h => .ite h.onReq h) fun _ h => h.specUpdate)) fun _ h => .ite h.alertReturn h

theorem Eng.sound.sealRun (h : e.sound) {b : BeatUnit} {p : Nat} {r : Run} : (e.sealRun b p r).sound :=
  .ite (.buildMask (.ite h.partStore h)) (.ite h.partStore h)

/-! ### Scheduling -/

theorem Eng.sound.dlLeave (h : e.sound) {b : BeatUnit} {p : Nat} {d : DlEnt} : (e.dlLeave b p d).sound := .ite h.onPart.ev h.onPart

theorem Eng.sound.dlRefuse (h : e.sound) {p : Nat} : (e.dlRefuse p).sound := h.ev.bump

theorem Eng.sound.yieldSlot (h : e.sound) {b : BeatUnit} {i : Ins} : (e.yieldSlot b i).sound :=
  .ite h.onCtx.switchOut h.onCtx.boundary

theorem Eng.sound.wakeCtx (h : e.sound) {b : BeatUnit} {p c key : Nat} {slack : Option Dword} {dst : BitVec 5} :
    (e.wakeCtx b p c key slack dst).sound :=
  .ite h (.ite h.ctxFault h.onCtx.dispatch)

theorem Eng.sound.delayCtx (h : e.sound) {b : BeatUnit} {i : Ins} {t : Nat} : (e.delayCtx b i t).sound := h.onPart.onCtx.boundary

/-! ### Cross-bars and remote messages -/

theorem Eng.sound.withCell (h : e.sound) {b : BeatUnit} {i : Ins} {f : Nat → Eng → Eng} (hf : ∀ {x} {g : Eng}, g.sound → (f x g).sound) :
    (e.withCell b i f).sound :=
  .ite h.ctxFault (.ite h.ctxFault (hf h))

theorem Eng.sound.travelOp (h : e.sound) {b : BeatUnit} {i : Ins} {n : Nat} {op : CellOp} : (e.travelOp b i n op).sound :=
  h.launch.wait_

theorem Eng.sound.smap (h : e.sound) {b : BeatUnit} {i : Ins} {priv : Bool} : (e.smap b i priv).sound := .ite h.ctxFault h.finish

theorem Eng.sound.arm (h : e.sound) {b : BeatUnit} {i : Ins} {t : Nat} : (e.arm b i t).sound :=
  h.withCell fun h => .ite h.dlRefuse.finS h.drawFree.onPart.finS

theorem Eng.sound.raWrite (h : e.sound) {p n : Nat} {v : Word} : (e.raWrite p n v).sound := h.wr.onPart

theorem Eng.sound.manual (h : e.sound) {b : BeatUnit} {src : Nat} {cell : AtCell (BitVec 16)} {v : Option Word} :
    (e.manual b src cell v).sound :=
  h.setF.reach

theorem Eng.sound.strWrote (h : e.sound) {b : BeatUnit} {src a : Nat} {f : Eng → Eng} (hf : ∀ {g : Eng}, g.sound → (f g).sound) :
    (e.strWrote b src a f).sound :=
  .strLog (hf h)

theorem Eng.sound.signal (h : e.sound) {b : BeatUnit} {joins : Bool} {p off : Nat} {k : Word} : (e.signal b joins p off k).sound :=
  .ite h.reject h.reach

theorem Eng.sound.showOcc (h : e.sound) : e.showOcc.sound := h.setF.setF.setF.setF

theorem Eng.sound.onXfer (h : e.sound) {key : Nat} {f : Xfer → Xfer} : (e.onXfer key f).sound := h.rest

theorem Eng.sound.retireXfer (h : e.sound) {key : Nat} : (e.retireXfer key).sound := h.rest.showOcc

theorem Eng.sound.applyRounds (h : e.sound) {b : BeatUnit} {rs : List (List Parked)} : (e.applyRounds b rs).sound :=
  .atCells (.foldl h fun _ h => h.reject)

theorem Eng.sound.withParked (h : e.sound) {l : List Parked} : ({ e with parked := l } : Eng).sound := h.rest

theorem Eng.sound.xferDone (h : e.sound) {b : BeatUnit} {key : Nat} : (e.xferDone b key).sound := by
  unfold Eng.xferDone
  split
  · exact h
  · exact .ite h (.retireXfer (.onXfer (.applyRounds h.onXfer.withParked)))

theorem Eng.sound.park (h : e.sound) {key src p off now port : Nat} {k : Word} : (e.park key src p off k now port).sound :=
  h.rest.showOcc

theorem Eng.sound.takeSignal (h : e.sound) {b : BeatUnit} {joins : Bool} {now : Nat} {m : RmMsg} {k : Eng}
    (hk : e.takeSignal b joins now m = some k) : k.sound := by
  unfold Eng.takeSignal at hk
  dsimp only at hk
  split at hk
  · exact Option.some.inj hk ▸ h.reject
  split at hk
  · exact Option.some.inj hk ▸ h.signal
  split at hk
  · exact Option.some.inj hk ▸ h.signal.onXfer.retireXfer
  split at hk
  · exact absurd hk nofun
  · exact Option.some.inj hk ▸ h.park

theorem Eng.sound.takeData (h : e.sound) {m : RmMsg} {k : Eng} (hk : e.takeData m = some k) : k.sound := by
  unfold Eng.takeData at hk
  dsimp only at hk
  split at hk
  · exact absurd hk nofun
  · obtain rfl := Option.some.inj hk
    refine .issueTxn (.ite ?_ (.ite (.reject ?_) (.onXfer ?_)))
    all_goals exact .onXfer (.ite h (.showOcc h.rest))

theorem Eng.sound.withDataIn (h : e.sound) {l : List RmMsg} : ({ e with dataIn := l } : Eng).sound := h.rest

theorem Eng.sound.ingress (h : e.sound) {b : BeatUnit} : (e.ingress b).sound := by
  have hsig : ∀ {g : Eng} (x : RmMsg × Nat), g.sound → (match g.takeSignal b false x.2 x.1 with
      | some k => k
      | none => { g with sigIn := g.sigIn ++ [x] }).sound := fun x h => by
    split
    next hk => exact h.takeSignal hk
    next => exact h.rest
  have hdata : ∀ {g : Eng} (m : RmMsg), g.sound → (match g.takeData m with
      | some k => k
      | none => { g with dataIn := g.dataIn ++ [m] }).sound := fun m h => by
    split
    next hk => exact h.takeData hk
    next => exact h.rest
  unfold Eng.ingress
  exact .foldl (.withDataIn (.foldl h.rest hsig)) hdata

theorem Eng.sound.dataDone (h : e.sound) {b : BeatUnit} {t : Txn} {ok : Bool} : (e.dataDone b t ok).sound := by
  unfold Eng.dataDone
  split
  · exact .ingress (.xferDone (.onXfer (.ite h.store h.memFault)))
  · exact h

theorem Eng.sound.memberRelease (h : e.sound) {b : BeatUnit} {body : Nat} {l : List (Nat × Nat)} :
    (e.memberRelease b body l).sound :=
  h.atCells

theorem Eng.sound.groupReset (h : e.sound) {b : BeatUnit} {n : Nat} : (e.groupReset b n).sound := h.onGroup.roundCheck.rmFlow

theorem Eng.sound.groupAbort (h : e.sound) {b : BeatUnit} : (e.groupAbort b).sound := .ite h h.groupReset

theorem Eng.sound.groupClear (h : e.sound) {b : BeatUnit} : (e.groupClear b).sound := .ite h.groupReset h

/-! ### Partitions -/

theorem Eng.sound.tryEnable (h : e.sound) {p : Nat} : (e.tryEnable p).sound := .ite h.setF h.setF.cfgErr

theorem Eng.sound.startPart (h : e.sound) {b : BeatUnit} {p : Nat} : (e.startPart b p).sound :=
  h.setF.setF.roleRestart.onPart.onPart.drawSource.plantRoots.setHeader.dispatch

theorem Eng.sound.abortCmd (h : e.sound) {p : Nat} : (e.abortCmd p).sound := by
  unfold Eng.abortCmd
  split
  · exact h
  · exact h.setF.setF.partEv.onPart

theorem Eng.sound.startReset (h : e.sound) {b : BeatUnit} {p : Nat} : (e.startReset b p).sound := by
  refine .phase3IfIdle (.storeHeaders (.foldl h.setF.setF.abortCmd.discardBatch.rest.showBacklog.onPart fun _ h => ?_))
  split
  · exact h.stopNow
  · exact h.stopNow
  · exact h.stopNow
  · exact h.stopNow
  · exact h

theorem Eng.sound.freeRequests (h : e.sound) {b : BeatUnit} {p : Nat} : (e.freeRequests b p).sound :=
  .foldl h fun _ h => h.releasePages.dropReq.rest

theorem Eng.sound.withBasin (h : e.sound) {l : KMap PageRec} {n : KMap Node} : ({ e with pages := l, nodes := n } : Eng).sound := h.rest

theorem Eng.sound.dropBasin (h : e.sound) {p : Nat} : (e.dropBasin p).sound := .withBasin (.foldl h fun _ h => h.setF)

theorem Eng.sound.phase4 (h : e.sound) {b : BeatUnit} {p : Nat} : (e.phase4 b p).sound := by
  unfold Eng.phase4
  refine .ingress (.drainVersions (.onPart (.showOcc (.rest ?_))))
  exact .foldl h.freeRequests.dropBasin fun _ h => h.freeTring

theorem Eng.sound.phase5 (h : e.sound) {p : Nat} : (e.phase5 p).sound := by
  have hcleared : ∀ f g, ({ e with cells := e.cells.filter f, regs := e.regs.filter g } : Eng).sound := fun f g => by
    obtain ⟨hregs, hmem, hcells, hother⟩ := h
    exact ⟨regsWf_filter g hregs, hmem, kwf_filter _ f hcells, hother⟩
  exact .foldl (.onPart (.rest (hcleared _ _))) fun _ h => .ite h.clearVslot h

theorem Eng.sound.clearReg (h : e.sound) {a : Nat} : (e.clearReg a).sound := by
  unfold Eng.clearReg
  split
  · exact h
  · exact h.wr

theorem Eng.sound.resetRegs (h : e.sound) {p : Nat} : (e.resetRegs p).sound := by
  refine .foldl (.foldl h fun _ h => ?_) fun _ h => h.clearReg
  split
  · exact .ite h.wr h
  · exact h

theorem Eng.sound.phase6 (h : e.sound) {b : BeatUnit} {p : Nat} : (e.phase6 b p).sound := by
  unfold Eng.phase6
  extract_lets stopped drawn reset fresh told on
  have htold : told.sound := h.onPart.setSw.setMgmt.drawSource.resetRegs.roleRestart.switchIdle.onPart.setF.partEv
  have hon : on.sound := .ite htold.tryEnable htold
  exact .ite hon.startPart hon.storeHeaders

/-! ### Contexts -/

theorem Eng.sound.ctxCommand (h : e.sound) {p c op : Nat} {allowed : List CtxSt} {act : Eng → Eng}
    (hact : ∀ {g : Eng}, g.sound → (act g).sound) :
    (e.ctxCommand p c op allowed act).sound :=
  .ite h.cfgErr (.ite (hact h.setF.setF.onPart) h.setF.setF.onPart)

theorem Eng.sound.ctxProgress (h : e.sound) {p pos : Nat} {all : Bool} : (e.ctxProgress p pos all).sound := h.setPair

theorem Eng.sound.ctxDone (h : e.sound) {p err : Nat} : (e.ctxDone p err).sound := h.setF.setF.partEv.onPart

theorem Eng.sound.saveDone (h : e.sound) {b : BeatUnit} {p c : Nat} : (e.saveDone b p c).sound :=
  .ite h.ctxDone h.store.zeroPrivates.onCtx.ctxProgress.ctxDone

theorem Eng.sound.restoreCell (h : e.sound) {b : BeatUnit} {p w : Nat} : (e.restoreCell b p w).sound :=
  .ite (.ite h.putCell h.putCell.atCell) h

theorem Eng.sound.restoreCells (h : e.sound) {b : BeatUnit} {p : Nat} {l : List Byte} : (e.restoreCells b p l).sound :=
  .foldl h fun _ h => h.restoreCell

theorem Eng.sound.rewait (h : e.sound) {b : BeatUnit} {p c ticks : Nat} : (e.rewait b p c ticks).sound := by
  unfold Eng.rewait
  dsimp only
  split
  · exact h.onCtx.dispatch
  · exact .ite h.onCtx.ctxFault (.ite h.onCtx.ctxFault h.onCtx.launch)

theorem Eng.sound.redelay (h : e.sound) {p c key : Nat} : (e.redelay p c key).sound := h.onPart.onCtx

theorem Eng.sound.reenter (h : e.sound) {b : BeatUnit} {p c : Nat} : (e.reenter b p c).sound := by
  unfold Eng.reenter
  split
  · exact h.rewait
  · exact h.rewait
  · exact h.redelay
  · exact h.redelay
  · exact h.dispatch

theorem Eng.sound.restoreDone (h : e.sound) {b : BeatUnit} {p c : Nat} : (e.restoreDone b p c).sound :=
  .ite h.onCtx.partEv.ctxDone h.onCtx.restoreCells.reenter.ctxProgress.ctxDone

theorem Eng.sound.coreTake (h : e.sound) {b : BeatUnit} {p : Nat} : (e.coreTake b p).sound :=
  .ite h.engFault.rest.useSpare.onPart.recover h.engFault.sparesOut.onPart.halt

theorem Eng.sound.coreNext (h : e.sound) {b : BeatUnit} {f : Nat} : (Eng.coreNext b f e).sound := by
  induction f generalizing e with
  | zero => exact h
  | succ f ih =>
    unfold Eng.coreNext
    split
    · exact h
    · exact .ite (.coreTake h.rest) (ih (.coreTake h.rest))

/-! ### Power -/

theorem Eng.sound.onDroop (h : e.sound) {det : Nat} {f : Droop → Droop} : (e.onDroop det f).sound := h.rest

theorem Eng.sound.takePeriod (h : e.sound) {lpl total : Nat} : (e.takePeriod lpl total).sound := h.setF.setF.rest

theorem Eng.sound.heat (h : e.sound) : e.heat.sound := .ite h.showPower.ev (.ite h.showPower.ev h.showPower)

theorem Eng.sound.takeSample (h : e.sound) {values : List Nat} : (e.takeSample values).sound := h.rest.setF.heat

theorem Eng.sound.firmLog (h : e.sound) {b : BeatUnit} {l : List FirmEnt} : (e.firmLog b l).sound := by
  refine .ite h (.foldl h fun _ h => ?_)
  split
  · exact h.logAdd
  · exact h.logAdd

/-! ### The management cores and updates -/

theorem Eng.sound.bootCore (h : e.sound) {c slot fails : Nat} : (e.bootCore c slot fails).sound := h.onCore nofun

theorem Eng.sound.headless (h : e.sound) : e.headless.sound := .ite h h.setF.ev

theorem Eng.sound.logTakeover (h : e.sound) {b : BeatUnit} {old trigger new : Nat} : (e.logTakeover b old trigger new).sound :=
  h.logAdd

theorem Eng.sound.makeActive (h : e.sound) {c : Nat} (hother : (e.core (otherCore c)).role ≠ .active) : (e.makeActive c).sound :=
  (h.onCore fun _ => .inr hother).setF.showLevel

theorem Eng.sound.switchParts (h : e.sound) {b : BeatUnit} : (e.switchParts b).sound :=
  .showLevel (.foldl h fun _ h => .ite (.switchIdle (.ite h h.rest)) (.ite h h.rest))

theorem Eng.sound.updProgress (h : e.sound) {pos : Nat} {all : Bool} : (e.updProgress pos all).sound := h.setPair

theorem Eng.sound.onUpd (h : e.sound) {f : UpdCmd → UpdCmd} : (e.onUpd f).sound := h.rest

theorem Eng.sound.unhold (h : e.sound) {b : BeatUnit} : (e.unhold b).sound := by
  unfold Eng.unhold
  split
  · exact h
  · exact .ite h.rest.logPut.hlogPump h

theorem Eng.sound.setLevel (h : e.sound) {b : BeatUnit} {new eff : Nat} : (e.setLevel b new eff).sound := .ite h h.setF.ev.logAdd

theorem Eng.sound.negApply (h : e.sound) {b : BeatUnit} {level eff : Nat} : (e.negApply b level eff).sound := by
  refine .ite h (.ite (.setLevel (.ev (.ite h.ev h))) (.wr (.wr (.rest ?_))))
  exact .ite h.ev h

theorem Eng.sound.negCount (h : e.sound) {b : BeatUnit} {level round : Nat} : (e.negCount b level round).sound := by
  refine .ite h ?_
  refine .ite ?_ ?_
  · refine .setF (.setF (.rest ?_))
    exact .ite h.ev h
  · refine .negApply (.rmPump (.rmSend (.setF (.setF (.setF (.rest ?_))))))
    exact .ite h.ev h

/-! ### Integrity -/

theorem Eng.sound.spareRow (h : e.sound) {bank : Nat} : (e.spareRow bank).sound := .ite h.ev h.rest.setF.setF.ev

theorem Eng.sound.corrected (h : e.sound) {bank row : Nat} {stuck : Bool} : (e.corrected bank row stuck).sound :=
  .ite h.bump.ev (.ite h.bump.ev.spareRow.rest h.bump.ev.rest)

theorem Eng.sound.countUe (h : e.sound) : e.countUe.sound := h.bump.ev

theorem Eng.sound.ueFault (h : e.sound) {b : BeatUnit} {part : Option Nat} {struct : Nat} : (e.ueFault b part struct).sound :=
  h.engFault

theorem Eng.sound.uncorrectable (h : e.sound) {b : BeatUnit} {u : UeAt} : (e.uncorrectable b u).sound := by
  unfold Eng.uncorrectable
  dsimp only
  split
  · exact h.countUe
  · split
    · exact .ite h.countUe.stopUnit h.countUe
    · split
      · exact h.countUe
      · exact .ite h.countUe h.countUe.readUnit.tileOf.reexec
  · exact h.countUe.ueFault.onPart
  · exact .ite h.rest.countUe.engFault.onReq h.rest.countUe.engFault
  · exact h.countUe
  · exact h.cellLost
  · exact h.countUe.ueFault.setClamped
  · exact h.countUe.ueFault.halt
  · exact h.countUe.ueFault

theorem Eng.sound.scrub (h : e.sound) {b : BeatUnit} {l : List ScrubFinding} : (e.scrub b l).sound := by
  refine .foldl h fun _ h => ?_
  split
  · exact h.corrected
  · exact h.uncorrectable
  · exact .ite h h.sliceFail
  · exact h.bump.ev
  · exact h.onPart

theorem Eng.sound.romBad (h : e.sound) {b : BeatUnit} : (e.romBad b).sound := h.rest.setF.ev.engFault

/-! ### Links -/

theorem Eng.sound.showUp (h : e.sound) {ph : Nat} {up : Bool} : (e.showUp ph up).sound := h.setF

theorem Eng.sound.onChan (h : e.sound) {ph : Nat} {f : Chan → Chan} : (e.onChan ph f).sound := h.rest

theorem Eng.sound.resendAll (h : e.sound) {c : Nat} : (e.resendAll c).sound := h.rest

theorem Eng.sound.moveChan (h : e.sound) {b : BeatUnit} {c ph : Nat} : (e.moveChan b c ph).sound :=
  .foldl (.resendAll (.foldl h.rest.useSpare fun _ h => h.onPart)) fun _ h => .ite h.recover h

theorem Eng.sound.loseChan (h : e.sound) {b : BeatUnit} {c ph : Nat} : (e.loseChan b c ph).sound :=
  .foldl h.sparesOut.rest fun _ h => .ite h.halt h

theorem Eng.sound.failChan (h : e.sound) {b : BeatUnit} {ph : Nat} : (e.failChan b ph).sound := by
  refine .kdlPump ?_
  split
  · exact .ite h.onChan.showUp.ev.engFault.setF h.onChan.showUp.ev.engFault
  · split
    · exact h.onChan.showUp.ev.engFault.moveChan
    · exact h.onChan.showUp.ev.engFault.loseChan

theorem Eng.sound.upBad (h : e.sound) {b : BeatUnit} {ph : Nat} : (e.upBad b ph).sound := .ite h.bump.onChan.failChan h.bump.onChan

theorem Eng.sound.upGood (h : e.sound) {ph : Nat} : (e.upGood ph).sound := h.onChan

/-! ### The request table and ledgers -/

theorem Eng.sound.raiseReq (he : e.sound) {b : BeatUnit} {i : Ins} {operand h : Nat} : (e.raiseReq b i operand h).sound := he.raise

/-! ### Versions -/

theorem Eng.sound.verDone (h : e.sound) {p version err : Nat} : (e.verDone p version err).sound := h.wr.ev

theorem Eng.sound.retireSlot (h : e.sound) {b : BeatUnit} {p n : Nat} (hn : n < 4) (hst : (e.vslot p n).st ≠ vsEmpty) :
    (e.retireSlot b p n).sound := by
  have hset := h.keepVslot (v := { e.vslot p n with st := vsDraining }) hn hst rfl
  exact .drainVersions (.ite hset.dropVersion.leaveEvents.newestEvents hset.dropVersion.leaveEvents)

/-! ### Start-up and resets -/

theorem Eng.sound.afterCold (h : e.sound) : e.afterCold.sound := by
  obtain ⟨-, hmem, -⟩ := h
  obtain ⟨hregs, -, hother⟩ := Eng.cold_sound
  exact ⟨hregs, hmem, hother⟩

theorem Eng.sound.absentAll (h : e.sound) {b : BeatUnit} : (e.absentAll b).sound := .foldl h fun _ h => h.storeHeaders

theorem Eng.sound.phaseTo (h : e.sound) {n : Nat} : (e.phaseTo n).sound := h.setF

theorem Eng.sound.withWarm (h : e.sound) {w : Bool} : ({ e with warm := w } : Eng).sound := h.rest

theorem Eng.sound.warmBegin (h : e.sound) {b : BeatUnit} {cause : Word} : (e.warmBegin b cause).sound :=
  .phaseTo (.setF (.withWarm (.wr (.bump (.foldl
      (.foldl h.absentAll fun _ h => h.discardBatch.abandonAll.spoutDiscard) fun _ h => h.setF)))))

theorem Eng.sound.warmAsk (h : e.sound) {b : BeatUnit} {cause : Word} : (e.warmAsk b cause).sound := .ite h.warmBegin h

theorem Eng.part_afterWarm_vslots (e : Eng) (p : Nat) : (e.afterWarm.part p).vslots = [] := by
  rcases kget_mem Partn.fresh e.afterWarm.parts p with hp | hp
  · rw [Eng.part, hp]
    rfl
  · obtain ⟨x, -, hx⟩ := List.mem_map.mp (List.mem_of_mem_filter hp)
    rw [Eng.part, ← (Prod.mk.inj hx).2]
    rfl

theorem Eng.sound.afterWarm (h : e.sound) : e.afterWarm.sound := by
  obtain ⟨hregs, hmem, -, -, -, hled, hgrp, hbal, -, hcore⟩ := h
  refine ⟨?_, hmem, rfl, rfl, rfl, hled, kwf_kmapAll _ _ hgrp, hbal, fun p m n _ _ _ hm => absurd ?_ hm, hcore⟩
  · obtain ⟨hrise, -⟩ := regsWf_iff.mp hregs
    refine regsWf_iff.mpr ⟨List.Pairwise.filter _ (List.pairwise_map.mpr hrise), fun x hx => ?_⟩
    exact of_decide_eq_true (List.mem_filter.mp hx).2
  · rw [Eng.vslot, Partn.vslot, e.part_afterWarm_vslots]
    rfl

theorem Eng.sound.warmSettle (h : e.sound) {b : BeatUnit} : (e.warmSettle b).sound := by
  refine .foldl (.foldl (.rest ?_) fun _ h => h.coreTake) fun _ h => h.switchIdle
  refine .foldl (.rest ?_) fun _ h => h.sliceTake
  exact .foldl h.dropTiles fun _ h => h.tileSwap

theorem Eng.sound.showKept (h : e.sound) {b : BeatUnit} : (e.showKept b).sound :=
  .foldl (.showPower (.setF (.showLps (.foldl h fun _ h => h.setPage)))) fun _ h => .roleRestart (.foldl h fun _ h => h.planModel)

theorem Eng.sound.warmEnd (h : e.sound) : e.warmEnd.sound := .foldl h.setF.phaseTo.ev fun _ h => h.tryEnable

/-! ### The register window -/

theorem Eng.sound.plain (h : e.sound) {r : RegRow} {a : Nat} {v : Word} : (e.plain r a v).sound := h.wr

theorem Eng.sound.plainBut (h : e.sound) {r : RegRow} {a hi lo : Nat} {v : Word} : (e.plainBut r a hi lo v).sound := h.plain.setF

theorem Eng.sound.fieldWrite (h : e.sound) {path : Path} {r : RegRow} {a p n : Nat} {v : Word} :
    (e.fieldWrite path r a p n v).sound := by
  refine .ite (.ite h.plain h.cfgErr) (.ite (.ite h.plain (.foldl h fun _ h => h.cfgErr)) ?_)
  split
  · exact .ite h.plainBut (.ite h.plain h.plainBut.cfgErr)
  · exact .ite h.cfgErr (.ite h (.ite h (.ite h.cfgErr (.ite h.plainBut (.ite h (.ite h.cfgErr (.ite h.ev (.ite h.plain.heat h.plain))))))))

theorem Eng.sound.ledgerField (h : e.sound) {base : Nat} {v : Word} : (e.ledgerField base v).sound := by
  obtain ⟨hlo, hhi⟩ := h.bounded e.ledSel
  refine h.setLedger ?_ ?_
  · split
    · exact hlo
    · exact hlo
  · split
    · exact hhi
    · exact hhi

theorem Eng.sound.groupWrite (h : e.sound) {r : RegRow} {v : Word} : (e.groupWrite r v).sound := .ite h.onGroup h.cfgErr

theorem Eng.sound.logFlow (h : e.sound) {b : BeatUnit} : (e.logFlow b).sound := .ite h.rest h.hlogPump

/-! ### Ports -/

theorem Eng.sound.txnDone (h : e.sound) {b : BeatUnit} {t : Txn} {ok : Bool} : (e.txnDone b t ok).sound := by
  unfold Eng.txnDone
  split
  · exact h.ctxMemDone
  · exact h.ctxMemDone
  · exact h.recDone
  · exact h.dataDone

theorem Eng.sound.reissue (h : e.sound) {port : Nat} : (e.reissue port).sound := .foldl h.rest fun _ h => .ite h.rest h.rest

theorem Eng.sound.portWatchdog (h : e.sound) {b : BeatUnit} {unit n bit : Nat} : (e.portWatchdog b unit n bit).sound :=
  .ite h.ev.engFault h.ev.markPort.engFault.recoverAll

/-! ### Strings -/

theorem Eng.sound.strShow (h : e.sound) {space : BitVec 2} {addr : Dword} {err : Nat} : (e.strShow space addr err).sound :=
  h.setF.setF.wr.wr

theorem Eng.sound.mirrorWrite (h : e.sound) {b : BeatUnit} {p c off : Nat} {d : Dword} : (e.mirrorWrite b p c off d).sound :=
  .onCtx (.ite h.restoreCell h)

end

end Sys2Proof.Machine
end

section
/-! PROOFS. Every command keeps the engine sound. -/

namespace Sys2Proof.Machine
set_option Elab.async false

open Sys2Proof

/-- Where a command leads to a state, its engine is sound. -/
def LeavesSound (o : Host.Outcome State Fault Refusal) : Prop := ∀ t, o = .next t → t.eng.sound

section
variable {s t : State} {f : BeatUnit → Eng → Eng} {path : Path} {a p : Nat}

theorem LeavesSound.next (h : t.eng.sound) : LeavesSound (.next t) := by
  rintro _ ⟨⟩
  exact h

theorem LeavesSound.ite {c : Prop} {_ : Decidable c} {x y : Host.Outcome State Fault Refusal} (hx : LeavesSound x) (hy : LeavesSound y) :
    LeavesSound (if c then x else y) := by
  split
  · exact hx
  · exact hy

theorem LeavesSound.onEng (h : s.eng.sound) (hf : ∀ {b : BeatUnit} {e : Eng}, e.sound → (f b e).sound) : LeavesSound (.next (s.onEng f)) :=
  .next (hf h)

theorem LeavesSound.onPort (h : s.eng.sound) (hf : ∀ {b : BeatUnit} {e : Eng}, e.sound → (f b e).sound) : LeavesSound
    (.next (s.onPort f)) :=
  .onEng h fun h => .ite (hf h) h

theorem Eng.sound.ctlState {f : State → State} (h : s.eng.sound) (hf : (f s).eng.sound) : (ctlState path a f s).eng.sound := by
  unfold Machine.ctlState
  split
  · exact hf.rest
  · exact h.rest
  · exact h.rest

theorem LeavesSound.ctlWrite (h : s.eng.sound) (hf : ∀ {b : BeatUnit} {e : Eng}, e.sound → (f b e).sound) :
    LeavesSound (ctlWrite path a f s) := .next (h.ctlState (hf h))

theorem LeavesSound.ctlPart (h : s.eng.sound) (hf : ∀ {b : BeatUnit} {e : Eng}, e.sound → (f b e).sound) :
    LeavesSound (ctlPart path a p f s) := .ite (.next (h.ctlState h).cfgErr) (.ctlWrite h hf)

theorem LeavesSound.doorWrite (h : s.eng.sound) {off : Nat} {states : List Nat}
    (hf : ∀ {b : BeatUnit} {e : Eng}, e.sound → (f b e).sound) : LeavesSound (doorWrite p off states f s) :=
  .ctlWrite h fun h => .ite (hf h) h.dbDrop

theorem LeavesSound.runIns (h : s.eng.sound) {self : Instr} {n : Enc} {i : Ins} {more : Option Nat}
    (hf : ∀ {b : BeatUnit} {e : Eng}, e.sound → (f b e).sound) : LeavesSound (runIns self n i more f s) := by
  refine .onEng h fun h => .ite h (.ite h.ctxFault ?_)
  split
  · exact .ite h h.ctxFault
  refine .ite h.illegal ?_
  split
  · exact h.illegal
  split
  · exact h.illegal
  · exact .ite (hf (.onCtx (.ite h.giveSlot h))) h.finish

theorem LeavesSound.ledgIns (h : s.eng.sound) {self : Instr} {minor : Nat} {i : Ins} {k : LedgKind} : LeavesSound
    (ledgIns self minor i k s) :=
  .runIns h fun h => .ite (.ite (.wait_ h.rest) (.ledgCycle h.rest fun h => h)) h.raise
end

section
variable {e k : Eng} {s t : State}

/-! ### Commands of one part of the engine -/

theorem Eng.sound.execAlertDue (h : s.eng.sound) {p : Fin 32} : LeavesSound (execAlertDue p s) := by
  refine .onEng h fun h => ?_
  split
  · exact h
  · exact .ite h.onReq.postAlert h.onReq

theorem Eng.sound.execCqHead (h : s.eng.sound) {p : Fin 32} {v : Word} : LeavesSound (execCqHead p v s) :=
  .doorWrite h fun h => .ite h.wr.drainRing h.dbDrop

theorem Eng.sound.execTrHead (h : s.eng.sound) {p : Fin 32} {n : Fin 256} {v : Word} : LeavesSound (execTrHead p n v s) :=
  .doorWrite h fun h => .ite h.wr.drainRing.tryFreeTring h.dbDrop

theorem Eng.sound.execBseal (h : s.eng.sound) {i : Ins} : LeavesSound (execBseal i s) := by
  refine .runIns h fun h => ?_
  split
  · exact h.raiseBatch
  · exact .ite h.finS (.ite h.force.discardBatch.finS h.force.seal.finS)

theorem Eng.sound.execSqTail (h : s.eng.sound) {p : Fin 32} {v : Word} : LeavesSound (execSqTail p v s) :=
  .doorWrite h fun h => .ite h.dbDrop.ev (.ite h.dbDrop h.wr)

theorem Eng.sound.execAdmitDescriptor (h : s.eng.sound) {p : Fin 32} {ecc : Ecc} : LeavesSound (execAdmitDescriptor p ecc s) := by
  refine .onEng h fun h => .ite h (.ite h.rest.ev.tenantFault ?_)
  split
  · exact h.rest.setF.receive
  · exact h.rest.setF.bump.receive
  · exact h.rest.setF.receive

theorem Eng.sound.execLedgerBalStage (h : s.eng.sound) {path : Path} {v : Word} : LeavesSound (execLedgerBalStage path v s) :=
  .ctlWrite h fun h => h.rest

theorem Eng.sound.execModelCfgWrite (h : s.eng.sound) {path : Path} {p : Fin 32} {reg : BitVec 8} {v : Word} :
    LeavesSound (execModelCfgWrite path p reg v s) :=
  .ctlWrite h fun h => .ite h.writeBudget (.ite h.writeModel h)

theorem Eng.sound.execLpCmdDone (h : s.eng.sound) : LeavesSound (execLpCmdDone s) := by
  refine .onEng h fun h => ?_
  split
  · exact h
  · refine .ite h (.ite h.rest.setF.setF ?_)
    refine .ite ?_ ?_
    · refine .showLps (.rest ?_)
      exact .foldl h.rest.setF.setF fun _ h => h.holdPage
    · refine .showLps (.rest ?_)
      exact .foldl h.rest.setF.setF fun _ h => h.setPage

theorem Eng.sound.execFlush (h : s.eng.sound) {path : Path} {p : Fin 32} : LeavesSound (execFlush path p s) :=
  .ctlWrite h fun h => h.flushTrees

theorem Eng.sound.execBitRequest (h : s.eng.sound) {port : Fin 8} {bytes : List Byte} {crcOk : Bool} :
    LeavesSound (execBitRequest port bytes crcOk s) := by
  refine .onPort h fun h => .ite h (.ite (.ite (.rest ?_) (.bitReject (.ite h.bump.ev h.bump))) (.ite h.rest h.bitServe))
  exact .ite h.bump.ev h.bump

theorem Eng.sound.execRomRebuildDone (h : s.eng.sound) : LeavesSound (execRomRebuildDone s) := by
  refine .onEng h fun h => .ite h (.foldl h.rest fun _ h => ?_)
  split
  · exact h.bitServe
  · exact h.bitReject

theorem Eng.sound.execVbind (h : s.eng.sound) {i : Ins} : LeavesSound (execVbind i s) := by
  refine .runIns h fun h => .ite h.finish ?_
  split
  · exact h.raise
  · exact h.finish

theorem Eng.sound.execPlanePassStart (h : s.eng.sound) : LeavesSound (execPlanePassStart s) := by
  refine .onEng h fun h => .ite h ?_
  split
  · exact h
  · split
    · exact h
    · split
      · exact h
      · exact .showPlane (.ite (.learnBlocks (.wr (.ite (.releasePass (.ite h.rest.onOp.onStep h.rest.onOp))
          (.ite h.rest.onOp.onStep h.rest.onOp)))) (.wr (.ite (.releasePass (.ite h.rest.onOp.onStep h.rest.onOp))
              (.ite h.rest.onOp.onStep h.rest.onOp))))

theorem Eng.sound.execPlaneUnitDone (h : s.eng.sound) {unit : Nat} {mismatch : Bool} :
    LeavesSound (execPlaneUnitDone unit mismatch s) := by
  refine .onEng h fun h => ?_
  split
  · exact .ite h (.stopUnit (.ite h.residue h))
  · split
    · exact h
    · exact .ite h (.ite h.mismatch (.roundStep (.ite h.onOp h.unitDone)))

theorem Eng.sound.execPlanePassEnd (h : s.eng.sound) : LeavesSound (execPlanePassEnd s) := by
  refine .onEng h fun h => ?_
  split
  · exact h
  · refine .ite h (.showPlane ?_)
    refine .ite ?_ ?_
    · refine .opComplete ?_
      refine .ite ?_ ?_
      · refine .releasePass (.onOp (.dropTiles (.rest ?_)))
        exact .ite (.autoTail (.ite h.bumpWrap.backPass (.ite h.bumpWrap.learnRows (.ite h.bumpWrap.draftLists h.bumpWrap))))
            (.ite h.bumpWrap.backPass (.ite h.bumpWrap.learnRows (.ite h.bumpWrap.draftLists h.bumpWrap)))
      · refine .onOp (.dropTiles (.rest ?_))
        exact .ite (.autoTail (.ite h.bumpWrap.backPass (.ite h.bumpWrap.learnRows (.ite h.bumpWrap.draftLists h.bumpWrap))))
            (.ite h.bumpWrap.backPass (.ite h.bumpWrap.learnRows (.ite h.bumpWrap.draftLists h.bumpWrap)))
    · refine .ite ?_ ?_
      · refine .releasePass (.onOp (.dropTiles (.rest ?_)))
        exact .ite (.autoTail (.ite h.bumpWrap.backPass (.ite h.bumpWrap.learnRows (.ite h.bumpWrap.draftLists h.bumpWrap))))
            (.ite h.bumpWrap.backPass (.ite h.bumpWrap.learnRows (.ite h.bumpWrap.draftLists h.bumpWrap)))
      · refine .onOp (.dropTiles (.rest ?_))
        exact .ite (.autoTail (.ite h.bumpWrap.backPass (.ite h.bumpWrap.learnRows (.ite h.bumpWrap.draftLists h.bumpWrap))))
            (.ite h.bumpWrap.backPass (.ite h.bumpWrap.learnRows (.ite h.bumpWrap.draftLists h.bumpWrap)))

theorem Eng.sound.execStepBoundary (h : s.eng.sound) {p : Fin 32} : LeavesSound (execStepBoundary p s) := by
  refine .onEng h fun h => ?_
  split
  · exact h
  · exact .ite h.stepBoundary.phase3IfIdle.kdlPump h

theorem Eng.sound.execDeq (h : s.eng.sound) {i : Ins} : LeavesSound (execDeq i s) := by
  refine .runIns h fun h => ?_
  split
  · exact h.finish
  · exact h.drawFree.onPart.finish

theorem Eng.sound.execQuantumExpiry (h : s.eng.sound) {p : Fin 32} : LeavesSound (execQuantumExpiry p s) := by
  refine .onEng h fun h => ?_
  split
  · exact h
  · exact .ite h.preempt h

theorem Eng.sound.execItemDue (h : s.eng.sound) {p : Fin 32} : LeavesSound (execItemDue p s) := by
  refine .onEng h fun h => ?_
  split
  · exact h
  · split
    · exact .ite h.onPart.ev.bump h.dlLeave.putItem
    · exact h

theorem Eng.sound.execWakeDue (h : s.eng.sound) {p : Fin 32} : LeavesSound (execWakeDue p s) := by
  refine .onEng h fun h => ?_
  split
  · exact h
  · split
    · exact h.dlLeave.wakeCtx
    · exact h

theorem Eng.sound.execTimerDue (h : s.eng.sound) {p : AtCell (Fin 32)} : LeavesSound (execTimerDue p s) := by
  refine .onEng h fun h => ?_
  split
  · exact h
  · split
    · exact h.dlLeave.reach
    · exact h

theorem Eng.sound.execSemOpAtCell (h : s.eng.sound) {cell : AtCell (BitVec 16)} {ids : List Nat} {fails : Bool} :
    LeavesSound (execSemOpAtCell cell ids fails s) := by
  refine .onEng h fun h => .ite h (.ite (.ite h.sliceFail h) ?_)
  refine .ite ?_ ?_
  · refine .foldl (.rest ?_) fun _ h => h.join
    exact .ite h.sliceFail h
  · refine .atCell (.rest ?_)
    exact .ite h.sliceFail h

theorem Eng.sound.execHostSignal (h : s.eng.sound) {p : Fin 32} {v : Word} : LeavesSound (execHostSignal p v s) :=
  .doorWrite h fun h => .ite h.dbDrop h.launch

theorem Eng.sound.execSatClr (h : s.eng.sound) {path : Path} {p : Fin 32} {off : BitVec 16} :
    LeavesSound (execSatClr path p off s) :=
  .ctlWrite h fun h => .ite h (.ite h.launch h.onCell)

theorem Eng.sound.execRealignArm (h : s.eng.sound) {path : Path} {p : Fin 32} {n : Fin 16} {v : Word} :
    LeavesSound (execRealignArm path p n v s) :=
  .ctlWrite h fun h => h.raWrite

theorem Eng.sound.execParkExpiry (h : s.eng.sound) {id : Nat} : LeavesSound (execParkExpiry id s) := by
  refine .onEng h fun h => ?_
  split
  · exact h
  · exact .ite h h.rest.showOcc.bump.ev.logAdd.ingress

theorem Eng.sound.execXbArrive (h : s.eng.sound) {m : RmMsg} : LeavesSound (execXbArrive m s) := by
  refine .onPort h fun h => ?_
  split
  · exact h.rejectGlobal
  · exact .ite h.reject (.ite h.xbCount h.atCell)

theorem Eng.sound.execXbRelease (h : s.eng.sound) {m : RmMsg} : LeavesSound (execXbRelease m s) := by
  refine .onPort h fun h => .ite h ?_
  split
  · exact h.rejectGlobal
  · exact .ite h.reject h.memberRelease

theorem Eng.sound.execAbort (h : s.eng.sound) {path : Path} : LeavesSound (execAbort path s) := .ctlWrite h fun h => h.groupAbort

theorem Eng.sound.execClear (h : s.eng.sound) {path : Path} : LeavesSound (execClear path s) := .ctlWrite h fun h => h.groupClear

theorem Eng.sound.execNfReport (h : s.eng.sound) {path : Path} {p : Fin 32} {v : Word} : LeavesSound (execNfReport path p v s) :=
  .ctlWrite h fun h => h.nfReport

theorem Eng.sound.execPartitionReset (h : s.eng.sound) {path : Path} {p : Fin 32} : LeavesSound (execPartitionReset path p s) :=
  .ctlPart h fun h => .ite h.cfgErr (.ite h h.startReset)

theorem Eng.sound.execEnableSet (h : s.eng.sound) {path : Path} {p : Fin 32} : LeavesSound (execEnableSet path p s) :=
  .ctlWrite h fun h => .ite h.setF h.setF.onPart.drawSource.tryEnable

theorem Eng.sound.execEnableClear (h : s.eng.sound) {path : Path} {p : Fin 32} : LeavesSound (execEnableClear path p s) :=
  .ctlWrite h fun h => .ite h.setF (.ite h.setF.startReset (.ite h.setF.setF h.setF))

theorem Eng.sound.execCtxStart (h : s.eng.sound) {path : Path} {p : Fin 32} {c : Fin 16} : LeavesSound (execCtxStart path p c s) :=
  .ctlPart h fun h => h.ctxCommand fun h => h.onCtx.dispatch

theorem Eng.sound.execCtxStop (h : s.eng.sound) {path : Path} {p : Fin 32} {c : Fin 16} : LeavesSound (execCtxStop path p c s) :=
  .ctlPart h fun h => h.ctxCommand fun h => h.stopNow

theorem Eng.sound.execCtxSave (h : s.eng.sound) {path : Path} {p : Fin 32} {c : Fin 16} : LeavesSound (execCtxSave path p c s) :=
  .ctlPart h fun h => h.ctxCommand fun h => h.ctxProgress.stopNow

theorem Eng.sound.execCtxRestore (h : s.eng.sound) {path : Path} {p : Fin 32} {c : Fin 16} :
    LeavesSound (execCtxRestore path p c s) :=
  .ctlPart h fun h => h.ctxCommand fun h => h.ctxProgress

theorem Eng.sound.execCtxReset (h : s.eng.sound) {path : Path} {p : Fin 32} {c : Fin 16} : LeavesSound (execCtxReset path p c s) :=
  .ctlPart h fun h => h.ctxCommand fun h => h.stopNow

theorem Eng.sound.execCtxResume (h : s.eng.sound) {path : Path} {p : Fin 32} {c : Fin 16} : LeavesSound (execCtxResume path p c s) :=
  .ctlPart h fun h => h.ctxCommand fun h => h.onCtx.dispatch

theorem Eng.sound.execHlogHead (h : s.eng.sound) {path : Path} {v : Word} : LeavesSound (execHlogHead path v s) :=
  .ctlWrite h fun h => .ite h.wr.hlogPump h

theorem Eng.sound.execLevelSet (h : s.eng.sound) {path : Path} {level : BitVec 16} : LeavesSound (execLevelSet path level s) :=
  .ctlWrite h fun h => .ite h h.rest

theorem Eng.sound.execFltHead (h : s.eng.sound) {path : Path} {p : Fin 32} {v : Word} : LeavesSound (execFltHead path p v s) :=
  .ctlWrite h fun h => .ite h.wr h.cfgErr

theorem Eng.sound.execEfrHead (h : s.eng.sound) {path : Path} {v : Word} : LeavesSound (execEfrHead path v s) :=
  .ctlWrite h fun h => .ite h.wr h

theorem Eng.sound.execKdlDone (h : s.eng.sound) {chan : Fin 68} {m : KdlMsg} : LeavesSound (execKdlDone chan m s) := by
  refine .onPort h fun h => .ite h (.ite h.upBad (.ite (.ite h.rest.upGood h.upBad) ?_))
  split
  · exact .ite h.upBad h.onStep.upGood.flushRecs
  · exact h.upBad

theorem Eng.sound.execKdlError (h : s.eng.sound) {chan : Fin 68} {m : KdlMsg} : LeavesSound (execKdlError chan m s) := by
  refine .onPort h fun h => .ite h (.ite h.upBad ?_)
  split
  · exact .ite h.upBad (.ite h.bump.upGood.onStep.failChan h.bump.upGood.onStep.rest.kdlPump)
  · exact h.upBad

theorem Eng.sound.execRqld (h : s.eng.sound) {i : Ins} : LeavesSound (execRqld i s) := by
  refine .runIns h fun h => ?_
  split
  · exact h.raiseReq
  · exact h.finS

theorem Eng.sound.execRqst (h : s.eng.sound) {i : Ins} : LeavesSound (execRqst i s) := by
  refine .runIns h fun h => ?_
  split
  · exact h.raiseReq
  · exact .ite h.raiseReq (.ite h.raiseReq h.setRqw.fin)

theorem Eng.sound.execRqcas (h : s.eng.sound) {i : Ins} : LeavesSound (execRqcas i s) := by
  refine .runIns h fun h => ?_
  split
  · exact h.raiseReq
  · exact .ite h.raiseReq (.ite h.raiseReq (.finS (.ite h.setRqw h)))

theorem Eng.sound.execWvpinPin (h : s.eng.sound) {i : Ins} : LeavesSound (execWvpinPin i s) := by
  refine .runIns h fun h => ?_
  split
  · exact h.raiseReq
  · exact .ite h.raise h.onReq.fin

theorem Eng.sound.execWvpinUnpin (h : s.eng.sound) {i : Ins} : LeavesSound (execWvpinUnpin i s) := by
  refine .runIns h fun h => ?_
  split
  · exact h.raiseReq
  · exact h.onReq.fin

theorem Eng.sound.execWarm (h : s.eng.sound) {path : Path} : LeavesSound (execWarm path s) := .ctlWrite h fun h => h.warmAsk

theorem Eng.sound.execMemResponse (h : s.eng.sound) {id : Nat} {resp : MemResp} : LeavesSound (execMemResponse id resp s) := by
  refine .onEng h fun h => ?_
  split
  · exact h
  · exact h.rest.txnDone

theorem Eng.sound.execMemWatchdog (h : s.eng.sound) {id : MemFail} : LeavesSound (execMemWatchdog id s) := by
  refine .onEng h fun h => ?_
  split
  · exact h.failPort.reissue
  · exact .ite h h.portWatchdog.reissue
  · split
    · exact h
    · exact h.portWatchdog.reissue

theorem Eng.sound.execLedgerBalCommit (h : s.eng.sound) {path : Path} {v : Word} : LeavesSound (execLedgerBalCommit path v s) :=
  .ctlWrite h fun h => h.ledgCycle fun h => h.setClamped

theorem Eng.sound.execSpillDrain (h : s.eng.sound) {p : Fin 32} {ring : Option (Fin 256)} : LeavesSound (execSpillDrain p ring s) := by
  refine .onEng h fun h => ?_
  cases ring with
  | none => exact h.drainRing
  | some n => exact .ite h.drainRing h

theorem Eng.sound.execDrainLate (h : s.eng.sound) {p : Fin 32} {ring : Option (Fin 256)} : LeavesSound (execDrainLate p ring s) := by
  refine .onEng h fun h => ?_
  dsimp only
  split
  · split
    · exact .ite h.rest.bump.ev h
    · exact h
  · exact .ite h.onRing.bump.ev h
  · exact .ite h.onPart.bump.ev h

theorem Eng.sound.withGrams (h : e.sound) {l : KMap Gram} : ({ e with grams := l } : Eng).sound := h.rest

theorem Eng.sound.withGramCmd (h : e.sound) {c : Option (Nat × Nat × Nat × Nat × Nat)} : ({ e with gramCmd := c } : Eng).sound := h.rest

theorem Eng.sound.gramWrite (h : s.eng.sound) {path : Path} {op : Nat} {id : BitVec 10} : LeavesSound (gramWrite path op id s) := by
  refine .ctlWrite h fun h => .ite (.ite h.setF h) (.showGram (.withGramCmd (.ite (.withGrams ?_) ?_)))
  all_goals exact .ite h.setF.setF.withGrams h.setF.setF

theorem Eng.sound.execGramCmdDone (h : s.eng.sound) : LeavesSound (execGramCmdDone s) := by
  refine .onEng h fun h => ?_
  split
  · exact h
  · have hend := fun c => (h.withGramCmd (c := c)).setF (a := Reg.smpGramCmd) (hi := 31) (lo := 31) (n := 0)
    exact .ite h (.ite (.showGram (.ite (hend _).setF.withGrams (hend _).setF)) (.showGram (.ite (hend _).setF.withGrams (hend _).setF)))

theorem Eng.sound.execBaddq (h : s.eng.sound) {i : Ins} : LeavesSound (execBaddq i s) := by
  refine .runIns h fun h => ?_
  dsimp only
  split
  · exact h.raise
  split
  · exact h.raiseBatch
  split
  · exact h.finS
  · exact .finS (.ite h.grant.onPart.bump (.ite h.grant.onPart.bump.bump.ev h.grant.onPart))

theorem Eng.sound.execBissue (h : s.eng.sound) {i : Ins} : LeavesSound (execBissue i s) := by
  refine .runIns h fun h => ?_
  dsimp only
  split
  · exact h.raiseBatch
  · exact .ite h.raiseBatch h.onStep.onCtx.issueStep.boundary

theorem Eng.sound.execCancel (hs : s.eng.sound) {p : Fin 32} {h : Word} : LeavesSound (execCancel p h s) := by
  refine .doorWrite hs fun hs => .ite hs.dbDrop ?_
  split
  · exact hs.bump.ev
  · exact .ite hs hs.bumpWrap.onReq

theorem Eng.sound.execAdmissionRecordHandoff (h : s.eng.sound) {p : Fin 32} : LeavesSound (execAdmissionRecordHandoff p s) := by
  refine .onEng h fun h => ?_
  dsimp only
  split
  · exact h
  · refine .ite h ?_
    split
    · exact h.onPart.putRec.putRec
    · exact h.onPart.putRec

theorem Eng.sound.execLedgerBoundWrite (h : s.eng.sound) {path : Path} {floor : Bool} {v : Word} :
    LeavesSound (execLedgerBoundWrite path floor v s) := .ctlWrite h fun h => h.setClamped

theorem Eng.sound.withLpPages (h : e.sound) {l : KMap (List Nat)} : ({ e with lpPages := l } : Eng).sound := h.rest

theorem Eng.sound.withLps (h : e.sound) {l : KMap Nat} : ({ e with lps := l } : Eng).sound := h.rest

theorem Eng.sound.withLpCmd (h : e.sound) {c : Option (Nat × Nat × Nat)} : ({ e with lpCmd := c } : Eng).sound := h.rest

theorem Eng.sound.lpWrite (h : s.eng.sound) {path : Path} {op : Nat} {id : BitVec 16} : LeavesSound (lpWrite path op id s) :=
  .ctlWrite h fun h => .ite h (.withLpCmd (.ite h.setF.setF (.ite h.setF.setF.withLpPages h.setF.setF.withLps.showLps)))

theorem Eng.sound.execBackgroundEvict (h : s.eng.sound) {p : Fin 32} : LeavesSound (execBackgroundEvict p s) := by
  refine .onEng h fun {b e} h => .ite ?_ h
  cases hk : e.evict b p.val with
  | none => exact h
  | some k => exact h.evict hk

theorem Eng.sound.execVmaskGrammar (h : s.eng.sound) {i : Ins} : LeavesSound (execVmaskGrammar i s) := by
  refine .runIns h fun h => h.vec fun _ => ?_
  dsimp only
  split
  · exact h.freeMask.vFin
  · exact .ite h.auxErr.raise h.vFin.partRead

theorem Eng.sound.execVmaskAllow (h : s.eng.sound) {i : Ins} : LeavesSound (execVmaskAllow i s) := by
  refine .runIns h fun h => h.vec fun _ => ?_
  dsimp only
  split
  · exact h.auxCheck.raise
  · exact h.auxCheck.vFin

theorem Eng.sound.execPlaneQueueRoom (h : s.eng.sound) {p : Fin 32} : LeavesSound (execPlaneQueueRoom p s) := by
  refine .onEng h fun h => ?_
  dsimp only
  split
  · exact h
  · refine .ite h ?_
    split
    · exact h.rest.finish
    · exact .ite h.rest.ctxFault h.rest.queueOp.finish

theorem Eng.sound.execIdleBoundary (h : s.eng.sound) {p : Fin 32} : LeavesSound (execIdleBoundary p s) :=
  .onEng h fun h => .ite h (.ite h.onPart.switchIdle (.afterWalk (.foldlOn Prod.snd h.onPart.switchIdle fun _ h => h.walkSlot)))

theorem Eng.sound.execSealProcessed (h : s.eng.sound) {p : Fin 32} : LeavesSound (execSealProcessed p s) := by
  refine .onEng h fun h => ?_
  dsimp only
  split
  · exact h
  · refine .ite h ?_
    split
    · exact h.rest.showBacklog.bumpWrap
    · exact .issueStep (.onStep (.foldl h.rest.showBacklog.bumpWrap fun _ h => h.sealRun))

theorem Eng.sound.execHeldItemMove (h : s.eng.sound) {p level : Fin 32} : LeavesSound (execHeldItemMove p level s) := by
  refine .onEng h fun h => ?_
  dsimp only
  split
  · exact h
  split
  · exact .ite h h.dlLeave.putItem
  · exact h

theorem Eng.sound.execData (h : s.eng.sound) {m : RmMsg} : LeavesSound (execData m s) := by
  refine .onPort h fun h => .ite h (.ite h.reject ?_)
  split
  next hk => exact h.takeData hk
  next => exact h.rest

theorem Eng.sound.execSignal (h : s.eng.sound) {m : AtCell RmMsg} : LeavesSound (execSignal m s) := by
  refine .onPort h fun h => ?_
  split
  next hk => exact (h.takeSignal hk).ingress
  next => exact h.rest

theorem Eng.sound.execCtxCmdComplete (h : s.eng.sound) {p : Fin 32} : LeavesSound (execCtxCmdComplete p s) := by
  refine .onEng h fun h => ?_
  dsimp only
  split
  · exact h
  next op c err _ =>
  refine .ite h (.ite h.ctxDone ?_)
  split
  · exact .ite (.ite h h.stopCtx.release) (.ite (.saveDone (.ite h h.stopCtx.release))
      (.ite (.restoreDone (.ite h h.stopCtx.release)) (.ctxDone (.ite h h.stopCtx.release))))
  · exact .ite h (.ite h.saveDone (.ite h.restoreDone h.ctxDone))

theorem Eng.sound.withNego (h : e.sound) {n : Nego} : ({ e with nego := n } : Eng).sound := h.rest

theorem Eng.sound.withLevelSet (h : e.sound) {l : Option (Nat × Nat)} : ({ e with levelSet := l } : Eng).sound := h.rest

theorem Eng.sound.execLevelEffective (h : s.eng.sound) : LeavesSound (execLevelEffective s) := by
  refine .onEng h fun h => ?_
  extract_lets _ _ e1
  have h1 : e1.sound := by
    dsimp only [e1]
    split
    · exact .ite h.withNego.wr.wr.setLevel h
    · exact h
  clear_value e1
  split
  · exact .ite (.ite h1.withLevelSet h1.withLevelSet.setLevel) h1
  · exact h1

theorem Eng.sound.execKdlHello (h : s.eng.sound) {chan : Fin 68} {credits : Word} : LeavesSound (execKdlHello chan credits s) := by
  refine .onPort h fun h => .ite h (.ite h.upBad (.kdlPump (.ite ?_ h.onChan.showUp.ev)))
  dsimp only
  split
  · exact h.onChan.ev.resendAll
  · exact h.onChan.ev

/-- A version that ANNOUNCE accepts is in no slot (R434). -/
theorem Partn.version_ne_of_slotWith {q : Partn} {v : Nat} (h : (q.slotWith v).isSome = false) {m : Nat} (hm : m < 4)
    (hst : (q.vslot m).st ≠ vsEmpty) :
    v ≠ (q.vslot m).version := by
  have hnone := List.find?_eq_none.mp (Option.isSome_eq_false_iff.mp h |> Option.isNone_iff_eq_none.mp) m (List.mem_range.mpr hm)
  simp only [Bool.and_eq_true, decide_eq_true_eq, not_and] at hnone
  exact fun hv => hnone hst hv.symm

theorem Eng.slotWith_of_announceErr {p v : Nat} (h : e.announceErr p v = 0) : ((e.part p).slotWith v).isSome = false := by
  by_contra hsome
  rw [Bool.not_eq_false] at hsome
  unfold Eng.announceErr at h
  simp only [hsome, or_true, if_true] at h
  split at h
  · exact absurd h (by decide)
  · exact absurd h (by decide)

theorem Eng.sound.execAnnounce (h : s.eng.sound) {path : Path} {p : Fin 32} {version : BitVec 16} :
    LeavesSound (execAnnounce path p version s) := by
  refine .ctlWrite h fun h => ?_
  dsimp only
  split
  next herr _ =>
    refine .ite (.verDone (.phase (.onPart (h.setVslot ?_)))) (.atCell (.verDone (.phase (.onPart (h.setVslot ?_)))))
    all_goals exact fun _ m hm _ hst => Partn.version_ne_of_slotWith (Eng.slotWith_of_announceErr herr) hm hst
  next => exact h.verDone

theorem Partn.vslot_of_slotWith {q : Partn} {v n : Nat} (h : q.slotWith v = some n) : n < 4 ∧ (q.vslot n).st ≠ vsEmpty := by
  have hp := List.find?_some h
  simp only [Bool.and_eq_true, decide_eq_true_eq] at hp
  exact ⟨List.mem_range.mp (List.mem_of_find?_eq_some h), hp.1⟩

theorem Eng.sound.execRetire (h : s.eng.sound) {path : Path} {p : Fin 32} {version : BitVec 16} :
    LeavesSound (execRetire path p version s) := by
  refine .ctlWrite h fun h => ?_
  dsimp only
  split
  next => exact h.verDone
  next hn =>
    obtain ⟨hlt, hst⟩ := Partn.vslot_of_slotWith hn
    exact .ite h.verDone (.ite h.verDone (.ite h.clearVslot.verDone (h.retireSlot hlt hst).verDone))

/-! ### Beat time -/

theorem Eng.sound.advance (h : s.eng.sound) {n : Nat} : (s.advance n).eng.sound := .ite h.refill.realignPoints h

theorem Eng.sound.tick (h : s.eng.sound) : s.tick.eng.sound := by
  obtain htick | htick := State.tick_cases s <;> rw [htick]
  · exact h.advance
  · exact h

theorem Eng.sound.onBeat (h : s.eng.sound) {f : BeatUnit → BeatUnit} : (s.onBeat f).eng.sound := h

theorem Eng.sound.beatEv (h : s.eng.sound) {i : Nat} : (s.beatEv i).eng.sound := h.ev

theorem Eng.sound.stateIte {c : Prop} {_ : Decidable c} (hs : s.eng.sound) (ht : t.eng.sound) : (if c then s else t).eng.sound := by
  split
  · exact hs
  · exact ht

theorem Eng.sound.takeMean (h : s.eng.sound) {l : List Nat} : (s.takeMean l).eng.sound := .stateIte h.setF h.setF.ev

theorem Eng.sound.measureEdge (h : s.eng.sound) {n : Nat} : (s.measure n).eng.sound :=
  .stateIte h.takeMean (.stateIte h.bump.ev h.bump.ev)

theorem Eng.sound.acceptMaster (h : s.eng.sound) {n : Nat} : (s.acceptMaster n).eng.sound :=
  have hs : (if s.beat.idSeen = false ∨ s.eng.fld Reg.beatMasterId 15 0 = n then s else s.beatEv 8).eng.sound := .stateIte h h.beatEv
  hs.onBeat.setF

theorem Eng.sound.enterMaster (h : s.eng.sound) {first : Bool} : (s.enterMaster first).eng.sound := h.onBeat.setF

theorem Eng.sound.enterFree (h : s.eng.sound) : s.enterFree.eng.sound := h.onBeat.setF

theorem Eng.sound.freeBeat (h : s.eng.sound) : s.freeBeat.eng.sound := .stateIte h.setF.ev.engFault h.setF

theorem Eng.sound.masterBeat (h : s.eng.sound) {n : Nat} : (s.masterBeat n).eng.sound :=
  .stateIte h.onBeat.advance.setF h.onBeat.advance.setF.rest

theorem Eng.sound.becomeMaster (h : s.eng.sound) : s.becomeMaster.eng.sound := h.enterMaster.masterBeat

theorem Eng.sound.badFrame (h : s.eng.sound) {started : Bool} : (s.badFrame started).eng.sound :=
  have hev := h.bump.ev
  .stateIte (.enterFree (.beatEv hev)) hev

theorem Eng.sound.execOnTimeEdge (h : s.eng.sound) {n : Nat} : LeavesSound (execOnTimeEdge n s) := by
  refine .next (.stateIte h ?_)
  split
  · exact h
  · exact h
  extract_lets u starts fromValid w
  have hu : u.eng.sound := by
    unfold u
    split
    · exact h.badFrame
    · exact h
  have hw : w.eng.sound := hu
  exact .stateIte hu.becomeMaster (.stateIte hw.advance hw)

theorem Eng.sound.validEdge (h : s.eng.sound) {d : Edge} : (s.validEdge d).eng.sound :=
  .onBeat (.stateIte h.measureEdge h)

theorem Eng.sound.acquireFrame (h : s.eng.sound) {d : Edge} {m : Nat} {holdover : Bool} : (s.acquireFrame d m holdover).eng.sound := by
  unfold State.acquireFrame
  extract_lets run ivs u w
  have hu : u.eng.sound := h
  have hw : w.eng.sound := hu.takeMean
  exact .stateIte hu.advance (.stateIte hw.onBeat.advance hw.onBeat.advance)

theorem Eng.sound.relockFrame (h : s.eng.sound) {m : Nat} : (s.relockFrame m).eng.sound := by
  unfold State.relockFrame
  extract_lets ahead a b c d
  have hc : c.eng.sound := h.beatEv.setF
  have hd : d.eng.sound := .stateIte hc.advance hc
  exact hd.recoverAll

theorem Eng.sound.lockedFrame (h : s.eng.sound) {d : Edge} {m : Nat} {step : Bool} {id : Nat} : (s.lockedFrame d m step id).eng.sound := by
  have hvalid : ((s.validEdge d).acceptMaster id).eng.sound := h.validEdge.acceptMaster
  have hrun : (((s.validEdge d).onBeat fun b => { b with badRun := 0 }).acceptMaster id).eng.sound := h.validEdge.onBeat.acceptMaster
  exact .stateIte (.stateIte hvalid.onBeat.advance hvalid) (.stateIte hrun (.stateIte hrun.beatEv.advance h.badFrame))

theorem Eng.sound.execTimecodeFrame (h : s.eng.sound) {frame : BitVec 96} : LeavesSound (execTimecodeFrame frame s) := by
  refine .next (.stateIte h ?_)
  split
  · exact h
  next d _ =>
  dsimp only
  refine .stateIte h.badFrame (.stateIte (.stateIte h.validEdge.onBeat.advance h.validEdge.onBeat) ?_)
  split
  · exact h.onBeat
  · exact h.onBeat
  · exact h.acquireFrame.acceptMaster
  · exact .stateIte h.validEdge h.validEdge.acceptMaster.relockFrame
  · exact .stateIte h.validEdge h.validEdge.acceptMaster.relockFrame
  · exact h.lockedFrame

theorem Eng.sound.execBeatLoss (h : s.eng.sound) : LeavesSound (execBeatLoss s) :=
  .next (.stateIte h.beatEv.enterFree (.stateIte h.beatEv.enterFree.advance.freeBeat h))

theorem Eng.sound.execFreeRunEdge (h : s.eng.sound) : LeavesSound (execFreeRunEdge s) := by
  refine .next ?_
  split
  · exact .stateIte h.becomeMaster h.advance.freeBeat
  · exact .stateIte h.becomeMaster h.advance.freeBeat
  · exact h

theorem Eng.sound.execMasterEdge (h : s.eng.sound) : LeavesSound (execMasterEdge s) := by
  refine .next ?_
  split
  · exact .stateIte h.enterFree.onBeat.advance.freeBeat h.masterBeat
  · exact h

theorem Eng.sound.setMode (h : s.eng.sound) {m : Nat} : (s.setMode m).eng.sound := h.setF

theorem Eng.sound.sameMode (h : s.eng.sound) {m : Nat} : (s.sameMode m).eng.sound := .stateIte h.beatEv h.setMode

theorem Eng.sound.modeFollower (h : s.eng.sound) : s.modeFollower.eng.sound := by
  unfold State.modeFollower
  split
  · exact h.setMode.onBeat
  · exact .stateIte h h.setMode.onBeat
  · exact h.sameMode

theorem Eng.sound.modeMaster (h : s.eng.sound) : s.modeMaster.eng.sound := by
  unfold State.modeMaster
  split
  · exact h.setMode.enterMaster
  · exact h.setMode.enterMaster
  · exact h.sameMode
  · exact .stateIte h h.setMode.onBeat

theorem Eng.sound.modeOff (h : s.eng.sound) : s.modeOff.eng.sound := .stateIte h.setMode.onBeat h.setMode.onBeat.beatEv

/-! ### The management cores -/

theorem Eng.sound.updEnd (h : s.eng.sound) {err : Nat} : (s.updEnd err).eng.sound := by
  unfold State.updEnd
  split
  · exact h
  · exact h.setF.setF.rest.ev.logAdd

theorem Eng.sound.bootFail (h : s.eng.sound) {c : Nat} : (s.bootFail c).eng.sound := by
  have hfailed : (s.eng.onCore c fun x => { x with role := .failed, fails := (s.eng.core c).fails + 1 }).sound := h.onCore nofun
  exact .stateIte (.updEnd h.bootCore) (.ite h.bootCore (.ite (.ite hfailed.headless.ev.setF hfailed.headless.ev) hfailed))

theorem Eng.logAdd_mcores (b : BeatUnit) (code sev : Nat) (p : Option Nat) (pay : List Byte) (e : Eng) :
    (e.logAdd b code sev p pay).mcores = e.mcores := by
  obtain ⟨⟨_, _, _, _, hlog⟩, -⟩ := Eng.logAdd_logsOnly b code sev p pay e
  rw [hlog]

theorem State.updEnd_mcores (s : State) (err : Nat) : (s.updEnd err).eng.mcores = s.eng.mcores := by
  unfold State.updEnd
  split
  · rfl
  · rw [State.onEng_eng, Eng.logAdd_mcores, Eng.ev_mcores]
    dsimp only
    rw [Eng.setF_mcores, Eng.setF_mcores]

theorem Eng.headless_mcores (e : Eng) : e.headless.mcores = e.mcores := by
  unfold Eng.headless
  split
  · rfl
  · rw [Eng.ev_mcores, Eng.setF_mcores]

theorem Eng.core_of_mcores {f : Eng} (h : f.mcores = e.mcores) (c : Nat) : f.core c = e.core c := by
  unfold Eng.core
  rw [h]

theorem otherCore_otherCore (c : Fin 2) : otherCore (otherCore c.val) = c.val := by
  unfold otherCore
  omega

theorem Eng.core_onCore_self (e : Eng) (c : Nat) (f : MCore → MCore) : (e.onCore c f).core c = f (e.core c) := by
  unfold Eng.onCore Eng.core
  rw [Eng.setF_mcores, kget_kmod_self]

theorem Eng.sound.coreFail (h : s.eng.sound) {c : Fin 2} {trigger : Nat} : (s.coreFail c.val trigger).eng.sound := by
  unfold State.coreFail
  split
  · exact h
  · exact h.bootFail
  · exact h.bootCore
  extract_lets u
  have hu : u.eng.sound := Eng.sound.updEnd (s := { s with eng := s.eng.bootCore c.val s.bootPick 0 }) h.bootCore
  have hrole : (u.eng.headless.core c.val).role ≠ .active := by
    rw [Eng.core_of_mcores (u.eng.headless_mcores.trans (State.updEnd_mcores ..)), Eng.bootCore, Eng.core_onCore_self]
    nofun
  refine .ite (.logTakeover (.ev (.bump (hu.headless.makeActive ?_)))) hu.headless
  rwa [otherCore_otherCore]

theorem Eng.activeCore_eq_none (h : e.activeCore = none) (c : Fin 2) : (e.core c.val).role ≠ .active := by
  unfold Eng.activeCore at h
  have hc := List.find?_eq_none.mp h c.val (List.mem_range.mpr c.isLt)
  exact fun hr => hc (decide_eq_true hr)

theorem Eng.activeCore_eq_some {a : Nat} (h : e.activeCore = some a) : (e.core a).role = .active ∧ a < 2 := by
  unfold Eng.activeCore at h
  exact ⟨of_decide_eq_true (List.find?_some (p := fun c => decide ((e.core c).role = .active)) h), List.mem_range.mp
      (List.mem_of_find?_eq_some h)⟩

theorem LeavesSound.onEngSelf {f : BeatUnit → Eng → Eng} (h : (f s.beat s.eng).sound) : LeavesSound (.next (s.onEng f)) := .next h

theorem Eng.sound.makeFirstActive (h : e.sound) {c : Fin 2} (hnone : e.activeCore = none) : (e.makeActive c.val).sound :=
  h.makeActive (Eng.activeCore_eq_none hnone ⟨otherCore c, by unfold otherCore; omega⟩)

theorem Eng.sound.handOver (h : e.sound) {c : Fin 2} {a slot : Nat} (hsome : e.activeCore = some a) (hc : (e.core c.val).role ≠ .active) :
    ((e.bootCore a slot 0).makeActive c.val).sound := by
  obtain ⟨ha, hlt⟩ := Eng.activeCore_eq_some hsome
  have hne : a ≠ c.val := fun heq => hc (heq ▸ ha)
  have hother : otherCore c.val = a := by
    unfold otherCore
    omega
  refine h.bootCore.makeActive ?_
  rw [hother, Eng.bootCore, Eng.core_onCore_self]
  nofun

theorem Eng.sound.execKick (h : s.eng.sound) {core : Fin 2} : LeavesSound (execKick core s) := by
  obtain ⟨make, hmake⟩ : ∃ make, make = Eng.makeActive := ⟨_, rfl⟩
  unfold Machine.execKick
  rw [← hmake]
  extract_lets c level
  split
  · exact .next h
  next hkick =>
  have hboot : (s.eng.core c).role = .booting := Decidable.not_not.mp fun hr => hkick (.inl hr)
  refine .onEngSelf ?_
  extract_lets f
  have hf : f.sound := h.onCore fun hr => .inl hr
  have hnot : (f.core core.val).role ≠ .active := by
    rw [Eng.core_onCore_self]
    exact fun hr => absurd (hboot.symm.trans hr) nofun
  clear_value f
  have hstand : (f.onCore c fun x => { x with role := .standby, fails := 0 }).sound := hf.onCore nofun
  split
  next g k _ hnone =>
    have hg : g.sound := by
      unfold g
      exact hmake ▸ hf.makeFirstActive hnone
    have hk : k.sound := .ite hg.setF hg
    clear_value k
    split
    · exact hk
    split
    next hx => exact (hk.drawFree.snd hx).rest.logTakeover
  next a hsome =>
  split
  · exact .ite (Eng.sound.rest (hmake ▸ hf.handOver hsome hnot)).logTakeover hstand
  · exact hstand

/-! ### Updates -/

theorem Eng.sound.withUpd (h : e.sound) {u : Option UpdCmd} : ({ e with upd := u } : Eng).sound := h.rest

theorem Eng.sound.withRestarted (h : e.sound) {r : Option Nat} : ({ e with restarted := r } : Eng).sound := h.rest

theorem Eng.sound.withFree (h : e.sound) {n : Nat} : ({ e with free := n } : Eng).sound := h.rest

theorem LeavesSound.updStart (h : s.eng.sound) {path : Path} {op : Nat} {f : State → State}
    (hf : ∀ {t : State}, t.eng.sound → (f t).eng.sound) : LeavesSound (updStart path op f s) := by
  refine .next (h.ctlState (.stateIte h ?_))
  extract_lets slot on t
  have ht : t.eng.sound := h.setF.withUpd
  exact .stateIte (hf ht) ht

theorem Eng.sound.execStage (h : s.eng.sound) {path : Path} : LeavesSound (execStage path s) := by
  refine .updStart h fun {t} h => ?_
  dsimp only
  split
  · exact h.onUpd.updProgress
  · exact h.onUpd.updProgress

theorem Eng.sound.execActivateUcode (h : s.eng.sound) {path : Path} : LeavesSound (execActivateUcode path s) :=
  .updStart h fun h => h.onUpd

theorem Eng.sound.execActivateMgmt (h : s.eng.sound) {path : Path} : LeavesSound (execActivateMgmt path s) :=
  .updStart h fun h => .ite h.onUpd (.ite h.onUpd h.bootCore.onUpd)

theorem Eng.sound.execConfirm (h : s.eng.sound) {path : Path} : LeavesSound (execConfirm path s) := .updStart h fun h => h.onUpd

theorem Eng.sound.execRevert (h : s.eng.sound) {path : Path} : LeavesSound (execRevert path s) := .updStart h fun h => h.onUpd

theorem Eng.sound.updEffect (h : s.eng.sound) {u : UpdCmd} : (s.updEffect u).eng.sound := by
  unfold State.updEffect
  extract_lets img gen f
  split
  · exact h.updProgress
  · exact h.rest.switchParts
  · exact h
  · exact h.switchParts
  · exact h

theorem Eng.sound.execUpdCmdDone (h : s.eng.sound) : LeavesSound (execUpdCmdDone s) := by
  refine .next ?_
  split
  · exact h
  · exact .stateIte h (.stateIte h.updEnd h.updEffect.updEnd)

theorem Eng.sound.execLogMirror (h : s.eng.sound) : LeavesSound (execLogMirror s) := by
  refine .next (.stateIte h ?_)
  extract_lets e next from_ first t l all flash
  have ht : t.eng.sound := .stateIte h h.logRaw
  exact .ite ht.setF.rest ht.setF.hlogPump

theorem Eng.sound.execUcodeLoadDone (h : s.eng.sound) {loaded : Bool} : LeavesSound (execUcodeLoadDone loaded s) := by
  refine .next (.stateIte h (.stateIte h.phaseTo ?_))
  exact Eng.sound.setF (.phaseTo (.phaseTo (.showLevel (.setF h.rest))))

/-! ### Watchdogs, restarts and resets -/

theorem Eng.sound.execMgmtWatchdog (h : s.eng.sound) {core : Fin 2} : LeavesSound (execMgmtWatchdog core s) :=
  .next (.stateIte h.coreFail h)

theorem Eng.sound.execMgmtCoreFault (h : s.eng.sound) {core : Fin 2} {sram : Bool} : LeavesSound (execMgmtCoreFault core sram s) :=
  .next (.stateIte h h.coreFail)

theorem Eng.sound.execBootLimitExpiry (h : s.eng.sound) {core : Fin 2} : LeavesSound (execBootLimitExpiry core s) :=
  .next (.stateIte h.bootFail h)

theorem Eng.sound.execRestart (h : s.eng.sound) {path : Path} : LeavesSound (execRestart path s) := by
  refine .next (h.ctlState ?_)
  extract_lets old slot t
  have ht : t.eng.sound := h.updEnd
  exact ht.bootCore.bootCore.headless.withRestarted

theorem Eng.sound.bootBoth (h : s.eng.sound) : s.bootBoth.eng.sound := h.bootCore.bootCore

theorem Eng.sound.execPowerLoss (h : s.eng.sound) : LeavesSound (execPowerLoss s) :=
  .next (Eng.sound.bootBoth (s := { s with beat := BeatUnit.cold, eng := s.eng.afterCold }) h.afterCold)

theorem Eng.sound.execColdReset (h : s.eng.sound) {powerOn : Bool} : LeavesSound (execColdReset powerOn s) := by
  refine .next ?_
  extract_lets e f
  have hf : f.sound := Eng.sound.setF (.wr (.afterCold (.ite h h.absentAll)))
  exact Eng.sound.bootBoth (s := { s with beat := BeatUnit.cold, eng := f }) hf

/-! ### Reads of the window -/

theorem Eng.sound.withLatch (h : e.sound) {l : KMap Word} : ({ e with latch := l } : Eng).sound := h.rest

theorem Eng.sound.readEffect (h : s.eng.sound) {path : Path} {a : Nat} : (s.readEffect path a).eng.sound := by
  refine .stateIte h ?_
  extract_lets e dom word l f g
  have hf : f.sound := .ite h.rest h
  have hg : g.sound := .ite h.rest (.ite hf.withLatch h)
  exact hg.withFree

theorem Eng.sound.readAt (h : s.eng.sound) {path : Path} {a : Nat} : (s.readAt path a).eng.sound :=
  .stateIte h.rest h.readEffect.rest

/-! ### Writes of the window, and Strings -/

theorem Eng.sound.withResp (h : e.sound) {r : Resp} : ({ e with resp := r } : Eng).sound := h.rest

theorem Eng.sound.execLpLoad (h : s.eng.sound) {path : Path} {id : BitVec 16} : LeavesSound (execLpLoad path id s) := h.lpWrite

theorem Eng.sound.execLpUnload (h : s.eng.sound) {path : Path} {id : BitVec 16} : LeavesSound (execLpUnload path id s) := h.lpWrite

theorem Eng.sound.execGramLoad (h : s.eng.sound) {path : Path} {id : BitVec 10} : LeavesSound (execGramLoad path id s) := h.gramWrite

theorem Eng.sound.execGramUnload (h : s.eng.sound) {path : Path} {id : BitVec 10} : LeavesSound (execGramUnload path id s) := h.gramWrite

theorem LeavesSound.nextOr {o : Host.Outcome State Fault Refusal} (h : s.eng.sound) (ho : LeavesSound o) : (nextOr s o).eng.sound := by
  unfold Machine.nextOr
  split
  · exact ho _ rfl
  · exact h

theorem Eng.sound.beatWrite (h : s.eng.sound) {path : Path} {v : Nat} : LeavesSound (beatWrite path v s) := by
  unfold Machine.beatWrite
  split
  · exact .next (h.ctlState h.modeOff)
  · exact .next (h.ctlState h.modeFollower)
  · exact .next (h.ctlState h.modeMaster)
  · exact .next (h.ctlState h.beatEv)

theorem Eng.sound.partCtrlWrite (h : s.eng.sound) {path : Path} {p : Fin 32} {v : Nat} : LeavesSound (partCtrlWrite path p v s) :=
  have ht := LeavesSound.nextOr h (.ite h.execEnableSet h.execEnableClear)
  .ite ht.execPartitionReset (.next ht)

theorem Eng.sound.ctxCmdWrite (h : s.eng.sound) {path : Path} {p : Fin 32} {v : Nat} : LeavesSound (ctxCmdWrite path p v s) := by
  unfold Machine.ctxCmdWrite
  dsimp only
  split
  · exact h.execCtxStart
  · exact h.execCtxStop
  · exact h.execCtxSave
  · exact h.execCtxRestore
  · exact h.execCtxReset
  · exact h.execCtxResume
  · exact .ctlWrite h fun h => .ite h h.setF

theorem Eng.sound.selectorWrite (h : s.eng.sound) {path : Path} {a hi v : Nat} : LeavesSound (selectorWrite path a hi v s) :=
  .ctlWrite h fun h => h.setF

theorem LeavesSound.unchanged (h : s.eng.sound) {path : Path} {a : Nat} : LeavesSound (Machine.ctlWrite path a (fun _ e => e) s) :=
  .ctlWrite h fun h => h

theorem Eng.sound.drawWrite (h : s.eng.sound) {path : Path} {strings : Bool} {r : RegRow} {p : Nat} {v : Word} :
    LeavesSound (drawWrite path strings r p v s) := by
  refine .ctlWrite h fun {b e} h => ?_
  have hput : (((e.plainBut r (Reg.latDrawCtrl p) 1 0 v).timedSources b p).putSw p (v.getLsbD 0)).sound := h.plainBut.timedSources.putSw
  exact .drawTurn (.ite hput.putMgmt hput)

theorem Eng.sound.manualWrite (h : s.eng.sound) {path : Path} {strings : Bool} {a : Nat} {v : Word} :
    LeavesSound (manualWrite path strings a v s) := by
  refine .ite (.unchanged h) (.ite (.ctlWrite h fun h => h.wr) ?_)
  split
  · exact .ctlWrite h fun h => h.manual
  · exact .ctlWrite h fun h => h.manual
  · exact h.selectorWrite

theorem Eng.sound.updWrite (h : s.eng.sound) {path : Path} {v : Nat} : LeavesSound (updWrite path v s) := by
  unfold Machine.updWrite
  extract_lets t
  have ht : t.eng.sound := .stateIte h (LeavesSound.nextOr h h.selectorWrite)
  split
  · exact ht.execStage
  · exact ht.execActivateUcode
  · exact ht.execActivateMgmt
  · exact ht.execConfirm
  · exact ht.execRevert
  · exact h.selectorWrite

theorem Eng.sound.kickWrite (h : s.eng.sound) {path : Path} : LeavesSound (kickWrite path s) := by
  unfold Machine.kickWrite
  split
  · exact Eng.sound.execKick (h.ctlState h)
  · exact .unchanged h

/-- Where a register's write is a command, the command leaves the engine sound. -/
def CommandSound (o : Option (Host.Outcome State Fault Refusal)) : Prop := ∀ x, o = some x → LeavesSound x

theorem CommandSound.absent : CommandSound none := by
  rintro _ ⟨⟩

theorem CommandSound.ite {c : Prop} {_ : Decidable c} {x : Host.Outcome State Fault Refusal} {o : Option (Host.Outcome State Fault Refusal)}
    (hx : LeavesSound x) (ho : CommandSound o) : CommandSound (if c then some x else o) := by
  split
  · rintro _ ⟨⟩
    exact hx
  · exact ho

theorem Eng.sound.engineCommand (h : s.eng.sound) {path : Path} {strings : Bool} {r : RegRow} {v : Word} :
    CommandSound (engineCommand path strings r v s) := by
  unfold Machine.engineCommand
  extract_lets b n
  refine .ite h.beatWrite <| .ite (.ite h.execWarm (.unchanged h)) <| .ite h.manualWrite ?_
  refine .ite h.execLedgerBalStage <| .ite h.execLedgerBalCommit <| .ite h.execLedgerBoundWrite <| .ite h.execLedgerBoundWrite ?_
  refine .ite (.ctlWrite h fun h => h.ledgerField) <| .ite (.ctlWrite h fun h => h.groupWrite) ?_
  refine .ite ?_ <| .ite ?_ <| .ite ?_ ?_
  · split
    · exact h.execAbort
    · exact h.execClear
    · exact .unchanged h
  · split
    · exact h.execLpLoad
    · exact h.execLpUnload
    · exact h.selectorWrite
  · split
    · exact h.execGramLoad
    · exact h.execGramUnload
    · exact h.selectorWrite
  refine .ite h.execEfrHead <| .ite (.ite h.execRestart (.unchanged h)) <| .ite h.execHlogHead <| .ite h.updWrite <| .ite h.execLevelSet ?_
  refine .ite (.next (h.ctlState h.fieldWrite)) <| .ite h.kickWrite <| .ite (.ctlWrite h fun h => h.fieldWrite.logFlow) ?_
  exact .ite (.ctlWrite h fun h => .ite h h.fieldWrite) .absent

theorem Eng.sound.partCommand (h : s.eng.sound) {path : Path} {strings : Bool} {r : RegRow} {a p n : Nat} {v : Word} :
    CommandSound (partCommand path strings r a p n v s) := by
  unfold Machine.partCommand
  extract_lets b q w
  refine .ite h.partCtrlWrite <| .ite h.ctxCmdWrite <| .ite h.execSatClr <| .ite h.execRealignArm ?_
  refine .ite h.execModelCfgWrite <| .ite h.execModelCfgWrite <| .ite (.ite h.execFlush (.unchanged h)) ?_
  refine .ite h.drawWrite <| .ite (.ctlWrite h fun h => h.plain.timedSources.drawTurn) <| .ite ?_ ?_
  · split
    · exact h.execAnnounce
    · exact h.execRetire
    · exact h.selectorWrite
  · exact .ite h.execNfReport <| .ite h.execFltHead .absent

theorem Eng.sound.doorPage (h : s.eng.sound) {path : Path} {a : Nat} {v : Word} : (doorPage path a v s).eng.sound := by
  have hdoor : ∀ {p off : Nat} {states : List Nat}, LeavesSound (doorWrite p off states (fun _ e => e) s) := .doorWrite h fun h => h
  refine .stateIte (h.ctlState h) (LeavesSound.nextOr h ?_)
  exact .ite h.execSqTail <| .ite h.execCancel <| .ite h.execCqHead <| .ite h.execHostSignal <| .ite h.execTrHead <| .ite hdoor hdoor

theorem Eng.sound.windowWrite (h : s.eng.sound) {path : Path} {strings : Bool} {a : Nat} {v : Word} :
    (windowWrite path strings a v s).eng.sound := by
  refine .stateIte h.doorPage ?_
  split
  · exact h.ctlState h
  next r _ =>
  extract_lets p n
  have hcmd : CommandSound
      (if r.pstride = 0 then Machine.engineCommand path strings r v s else Machine.partCommand path strings r a p n v s) := by
    split
    · exact h.engineCommand
    · exact h.partCommand
  split
  next o ho => exact LeavesSound.nextOr h (hcmd o ho)
  next => exact h.ctlState h.fieldWrite

theorem Eng.sound.strRead (h : s.eng.sound) {src : StringsSrc} {space : BitVec 2} {addr : Dword} :
    (s.strRead src space addr).eng.sound := by
  unfold State.strRead
  extract_lets err v t
  have ht : t.eng.sound := .stateIte h.readEffect h.withFree
  exact .ite ht.strShow (.ite ht.strShow.wr ht.strShow.wr.wr)

theorem Eng.sound.strPut (h : s.eng.sound) {src : StringsSrc} {space : BitVec 2} {addr data : Dword} :
    (s.strPut src space addr data).eng.sound := by
  unfold State.strPut
  split
  · extract_lets t
    have ht : t.eng.sound := Eng.sound.windowWrite (s := s.onEng fun _ e => e.setF Reg.dbgCmd 31 31 1) h.setF
    exact ht.setF.withResp
  · exact .stateIte (h.withRqt (kwf_kset _ _ _ _ h.rqt)).rest h
  · exact h.mirrorWrite
  · exact h

theorem Eng.sound.strWrite (h : s.eng.sound) {src : StringsSrc} {space : BitVec 2} {addr data : Dword} :
    (s.strWrite src space addr data).eng.sound := by
  unfold State.strWrite
  extract_lets err t old u new
  have ht : t.eng.sound := .ite h.strShow.wr h.strShow.wr.wr
  have hu : u.eng.sound := ht.strPut
  exact .stateIte ht hu.withFree.strLog

theorem Eng.sound.dbgCommand (h : s.eng.sound) {src : StringsSrc} {cmd : Nat} : (s.dbgCommand src cmd).eng.sound := by
  unfold State.dbgCommand
  extract_lets space t
  have ht : t.eng.sound := h.setF
  split
  · exact ht.strRead
  · exact ht.strWrite
  · exact ht

theorem Eng.sound.execRegisterWrite (h : s.eng.sound) {path : Path} {addr : BitVec 22} {data : Word} {strbFull : Bool} :
    LeavesSound (execRegisterWrite path addr data strbFull s) :=
  .next (.stateIte h.withResp (.stateIte (h.ctlState h.dbgCommand) h.windowWrite))

theorem Eng.sound.execI2cRead (h : s.eng.sound) : LeavesSound (execI2cRead s) := by
  refine .next ?_
  extract_lets a v t
  have ht : t.eng.sound := .stateIte h.readEffect h
  exact ht.rest

theorem Eng.sound.execJtagUpdateDr (h : s.eng.sound) {bits : BitVec 160} : LeavesSound (execJtagUpdateDr bits s) := by
  refine .next ?_
  extract_lets t n u
  have ht : t.eng.sound := h.rest
  have hu : u.eng.sound := ht.wr.wr.wr.wr
  exact .stateIte ht hu.dbgCommand

end

/-! ### All commands -/

/-- Every command keeps the engine sound: each by the lemma about the operation that it is. -/
theorem exec_leavesSound {s : State} (h : s.eng.sound) (c : Instr) : LeavesSound (exec c s) := by
  cases c with
  | coldReset => exact h.execColdReset
  | pllLock | sramClearDone => exact .onEng h fun h => .ite h.phaseTo h
  | ucodeLoadDone => exact h.execUcodeLoadDone
  | warmResetPin => exact .onEng h fun h => h.warmAsk
  | warm => exact h.execWarm
  | warmResetComplete => exact .onEng h fun h => .ite h.warmSettle.afterWarm.showKept.warmEnd h
  | timecodeFrame => exact h.execTimecodeFrame
  | beatLoss => exact h.execBeatLoss
  | freeRunEdge => exact h.execFreeRunEdge
  | masterEdge => exact h.execMasterEdge
  | modeFollower => exact .next (h.ctlState h.modeFollower)
  | modeMaster => exact .next (h.ctlState h.modeMaster)
  | modeOff => exact .next (h.ctlState h.modeOff)
  | readBeatNowLo | latchingRead => exact .next h.readAt
  | registerWrite => exact h.execRegisterWrite
  | i2cPointerWrite => exact .next (.stateIte h.rest h)
  | i2cRead => exact h.execI2cRead
  | enableSet => exact h.execEnableSet
  | partitionStart => exact .onEng h fun h => .ite h.startPart h
  | enableClear => exact h.execEnableClear
  | partitionReset => exact h.execPartitionReset
  | resetDeadline => exact .onEng h fun h => .ite h.phase3 h
  | resetClearDone => exact .onEng h fun h => .ite h.phase4.phase5.phase6 h
  | sqTail => exact h.execSqTail
  | cancel => exact h.execCancel
  | cqHead => exact h.execCqHead
  | trHead => exact h.execTrHead
  | hostSignal => exact h.execHostSignal
  | ctxStart => exact h.execCtxStart
  | ctxStop => exact h.execCtxStop
  | ctxSave => exact h.execCtxSave
  | ctxRestore => exact h.execCtxRestore
  | ctxReset => exact h.execCtxReset
  | ctxResume => exact h.execCtxResume
  | ctxCmdComplete => exact h.execCtxCmdComplete
  | add | sub | iAnd | iOr | xor | sll | srl | sra | mul | mulhu | divu | remu | div | rem | min | max | minu | maxu | addi
    | subi | andi | ori | xori | slli | srli | srai | muli | divui | remui | divi | remi | mini | maxi | minui | maxui | mfsr
    | lih | fadd | fsub | fmul | fdiv | fmin | fmax | fcvti | ftrunc =>
    unfold exec
    exact .runIns h fun h => h.finS
  | ceq | cne | clt | cge | cltu | cgeu | ceqi | cnei | clti | cgei | cltui | cgeui | pand | por | pxor | pandn | br | call
    | jr | smapInvalid =>
    unfold exec
    exact .runIns h fun h => h.finish
  | mtsr =>
    unfold exec
    exact .runIns h fun h => .ite h.finish (.ite h.finish h.raise)
  | lds =>
    unfold exec
    exact .runIns h fun h => .ite h.raise h.finS
  | sts =>
    unfold exec
    exact .runIns h fun h => .ite h.raise h.finish
  | ldd | std =>
    unfold exec
    exact .runIns h fun h => .ite h.raise h.issueTxn.wait_
  | rqld => exact h.execRqld
  | rqst => exact h.execRqst
  | rqcas => exact h.execRqcas
  | ledgRd | ledgChg | ledgTry | ledgCrd =>
    unfold exec
    exact .ledgIns h
  | enq =>
    unfold exec
    exact .runIns h fun h => .ite h.ev.bump.finS h.putItem.finS
  | deq => exact h.execDeq
  | dly =>
    unfold exec
    exact .runIns h fun h => .ite h.dlRefuse.finS h.onPart.finS
  | yield =>
    unfold exec
    exact .runIns h fun h => h.yieldSlot
  | yieldPrio =>
    unfold exec
    exact .runIns h fun h => h.setF.yieldSlot
  | swait | swaitp | sadd | ssub | sbar =>
    unfold exec
    exact .runIns h fun h => h.withCell fun h => h.travelOp
  | sigr =>
    unfold exec
    exact .runIns h fun h => h.rmSend.rmPump.fin
  | smapShared | smapPrivate =>
    unfold exec
    exact .runIns h fun h => h.smap
  | twaitAbs | twaitRel =>
    unfold exec
    exact .runIns h fun h => h.delayCtx
  | tatAbs | tatRel =>
    unfold exec
    exact .runIns h fun h => h.arm
  | tatDisarm =>
    unfold exec
    exact .runIns h fun h => .ite h.onPart.finS h.finS
  | bopenGen | bopenLearn =>
    unfold exec
    exact .runIns h fun h => h.bopenIns
  | baddq => exact h.execBaddq
  | bseal => exact h.execBseal
  | bissue => exact h.execBissue
  | vbind => exact h.execVbind
  | vadd | vsub | vmul | vmax | vmin =>
    unfold exec
    exact .runIns h fun h => h.valu
  | vcopy | vcvt =>
    unfold exec
    exact .runIns h fun h => h.vec fun _ => h.vFin
  | vredSum | vredMax | vredMin | vredArgmax =>
    unfold exec
    exact .runIns h fun h => h.vred
  | vprojMain | vprojJet | vgradBack =>
    unfold exec
    exact .runIns h fun h => h.planeIns
  | vmaskBits | vpenBias | vtemp | vtopk | vtopp | vgradRow =>
    unfold exec
    exact .runIns h fun h => h.rowIns
  | vmaskGrammar => exact h.execVmaskGrammar
  | vmaskAllow => exact h.execVmaskAllow
  | vpenPenalty =>
    unfold exec
    exact .runIns h fun h => h.vec fun _ => .ite h.auxErr.raise h.vFin
  | vgmx | vlse | vlprob =>
    unfold exec
    exact .runIns h fun h => h.vec fun _ => h.finS
  | emitToken | emitFinal =>
    unfold exec
    exact .runIns h fun h => h.emit
  | wvpinPin => exact h.execWvpinPin
  | wvpinUnpin => exact h.execWvpinUnpin
  | trap =>
    unfold exec
    exact .runIns h fun h => h.onCtx.tenantRec.partEv.release
  | halt =>
    unfold exec
    exact .runIns h fun h => h.onCtx.release
  | quantumExpiry => exact h.execQuantumExpiry
  | itemDue => exact h.execItemDue
  | timerDue => exact h.execTimerDue
  | wakeDue => exact h.execWakeDue
  | heldItemMove => exact h.execHeldItemMove
  | semOpAtCell => exact h.execSemOpAtCell
  | waitExpiry => exact .onEng h fun h => .ite h h.atCell
  | satClr => exact h.execSatClr
  | realignArm => exact h.execRealignArm
  | manualSet => exact .onEng h fun h => .ite h (.strWrote (h.strWrote fun h => h.wr) fun h => h.manual)
  | manualClearSat => exact .onEng h fun h => .ite h (h.strWrote fun h => h.manual)
  | coreGate => exact .onEng h fun h => .ite h h.setF.rest.showPower
  | xbArrive => exact h.execXbArrive
  | xbRelease => exact h.execXbRelease
  | data => exact h.execData
  | signal => exact h.execSignal
  | parkExpiry => exact h.execParkExpiry
  | echo => exact .onPort h fun h => .ite h.takeEcho h.reject
  | echoLate => exact .onEng h fun h => .ite h.onGroup.ev h
  | rmWatchdog => exact .onEng h fun h => .ite h.failPort.rmPump (.ite h h.portWatchdog.rmPump)
  | admitDescriptor => exact h.execAdmitDescriptor
  | admissionRecordHandoff => exact h.execAdmissionRecordHandoff
  | ledgerBalStage => exact h.execLedgerBalStage
  | ledgerBalCommit => exact h.execLedgerBalCommit
  | ledgerBoundWrite => exact h.execLedgerBoundWrite
  | modelCfgWrite => exact h.execModelCfgWrite
  | lpLoad => exact h.execLpLoad
  | lpUnload => exact h.execLpUnload
  | lpCmdDone => exact h.execLpCmdDone
  | flush => exact h.execFlush
  | backgroundEvict => exact h.execBackgroundEvict
  | sealProcessed => exact h.execSealProcessed
  | roleUpdate => exact .onEng h fun h => .ite h (.onPart (.ite h.setF.setF h.setF.setF.ev))
  | stepBoundary => exact h.execStepBoundary
  | idleBoundary => exact h.execIdleBoundary
  | alertDue => exact h.execAlertDue
  | alertPostRetry => exact .onEng h fun h => h.postHeld
  | deadlineEvent => exact .onEng h fun h => .ite (.ite h.onReq.unage h.onReq) h
  | drawSw => exact .ctlWrite h fun h => h.setSw
  | drawMgmt => exact .ctlWrite h fun h => .ite h.setMgmt h
  | drawStartEnd | drawRecoverEnd => exact .onEng h fun h => .ite h.drawSource h
  | drawResume => exact .onEng h fun h => .ite h (.onPart (.foldl h fun _ h => h.setRstate))
  | hrow => exact .onPort h fun h => .ite h (.ite h.hrowFailed h.rest.placeRow.stageFlow)
  | stageGrant => exact .onEng h fun h => h.stageFlow
  | planeQueueRoom => exact h.execPlaneQueueRoom
  | planePassStart => exact h.execPlanePassStart
  | planeUnitDone => exact h.execPlaneUnitDone
  | tileSpareSwap => exact .onEng h fun h => .ite h h.tileSwap.recoverAll
  | planePassEnd => exact h.execPlanePassEnd
  | gramLoad => exact h.execGramLoad
  | gramUnload => exact h.execGramUnload
  | gramCmdDone => exact h.execGramCmdDone
  | bitRequest => exact h.execBitRequest
  | readProbeWord => exact .next h.withResp
  | romRebuildDone => exact h.execRomRebuildDone
  | spillDrain => exact h.execSpillDrain
  | drainLate => exact h.execDrainLate
  | announce => exact h.execAnnounce
  | retire => exact h.execRetire
  | nfReport => exact h.execNfReport
  | abort => exact h.execAbort
  | clear => exact h.execClear
  | memResponse => exact h.execMemResponse
  | memWatchdog => exact h.execMemWatchdog
  | kdlHello => exact h.execKdlHello
  | kdlDone => exact h.execKdlDone
  | kdlError => exact h.execKdlError
  | kdlCreditReturn => exact .onPort h fun h => .ite h h.onChan.kdlPump
  | scrubPass => exact .onEng h fun h => .ite h (.ite h.scrub (.ite h.scrub.setPair.rest.setF h.scrub.setPair.rest.romBad))
  | coreStall => exact .onEng h fun h => .ite h (.ite h.rest.onPart h.coreTake)
  | coreFailoverDone => exact .onEng h fun h => .ite h h.onPart.dispatch.coreNext
  | sliceCopyDone => exact .onEng h fun h => .ite h h.rest.atCells.sliceNext
  | fltHead => exact h.execFltHead
  | efrHead => exact h.execEfrHead
  | droopTrip => exact .onEng h fun h => .ite h h.onDroop.ev
  | droopHoldDone | droopReleaseStep => exact .onEng h fun h => h.when fun h => h.onDroop
  | budgetPeriod =>
    exact .onEng h fun h => .ite h (.ite (.ev (.showPower (.ite2 h.takePeriod.drawFree h.takePeriod))) (.showPower
        (.ite2 h.takePeriod.drawFree h.takePeriod)))
  | sensorSample => exact .onEng h fun h => .ite h h.takeSample.firmLog
  | kick => exact h.execKick
  | mgmtWatchdog => exact h.execMgmtWatchdog
  | mgmtCoreFault => exact h.execMgmtCoreFault
  | bootLimitExpiry => exact h.execBootLimitExpiry
  | restart => exact h.execRestart
  | logMirror => exact h.execLogMirror
  | logKeepRetry => exact .onEng h fun h => h.unhold
  | hlogHead => exact h.execHlogHead
  | stage => exact h.execStage
  | activateUcode => exact h.execActivateUcode
  | activateMgmt => exact h.execActivateMgmt
  | confirm => exact h.execConfirm
  | revert => exact h.execRevert
  | updCmdDone => exact h.execUpdCmdDone
  | levelSet => exact h.execLevelSet
  | negArriveSend => exact .onEng h fun h => .ite h (.ite h.rest.negCount h.rest.rmSend.rmPump)
  | negArrive => exact .onPort h fun h => .ite (.ite h.reject h.negCount) h
  | negRelease => exact .onPort h fun h => .ite (.ite h.reject h.negApply) h
  | levelEffective => exact h.execLevelEffective
  | stringsRead => exact .next (.stateIte h.strRead h)
  | stringsWrite => exact .next (.stateIte h.strWrite h)
  | jtagCaptureDr | jtagUpdateIr | jtagTrst => exact .onEng h fun h => h.rest
  | jtagUpdateDr => exact h.execJtagUpdateDr
  | onTimeEdge => exact h.execOnTimeEdge
  | jumpRomCheckDone => exact .onEng h fun h => .ite h (.phaseTo (.ite h.setF h.romBad))
  | powerLoss => exact h.execPowerLoss
  | upBad => exact .onPort h fun h => .ite h h.upBad
  | rmDrop => exact .onPort h fun h => .ite h (.ite h.bump h.reject)
  | hsCreditReturn => exact .onPort h fun h => h.rest.hsPump
  | rmCreditReturn => exact .onPort h fun h => h.rest.rmFlow

/-- Settles O4, by what each command, and a tick with none, leaves sound. -/
theorem everyStepKeepsTheEngineSound : Obligations.EveryStepKeepsTheEngineSound := by
  unfold Obligations.EveryStepKeepsTheEngineSound
  intro s t h hstep
  cases hp : s.pending with
  | nil =>
    rw [step_empty hp] at hstep
    obtain rfl : s.tick = t := by injection hstep
    exact h.tick
  | cons c rest =>
    rw [step_of_front hp] at hstep
    exact exec_leavesSound (s := { s with pending := rest }) h c t hstep

end Sys2Proof.Machine
end

section
/-! PROOFS. The save area (R69 to R72): where each of its parts lies, and what a read of it returns. -/

namespace Sys2Proof.Machine
set_option Elab.async false

open Sys2Proof

/-! ## Little-endian fields -/

theorem length_leBytes (n v : Nat) : (leBytes n v).length = n := by simp [leBytes]

theorem leBytes_succ (n v : Nat) : leBytes (n + 1) v = BitVec.ofNat 8 v :: leBytes n (v / 256) := by
  unfold leBytes
  rw [List.range_succ_eq_map, List.map_cons, List.map_map, Nat.pow_zero, Nat.div_one]
  congr 1
  refine List.map_congr_left fun i _ => ?_
  rw [Function.comp_apply, Nat.succ_eq_add_one, Nat.pow_succ', Nat.div_div_eq_div_mul]

theorem ofLe_leBytes (n v : Nat) : ofLe (leBytes n v) = v % 256 ^ n := by
  induction n generalizing v with
  | zero => exact (Nat.mod_one v).symm
  | succ n ih => rw [leBytes_succ, ofLe, ih, BitVec.toNat_ofNat, Nat.pow_succ' (n := n), Nat.mod_mul (x := v) (a := 256)]

/-- The low bytes of a value are those of the longer field. -/
theorem leBytes_add (m n v : Nat) : leBytes (m + n) v = leBytes m v ++ leBytes n (v / 256 ^ m) := by
  induction m generalizing v with
  | zero => simp [leBytes]
  | succ m ih => rw [Nat.succ_add, leBytes_succ, leBytes_succ, ih, List.cons_append, Nat.div_div_eq_div_mul, Nat.pow_succ']

/-- The bytes `x` stand at offset `o` of `l`. -/
def HoldsAt (l : List Byte) (o : Nat) (x : List Byte) : Prop := ∃ before after, l = before ++ (x ++ after) ∧ before.length = o

theorem HoldsAt.bytesAt {l x : List Byte} {o : Nat} (h : HoldsAt l o x) : bytesAt l o x.length = x := by
  obtain ⟨before, after, rfl, rfl⟩ := h
  unfold Machine.bytesAt
  rw [List.drop_left, List.take_left]

/-- A part of a part. -/
theorem HoldsAt.within {l x y : List Byte} {o i : Nat} (h : HoldsAt l o x) (hx : HoldsAt x i y) : HoldsAt l (o + i) y := by
  obtain ⟨before, after, rfl, rfl⟩ := h
  obtain ⟨first, last, rfl, rfl⟩ := hx
  exact ⟨before ++ first, last ++ after, by simp only [List.append_assoc], List.length_append⟩

/-- The parts of a concatenation stand one after the other. -/
theorem holdsAt_flatten (parts : List (List Byte)) (i : Nat) (h : i < parts.length) :
    HoldsAt parts.flatten ((parts.take i).map List.length).sum parts[i] := by
  refine ⟨(parts.take i).flatten, (parts.drop (i + 1)).flatten, ?_, by rw [List.length_flatten]⟩
  rw [← List.flatten_cons, ← List.drop_eq_getElem_cons h, ← List.flatten_append, List.take_append_drop]

/-- The entries of a table of entries of `w` bytes. -/
theorem holdsAt_flatMap {n w k : Nat} {f : Nat → List Byte} (hw : ∀ j, (f j).length = w) (h : k < n) :
    HoldsAt ((List.range n).flatMap f) (w * k) (f k) := by
  have hparts := holdsAt_flatten ((List.range n).map f) k (by simpa using h)
  have hsum : (((List.range n).map f).take k).map List.length = List.replicate k w := by
    rw [List.eq_replicate_iff]
    constructor
    · simp [Nat.le_of_lt h]
    · simp only [List.mem_map, forall_exists_index, and_imp]
      rintro _ x hx rfl
      obtain ⟨j, -, rfl⟩ := List.mem_map.mp (List.mem_of_mem_take hx)
      exact hw j
  rw [hsum, List.sum_replicate, ← List.flatMap_def, List.getElem_map, List.getElem_range, smul_eq_mul, Nat.mul_comm] at hparts
  exact hparts

theorem HoldsAt.fieldAt {l : List Byte} {o n v : Nat} (h : HoldsAt l o (leBytes n v)) (hv : v < 256 ^ n) : fieldAt l o n = v := by
  have hb := h.bytesAt
  rw [length_leBytes] at hb
  unfold Machine.fieldAt
  rw [hb, ofLe_leBytes, Nat.mod_eq_of_lt hv]

theorem HoldsAt.fieldAt_low {l : List Byte} {o m n v : Nat} (h : HoldsAt l o (leBytes (m + n) v)) :
    Machine.fieldAt l o m = v % 256 ^ m := by
  rw [leBytes_add] at h
  have hlow : HoldsAt l o (leBytes m v) := h.within ⟨[], _, rfl, rfl⟩
  have hb := hlow.bytesAt
  rw [length_leBytes] at hb
  unfold Machine.fieldAt
  rw [hb, ofLe_leBytes]

theorem HoldsAt.fieldAt_byte {l : List Byte} {o : Nat} {v : Byte} (h : HoldsAt l o [v]) : Machine.fieldAt l o 1 = v.toNat := by
  have hb : Machine.bytesAt l o 1 = [v] := h.bytesAt
  unfold Machine.fieldAt
  rw [hb]
  rfl

theorem HoldsAt.zeros {l : List Byte} {o n : Nat} (h : HoldsAt l o (List.replicate n 0)) :
    ∀ x ∈ Machine.bytesAt l o n, x = 0 := by
  have hb := h.bytesAt
  rw [List.length_replicate] at hb
  rw [hb]
  exact fun x hx => List.eq_of_mem_replicate hx

theorem padTo_eq {n : Nat} {l : List Byte} (h : l.length ≤ n) : padTo n l = l ++ List.replicate (n - l.length) 0 := by
  unfold padTo
  rw [List.take_append, List.take_of_length_le h, List.take_replicate, Nat.min_eq_left (Nat.sub_le _ _)]

/-- A sparse table reads, at each of its keys, what it was made from. -/
theorem kget_tableOf {α : Type} [DecidableEq α] {d : α} {n k : Nat} {f : Nat → α} (h : k < n) : kget d (tableOf d n f) k = f k := by
  have hlist : ∀ l : List Nat,
      kget d (l.filterMap fun k => if f k = d then none else some (k, f k)) k = if k ∈ l then f k else d := fun l => by
    induction l with
    | nil => rfl
    | cons j r ih =>
      by_cases hj : f j = d
      · simp only [List.filterMap_cons, hj, if_true, ih]
        by_cases hk : k = j
        · subst hk
          simp [hj]
        · simp [hk]
      · simp only [List.filterMap_cons, hj, if_false, kget, ih]
        by_cases hk : j = k
        · subst hk
          simp
        · simp [hk, Ne.symm hk]
  exact (hlist _).trans (if_pos (List.mem_range.mpr h))

/-! ## The parts of a save area -/

/-- The parts of a save area in their order (R69). -/
def Eng.saveParts (b : BeatUnit) (e : Eng) (p c : Nat) : List (List Byte) :=
  let x := e.ctx p c
  [leBytes 4 0x5641534B, leBytes 2 1, leBytes 2 e.agreed, leBytes 2 (p * 16 + c), [BitVec.ofNat 8 x.saveSt.code],
    [BitVec.ofNat 8 x.remain.saved.1], leBytes 4 x.semSpan, leBytes 8 x.pc.toNat, leBytes 8 x.remain.saved.2, leBytes 8 b.stamp,
    List.replicate 20 0, leBytes 4 (crc32c (e.saveHead b p c ++ [0, 0, 0, 0] ++ e.saveBody p c)).toNat,
    (List.range 32).flatMap (fun r => leBytes 8 (x.sreg r).toNat), [x.p ||| 1#8], List.replicate 3 0, leBytes 4 x.elen.toNat,
    leBytes 8 x.fault.toNat, List.replicate 48 0, (List.range 16).flatMap (fun r => (x.vh r).bytes), List.replicate 384 0,
    (List.range 8192).flatMap (fun k => [kget 0 x.scratch k]),
    (List.range 4096).flatMap (fun k => leBytes 8 (e.semWord p (kget SemEnt.invalid x.semtab k))), List.replicate 7168 0]

theorem length_flatMap_range {n w : Nat} {f : Nat → List Byte} (hw : ∀ j, (f j).length = w) : ((List.range n).flatMap f).length = n * w := by
  rw [List.length_flatMap, List.map_congr_left (fun j _ => hw j), List.map_const', List.sum_replicate, List.length_range, smul_eq_mul]

theorem VHandle.length_bytes (h : VHandle) : h.bytes.length = 16 := by simp [VHandle.bytes, length_leBytes]

section
variable (b : BeatUnit) (e : Eng) (p c : Nat)

theorem Eng.saveHead_eq : e.saveHead b p c = ((e.saveParts b p c).take 11).flatten := by
  unfold Eng.saveHead Eng.saveParts
  dsimp only
  rw [padTo_eq]
  · simp only [List.length_append, length_leBytes, List.length_cons, List.take_succ_cons, List.take_zero, List.flatten_cons,
      List.flatten_nil, List.append_nil, List.append_assoc, List.cons_append, List.nil_append]
  · simp only [List.length_append, length_leBytes, List.length_cons, List.length_nil]
    decide

theorem Eng.saveBody_eq : e.saveBody p c = ((e.saveParts b p c).drop 12).flatten := by
  have hthree : List.replicate 3 (0 : Byte) = [0, 0, 0] := rfl
  unfold Eng.saveBody Eng.saveParts
  dsimp only
  rw [padTo_eq, List.map_eq_flatMap]
  · simp only [List.length_append, length_leBytes, length_flatMap_range, VHandle.length_bytes, List.length_replicate, List.length_cons,
      List.drop_succ_cons, List.drop_zero, List.flatten_cons, List.flatten_nil, List.append_nil, List.append_assoc, List.cons_append,
      List.nil_append, hthree, Nat.reduceAdd, Nat.reduceMul, Nat.reduceSub]
  · simp only [List.length_append, length_leBytes, length_flatMap_range, VHandle.length_bytes, List.length_replicate, List.length_cons,
      List.length_nil]
    decide

theorem Eng.saveArea_eq : e.saveArea b p c = (e.saveParts b p c).flatten := by
  have hdrop : (e.saveParts b p c).drop 11 =
      leBytes 4 (crc32c (e.saveHead b p c ++ [0, 0, 0, 0] ++ e.saveBody p c)).toNat :: (e.saveParts b p c).drop 12 := rfl
  rw [← List.take_append_drop 11 (e.saveParts b p c), List.flatten_append, ← e.saveHead_eq b p c, hdrop, List.flatten_cons,
    ← e.saveBody_eq b p c, ← List.append_assoc]
  rfl

theorem Eng.length_saveHead : (e.saveHead b p c).length = 0x3C := by
  rw [e.saveHead_eq b p c]
  simp only [Eng.saveParts, List.take_succ_cons, List.take_zero, List.flatten_cons, List.flatten_nil, List.length_append, length_leBytes,
    List.length_cons, List.length_replicate, List.length_nil]

theorem Eng.length_saveArea : (e.saveArea b p c).length = saveSize := by
  rw [e.saveArea_eq b p c]
  simp only [Eng.saveParts, List.flatten_cons, List.flatten_nil, List.length_append, length_leBytes,
    List.length_cons, List.length_replicate, List.length_nil, length_flatMap_range, VHandle.length_bytes]

/-! ## Where each part lies -/

/-- The part of number `i`, at the offset that the lengths before it sum to. -/
theorem Eng.saveArea_holdsAt {i o : Nat} {x : List Byte} (hi : (e.saveParts b p c)[i]? = some x)
    (ho : (((e.saveParts b p c).take i).map List.length).sum = o) : HoldsAt (e.saveArea b p c) o x := by
  obtain ⟨hlt, rfl⟩ := List.getElem?_eq_some_iff.mp hi
  rw [e.saveArea_eq b p c, ← ho]
  exact holdsAt_flatten _ i hlt

theorem Eng.saveParts_offsets : (e.saveParts b p c).map List.length =
    [4, 2, 2, 2, 1, 1, 4, 8, 8, 8, 20, 4, 256, 1, 3, 4, 8, 48, 256, 384, 8192, 32768, 7168] := by
  simp only [Eng.saveParts, List.map_cons, List.map_nil, length_leBytes,
    List.length_cons, List.length_replicate, List.length_nil, length_flatMap_range, VHandle.length_bytes]

theorem Eng.saveArea_part (i : Nat) {x : List Byte} (hi : (e.saveParts b p c)[i]? = some x) :
    HoldsAt (e.saveArea b p c)
      (([4, 2, 2, 2, 1, 1, 4, 8, 8, 8, 20, 4, 256, 1, 3, 4, 8, 48, 256, 384, 8192, 32768, 7168] : List Nat).take i).sum x := by
  refine e.saveArea_holdsAt b p c hi ?_
  rw [← e.saveParts_offsets b p c, List.map_take]

theorem Eng.saveArea_sreg {r : Nat} (hr : r < 32) : HoldsAt (e.saveArea b p c) (0x40 + 8 * r) (leBytes 8 ((e.ctx p c).sreg r).toNat) :=
  (e.saveArea_part b p c 12 rfl).within (holdsAt_flatMap (fun _ => length_leBytes 8 _) hr)

theorem Eng.saveArea_vh {r : Nat} (hr : r < 16) : HoldsAt (e.saveArea b p c) (0x180 + 16 * r) ((e.ctx p c).vh r).bytes :=
  (e.saveArea_part b p c 18 rfl).within (holdsAt_flatMap (fun j => ((e.ctx p c).vh j).length_bytes) hr)

theorem Eng.saveArea_scratch {k : Nat} (hk : k < 8192) : HoldsAt (e.saveArea b p c) (0x400 + k) [kget 0 (e.ctx p c).scratch k] := by
  have h := (e.saveArea_part b p c 20 rfl).within (holdsAt_flatMap (f := fun k => [kget 0 (e.ctx p c).scratch k]) (fun _ => rfl) hk)
  rwa [Nat.one_mul] at h

theorem Eng.saveArea_sem {k : Nat} (hk : k < 4096) :
    HoldsAt (e.saveArea b p c) (0x2400 + 8 * k) (leBytes 8 (e.semWord p (kget SemEnt.invalid (e.ctx p c).semtab k))) :=
  (e.saveArea_part b p c 21 rfl).within (holdsAt_flatMap (fun _ => length_leBytes 8 _) hk)

/-- The parts of a vector handle entry (R69). -/
def VHandle.parts (h : VHandle) : List (List Byte) :=
  [leBytes 8 h.base.toNat, leBytes 4 h.count.toNat, [h.space], [h.fmt], List.replicate 2 0]

theorem VHandle.bytes_part (h : VHandle) (i : Nat) (hi : i < 5) : HoldsAt h.bytes ((h.parts.take i).map List.length).sum (h.parts[i]'hi) := by
  have hparts : h.bytes = h.parts.flatten := by
    simp only [VHandle.bytes, VHandle.parts, List.flatten_cons, List.flatten_nil, List.append_nil, List.append_assoc, List.cons_append,
      List.nil_append]
    rfl
  rw [hparts]
  exact holdsAt_flatten h.parts i hi

/-- A saved entry: its offset, its flags above that, and the cell's count in the upper half. -/
theorem Eng.semWord_eq (s : SemEnt) : ∃ cell : Cell,
    e.semWord p s = s.off.toNat + s.valid.toNat * 2 ^ 16 + s.priv.toNat * 2 ^ 17 + cell.sat.toNat * 2 ^ 18 + cell.count.toNat * 2 ^ 32 := by
  unfold Eng.semWord
  extract_lets cell flag
  have hflag : ∀ x k, flag x k = x.toNat * 2 ^ k := fun x k => by cases x <;> simp [flag]
  exact ⟨cell, by rw [hflag, hflag, hflag]⟩

theorem Eng.semWord_bounds (s : SemEnt) : e.semWord p s < 256 ^ 8 ∧ e.semWord p s % 2 ^ 32 < 2 ^ 19 := by
  obtain ⟨cell, hword⟩ := e.semWord_eq p s
  have hoff := s.off.isLt
  have hcount := cell.count.isLt
  have hvalid := s.valid.toNat_le
  have hpriv := s.priv.toNat_le
  have hsat := cell.sat.toNat_le
  omega

/-- The entry read back from a saved word: the cell's count and flag lie above it. -/
theorem semOfWord_semWord (s : SemEnt) : semOfWord (e.semWord p s) = s := by
  obtain ⟨cell, hword⟩ := e.semWord_eq p s
  obtain ⟨valid, priv, off⟩ := s
  dsimp only at hword
  have hoff := off.isLt
  have hsat := cell.sat.toNat_le
  have hpriv := priv.toNat_le
  have hvalid := valid.toNat_le
  have hlow : BitVec.ofNat 16 (e.semWord p ⟨valid, priv, off⟩) = off := by
    refine BitVec.eq_of_toNat_eq ?_
    rw [BitVec.toNat_ofNat]
    omega
  have hbit : ∀ (x : Bool) (i : Nat), e.semWord p ⟨valid, priv, off⟩ / 2 ^ i % 2 = x.toNat → (e.semWord p ⟨valid, priv, off⟩).testBit i = x := by
    intro x i hi
    rw [Nat.testBit_eq_decide_div_mod_eq, hi]
    cases x <;> rfl
  unfold semOfWord
  rw [hlow, hbit valid 16 (by omega), hbit priv 17 (by omega)]

/-! ## What RESTORE reads of it -/

/-- A read of eight or four bytes gives back the word that was written. -/
theorem HoldsAt.word {l : List Byte} {o n w : Nat} {v : BitVec w} (h : HoldsAt l o (leBytes n v.toNat)) (hw : 2 ^ w ≤ 256 ^ n) :
    BitVec.ofNat w (Machine.fieldAt l o n) = v := by
  rw [h.fieldAt (Nat.lt_of_lt_of_le v.isLt hw), BitVec.ofNat_toNat, BitVec.setWidth_eq]

theorem HoldsAt.byte {l : List Byte} {o : Nat} {v : Byte} (h : HoldsAt l o [v]) : BitVec.ofNat 8 (Machine.fieldAt l o 1) = v := by
  rw [h.fieldAt_byte, BitVec.ofNat_toNat, BitVec.setWidth_eq]

theorem ctxOfArea_sreg {r : Nat} (hr : r < 32) : (ctxOfArea (e.saveArea b p c)).sreg r = (e.ctx p c).sreg r := by
  unfold ctxOfArea Ctx.sreg
  split
  · rfl
  next hne =>
    dsimp only
    rw [kget_tableOf hr, if_neg hne, (e.saveArea_sreg b p c hr).word (by decide), Ctx.sreg, if_neg hne]

theorem ctxOfArea_pred {r : Nat} (hr : r < 8) : (ctxOfArea (e.saveArea b p c)).pred r = (e.ctx p c).pred r := by
  unfold ctxOfArea Ctx.pred
  split
  · rfl
  next hne =>
    dsimp only
    have hp : HoldsAt (e.saveArea b p c) 0x140 [(e.ctx p c).p ||| 1#8] := e.saveArea_part b p c 13 rfl
    rw [hp.fieldAt_byte]
    generalize (e.ctx p c).p = x
    obtain ⟨q, rfl⟩ := Nat.exists_eq_succ_of_ne_zero hne
    have hone : (1#8).getLsbD (q + 1) = false := by
      rw [BitVec.getLsbD_one]
      simp
    rw [BitVec.getLsbD_ofNat, Nat.testBit_succ, Nat.mul_div_cancel _ Nat.two_pos, ← Nat.testBit_succ, BitVec.testBit_toNat,
      BitVec.getLsbD_or, hone, Bool.or_false, decide_eq_true hr, Bool.true_and]

theorem ctxOfArea_vh {r : Nat} (hr : r < 16) : (ctxOfArea (e.saveArea b p c)).vh r = (e.ctx p c).vh r := by
  have hbytes := e.saveArea_vh b p c hr
  have hpart := ((e.ctx p c).vh r).bytes_part
  have hbase : HoldsAt (e.saveArea b p c) (0x180 + 16 * r) (leBytes 8 ((e.ctx p c).vh r).base.toNat) := hbytes.within (hpart 0 (by decide))
  have hcount : HoldsAt (e.saveArea b p c) (0x180 + 16 * r + 8) (leBytes 4 ((e.ctx p c).vh r).count.toNat) :=
    hbytes.within (hpart 1 (by decide))
  have hspace : HoldsAt (e.saveArea b p c) (0x180 + 16 * r + 12) [((e.ctx p c).vh r).space] := hbytes.within (hpart 2 (by decide))
  have hfmt : HoldsAt (e.saveArea b p c) (0x180 + 16 * r + 13) [((e.ctx p c).vh r).fmt] := hbytes.within (hpart 3 (by decide))
  unfold ctxOfArea Ctx.vh
  dsimp only
  rw [kget_tableOf hr, hspace.byte, hfmt.byte, hbase.word (by decide), hcount.word (by decide)]
  rfl

theorem ctxOfArea_semtab {k : Nat} (hk : k < 4096) :
    kget SemEnt.invalid (ctxOfArea (e.saveArea b p c)).semtab k = kget SemEnt.invalid (e.ctx p c).semtab k := by
  unfold ctxOfArea
  dsimp only
  rw [kget_tableOf hk, (e.saveArea_sem b p c hk).fieldAt (e.semWord_bounds p _).1, semOfWord_semWord]

theorem ctxOfArea_scratch {k : Nat} (hk : k < 8192) :
    kget 0 (ctxOfArea (e.saveArea b p c)).scratch k = kget 0 (e.ctx p c).scratch k := by
  unfold ctxOfArea
  dsimp only
  rw [kget_tableOf hk, (e.saveArea_scratch b p c hk).byte]

theorem ctxOfArea_words : (ctxOfArea (e.saveArea b p c)).elen = (e.ctx p c).elen ∧ (ctxOfArea (e.saveArea b p c)).fault = (e.ctx p c).fault ∧
    (ctxOfArea (e.saveArea b p c)).pc = (e.ctx p c).pc :=
  ⟨HoldsAt.word (e.saveArea_part b p c 15 rfl) (by decide), HoldsAt.word (e.saveArea_part b p c 16 rfl) (by decide),
    HoldsAt.word (e.saveArea_part b p c 7 rfl) (by decide)⟩

/-! ## The checks of R71 -/

theorem Ctx.semSpan_le (x : Ctx) : x.semSpan ≤ 65536 := by
  have hfold : ∀ (l : KMap SemEnt) (n : Nat), n ≤ 65536 → l.foldl (fun n s => if s.2.valid then max n (s.2.off.toNat + 1) else n) n ≤ 65536 := by
    intro l
    induction l with
    | nil => exact fun _ h => h
    | cons s r ih =>
      intro n hn
      refine ih _ ?_
      have hoff := s.2.off.isLt
      dsimp only
      split
      · exact Nat.max_le.mpr ⟨hn, hoff⟩
      · exact hn
  exact hfold _ 0 (Nat.zero_le _)

theorem Remain.saved_lt (r : Remain) : r.saved.1 < 4 := by
  cases r with
  | none => exact Nat.zero_lt_succ _
  | wait ticks => exact Nat.lt_of_sub_eq_succ rfl
  | delay wake => exact Nat.lt_of_sub_eq_succ rfl

theorem CtxSt.code_lt (st : CtxSt) : st.code < 8 := by
  cases st <;> decide

theorem Eng.saveArea_reserved (hst : (CtxSt.ofSaved (e.ctx p c).saveSt.code).isSome = true) : saveReserved (e.saveArea b p c) = true := by
  have hcode : fieldAt (e.saveArea b p c) 0x0A 1 = (e.ctx p c).saveSt.code := by
    have h : HoldsAt (e.saveArea b p c) 0x0A [BitVec.ofNat 8 (e.ctx p c).saveSt.code] := e.saveArea_part b p c 4 rfl
    rw [h.fieldAt_byte, BitVec.toNat_ofNat, Nat.mod_eq_of_lt (Nat.lt_trans (CtxSt.code_lt _) (by decide))]
  have hflags : fieldAt (e.saveArea b p c) 0x0B 1 = (e.ctx p c).remain.saved.1 := by
    have h : HoldsAt (e.saveArea b p c) 0x0B [BitVec.ofNat 8 (e.ctx p c).remain.saved.1] := e.saveArea_part b p c 5 rfl
    rw [h.fieldAt_byte, BitVec.toNat_ofNat, Nat.mod_eq_of_lt (Nat.lt_trans (Remain.saved_lt _) (by decide))]
  unfold saveReserved
  simp only [Bool.and_eq_true, List.all_eq_true, decide_eq_true_eq, List.mem_range]
  have hlast : HoldsAt (e.saveArea b p c) 0xA400 (List.replicate 7168 0) := e.saveArea_part b p c 22 rfl
  refine ⟨⟨⟨⟨⟨⟨⟨⟨HoldsAt.zeros (e.saveArea_part b p c 10 rfl), HoldsAt.zeros (e.saveArea_part b p c 14 rfl)⟩,
    HoldsAt.zeros (e.saveArea_part b p c 17 rfl)⟩, HoldsAt.zeros (e.saveArea_part b p c 19 rfl)⟩,
    hlast.zeros⟩, ?_⟩, ?_⟩, fun r hr => ?_⟩, fun k hk => ?_⟩
  · exact hflags ▸ Remain.saved_lt _
  · exact hcode ▸ hst
  · exact HoldsAt.zeros ((e.saveArea_vh b p c hr).within (((e.ctx p c).vh r).bytes_part 4 (by decide)))
  · have hlow : fieldAt (e.saveArea b p c) (0x2400 + 8 * k) 4 = _ := HoldsAt.fieldAt_low (m := 4) (n := 4) (e.saveArea_sem b p c hk)
    rw [hlow]
    exact Nat.mod_eq_zero_of_dvd ⟨0, Nat.div_eq_of_lt (e.semWord_bounds p _).2⟩

theorem Eng.restoreErr_saveArea (hspan : (e.ctx p c).semSpan ≤ e.semSize p)
    (hst : (CtxSt.ofSaved (e.ctx p c).saveSt.code).isSome = true) : e.restoreErr p (e.saveArea b p c) = 0 := by
  have hmagic : fieldAt (e.saveArea b p c) 0 4 = 0x5641534B := HoldsAt.fieldAt (e.saveArea_part b p c 0 rfl) (by decide)
  have hversion : fieldAt (e.saveArea b p c) 4 2 = 1 := HoldsAt.fieldAt (e.saveArea_part b p c 1 rfl) (by decide)
  have hagreed : fieldAt (e.saveArea b p c) 6 2 = e.agreed :=
    HoldsAt.fieldAt (e.saveArea_part b p c 2 rfl) (Nat.mod_lt _ (by decide))
  have hsem : fieldAt (e.saveArea b p c) 0x0C 4 = (e.ctx p c).semSpan :=
    HoldsAt.fieldAt (e.saveArea_part b p c 6 rfl) (Nat.lt_of_le_of_lt (Ctx.semSpan_le _) (by decide))
  have hcrc : fieldAt (e.saveArea b p c) 0x3C 4 = (crc32c (e.saveHead b p c ++ [0, 0, 0, 0] ++ e.saveBody p c)).toNat :=
    HoldsAt.fieldAt (e.saveArea_part b p c 11 rfl) (BitVec.isLt _)
  have hhead : (e.saveArea b p c).take 0x3C = e.saveHead b p c := by
    unfold Eng.saveArea
    rw [List.append_assoc, ← e.length_saveHead b p c, List.take_left]
  have hbody : (e.saveArea b p c).drop 0x40 = e.saveBody p c := by
    unfold Eng.saveArea
    refine List.drop_left' ?_
    rw [List.length_append, e.length_saveHead b p c, length_leBytes]
  unfold Eng.restoreErr
  rw [hmagic, hversion, hagreed, hsem, hcrc, hhead, hbody, e.saveArea_reserved b p c hst]
  simp [hspan]

end

/-- Settles O11: each register is read from where it was written, and the area passes each check of R71. -/
theorem saveAreaRoundTrip : Obligations.SaveAreaRoundTrip := by
  unfold Obligations.SaveAreaRoundTrip
  intro b e p c hp hc
  obtain ⟨helen, hfault, hpc⟩ := ctxOfArea_words b e p c
  exact ⟨fun r hr => ctxOfArea_sreg b e p c hr, fun r hr => ctxOfArea_pred b e p c hr, fun r hr => ctxOfArea_vh b e p c hr, helen, hfault, hpc,
    fun k hk => ctxOfArea_semtab b e p c hk, fun k hk => ctxOfArea_scratch b e p c hk, e.length_saveArea b p c,
    e.restoreErr_saveArea b p c⟩

end Sys2Proof.Machine
end

section
/-! PROOFS. A partition reset where the map of cells lists its keys out of order (R60, R65). -/

namespace Sys2Proof.Machine

set_option Elab.async false

open Sys2Proof

/-- A host's RESET of a partition that is not RESETTING, in an open window. -/
theorem execPartitionReset_open {s : State} {p : Fin 32} (hopen : s.eng.windowOpen = true) (hst : s.eng.pstate p ≠ psResetting) :
    exec (.partitionReset .host p) s = .next { s with eng := { s.eng.startReset s.beat p with resp := ⟨true, 0⟩ } } := by
  have hwarm := warm_of_windowOpen hopen
  show execPartitionReset .host p s = _
  rw [execPartitionReset, ctlPart_open _ _ _ _ _ hwarm, ctlWrite_pass _ _ _ _ (by simp [Eng.gate, hopen]), hwarm, if_neg Bool.false_ne_true,
    if_neg hst]

theorem Eng.ctx_withResp (e : Eng) (r : Resp) (p c : Nat) : ({ e with resp := r } : Eng).ctx p c = e.ctx p c := rfl

/-- A wait of a context of partition 0. -/
def plainWait (c : Nat) : Wait := ⟨0, c, .take, 1, 512, false, 0, 0, false⟩

/-- Contexts 0 and 1 of partition 0 wait in cell 2048; context 1 waits in cell 5 too, whose slice is held for a remap. Cell 2048 is
listed first, so that it is the cell at which a stop looks for both waits. -/
def listedOutOfOrder : State :=
  { State.reset with
    eng := (({ Eng.cold with
        regs := [(Reg.glbStatus, 0x80000007)]
        cells := [(2048, ⟨0, false, [plainWait 0, plainWait 1]⟩), (5, ⟨0, false, [plainWait 1]⟩)]
        sliceHold := [0] } : Eng).onCtx 0 0 fun x => { x with st := .waiting }).onCtx 0 1 fun x => { x with st := .waiting } }

/-- Stopping context 0 writes cell 2048 and so puts the map in order: the wait of context 1 is now found in the held cell, and the
context goes on waiting. -/
theorem listedOutOfOrder_reset : ((listedOutOfOrder.eng.startReset listedOutOfOrder.beat (0 : Fin 32)).ctx (0 : Fin 32) 1).st = .waiting := by
  decide +kernel

/-- Refutes O8: its first clause takes every state, one whose map of cells is not in key order among them, where the first context's
stop moves the cell in which the second one's wait is found from one that is free to one that is held. -/
theorem not_partitionResetPhases : ¬ Obligations.PartitionResetPhases := by
  unfold Obligations.PartitionResetPhases
  rintro ⟨hwrite, -⟩
  have hopen : listedOutOfOrder.eng.windowOpen = true := by decide +kernel
  have hstate : listedOutOfOrder.eng.pstate 0 ≠ psResetting := by decide +kernel
  obtain ⟨t, ht, -, -, hstops⟩ := (hwrite listedOutOfOrder 0 hopen).1 hstate
  have hstopped := hstops (fun n hn => absurd rfl hn) 1 (by decide) (.inr (.inl (by decide +kernel))) (by decide +kernel)
  rw [← Host.Outcome.next.inj ((execPartitionReset_open hopen hstate).symm.trans ht), Eng.ctx_withResp, listedOutOfOrder_reset] at hstopped
  exact absurd hstopped nofun

end Sys2Proof.Machine
end

section
/-! PROOFS. What an instruction boundary, and a cycle of a ledger, leave of the contexts that neither can issue nor run, and of the
registers of WX_PART and below (R65, R95, R213). -/

namespace Sys2Proof.Machine

set_option Elab.async false

open Sys2Proof

/-- A context that does not run and that the issue slot cannot be given to. -/
def Ctx.Idle (x : Ctx) : Prop := x.st ≠ .ready ∧ x.st ≠ .running

theorem Ctx.Idle.canIssue {x : Ctx} (h : x.Idle) : x.canIssue = false := by
  obtain ⟨hready, hrun⟩ := h
  simp [Ctx.canIssue, hready, hrun]

/-- The contexts that `K` names stay as they are, and so do the registers below those of the scheduler. -/
structure Eng.Rests (K : Nat → Nat → Prop) (e f : Eng) : Prop where
  ctx : ∀ p c, K p c → f.ctx p c = e.ctx p c
  rd : ∀ a, a < 0x28000 → f.rd a = e.rd a

section
variable {K : Nat → Nat → Prop} {e g k : Eng}

theorem Eng.Rests.refl (e : Eng) : e.Rests K e := ⟨fun _ _ _ => rfl, fun _ _ => rfl⟩

theorem Eng.Rests.trans (h : e.Rests K g) (h' : g.Rests K k) : e.Rests K k :=
  ⟨fun p c hk => (h'.ctx p c hk).trans (h.ctx p c hk), fun a ha => (h'.rd a ha).trans (h.rd a ha)⟩

/-- A change of neither partitions nor registers. -/
theorem Eng.Rests.rest (h : e.Rests K g) (hp : k.parts = g.parts := by rfl) (hr : k.regs = g.regs := by rfl) : e.Rests K k :=
  h.trans ⟨fun _ _ _ => by simp only [Eng.ctx, Eng.part, hp], fun _ _ => by rw [Eng.rd, hr, Eng.rd]⟩

theorem Eng.Rests.ite {c : Prop} [Decidable c] (h : e.Rests K g) (h' : e.Rests K k) : e.Rests K (if c then g else k) := by
  split
  · exact h
  · exact h'

theorem Eng.Rests.ite2 {α : Type} {c : Prop} [Decidable c] {x y : α × Eng} (h : e.Rests K x.2) (h' : e.Rests K y.2) :
    e.Rests K (if c then x else y).2 := by
  split
  · exact h
  · exact h'

theorem Eng.Rests.foldl {α : Type} (h : e.Rests K g) {f : Eng → α → Eng} {l : List α}
    (hf : ∀ {g} x, e.Rests K g → e.Rests K (f g x)) : e.Rests K (l.foldl f g) := by
  induction l generalizing g with
  | nil => exact h
  | cons x r ih => exact ih (hf x h)

theorem Eng.Rests.foldlOn {α β : Type} (π : β → Eng) {z : β} (h : e.Rests K (π z)) {f : β → α → β} {l : List α}
    (hf : ∀ {z} x, e.Rests K (π z) → e.Rests K (π (f z x))) : e.Rests K (π (l.foldl f z)) := by
  induction l generalizing z with
  | nil => exact h
  | cons x r ih => exact ih (hf x h)

/-! ### Registers -/

theorem Eng.Rests.wr (h : e.Rests K g) {a : Nat} {v : Word} (ha : 0x28000 ≤ a := by exact Nat.le_add_right_of_le (by decide)) :
    e.Rests K (g.wr a v) :=
  h.trans ⟨fun _ _ _ => rfl, fun i hi => Eng.rd_wr_ne _ _ (by omega)⟩

theorem Eng.Rests.setF (h : e.Rests K g) {a hi lo v : Nat} (ha : 0x28000 ≤ a := by exact Nat.le_add_right_of_le (by decide)) :
    e.Rests K (g.setF a hi lo v) := h.wr ha
theorem Eng.Rests.ev (h : e.Rests K g) {a i : Nat} (ha : 0x28000 ≤ a := by exact Nat.le_add_right_of_le (by decide)) :
    e.Rests K (g.ev a i) := h.wr ha
theorem Eng.Rests.bump (h : e.Rests K g) {a hi lo c : Nat} (ha : 0x28000 ≤ a := by exact Nat.le_add_right_of_le (by decide)) :
    e.Rests K (g.bump a hi lo c) := h.wr ha
theorem Eng.Rests.bumpWrap (h : e.Rests K g) {a hi lo c : Nat} (ha : 0x28000 ≤ a := by exact Nat.le_add_right_of_le (by decide)) :
    e.Rests K (g.bumpWrap a hi lo c) := h.wr ha

/-! ### Partitions and contexts -/

/-- A change of a partition outside its contexts. -/
theorem Eng.Rests.onPart (h : e.Rests K g) {q : Nat} {f : Partn → Partn} (hf : ∀ x, (f x).ctxs = x.ctxs := by exact fun _ => rfl) :
    e.Rests K (g.onPart q f) := by
  refine h.trans ⟨fun p c _ => ?_, fun _ _ => rfl⟩
  by_cases hp : p = q
  · subst hp
    rw [Eng.ctx, Eng.part_onPart_self, Partn.ctx, hf]
    rfl
  · rw [Eng.ctx, Eng.part_onPart_ne _ _ hp]
    rfl

/-- A change of a context that `K` does not name. -/
theorem Eng.Rests.onCtx (h : e.Rests K g) {q d : Nat} {f : Ctx → Ctx} (hd : ¬ K q d) : e.Rests K (g.onCtx q d f) := by
  refine h.trans ⟨fun p c hk => ?_, fun _ _ => rfl⟩
  by_cases hp : p = q
  · subst hp
    have hc : c ≠ d := fun hc => hd (hc ▸ hk)
    rw [Eng.ctx, Eng.onCtx, Eng.part_onPart_self, Partn.ctx_onCtx_ne _ _ hc]
    rfl
  · rw [Eng.ctx, Eng.onCtx, Eng.part_onPart_ne _ _ hp]
    rfl

/-! ### The issue slot -/

theorem Eng.Rests.showPower (h : e.Rests K g) {d : Nat} : e.Rests K (g.showPower d) :=
  ((h.setF (by decide)).setF (by decide)).setF (by decide)

theorem Eng.Rests.ungate (h : e.Rests K g) {q : Nat} : e.Rests K (g.ungate q) := by
  have hgate : e.Rests K (g.setF Reg.pwrGated q q 0) := h.setF (by decide)
  exact .ite hgate.rest.showPower h

theorem Eng.Rests.vacate (h : e.Rests K g) {q d : Nat} : e.Rests K (g.vacate q d) := .ite h.onPart h

variable (hK : ∀ p c, K p c → (e.ctx p c).Idle)
include hK

/-- The issue slot goes to a context that can issue, which `K` does not name. -/
theorem Eng.Rests.dispatch (h : e.Rests K g) {q : Nat} : e.Rests K (g.dispatch q) := by
  unfold Eng.dispatch
  split
  · exact h
  · split
    · exact h
    next l d hbest =>
    have hd : ¬ K q d := fun hk => by
      have hidle := (hK q d hk).canIssue
      rw [← h.ctx q d hk, (g.bestCtx_canIssue hbest).1] at hidle
      cases hidle
    dsimp only
    split
    · exact (h.ungate.onCtx hd).onPart
    · exact (h.ungate.bumpWrap.onCtx hd).onPart

theorem Eng.Rests.release (h : e.Rests K g) {q d : Nat} : e.Rests K (g.release q d) := h.vacate.dispatch hK

theorem Eng.Rests.preempt (h : e.Rests K g) {q d : Nat} (hd : ¬ K q d) : e.Rests K (g.preempt q d) := by
  have hout : e.Rests K (g.switchOut q d) := (h.onCtx hd).onPart.dispatch hK
  exact .ite hout hout.bumpWrap

omit hK

/-! ### Stopping a context -/

theorem Eng.Rests.postAlert (h : e.Rests K g) {q m : Nat} : e.Rests K (g.postAlert q m) := by
  have hclear : e.Rests K (g.onReq m fun r => { r with alert := none }) := h.rest
  unfold Eng.postAlert
  split
  · exact h
  · exact .ite hclear (.ite (Eng.Rests.bumpWrap hclear.onPart) h.onPart.ev)

theorem Eng.Rests.discardBatch (h : e.Rests K g) {q : Nat} : e.Rests K (g.discardBatch q) := by
  have halert : ∀ {g m}, e.Rests K g → e.Rests K (g.alertReturn q m) := fun h => by
    unfold Eng.alertReturn
    split
    · exact .ite h.postAlert h
    · exact h
  unfold Eng.discardBatch
  split
  · exact h
  · exact Eng.Rests.foldl (Eng.Rests.onPart (h.foldl fun _ h => h.rest)) fun _ h => halert h

theorem Eng.Rests.withdraw (h : e.Rests K g) {b : BeatUnit} {q d : Nat} {r : StopReq} (hd : ¬ K q d) :
    e.Rests K (g.withdraw b q d r) := by
  have hcell : ∀ n f, e.Rests K (g.onCell n f) := fun _ _ => h.rest
  unfold Eng.withdraw
  split
  · split
    · exact h
    · exact (hcell _ _).onCtx hd
  · exact h.onPart.onCtx hd
  · exact h

theorem Eng.Rests.putCell (h : e.Rests K g) {n : Nat} {v : Word} {s : Option Bool} : e.Rests K (g.putCell n v s) := .ite h.rest h.rest

theorem Eng.Rests.stopCtx (h : e.Rests K g) {b : BeatUnit} {q d : Nat} {r : StopReq} (hd : ¬ K q d) :
    e.Rests K (g.stopCtx b q d r) := by
  have hdrop : e.Rests K (if r ≠ .stop ∧ (g.withdraw b q d r).ownsBatch q d then (g.withdraw b q d r).discardBatch q
      else g.withdraw b q d r) :=
    .ite (h.withdraw hd).discardBatch (h.withdraw hd)
  unfold Eng.stopCtx
  dsimp only
  split
  · exact Eng.Rests.onCtx (hdrop.foldl fun _ h => h.putCell) hd
  · exact hdrop.onCtx hd
  · exact hdrop.onCtx hd

/-! ### Instruction boundaries, and the cycle of a ledger -/

include hK

theorem Eng.Rests.boundary (h : e.Rests K g) {b : BeatUnit} {q d : Nat} (hd : ¬ K q d) : e.Rests K (g.boundary b q d) := by
  unfold Eng.boundary
  dsimp only
  split
  · exact (h.stopCtx hd).release hK
  · exact .ite (h.release hK) (.ite (h.preempt hK hd) (h.dispatch hK))

theorem Eng.Rests.finish (h : e.Rests K g) {b : BeatUnit} {q d : Nat} {f : Ctx → Ctx} (hd : ¬ K q d) : e.Rests K (g.finish b q d f) :=
  Eng.Rests.boundary hK (h.onCtx hd) hd

omit hK

theorem Eng.Rests.charge (h : e.Rests K g) {q i j : Nat} : e.Rests K (g.charge q i j) := by
  have hset : ∀ l, e.Rests K (g.setLedger i l) := fun _ => h.rest
  exact .ite (hset _) (hset _).bump.ev

theorem Eng.Rests.ledgFirst (h : e.Rests K g) {i row : Nat} : e.Rests K (g.ledgFirst i row).2 := by
  refine Eng.Rests.foldlOn (fun x : List (LedgOp × Option Dword) × Eng => x.2) h.rest fun o h => ?_
  unfold ledgOne
  dsimp only
  split
  · exact h
  · exact h.rest
  · exact h.charge
  · exact .ite2 h.charge h

include hK

/-- Only a context that runs takes its answer from a ledger. -/
theorem Eng.Rests.ledgCycle (h : e.Rests K g) {b : BeatUnit} {i row : Nat} : e.Rests K (g.ledgCycle b i row id) := by
  refine Eng.Rests.foldl (Eng.Rests.ledgFirst (Eng.Rests.ledgFirst h)) fun {g} x h => ?_
  split
  next hrun =>
    have hd : ¬ K x.1.part x.1.ctx := fun hk => (hK _ _ hk).2 (h.ctx _ _ hk ▸ hrun)
    exact h.finish hK hd
  next => exact h

end
end Sys2Proof.Machine
end
section
/-! PROOFS. Context commands (R65 to R68, R79, R80, R487, R562, R564). -/

namespace Sys2Proof.Machine

set_option Elab.async false

open Sys2Proof

/-! ## A write of the host in an open window -/

theorem gate_host_open {e : Eng} (h : e.windowOpen = true) (addr : Nat) : e.gate .host addr = .pass := by
  simp [Eng.gate, h]

/-- A host's context command or RESET in an open window takes its effect; its response is no register and no partition's. -/
theorem ctlPart_host {s : State} (h : s.eng.windowOpen = true) (addr p : Nat) (f : BeatUnit → Eng → Eng) :
    ∃ t, ctlPart .host addr p f s = .next t ∧ (∀ a, t.eng.rd a = (f s.beat s.eng).rd a) ∧ t.eng.parts = (f s.beat s.eng).parts :=
  ⟨_, (ctlPart_open _ _ _ _ _ (warm_of_windowOpen h)).trans (ctlWrite_pass _ _ _ _ (gate_host_open h addr)), fun _ => rfl, rfl⟩

theorem Eng.ctx_congr {e f : Eng} (h : f.parts = e.parts) (p c : Nat) : f.ctx p c = e.ctx p c := by
  rw [Eng.ctx, Eng.part, h, Eng.ctx, Eng.part]

theorem Eng.part_congr {e f : Eng} (h : f.parts = e.parts) (p : Nat) : f.part p = e.part p := by
  rw [Eng.part, h, Eng.part]

theorem Eng.rd_onPart (e : Eng) (p : Nat) (f : Partn → Partn) (a : Nat) : (e.onPart p f).rd a = e.rd a := rfl

/-! ## What a command makes of its context -/

/-- BUSY and the context in the command word `r`, and the command in progress, with ERR 0x1 to come where the context's state does not allow it. -/
def Eng.commanded (r p c op : Nat) (ok : Bool) (e : Eng) : Eng :=
  ((e.setF r 3 0 c).setF r 31 31 1).onPart p fun q => { q with cmd := some (op, c, if ok then 0 else 1) }

section
variable {e : Eng} {r p c op : Nat} {ok : Bool} {allowed : List CtxSt} {act : Eng → Eng}

theorem Eng.ctxCommand_takes (hst : e.pstate p ≠ psResetting) (hw : e.warm = false) (hbusy : e.bit (Reg.partCtxCmd p) 31 = false)
    (hok : (e.ctx p c).st ∈ allowed) : e.ctxCommand p c op allowed act = act (e.commanded (Reg.partCtxCmd p) p c op true) := by
  have hall : allowed.contains (e.ctx p c).st = true := List.contains_iff_mem.mpr hok
  unfold Eng.ctxCommand
  rw [decide_eq_false hst, hw, hbusy, if_neg (by decide)]
  dsimp only
  rw [hall, if_pos rfl]
  rfl

theorem Eng.ctxCommand_bars (hst : e.pstate p ≠ psResetting) (hw : e.warm = false) (hbusy : e.bit (Reg.partCtxCmd p) 31 = false)
    (hok : (e.ctx p c).st ∉ allowed) : e.ctxCommand p c op allowed act = e.commanded (Reg.partCtxCmd p) p c op false := by
  have hall : allowed.contains (e.ctx p c).st = false := by
    rw [← Bool.not_eq_true, List.contains_iff_mem]
    exact hok
  unfold Eng.ctxCommand
  rw [decide_eq_false hst, hw, hbusy, if_neg (by decide)]
  dsimp only
  rw [hall, if_neg (by decide)]
  rfl

theorem Eng.commanded_part : (e.commanded r p c op ok).part p = { e.part p with cmd := some (op, c, if ok then 0 else 1) } := by
  rw [Eng.commanded, Eng.part_onPart_self, Eng.part_congr (Eng.setF_parts _ _ _ _ _), Eng.part_congr (Eng.setF_parts _ _ _ _ _)]

theorem Eng.commanded_ctx (d : Nat) : (e.commanded r p c op ok).ctx p d = e.ctx p d := by
  rw [Eng.ctx, Eng.commanded_part]
  rfl

theorem Eng.commanded_busy : (e.commanded r p c op ok).bit r 31 = true := by
  rw [Eng.commanded, Eng.bit_congr (Eng.rd_onPart _ _ _ _), Eng.bit_setF_self _ _ _ _ (by decide)]
  decide

theorem Eng.commanded_rd {a : Nat} (h : a ≠ r) : (e.commanded r p c op ok).rd a = e.rd a := by
  rw [Eng.commanded, Eng.rd_onPart, Eng.rd_setF_ne _ _ _ _ h, Eng.rd_setF_ne _ _ _ _ h]

theorem Eng.mustWait_congr {e f : Eng} {p c : Nat} (hctx : f.ctx p c = e.ctx p c) (hcells : f.cells = e.cells) (hjoin : f.joined = e.joined)
    (hhold : f.sliceHold = e.sliceHold) (hwait : f.sliceWait = e.sliceWait) : f.mustWait p c = e.mustWait p c := by
  simp only [Eng.mustWait, Eng.takeWait, Eng.cellHeld, hctx, hcells, hjoin, hhold, hwait]

theorem Eng.commanded_mustWait (d : Nat) : (e.commanded r p c op ok).mustWait p d = e.mustWait p d := by
  refine Eng.mustWait_congr (Eng.commanded_ctx d) ?_ ?_ ?_ ?_
  · rw [Eng.commanded, Eng.onPart_cells, Eng.setF_cells, Eng.setF_cells]
  · rw [Eng.commanded, Eng.onPart_joined, Eng.setF_joined, Eng.setF_joined]
  · rw [Eng.commanded, Eng.onPart_sliceHold, Eng.setF_sliceHold, Eng.setF_sliceHold]
  · rw [Eng.commanded, Eng.onPart_sliceWait, Eng.setF_sliceWait, Eng.setF_sliceWait]

end

/-! ## Stopping -/

section
variable (b : BeatUnit) {e : Eng} {p c : Nat} {k : StopReq}

theorem Eng.stopCtx_rd {a : Nat} (ha : a < 0x28000) : (e.stopCtx b p c k).rd a = e.rd a :=
  (Eng.Rests.stopCtx (K := fun _ _ => False) (.refl e) id).rd a ha

theorem Eng.stopCtx_reset : (e.stopCtx b p c .reset).ctx p c = Ctx.cleared := by
  unfold Eng.stopCtx
  exact Eng.ctx_onCtx_self _ _ _ _

theorem Eng.stopCtx_save : ((e.stopCtx b p c .save).ctx p c).st = .stopped ∧ ((e.stopCtx b p c .save).ctx p c).stopReq = none ∧
    ((e.stopCtx b p c .save).ctx p c).saveSt = if (e.ctx p c).st = .running then .ready else (e.ctx p c).st := by
  unfold Eng.stopCtx
  dsimp only
  rw [Eng.ctx_onCtx_self]
  exact ⟨rfl, rfl, rfl⟩

theorem Eng.stopCtx_stop : ((e.stopCtx b p c .stop).ctx p c).st = .stopped ∧ ((e.stopCtx b p c .stop).ctx p c).stopReq = none := by
  unfold Eng.stopCtx
  dsimp only
  rw [Eng.ctx_onCtx_self]
  exact ⟨rfl, rfl⟩

/-- What follows a stop at a boundary leaves the context as the stop has made it. -/
theorem Eng.stopNow_rests (hw : e.mustWait p c = false) (hidle : ((e.stopCtx b p c k).ctx p c).Idle)
    (hreq : ((e.stopCtx b p c k).ctx p c).stopReq = none) :
    (e.stopCtx b p c k).Rests (fun q d => q = p ∧ d = c) (e.stopNow b p c k) := by
  have hK : ∀ q d, q = p ∧ d = c → ((e.stopCtx b p c k).ctx q d).Idle := by
    rintro _ _ ⟨rfl, rfl⟩
    exact hidle
  have hask : e.askStop b p c k = (e.stopCtx b p c k).release p c := by
    rw [Eng.askStop, hw, if_neg Bool.false_ne_true]
  have hrel := Eng.Rests.release hK (.refl _) (q := p) (d := c)
  unfold Eng.stopNow
  rw [hask]
  dsimp only
  split
  · rw [hrel.ctx p c ⟨rfl, rfl⟩, hreq, if_neg (by simp)]
    exact hrel
  · exact hrel.ledgCycle hK
  · exact hrel

/-- A context that stops at once: it is as the stop has made it, and the registers below the scheduler's stand. -/
theorem Eng.stopNow_stops (hw : e.mustWait p c = false) (hidle : ((e.stopCtx b p c k).ctx p c).Idle)
    (hreq : ((e.stopCtx b p c k).ctx p c).stopReq = none) :
    (e.stopNow b p c k).ctx p c = (e.stopCtx b p c k).ctx p c ∧ ∀ a, a < 0x28000 → (e.stopNow b p c k).rd a = e.rd a :=
  have h := Eng.stopNow_rests b hw hidle hreq
  ⟨h.ctx p c ⟨rfl, rfl⟩, fun a ha => (h.rd a ha).trans (Eng.stopCtx_rd b ha)⟩

end

theorem partCtxCmd_low (p : Fin 32) : Reg.partCtxCmd p.val < 0x28000 := by
  show 0x2003c + 0x400 * p.val < 0x28000
  omega

theorem partCtxEntry_ne_cmd (p : Nat) : Reg.partCtxEntryLo p ≠ Reg.partCtxCmd p ∧ Reg.partCtxEntryHi p ≠ Reg.partCtxCmd p := by
  refine ⟨show 0x20030 + 0x400 * p ≠ 0x2003c + 0x400 * p from ?_, show 0x20034 + 0x400 * p ≠ 0x2003c + 0x400 * p from ?_⟩ <;> omega

end Sys2Proof.Machine
end
section
/-! PROOFS. What each context command of the host does (R65, R66, R68, R79, R80, R564). -/

namespace Sys2Proof.Machine

set_option Elab.async false

open Sys2Proof

/-- Giving the issue slot makes at most a context RUNNING. -/
theorem Eng.dispatch_st (e : Eng) (p d : Nat) :
    ((e.dispatch p).ctx p d).st = (e.ctx p d).st ∨ ((e.dispatch p).ctx p d).st = .running := by
  unfold Eng.dispatch
  split
  · exact .inl rfl
  · split
    · exact .inl rfl
    · rename_i l k _
      have hgiven : ∀ g : Eng, g.parts = e.parts →
          (((g.onCtx p k fun x => { x with st := .running }).onPart p fun q =>
            { q with slot := some k, lastSlot := some k, lastAt := kset 0 q.lastAt l (k + 1) }).ctx p d).st = (e.ctx p d).st ∨
          (((g.onCtx p k fun x => { x with st := .running }).onPart p fun q =>
            { q with slot := some k, lastSlot := some k, lastAt := kset 0 q.lastAt l (k + 1) }).ctx p d).st = .running := by
        intro g hg
        rw [← Eng.ctx_congr hg]
        by_cases hd : d = k
        · subst hd
          right
          simp [Eng.ctx, Partn.ctx, Eng.onCtx, Partn.onCtx]
        · left
          simp [Eng.ctx, Partn.ctx, Eng.onCtx, Partn.onCtx, kget_kmod_ne _ _ _ hd]
      have hparts : (e.ungate p).parts = e.parts := (Eng.ungate_frame e p 0).2
      dsimp only
      split
      · exact hgiven _ hparts
      · exact hgiven _ ((Eng.setF_parts _ _ _ _ _).trans hparts)

theorem Eng.dispatch_rd (e : Eng) (p : Nat) {a : Nat} (ha : a < 0x28000) : (e.dispatch p).rd a = e.rd a :=
  (Eng.Rests.dispatch (K := fun _ _ => False) (fun _ _ h => h.elim) (.refl e)).rd a ha

/-- A context set anew and the issue slot then given: its registers are those it was set to, and no register of the commands has changed. -/
theorem Eng.onCtx_dispatch (e : Eng) (p c : Nat) (f : Ctx → Ctx) :
    Ctx.sameRegs (f (e.ctx p c)) (((e.onCtx p c f).dispatch p).ctx p c) ∧
    ((((e.onCtx p c f).dispatch p).ctx p c).st = (f (e.ctx p c)).st ∨ (((e.onCtx p c f).dispatch p).ctx p c).st = .running) ∧
    ∀ a, a < 0x28000 → ((e.onCtx p c f).dispatch p).rd a = e.rd a := by
  have hregs := (Eng.dispatch_frame (e.onCtx p c f) p c).2 c
  have hst := Eng.dispatch_st (e.onCtx p c f) p c
  rw [Eng.ctx_onCtx_self] at hregs hst
  exact ⟨hregs, hst, fun a ha => (Eng.dispatch_rd _ p ha).trans rfl⟩

section
variable {s : State} {p : Fin 32} {c : Fin 16} {op : Nat} {allowed : List CtxSt} {act : BeatUnit → Eng → Eng}

/-- The host writes a context command in an open window: BUSY is set, the context is as `act` leaves it or, where its state does not
allow the command, as it was. -/
theorem ctxCommand_host (hwin : s.eng.windowOpen = true) (hst : s.eng.pstate p.val ≠ psResetting)
    (hbusy : s.eng.bit (Reg.partCtxCmd p.val) 31 = false) :
    ∃ t, ctlPart .host (Reg.partCtxCmd p.val) p.val (fun b e => e.ctxCommand p.val c.val op allowed (act b)) s = .next t ∧
      ((s.eng.ctx p.val c.val).st ∈ allowed →
        (∀ a, t.eng.rd a = (act s.beat (s.eng.commanded (Reg.partCtxCmd p.val) p.val c.val op true)).rd a) ∧
        t.eng.parts = (act s.beat (s.eng.commanded (Reg.partCtxCmd p.val) p.val c.val op true)).parts) ∧
      ((s.eng.ctx p.val c.val).st ∉ allowed →
        (∀ a, t.eng.rd a = (s.eng.commanded (Reg.partCtxCmd p.val) p.val c.val op false).rd a) ∧
        t.eng.parts = (s.eng.commanded (Reg.partCtxCmd p.val) p.val c.val op false).parts) := by
  obtain ⟨t, hexec, hrd, hparts⟩ := ctlPart_host hwin (Reg.partCtxCmd p.val) p.val fun b e => e.ctxCommand p.val c.val op allowed (act b)
  have hwarm := warm_of_windowOpen hwin
  refine ⟨t, hexec, fun hok => ?_, fun hbar => ?_⟩
  · rw [Eng.ctxCommand_takes hst hwarm hbusy hok] at hparts
    exact ⟨fun a => by rw [hrd, Eng.ctxCommand_takes hst hwarm hbusy hok], hparts⟩
  · rw [Eng.ctxCommand_bars hst hwarm hbusy hbar] at hparts
    exact ⟨fun a => by rw [hrd, Eng.ctxCommand_bars hst hwarm hbusy hbar], hparts⟩

/-- A command that the context's state allows, whose action keeps the command word. -/
theorem ctxCommand_acts (hwin : s.eng.windowOpen = true) (hst : s.eng.pstate p.val ≠ psResetting)
    (hbusy : s.eng.bit (Reg.partCtxCmd p.val) 31 = false) (hok : (s.eng.ctx p.val c.val).st ∈ allowed)
    (hkeep : ∀ e a, e = s.eng.commanded (Reg.partCtxCmd p.val) p.val c.val op true → a < 0x28000 → (act s.beat e).rd a = e.rd a) :
    ∃ t, ctlPart .host (Reg.partCtxCmd p.val) p.val (fun b e => e.ctxCommand p.val c.val op allowed (act b)) s = .next t ∧
      t.eng.bit (Reg.partCtxCmd p.val) 31 = true ∧
      t.eng.ctx p.val c.val = (act s.beat (s.eng.commanded (Reg.partCtxCmd p.val) p.val c.val op true)).ctx p.val c.val := by
  obtain ⟨t, hexec, htakes, _⟩ := ctxCommand_host (op := op) (act := act) hwin hst hbusy
  obtain ⟨hrd, hparts⟩ := htakes hok
  refine ⟨t, hexec, ?_, Eng.ctx_congr hparts _ _⟩
  rw [Eng.bit_congr ((hrd _).trans (hkeep _ _ rfl (partCtxCmd_low p))), Eng.commanded_busy]

/-- A command that the context's state does not allow leaves the context and is to complete with ERR 0x1. -/
theorem ctxCommand_barred (hwin : s.eng.windowOpen = true) (hst : s.eng.pstate p.val ≠ psResetting)
    (hbusy : s.eng.bit (Reg.partCtxCmd p.val) 31 = false) (hbar : (s.eng.ctx p.val c.val).st ∉ allowed) :
    ∃ t, ctlPart .host (Reg.partCtxCmd p.val) p.val (fun b e => e.ctxCommand p.val c.val op allowed (act b)) s = .next t ∧
      t.eng.bit (Reg.partCtxCmd p.val) 31 = true ∧ t.eng.ctx p.val c.val = s.eng.ctx p.val c.val ∧
      (t.eng.part p.val).cmd = some (op, c.val, 1) := by
  obtain ⟨t, hexec, _, hbars⟩ := ctxCommand_host (op := op) (act := act) hwin hst hbusy
  obtain ⟨hrd, hparts⟩ := hbars hbar
  refine ⟨t, hexec, ?_, ?_, ?_⟩
  · rw [Eng.bit_congr (hrd _), Eng.commanded_busy]
  · rw [Eng.ctx_congr hparts, Eng.commanded_ctx]
  · rw [Eng.part_congr hparts, Eng.commanded_part]
    rfl

/-! ## The commands -/

theorem ctxStart_starts (hwin : s.eng.windowOpen = true) (hst : s.eng.pstate p.val ≠ psResetting)
    (hbusy : s.eng.bit (Reg.partCtxCmd p.val) 31 = false) (hfree : (s.eng.ctx p.val c.val).st = .free) :
    ∃ t, exec (.ctxStart .host p c) s = .next t ∧ t.eng.bit (Reg.partCtxCmd p.val) 31 = true ∧
      Ctx.sameRegs (Ctx.started c.val (s.eng.entryPc p.val)) (t.eng.ctx p.val c.val) := by
  obtain ⟨t, hexec, hbit, hctx⟩ := ctxCommand_acts (op := 1) (allowed := [.free]) (act := fun _ e =>
    (e.onCtx p.val c.val fun _ => Ctx.started c.val (e.entryPc p.val)).dispatch p.val) hwin hst hbusy
    (by rw [hfree]; exact List.mem_singleton_self _) fun e a _ ha => (Eng.onCtx_dispatch e _ _ _).2.2 a ha
  refine ⟨t, hexec, hbit, ?_⟩
  have hentry : (s.eng.commanded (Reg.partCtxCmd p.val) p.val c.val 1 true).entryPc p.val = s.eng.entryPc p.val := by
    unfold Eng.entryPc
    rw [Eng.pair_congr (Eng.commanded_rd (partCtxEntry_ne_cmd p).1) (Eng.commanded_rd (partCtxEntry_ne_cmd p).2)]
  rw [hctx, ← hentry]
  exact (Eng.onCtx_dispatch _ _ _ _).1

theorem ctxResume_resumes (hwin : s.eng.windowOpen = true) (hst : s.eng.pstate p.val ≠ psResetting)
    (hbusy : s.eng.bit (Reg.partCtxCmd p.val) 31 = false) (hstop : (s.eng.ctx p.val c.val).st = .stopped) :
    ∃ t, exec (.ctxResume .host p c) s = .next t ∧ t.eng.bit (Reg.partCtxCmd p.val) 31 = true ∧
      Ctx.sameRegs (s.eng.ctx p.val c.val) (t.eng.ctx p.val c.val) ∧
      ((t.eng.ctx p.val c.val).st = .ready ∨ (t.eng.ctx p.val c.val).st = .running) := by
  obtain ⟨t, hexec, hbit, hctx⟩ := ctxCommand_acts (op := 6) (allowed := [.stopped]) (act := fun _ e =>
    (e.onCtx p.val c.val fun x => { x with st := .ready, remain := .none }).dispatch p.val) hwin hst hbusy
    (by rw [hstop]; exact List.mem_singleton_self _) fun e a _ ha => (Eng.onCtx_dispatch e _ _ _).2.2 a ha
  obtain ⟨hregs, hto, _⟩ := Eng.onCtx_dispatch (s.eng.commanded (Reg.partCtxCmd p.val) p.val c.val 6 true) p.val c.val fun x =>
    { x with st := .ready, remain := .none }
  rw [Eng.commanded_ctx] at hregs hto
  refine ⟨t, hexec, hbit, ?_⟩
  rw [hctx]
  exact ⟨Ctx.sameRegs_trans ⟨rfl, rfl, rfl, rfl, rfl, rfl, rfl, rfl⟩ hregs, hto⟩

/-- A command that stops its context at once. -/
theorem ctxCommand_stops {k : StopReq} (hwin : s.eng.windowOpen = true) (hst : s.eng.pstate p.val ≠ psResetting)
    (hbusy : s.eng.bit (Reg.partCtxCmd p.val) 31 = false) (hok : (s.eng.ctx p.val c.val).st ∈ allowed)
    (hwait : s.eng.mustWait p.val c.val = false)
    (hidle : ∀ e : Eng, ((e.stopCtx s.beat p.val c.val k).ctx p.val c.val).Idle ∧ ((e.stopCtx s.beat p.val c.val k).ctx p.val c.val).stopReq = none) :
    ∃ t, ctlPart .host (Reg.partCtxCmd p.val) p.val
        (fun b e => e.ctxCommand p.val c.val op allowed fun e => e.stopNow b p.val c.val k) s = .next t ∧
      t.eng.bit (Reg.partCtxCmd p.val) 31 = true ∧
      ∃ e : Eng, t.eng.ctx p.val c.val = (e.stopCtx s.beat p.val c.val k).ctx p.val c.val := by
  have hwait' : (s.eng.commanded (Reg.partCtxCmd p.val) p.val c.val op true).mustWait p.val c.val = false := by
    rw [Eng.commanded_mustWait, hwait]
  obtain ⟨t, hexec, hbit, hctx⟩ := ctxCommand_acts (op := op) (act := fun b e => e.stopNow b p.val c.val k) hwin hst hbusy hok
    fun e a he ha => (Eng.stopNow_stops s.beat (he ▸ hwait') (hidle e).1 (hidle e).2).2 a ha
  exact ⟨t, hexec, hbit, _, hctx.trans (Eng.stopNow_stops s.beat hwait' (hidle _).1 (hidle _).2).1⟩

end

end Sys2Proof.Machine
end
section
/-! PROOFS. Commands during a warm reset, and their completion (R66, R487, R562, R564). -/

namespace Sys2Proof.Machine

set_option Elab.async false

open Sys2Proof

/-! ## A context just started -/

theorem Ctx.sreg_congr {x y : Ctx} (h : x.sameRegs y) (k : Nat) : y.sreg k = x.sreg k := by
  obtain ⟨hs, _⟩ := h
  rw [Ctx.sreg, hs, Ctx.sreg]

theorem Ctx.started_sreg_one (c entry : Nat) : (Ctx.started c entry).sreg 1 = BitVec.ofNat 64 c :=
  Ctx.sreg_setS_self Ctx.cleared (BitVec.ofNat 64 c) (by decide)

theorem Ctx.started_pc (c : Nat) {entry : Nat} (h : entry < 2 ^ 64) : (Ctx.started c entry).pc.toNat = entry := by
  show (BitVec.ofNat 64 entry).toNat = entry
  rw [BitVec.toNat_ofNat, Nat.mod_eq_of_lt h]

theorem Ctx.started_sreg_ne (c entry : Nat) {k : Nat} (h : k ≠ 1) : (Ctx.started c entry).sreg k = 0 := by
  refine (Ctx.sreg_setS_ne Ctx.cleared (BitVec.ofNat 64 c) h).trans ?_
  simp [Ctx.sreg, Ctx.cleared, kget]

theorem Eng.entryPc_lt (e : Eng) (p : Nat) : e.entryPc p < 2 ^ 64 := by
  have hlo := (e.rd (Reg.partCtxEntryLo p)).isLt
  have hhi := (e.rd (Reg.partCtxEntryHi p)).isLt
  unfold Eng.entryPc
  unfold Eng.pair
  generalize (e.rd (Reg.partCtxEntryLo p)).toNat = lo at hlo ⊢
  generalize (e.rd (Reg.partCtxEntryHi p)).toNat = hi at hhi ⊢
  omega

/-! ## The host and a warm reset -/

theorem gate_host_warm {e : Eng} (h : e.warm = true) {addr : Nat} (ha : 0x10000 ≤ addr) : e.gate .host addr = .slverr := by
  simp [Eng.gate, Eng.windowOpen, h, ha]

/-- During a warm reset a write of the host to a control of WX_PART changes no partition and is refused; CFG_ERR is set. -/
theorem ctlPart_host_warm {s : State} (h : s.eng.warm = true) {addr : Nat} (ha : 0x10000 ≤ addr) (p : Nat) (f : BeatUnit → Eng → Eng) :
    ∃ t, ctlPart .host addr p f s = .next t ∧ t.eng.parts = s.eng.parts ∧ t.eng.resp = ⟨false, 0⟩ ∧ t.eng.bit (Reg.partEvent p) 1 = true :=
  ⟨_, ctlPart_warm .host addr p f s (gate_host_warm h ha) h, rfl, rfl, Eng.bit_ev_self _ _ (by decide)⟩

/-! ## Completion -/

theorem Eng.bit_setF_apart (e : Eng) (a n : Nat) {hi lo i : Nat} (hlo : lo ≤ hi + 1) (hh : hi < 32) (hap : i < lo ∨ hi < i) :
    (e.setF a hi lo n).bit a i = e.bit a i := by
  rw [Eng.bit, Eng.toNat_rd_setF e a n hlo hh, testBit_putBits _ _ hlo, Eng.bit]
  rcases hap with h | h
  · rw [if_neg (by omega)]
  · rw [if_neg (by omega)]

/-- A command that ends. -/
theorem Eng.ctxDone_ends (e : Eng) (p : Nat) {err : Nat} (herr : err < 16) :
    (e.ctxDone p err).bit (Reg.partCtxCmd p) 31 = false ∧ (e.ctxDone p err).fld (Reg.partCtxCmd p) 19 16 = err ∧
    (e.ctxDone p err).bit (Reg.partEvent p) 6 = true := by
  have hne : Reg.partCtxCmd p ≠ Reg.partEvent p := by
    show 0x2003c + 0x400 * p ≠ 0x20008 + 0x400 * p
    omega
  generalize hr : Reg.partCtxCmd p = r at hne ⊢
  have hrd : (e.ctxDone p err).rd r = ((e.setF r 31 31 0).setF r 19 16 err).rd r := by
    rw [Eng.ctxDone, Eng.rd_onPart, hr]
    exact Eng.rd_ev_ne _ _ hne
  refine ⟨?_, ?_, ?_⟩
  · rw [Eng.bit_congr hrd, Eng.bit_setF_apart _ _ _ (by decide) (by decide) (by decide), Eng.bit_setF_self _ _ _ _ (by decide)]
    decide
  · rw [Eng.fld_congr hrd, Eng.fld_setF_self _ _ _ (by decide) (by decide)]
    exact Nat.mod_eq_of_lt herr
  · rw [Eng.ctxDone, Eng.bit_congr (Eng.rd_onPart _ _ _ _)]
    exact Eng.bit_ev_self _ _ (by decide)

theorem exec_ctxCmdComplete (p : Fin 32) (s : State) : exec (.ctxCmdComplete p) s = execCtxCmdComplete p s := rfl

/-- While the core is being replaced no command completes (R487). -/
theorem ctxCmdComplete_coreDown {s : State} {p : Fin 32} (h : (s.eng.part p.val).coreDown = true) :
    exec (.ctxCmdComplete p) s = .next s := by
  rw [exec_ctxCmdComplete, execCtxCmdComplete]
  simp only [State.onEng, h, if_true]
  cases (s.eng.part p.val).cmd <;> rfl

/-- A command with an ERR completes with it; one that a stopped context does not hold up, and that is no SAVE or RESTORE, with 0. -/
theorem ctxCmdComplete_ends {s : State} {p : Fin 32} {op c err : Nat} (hcmd : (s.eng.part p.val).cmd = some (op, c, err))
    (hcore : (s.eng.part p.val).coreDown = false) (h : err ≠ 0 ∨ (op ≠ 3 ∧ op ≠ 4) ∧ (s.eng.ctx p.val c).stopReq = none) :
    exec (.ctxCmdComplete p) s = .next { s with eng := s.eng.ctxDone p.val err } := by
  rw [exec_ctxCmdComplete, execCtxCmdComplete, State.onEng]
  dsimp only
  rw [hcmd]
  dsimp only
  rw [hcore, if_neg Bool.false_ne_true]
  by_cases herr : err = 0
  · obtain ⟨⟨h3, h4⟩, hreq⟩ := h.resolve_left (not_not_intro herr)
    rw [if_neg (not_not_intro herr), hreq]
    dsimp only
    rw [hreq, if_neg (by simp), if_neg h3, if_neg h4, herr]
  · rw [if_pos herr]

/-- Settles O9. Each command's action is followed through the gate of the host's write and the table of R65 (`ctxCommand_acts`,
`ctxCommand_barred`); what the scheduler then does keeps the context's registers and the command word. -/
theorem contextCommandsAct : Obligations.ContextCommandsAct := by
  unfold Obligations.ContextCommandsAct
  refine ⟨fun s p c hwin hst hbusy => ⟨fun hfree => ?_, fun hne => ?_, fun hrun hwait => ?_, fun hwait => ?_,
    ctxResume_resumes hwin hst hbusy, fun hne => ?_, fun st op n hmem hat => ?_⟩, fun s p c hwarm op hop => ?_,
    fun s p => ctxCmdComplete_coreDown, fun s p op c err hcmd hcore herr h => ?_⟩
  · obtain ⟨t, hexec, hbit, hregs⟩ := ctxStart_starts hwin hst hbusy hfree
    have hsreg := Ctx.sreg_congr hregs
    obtain ⟨_, hp, hv, helen, hfault, hpc, hsem, hscr⟩ := hregs
    refine ⟨t, hexec, hbit, ?_, ?_, fun k hk => ?_, hp, fun k => ?_, helen, hfault, hsem, hscr⟩
    · rw [hpc, Ctx.started_pc _ (s.eng.entryPc_lt p.val)]
    · rw [hsreg, Ctx.started_sreg_one]
    · rw [hsreg, Ctx.started_sreg_ne _ _ hk]
    · rw [Ctx.vh, hv]
      rfl
  · exact ctxCommand_barred (op := 1) hwin hst hbusy (by simpa using hne)
  · have hok : (s.eng.ctx p.val c.val).st ∈ [CtxSt.ready, .running, .waiting, .delayed] := by
      rcases hrun with h | h | h <;> simp [h]
    obtain ⟨t, hexec, hbit, e, hctx⟩ := ctxCommand_stops (op := 2) (k := .stop) hwin hst hbusy hok hwait fun e => by
      obtain ⟨hs, hr⟩ := Eng.stopCtx_stop s.beat (e := e) (p := p.val) (c := c.val)
      exact ⟨⟨by simp [hs], by simp [hs]⟩, hr⟩
    exact ⟨t, hexec, hbit, by rw [hctx, (Eng.stopCtx_stop s.beat).1]⟩
  · have hok : (s.eng.ctx p.val c.val).st ∈ [CtxSt.free, .ready, .running, .waiting, .delayed, .stopped, .faulted, .saved] := by
      cases (s.eng.ctx p.val c.val).st <;> decide
    obtain ⟨t, hexec, hbit, e, hctx⟩ := ctxCommand_stops (op := 5) (k := .reset) hwin hst hbusy hok hwait fun e => by
      rw [Eng.stopCtx_reset]
      exact ⟨⟨by decide, by decide⟩, rfl⟩
    exact ⟨t, hexec, hbit, hctx.trans (Eng.stopCtx_reset s.beat)⟩
  · exact ctxCommand_barred (op := 6) hwin hst hbusy (by simpa using hne)
  · have hstop : (s.eng.ctx p.val c.val).st ∉ [CtxSt.ready, .running, .waiting, .delayed] → _ :=
      ctxCommand_barred (op := 2) (act := fun b e => e.stopNow b p.val c.val .stop) hwin hst hbusy
    have hsave : (s.eng.ctx p.val c.val).st ∉ [CtxSt.ready, .running, .waiting, .delayed, .stopped, .faulted] → _ :=
      ctxCommand_barred (op := 3) (act := fun b e => (e.ctxProgress p.val 0 false).stopNow b p.val c.val .save) hwin hst hbusy
    have hrest : (s.eng.ctx p.val c.val).st ∉ [CtxSt.free, .saved] → _ :=
      ctxCommand_barred (op := 4) (act := fun _ e => e.ctxProgress p.val 0 false) hwin hst hbusy
    rw [hat] at hstop hsave hrest
    simp only [List.mem_cons, Prod.mk.injEq, List.not_mem_nil, or_false] at hmem
    rcases hmem with ⟨rfl, rfl, rfl⟩ | ⟨rfl, rfl, rfl⟩ | ⟨rfl, rfl, rfl⟩ | ⟨rfl, rfl, rfl⟩ | h
    · exact hstop (by decide)
    · exact hstop (by decide)
    · exact hstop (by decide)
    · exact hstop (by decide)
    rcases h with ⟨rfl, rfl, rfl⟩ | ⟨rfl, rfl, rfl⟩ | h
    · exact hsave (by decide)
    · exact hsave (by decide)
    rcases h with ⟨rfl, rfl, rfl⟩ | ⟨rfl, rfl, rfl⟩ | ⟨rfl, rfl, rfl⟩ | ⟨rfl, rfl, rfl⟩ | ⟨rfl, rfl, rfl⟩ | ⟨rfl, rfl, rfl⟩ <;>
      exact hrest (by decide)
  · have hrefused : ∀ f, ∃ t, ctlPart .host (Reg.partCtxCmd p.val) p.val f s = .next t ∧ t.eng.ctx p.val c.val = s.eng.ctx p.val c.val ∧
        t.eng.resp = ⟨false, 0⟩ ∧ t.eng.bit (Reg.partEvent p.val) 1 = true := fun f => by
      obtain ⟨t, hexec, hparts, hresp, hbit⟩ := ctlPart_host_warm hwarm (addr := Reg.partCtxCmd p.val) (Nat.le_add_right_of_le (by decide)) p.val f
      exact ⟨t, hexec, Eng.ctx_congr hparts _ _, hresp, hbit⟩
    simp only [List.mem_cons, List.not_mem_nil, or_false] at hop
    rcases hop with rfl | rfl | rfl | rfl | rfl | rfl <;> exact hrefused _
  · refine ⟨_, ctxCmdComplete_ends hcmd hcore (h.imp_right fun ⟨hop, hreq⟩ => ⟨?_, hreq⟩), Eng.ctxDone_ends s.eng p.val herr⟩
    rcases hop with rfl | rfl | rfl | rfl <;> decide

end Sys2Proof.Machine
end

section
/-! PROOFS. SAVE and RESTORE (R66, R69 to R72, R581). -/

namespace Sys2Proof.Machine

set_option Elab.async false

open Sys2Proof

/-! ## The progress word and what leaves memory -/

/-- The progress word at position `pos` is that word of the unit code of bytes, and no other register of the commands. -/
theorem Eng.ctxProgress_pair (e : Eng) (p : Nat) :
    (e.ctxProgress p 0 false).pair (Reg.partCtxProgressLo p) (Reg.partCtxProgressHi p) = 5 * 2 ^ 48 := by
  have hne : Reg.partCtxProgressLo p ≠ Reg.partCtxProgressHi p := by
    show 0x20048 + 0x400 * p ≠ 0x2004c + 0x400 * p
    omega
  generalize hlo : Reg.partCtxProgressLo p = lo at hne ⊢
  generalize hhi : Reg.partCtxProgressHi p = hi at hne ⊢
  rw [Eng.ctxProgress, hlo, hhi, Eng.setPair]
  refine Eng.pair_eq ?_ (Eng.rd_wr_self _ _ _) (by decide)
  rw [Eng.rd_wr_ne _ _ hne, Eng.rd_wr_self]
  rfl

theorem Eng.ctxProgress_rd (e : Eng) (p pos : Nat) (all : Bool) {a : Nat} (hlo : a ≠ Reg.partCtxProgressLo p) (hhi : a ≠ Reg.partCtxProgressHi p) :
    (e.ctxProgress p pos all).rd a = e.rd a := by
  rw [Eng.ctxProgress, Eng.setPair, Eng.rd_wr_ne _ _ hhi, Eng.rd_wr_ne _ _ hlo]

theorem Eng.ctxProgress_parts (e : Eng) (p pos : Nat) (all : Bool) : (e.ctxProgress p pos all).parts = e.parts := by
  rw [Eng.ctxProgress, Eng.setPair_parts]

theorem Eng.ctxProgress_mem (e : Eng) (p pos : Nat) (all : Bool) : (e.ctxProgress p pos all).mem = e.mem := by
  rw [Eng.ctxProgress, Eng.setPair_mem]

theorem Eng.putCell_mem (e : Eng) (n : Nat) (count : Word) (sat : Option Bool) : (e.putCell n count sat).mem = e.mem := by
  unfold Eng.putCell
  split <;> rfl

theorem Eng.zeroPrivates_mem (e : Eng) (p c : Nat) (saved : Bool) : (e.zeroPrivates p c saved).mem = e.mem := by
  unfold Eng.zeroPrivates
  generalize List.filter _ _ = l
  induction l generalizing e with
  | nil => rfl
  | cons o l ih => exact (ih _).trans (Eng.putCell_mem _ _ _ _)

theorem Eng.ctxDone_ctx (e : Eng) (p err c : Nat) : (e.ctxDone p err).ctx p c = e.ctx p c := by
  rw [Eng.ctxDone, Eng.ctx, Eng.part_onPart_self, Eng.partEv, Eng.part_congr (Eng.ev_parts _ _ _), Eng.part_congr (Eng.setF_parts _ _ _ _ _),
    Eng.part_congr (Eng.setF_parts _ _ _ _ _)]
  rfl

theorem Eng.ctxDone_mem (e : Eng) (p err : Nat) : (e.ctxDone p err).mem = e.mem := by
  rw [Eng.ctxDone, Eng.onPart_mem, Eng.partEv, Eng.ev_mem, Eng.setF_mem, Eng.setF_mem]

/-- A command's end leaves the events of its partition set but for CMD_DONE. -/
theorem Eng.ctxDone_event (e : Eng) (p err : Nat) {i : Nat} (h : i ≠ 6) : (e.ctxDone p err).bit (Reg.partEvent p) i = e.bit (Reg.partEvent p) i := by
  have hne : Reg.partEvent p ≠ Reg.partCtxCmd p := by
    show 0x20008 + 0x400 * p ≠ 0x2003c + 0x400 * p
    omega
  rw [Eng.ctxDone, Eng.bit_congr (Eng.rd_onPart _ _ _ _), Eng.partEv, Eng.bit_ev_apart _ _ (by decide) h, Eng.bit_setF_ne _ _ _ _ _ hne,
    Eng.bit_setF_ne _ _ _ _ _ hne]

theorem Eng.ctx_onCtx (e : Eng) (p c : Nat) (x : Ctx) : (e.onCtx p c fun _ => x).ctx p c = x := Eng.ctx_onCtx_self e p c fun _ => x

/-! ## The commands -/

section
variable {s : State} {p : Fin 32} {c : Fin 16}

theorem progress_low (p : Fin 32) : Reg.partCtxProgressLo p.val < 0x28000 ∧ Reg.partCtxProgressHi p.val < 0x28000 := by
  constructor
  · show 0x20048 + 0x400 * p.val < 0x28000
    omega
  · show 0x2004c + 0x400 * p.val < 0x28000
    omega

theorem cmd_ne_progress (p : Nat) : Reg.partCtxCmd p ≠ Reg.partCtxProgressLo p ∧ Reg.partCtxCmd p ≠ Reg.partCtxProgressHi p := by
  constructor
  · show 0x2003c + 0x400 * p ≠ 0x20048 + 0x400 * p
    omega
  · show 0x2003c + 0x400 * p ≠ 0x2004c + 0x400 * p
    omega

/-- SAVE of a context that stops at once. -/
theorem ctxSave_begins (hwin : s.eng.windowOpen = true) (hst : s.eng.pstate p.val ≠ psResetting)
    (hbusy : s.eng.bit (Reg.partCtxCmd p.val) 31 = false) (hready : (s.eng.ctx p.val c.val).st = .ready) :
    ∃ t, exec (.ctxSave .host p c) s = .next t ∧ t.eng.bit (Reg.partCtxCmd p.val) 31 = true ∧
      (t.eng.ctx p.val c.val).st = .stopped ∧ (t.eng.ctx p.val c.val).saveSt = .ready ∧
      t.eng.pair (Reg.partCtxProgressLo p.val) (Reg.partCtxProgressHi p.val) = 5 * 2 ^ 48 := by
  obtain ⟨t, hexec, htakes, _⟩ := ctxCommand_host (op := 3) (allowed := [.ready, .running, .waiting, .delayed, .stopped, .faulted])
    (act := fun b e => (e.ctxProgress p.val 0 false).stopNow b p.val c.val .save) (c := c) hwin hst hbusy
  obtain ⟨hrd, hparts⟩ := htakes (by rw [hready]; decide)
  generalize he : s.eng.commanded (Reg.partCtxCmd p.val) p.val c.val 3 true = e at hrd hparts
  have hctx : (e.ctxProgress p.val 0 false).ctx p.val c.val = s.eng.ctx p.val c.val := by
    rw [Eng.ctx_congr (Eng.ctxProgress_parts _ _ _ _), ← he, Eng.commanded_ctx]
  have hwait : (e.ctxProgress p.val 0 false).mustWait p.val c.val = false := by
    rw [Eng.mustWait, hctx]
    simp [Ctx.busyIns, hready]
  obtain ⟨hstopped, hreq, hsaved⟩ := Eng.stopCtx_save s.beat (e := e.ctxProgress p.val 0 false) (p := p.val) (c := c.val)
  obtain ⟨hto, hkeep⟩ := Eng.stopNow_stops s.beat hwait (k := .save) ⟨by rw [hstopped]; decide, by rw [hstopped]; decide⟩ hreq
  refine ⟨t, hexec, ?_, ?_, ?_, ?_⟩
  · rw [Eng.bit_congr ((hrd _).trans (hkeep _ (partCtxCmd_low p))),
      Eng.bit_congr (Eng.ctxProgress_rd _ _ _ _ (cmd_ne_progress p.val).1 (cmd_ne_progress p.val).2), ← he, Eng.commanded_busy]
  · rw [Eng.ctx_congr hparts, hto, hstopped]
  · rw [Eng.ctx_congr hparts, hto, hsaved, hctx, hready]
    rfl
  · rw [Eng.pair_congr ((hrd _).trans (hkeep _ (progress_low p).1)) ((hrd _).trans (hkeep _ (progress_low p).2)), Eng.ctxProgress_pair]

theorem ctxRestore_begins (hwin : s.eng.windowOpen = true) (hst : s.eng.pstate p.val ≠ psResetting)
    (hbusy : s.eng.bit (Reg.partCtxCmd p.val) 31 = false) (hfree : (s.eng.ctx p.val c.val).st = .free) :
    ∃ t, exec (.ctxRestore .host p c) s = .next t ∧ t.eng.bit (Reg.partCtxCmd p.val) 31 = true ∧
      t.eng.ctx p.val c.val = s.eng.ctx p.val c.val ∧ (t.eng.part p.val).cmd = some (4, c.val, 0) ∧
      t.eng.pair (Reg.partCtxProgressLo p.val) (Reg.partCtxProgressHi p.val) = 5 * 2 ^ 48 := by
  obtain ⟨t, hexec, htakes, _⟩ := ctxCommand_host (op := 4) (allowed := [.free, .saved])
    (act := fun _ e => e.ctxProgress p.val 0 false) (c := c) hwin hst hbusy
  obtain ⟨hrd, hparts⟩ := htakes (by rw [hfree]; decide)
  replace hparts := hparts.trans (Eng.ctxProgress_parts _ _ _ _)
  refine ⟨t, hexec, ?_, ?_, ?_, ?_⟩
  · rw [Eng.bit_congr (hrd _), Eng.bit_congr (Eng.ctxProgress_rd _ _ _ _ (cmd_ne_progress p.val).1 (cmd_ne_progress p.val).2), Eng.commanded_busy]
  · rw [Eng.ctx_congr hparts, Eng.commanded_ctx]
  · rw [Eng.part_congr hparts, Eng.commanded_part]
    rfl
  · rw [Eng.pair_congr (hrd _) (hrd _), Eng.ctxProgress_pair]

/-! ## Completion -/

/-- SAVE and RESTORE of a context that has stopped. -/
theorem ctxCmdComplete_area {op c : Nat} (hcmd : (s.eng.part p.val).cmd = some (op, c, 0)) (hcore : (s.eng.part p.val).coreDown = false)
    (hreq : (s.eng.ctx p.val c).stopReq = none) :
    exec (.ctxCmdComplete p) s = .next { s with eng :=
      (if op = 3 then s.eng.saveDone s.beat p.val c else if op = 4 then s.eng.restoreDone s.beat p.val c else s.eng.ctxDone p.val 0) } := by
  rw [exec_ctxCmdComplete, execCtxCmdComplete, State.onEng]
  dsimp only
  rw [hcmd]
  dsimp only
  rw [hcore, if_neg Bool.false_ne_true, if_neg (by simp), hreq]
  dsimp only
  rw [hreq, if_neg (by simp)]

theorem ctxCmdComplete_save {c : Nat} (hcmd : (s.eng.part p.val).cmd = some (3, c, 0)) (hcore : (s.eng.part p.val).coreDown = false)
    (hreq : (s.eng.ctx p.val c).stopReq = none) : exec (.ctxCmdComplete p) s = .next { s with eng := s.eng.saveDone s.beat p.val c } := by
  rw [ctxCmdComplete_area hcmd hcore hreq, if_pos (by decide)]

theorem ctxCmdComplete_restore {c : Nat} (hcmd : (s.eng.part p.val).cmd = some (4, c, 0)) (hcore : (s.eng.part p.val).coreDown = false)
    (hreq : (s.eng.ctx p.val c).stopReq = none) : exec (.ctxCmdComplete p) s = .next { s with eng := s.eng.restoreDone s.beat p.val c } := by
  rw [ctxCmdComplete_area hcmd hcore hreq, if_neg (by decide), if_pos (by decide)]

theorem Eng.saveDone_saves (b : BeatUnit) (e : Eng) (p c : Nat) (hdeny : e.deny = []) :
    ((e.saveDone b p c).ctx p c).st = .saved ∧ (e.saveDone b p c).fld (Reg.partCtxCmd p) 19 16 = 0 ∧
    (e.saveDone b p c).mem = (e.store (e.saveAddr p c) (e.saveArea b p c)).mem := by
  unfold Eng.saveDone
  rw [if_neg (by rw [Eng.refused_of_deny_nil hdeny]; exact Bool.false_ne_true)]
  refine ⟨?_, (Eng.ctxDone_ends _ _ (by decide)).2.1, ?_⟩
  · rw [Eng.ctxDone_ctx, Eng.ctx_congr (Eng.ctxProgress_parts _ _ _ _), Eng.ctx_onCtx]
  · rw [Eng.ctxDone_mem, Eng.ctxProgress_mem, Eng.onCtx_mem, Eng.zeroPrivates_mem]

theorem Eng.restoreErr_lt (e : Eng) (p : Nat) (l : List Byte) : e.restoreErr p l < 16 := by
  unfold Eng.restoreErr
  repeat' split
  all_goals decide

theorem Eng.restoreDone_fails (b : BeatUnit) (e : Eng) (p c : Nat) (hdeny : e.deny = [])
    (herr : e.restoreErr p (e.bytes (e.saveAddr p c) saveSize) ≠ 0) :
    (e.restoreDone b p c).ctx p c = Ctx.cleared ∧ (e.restoreDone b p c).bit (Reg.partEvent p) 5 = true ∧
    (e.restoreDone b p c).fld (Reg.partCtxCmd p) 19 16 = e.restoreErr p (e.bytes (e.saveAddr p c) saveSize) ∧ (e.restoreDone b p c).mem = e.mem := by
  unfold Eng.restoreDone
  dsimp only
  rw [Eng.refused_of_deny_nil hdeny, if_neg Bool.false_ne_true, if_pos herr]
  refine ⟨?_, ?_, (Eng.ctxDone_ends _ _ (Eng.restoreErr_lt _ _ _)).2.1, ?_⟩
  · rw [Eng.ctxDone_ctx, Eng.partEv, Eng.ctx_congr (Eng.ev_parts _ _ _), Eng.ctx_onCtx]
  · rw [Eng.ctxDone_event _ _ _ (by decide), Eng.partEv, Eng.bit_ev_self _ _ (by decide)]
  · rw [Eng.ctxDone_mem, Eng.partEv, Eng.ev_mem, Eng.onCtx_mem]

end

theorem Eng.bytes_congr {e f : Eng} (h : f.mem = e.mem) (a n : Nat) : f.bytes a n = e.bytes a n := by
  simp only [Eng.bytes, Eng.byte, h]

theorem Eng.byte_congr {e f : Eng} (h : f.mem = e.mem) (a : Nat) : f.byte a = e.byte a := by rw [Eng.byte, h, Eng.byte]

/-- Settles O10. SAVE and RESTORE begin as any context command does; their completion's effect on memory is that of the one store of
the save area (`Eng.saveDone_saves`), and none for a RESTORE that fails (`Eng.restoreDone_fails`). -/
theorem saveWritesTheAreaAndRestoreReadsIt : Obligations.SaveWritesTheAreaAndRestoreReadsIt := by
  unfold Obligations.SaveWritesTheAreaAndRestoreReadsIt
  refine ⟨fun s p c hwin hst hbusy => ⟨ctxSave_begins hwin hst hbusy, ctxRestore_begins hwin hst hbusy⟩,
    fun s p c hcmd hcore hreq hdeny => ?_, fun s p c hcmd hcore hreq hdeny herr => ?_⟩
  · obtain ⟨hst, hfld, hmem⟩ := Eng.saveDone_saves s.beat s.eng p.val c.val hdeny
    refine ⟨_, ctxCmdComplete_save hcmd hcore hreq, hst, hfld, ?_, fun a ha => ?_⟩
    · refine (Eng.bytes_congr hmem _ _).trans ?_
      have hlen : (s.eng.saveArea s.beat p.val c.val).length = saveSize := Eng.length_saveArea _ _ _ _
      rw [Eng.bytes_store _ _ (by rw [hlen]; decide) (by rw [hlen])]
      exact List.take_of_length_le (by rw [hlen])
    · refine (Eng.byte_congr hmem a).trans (Eng.byte_store_out _ _ _ _ fun k hk => ha k ?_)
      rwa [Eng.length_saveArea] at hk
  · exact ⟨_, ctxCmdComplete_restore hcmd hcore hreq, Eng.restoreDone_fails s.beat s.eng p.val c.val hdeny herr⟩

end Sys2Proof.Machine
end

section
/-! PROOFS. The semaphore instructions (R123, R124, R126 to R128, R171, R172, R177). -/

namespace Sys2Proof.Machine

set_option Elab.async false

open Sys2Proof

/-! ## What a fault and a boundary leave of the operations on their way and of the remote ports -/

/-- No operation leaves for a cell, no cell changes, and nothing is handed to a remote message port. -/
structure Eng.Unsent (e f : Eng) : Prop where
  travel : f.travel = e.travel
  cells : f.cells = e.cells
  held : f.rmHeld = e.rmHeld
  credit : f.rmCredit = e.rmCredit

section
variable {e g k : Eng} {b : BeatUnit} {p c : Nat}

theorem Eng.Unsent.refl (e : Eng) : e.Unsent e := ⟨rfl, rfl, rfl, rfl⟩

theorem Eng.Unsent.rest (h : e.Unsent g) (ht : k.travel = g.travel := by rfl) (hc : k.cells = g.cells := by rfl)
    (hh : k.rmHeld = g.rmHeld := by rfl) (hr : k.rmCredit = g.rmCredit := by rfl) : e.Unsent k :=
  ⟨ht.trans h.travel, hc.trans h.cells, hh.trans h.held, hr.trans h.credit⟩

theorem Eng.Unsent.ite {P : Prop} [Decidable P] (h : e.Unsent g) (h' : e.Unsent k) : e.Unsent (if P then g else k) := by
  split
  · exact h
  · exact h'

theorem Eng.Unsent.foldl {α : Type} (h : e.Unsent g) {f : Eng → α → Eng} {l : List α} (hf : ∀ {g} x, e.Unsent g → e.Unsent (f g x)) :
    e.Unsent (l.foldl f g) := by
  induction l generalizing g with
  | nil => exact h
  | cons x r ih => exact ih (hf x h)

theorem Eng.Unsent.wr (h : e.Unsent g) {a : Nat} {v : Word} : e.Unsent (g.wr a v) := h.rest

theorem Eng.Unsent.setF (h : e.Unsent g) {a hi lo n : Nat} : e.Unsent (g.setF a hi lo n) := h.wr

theorem Eng.Unsent.ev (h : e.Unsent g) {a i : Nat} : e.Unsent (g.ev a i) := h.setF

theorem Eng.Unsent.bump (h : e.Unsent g) {a hi lo : Nat} : e.Unsent (g.bump a hi lo) := h.setF

theorem Eng.Unsent.bumpWrap (h : e.Unsent g) {a hi lo : Nat} : e.Unsent (g.bumpWrap a hi lo) := h.setF

theorem Eng.Unsent.onPart (h : e.Unsent g) {f : Partn → Partn} : e.Unsent (g.onPart p f) := h.rest

theorem Eng.Unsent.onCtx (h : e.Unsent g) {f : Ctx → Ctx} : e.Unsent (g.onCtx p c f) := h.onPart

theorem Eng.Unsent.ungate (h : e.Unsent g) : e.Unsent (g.ungate p) := by
  unfold Eng.ungate
  split
  · have hunlent : e.Unsent { (g.setF Reg.pwrGated p p 0) with loans := kset 0 g.loans p 0 } := h.rest
    exact .setF (.setF hunlent.setF)
  · exact h

theorem Eng.Unsent.dispatch (h : e.Unsent g) : e.Unsent (g.dispatch p) := by
  unfold Eng.dispatch
  split
  · exact h
  · split
    · exact h
    · exact .onPart (.onCtx (.ite h.ungate h.ungate.bumpWrap))

theorem Eng.Unsent.vacate (h : e.Unsent g) : e.Unsent (g.vacate p c) := .ite h.onPart h

theorem Eng.Unsent.release (h : e.Unsent g) : e.Unsent (g.release p c) := h.vacate.dispatch

theorem Eng.Unsent.preempt (h : e.Unsent g) : e.Unsent (g.preempt p c) := by
  have hout : e.Unsent (g.switchOut p c) := .dispatch (.onPart h.onCtx)
  exact .ite hout hout.bumpWrap

/-- A boundary of a context that no stop is asked of. -/
theorem Eng.Unsent.boundary (h : e.Unsent g) (hs : (g.ctx p c).stopReq = none) : e.Unsent (g.boundary b p c) := by
  unfold Eng.boundary
  dsimp only
  rw [hs]
  exact .ite h.release (.ite h.preempt h.dispatch)

theorem Eng.Unsent.finish (h : e.Unsent g) {f : Ctx → Ctx} (hs : (f (g.ctx p c)).stopReq = none) : e.Unsent (g.finish b p c f) := by
  unfold Eng.finish Eng.complete
  refine Eng.Unsent.boundary h.onCtx ?_
  rw [Eng.ctx_onCtx_self]
  exact hs

theorem Eng.Unsent.postAlert (h : e.Unsent g) {m : Nat} : e.Unsent (g.postAlert p m) := by
  have hclear : e.Unsent (g.onReq m fun r => { r with alert := none }) := h.rest
  unfold Eng.postAlert
  split
  · exact h
  · exact .ite hclear (.ite hclear.onPart.bumpWrap h.onPart.ev)

theorem Eng.Unsent.alertReturn (h : e.Unsent g) {m : Nat} : e.Unsent (g.alertReturn p m) := by
  unfold Eng.alertReturn
  split
  · exact .ite h.postAlert h
  · exact h

theorem Eng.Unsent.discardBatch (h : e.Unsent g) : e.Unsent (g.discardBatch p) := by
  unfold Eng.discardBatch
  split
  · exact h
  · exact .foldl (.onPart (h.foldl fun _ h => h.rest)) fun _ h => h.alertReturn

theorem Eng.Unsent.tenantRec (h : e.Unsent g) {kind x pc fault : Nat} {d : List Byte} : e.Unsent (g.tenantRec b p kind x pc fault d) := by
  have hstore : ∀ {a d}, e.Unsent (g.store a d) := h.rest
  exact .ite h.bump (.ev (.bumpWrap hstore))

theorem Eng.Unsent.ctxFault (h : e.Unsent g) {kind o d : Nat} {r : List Byte} : e.Unsent (g.ctxFault b p c kind o d r) := by
  have hset : ∀ {f : Ctx → Ctx}, e.Unsent ((if g.ownsBatch p c then g.discardBatch p else g).onCtx p c f) :=
    .onCtx (.ite h.discardBatch h)
  exact .dispatch (.vacate (.ite hset (.ev (.tenantRec hset))))

end

/-- A fault of a context with no stop pending, whatever becomes of its open batch: the context is FAULTED at its instruction, fault
holds the word of R96, and no other register of it has changed. -/
theorem Eng.ctxFault_faultedWith (b : BeatUnit) (e : Eng) (p c kind operand detail : Nat) (r : List Byte) (hs : (e.ctx p c).stopReq = none) :
    (e.ctx p c).faultedWith ((e.ctxFault b p c kind operand detail r).ctx p c) (faultWord kind operand detail) := by
  unfold Eng.ctxFault Eng.faultOnly
  dsimp only
  generalize hk : (if e.ownsBatch p c then e.discardBatch p else e) = k
  have hkc : k.ctx p c = e.ctx p c := by
    have hrests : e.Rests (fun _ _ => True) k := hk ▸ .ite (Eng.Rests.discardBatch (.refl e)) (.refl e)
    exact hrests.ctx p c trivial
  set g := k.onCtx p c fun x =>
    { x with fault := faultWord kind operand detail, st := .faulted, pend := none, stopReq := if x.stopReq = some .save ∨ x.stopReq = some .reset then x.stopReq else none } with hg
  have hc : g.ctx p c = { e.ctx p c with fault := faultWord kind operand detail, st := .faulted, pend := none, stopReq := none } := by
    rw [hg, Eng.ctx_onCtx_self, hkc]
    simp [hs]
  have hrelease : ∀ f : Eng, f.parts = g.parts → (e.ctx p c).faultedWith ((f.release p c).ctx p c) (faultWord kind operand detail) := by
    intro f hf
    have hfc : f.ctx p c = g.ctx p c := Eng.ctx_congr hf p c
    rw [Eng.release_ctx f p c c (by rw [hfc, hc]; rfl), hfc, hc]
    exact ⟨rfl, rfl, rfl, rfl, rfl, rfl, rfl, rfl, rfl⟩
  split
  · exact hrelease g rfl
  · exact hrelease _ (Eng.tenantRec_parts b g p kind (c + 128) _ _ r)

/-! ## Operations that leave for a cell -/

/-- A running context that holds the issue slot starts to wait for a cell: it keeps the slot, and nothing else happens. -/
theorem Eng.wait_cell_eq (b : BeatUnit) (e : Eng) {p c : Nat} (hslot : (e.part p).slot = some c) (hrun : (e.ctx p c).st = .running)
    (hstop : (e.ctx p c).stopReq = none) : e.wait_ b p c .cell = e.onCtx p c fun x => { x with pend := some .cell } := by
  unfold Eng.wait_ Eng.boundary
  have hkeep : ((e.onCtx p c fun x => { x with pend := some .cell }).part p).slot = some c := by
    rw [Eng.onCtx, Eng.part_onPart_self]
    exact hslot
  dsimp only
  rw [Eng.ctx_onCtx_self]
  dsimp only
  rw [hstop]
  dsimp only
  rw [if_neg (by simp [hrun, Ctx.gaveSlot]), if_neg (by simp)]
  unfold Eng.dispatch
  rw [if_pos (by simp [hkeep])]

/-- The engine as an instruction's body finds it. -/
def Eng.issued (e : Eng) (i : Ins) : Eng := e.onCtx i.p i.c fun x => { x with pend := none }

theorem Eng.issued_ctx (e : Eng) (i : Ins) : (e.issued i).ctx i.p i.c = { e.ctx i.p i.c with pend := none } :=
  Eng.ctx_onCtx_self e i.p i.c fun x => { x with pend := none }

theorem Eng.issued_frame (e : Eng) (i : Ins) : e.frame (e.issued i) i.p i.c := Eng.frame_onCtx_self e i.p i.c _

theorem Eng.issued_sreg (e : Eng) (i : Ins) (r : Nat) : ((e.issued i).me i).sreg r = (e.me i).sreg r := by
  rw [Eng.me, Eng.issued_ctx]
  rfl

theorem Eng.issued_sa (e : Eng) (i : Ins) : (e.issued i).sa i = (e.ctx i.p i.c).sreg i.srca.toNat := e.issued_sreg i _

theorem Eng.issued_sb (e : Eng) (i : Ins) : (e.issued i).sb i = (e.ctx i.p i.c).sreg i.srcb.toNat := e.issued_sreg i _

theorem Eng.issued_rmPortFor (e : Eng) (i : Ins) (cls n : Nat) : (e.issued i).rmPortFor cls n = e.rmPortFor cls n := rfl

section
variable {s : State} {i : Ins}

/-- An instruction with no operand of another kind than its table gives, and that waits for no record, runs its body. -/
theorem runIns_issued {self : Instr} {n : Enc} {more : Option Nat} {body : BeatUnit → Eng → Eng} (h : s.issues i) (hn : n.illegal i = none)
    (hm : more = none) (hw : n.waits = false) : runIns self n i more body s = .next { s with eng := body s.beat (s.eng.issued i) } := by
  rw [hm, runIns_body self n i body s h hn, hw, if_neg Bool.false_ne_true]
  rfl

/-- What an instruction does at its cell matters in its own engine only. -/
theorem Eng.withCell_congr (b : BeatUnit) (i : Ins) {e : Eng} {f g : Nat → Eng → Eng} (h : ∀ n, f n e = g n e) :
    e.withCell b i f = e.withCell b i g := by
  unfold Eng.withCell
  dsimp only
  rw [h]

/-- A virtual id that is mapped within the partition: the operation leaves for its cell. -/
theorem withCell_sends (h : s.issues i) {o : CellOp} (hv : (kget SemEnt.invalid (s.eng.ctx i.p i.c).semtab i.vid).valid = true)
    (hoff : (kget SemEnt.invalid (s.eng.ctx i.p i.c).semtab i.vid).off.toNat < s.eng.semSize i.p) {t : Eng}
    (ht : t = (s.eng.issued i).withCell s.beat i fun n e => e.travelOp s.beat i n o) :
    (s.eng.ctx i.p i.c).waitsFor (t.ctx i.p i.c) .cell ∧
    t.travel = s.eng.travel ++ [⟨s.eng.nextId, s.eng.semBase i.p + (kget SemEnt.invalid (s.eng.ctx i.p i.c).semtab i.vid).off.toNat, o⟩] ∧
    t.cells = s.eng.cells ∧ t.mem = s.eng.mem ∧ (t.part i.p).slot = some i.c := by
  obtain ⟨_, _, _, _, hslot, hrun, _, hstop, _, _, _⟩ := h
  set v := kget SemEnt.invalid (s.eng.ctx i.p i.c).semtab i.vid with hvdef
  have hsent : t = ((s.eng.issued i).launch (s.eng.semBase i.p + v.off.toNat) o).onCtx i.p i.c fun x => { x with pend := some .cell } := by
    have hsize : (s.eng.issued i).semSize i.p = s.eng.semSize i.p := rfl
    have hctx : ((s.eng.issued i).launch (s.eng.semBase i.p + v.off.toNat) o).ctx i.p i.c = { s.eng.ctx i.p i.c with pend := none } :=
      s.eng.issued_ctx i
    rw [ht, Eng.withCell, Eng.me, Eng.issued_ctx]
    dsimp only
    rw [← hvdef, hv, if_neg (by simp), hsize, if_neg (by omega)]
    refine Eng.wait_cell_eq s.beat _ ?_ ?_ ?_
    · show ((s.eng.issued i).part i.p).slot = some i.c
      rw [Eng.issued, Eng.onCtx, Eng.part_onPart_self]
      exact hslot
    · exact (congrArg Ctx.st hctx).trans hrun
    · exact (congrArg Ctx.stopReq hctx).trans hstop
  have hctx : t.ctx i.p i.c = { s.eng.ctx i.p i.c with pend := some .cell } := by
    rw [hsent, Eng.ctx_onCtx_self]
    exact congrArg (fun x : Ctx => { x with pend := some .cell }) (s.eng.issued_ctx i)
  refine ⟨?_, ?_, ?_, ?_, ?_⟩
  · rw [hctx]
    exact ⟨hrun, rfl, rfl, rfl, rfl, rfl, rfl, rfl, rfl, rfl⟩
  · rw [hsent]
    rfl
  · rw [hsent]
    rfl
  · rw [hsent]
    rfl
  · rw [hsent, Eng.onCtx, Eng.part_onPart_self]
    show ((s.eng.issued i).part i.p).slot = some i.c
    rw [Eng.issued, Eng.onCtx, Eng.part_onPart_self]
    exact hslot

theorem vid_lt (i : Ins) : i.vid < 2 ^ 12 := bitsOf_lt _ _ _

/-- A virtual id that is not mapped raises SEM. -/
theorem withCell_faults (h : s.issues i) {f : Nat → Eng → Eng} (hv : (kget SemEnt.invalid (s.eng.ctx i.p i.c).semtab i.vid).valid = false)
    {t : Eng} (ht : t = (s.eng.issued i).withCell s.beat i f) :
    t.travel = s.eng.travel ∧ t.cells = s.eng.cells ∧
    (s.eng.ctx i.p i.c).faultedWith (t.ctx i.p i.c) (BitVec.ofNat 64 (0x08 * 2 ^ 56 + 5 * 2 ^ 52 + i.vid)) := by
  obtain ⟨_, _, _, _, _, _, _, hstop, _, _, _⟩ := h
  have hfault : t = (s.eng.issued i).ctxFault s.beat i.p i.c fkSem 5 i.vid (semDetail i.vid false 0) := by
    rw [ht, Eng.withCell, Eng.me, Eng.issued_ctx]
    dsimp only
    rw [hv, if_pos (by simp)]
  have hword : faultWord fkSem 5 i.vid = BitVec.ofNat 64 (0x08 * 2 ^ 56 + 5 * 2 ^ 52 + i.vid) := by
    rw [faultWord, Nat.mod_eq_of_lt (Nat.lt_trans (vid_lt i) (by decide))]
  have hunsent : s.eng.Unsent t := hfault ▸ Eng.Unsent.ctxFault (Eng.Unsent.onCtx (.refl s.eng))
  refine ⟨hunsent.travel, hunsent.cells, ?_⟩
  have hfw := Eng.ctxFault_faultedWith s.beat (s.eng.issued i) i.p i.c fkSem 5 i.vid (semDetail i.vid false 0)
    ((congrArg Ctx.stopReq (s.eng.issued_ctx i)).trans hstop)
  rwa [← hfault, hword, Eng.issued_ctx] at hfw

/-! ## The virtual table -/

/-- SMAP completes with the entry that it writes, and nothing else of the engine changes but who holds the slot. -/
theorem finish_maps (h : s.issues i) (y : SemEnt) {t : Eng}
    (ht : t = (s.eng.issued i).finish s.beat i.p i.c fun x => { x with semtab := kset SemEnt.invalid x.semtab i.vid y }) :
    s.eng.frame t i.p i.c ∧ (t.ctx i.p i.c).s = (s.eng.ctx i.p i.c).s ∧ (t.ctx i.p i.c).pc = (s.eng.ctx i.p i.c).pc + 8 ∧
    ∀ n, kget SemEnt.invalid (t.ctx i.p i.c).semtab n = if n = i.vid then y else kget SemEnt.invalid (s.eng.ctx i.p i.c).semtab n := by
  obtain ⟨_, _, _, _, _, _, _, hstop, _, _, _⟩ := h
  obtain ⟨hframe, hs, _, _, _, _, hpc, hsem, _⟩ := Eng.finish_frame s.beat (s.eng.issued i) i.p i.c
    (fun x => { x with semtab := kset SemEnt.invalid x.semtab i.vid y }) ((congrArg Ctx.stopReq (s.eng.issued_ctx i)).trans hstop)
  rw [← ht, Eng.issued_ctx] at hs hpc hsem
  rw [← ht] at hframe
  refine ⟨Eng.frame_trans (s.eng.issued_frame i) hframe, hs, hpc, fun n => ?_⟩
  rw [hsem]
  by_cases hn : n = i.vid
  · rw [if_pos hn, hn, kget_kset_self]
  · rw [if_neg hn, kget_kset_ne _ _ _ hn]

theorem smap_maps (priv : Bool) (hoff : ((s.eng.ctx i.p i.c).sreg i.srca.toNat |>.setWidth 16).toNat < s.eng.semSize i.p) :
    (s.eng.issued i).smap s.beat i priv = (s.eng.issued i).finish s.beat i.p i.c fun x =>
      { x with semtab := kset SemEnt.invalid x.semtab i.vid ⟨true, priv, ((s.eng.ctx i.p i.c).sreg i.srca.toNat).setWidth 16⟩ } := by
  have hsize : (s.eng.issued i).semSize i.p = s.eng.semSize i.p := rfl
  unfold Eng.smap
  dsimp only
  rw [Eng.issued_sa, hsize, if_neg (by omega)]

/-! ## The remote ports -/

/-- A message of 64 bytes or less handed to ports that hold nothing leaves on a port with a credit, or is held. -/
theorem Eng.rmPump_one (e : Eng) (m : RmMsg) (hm : m.payload = []) (hheld : e.rmHeld = []) :
    (∃ q, e.rmPortFor 2 1 = some q ∧ (e.rmSend 0x81 m).rmPump = { e with
      rmHeld := [], rmCredit := kmod 0 e.rmCredit (4 * q + 2) (· - 1), rmTurn := (q + 1) % 4, out := e.out ++ [.rm q 0x81 { m with port := Fin.ofNat 4 q }] }) ∨
    (e.rmPortFor 2 1 = none ∧ (e.rmSend 0x81 m).rmPump = { e with rmHeld := [(0x81, m)] }) := by
  have hflits : rmFlits m = 1 := by
    rw [rmFlits, hm]
    rfl
  have hport : ({ e with rmHeld := [] } : Eng).rmPortFor 2 1 = e.rmPortFor 2 1 := by
    simp only [Eng.rmPortFor, Eng.rmFailed, Eng.bit, Eng.rd]
  unfold Eng.rmPump Eng.rmSend
  rw [hheld]
  simp only [List.nil_append, List.foldl_cons, List.foldl_nil, List.any_nil, hflits]
  rw [if_neg Bool.false_ne_true, hport]
  cases hq : e.rmPortFor 2 1 with
  | none => exact .inr ⟨rfl, rfl⟩
  | some q => exact .inl ⟨q, rfl, rfl⟩

theorem Eng.rmPortFor_credit {e : Eng} {cls n q : Nat} (h : e.rmPortFor cls n = some q) : n ≤ kget 0 e.rmCredit (4 * q + cls) := by
  have hfound := List.find?_some h
  exact of_decide_eq_true (Bool.and_eq_true_iff.mp hfound).2

/-- What SIGR sends (R127). -/
def Eng.sigrMsg (e : Eng) (i : Ins) : RmMsg :=
  e.rmHeader (if i.ext.getLsbD 24 then 4 else 0) (bitsOf (e.sa i).toNat 15 0) (bitsOf (e.sa i).toNat 20 16) i.imm24
    (bitsOf (e.sa i).toNat 47 32) (low32 (e.sb i)).toNat

theorem ext_bit_iff_mod (hmod : i.mod ≤ 1) : i.ext.getLsbD 24 = true ↔ i.mod = 1 := by
  have hlt := i.ext.isLt
  have hval : i.mod = i.ext.toNat / 2 ^ 24 % 2 ^ 8 := rfl
  rw [← BitVec.testBit_toNat, Nat.testBit_eq_decide_div_mod_eq, decide_eq_true_iff]
  omega

theorem ext_lt_of_mod (hmod : i.mod ≤ 1) : i.ext.toNat < 2 ^ 25 := by
  have hlt := i.ext.isLt
  have hval : i.mod = i.ext.toNat / 2 ^ 24 % 2 ^ 8 := rfl
  omega

/-- The bits of EXT below 2^k are none of a mask of the bits from 2^k on. -/
theorem and_mask_eq_zero {x m k : Nat} (hx : x < 2 ^ k) (hm : m % 2 ^ k = 0) : x &&& m = 0 := by
  refine Nat.eq_of_testBit_eq fun j => ?_
  rw [Nat.testBit_and, Nat.zero_testBit]
  by_cases hj : j < k
  · have hbit := congrArg (fun n => Nat.testBit n j) hm
    simp only [Nat.testBit_mod_two_pow, Nat.zero_testBit, hj, decide_true, Bool.true_and] at hbit
    rw [hbit, Bool.and_false]
  · rw [Nat.testBit_lt_two_pow (Nat.lt_of_lt_of_le hx (Nat.pow_le_pow_right (by decide) (by omega))), Bool.false_and]

/-- An encoding without a fault: unused fields 0, and EXT within the bits of the form. -/
theorem Enc.illegal_none {n : Enc} {k : Nat} (hd : n.dst.good i.dst = true) (ha : n.srca.good i.srca = true) (hb : n.srcb.good i.srcb = true)
    (hx : i.ext.toNat < 2 ^ k) (hm : (0xFFFFFFFF ^^^ n.ext) % 2 ^ k = 0) : n.illegal i = none := by
  rw [Enc.illegal, hd, ha, hb, and_mask_eq_zero hx hm]
  rfl

theorem OpKind.unused_good {f : BitVec 5} (h : f = 0) : OpKind.unused.good f = true := decide_eq_true h

/-- SIGR completes and hands its message to the ports. -/
theorem sigr_hands (h : s.issues i) (hdst : i.dst = 0) (hmod : i.mod ≤ 1) (himm : i.mod = 0 → i.imm24 = 0) :
    exec (.sigr i) s = .next { s with eng := (((s.eng.issued i).rmSend 0x81 (s.eng.sigrMsg i)).rmPump).finish s.beat i.p i.c id } := by
  have hmore : (if i.ext.getLsbD 24 = false ∧ i.imm24 ≠ 0 then some 5 else none) = (none : Option Nat) := by
    refine if_neg fun ⟨hbit, hne⟩ => hne (himm ?_)
    have hnot : i.mod ≠ 1 := fun h1 => by
      rw [(ext_bit_iff_mod hmod).mpr h1] at hbit
      exact Bool.noConfusion hbit
    omega
  have hrun := runIns_issued (self := .sigr i) (n := ⟨0x24, 0x00, .unused, .s, .s, 0x01FFFFFF⟩) (body := fun b e =>
    let d := (e.sa i).toNat
    ((e.rmSend 0x81 (e.rmHeader (if i.ext.getLsbD 24 then 4 else 0) (bitsOf d 15 0) (bitsOf d 20 16) i.imm24 (bitsOf d 47 32)
      (low32 (e.sb i)).toNat)).rmPump).fin b i) h
    (Enc.illegal_none (OpKind.unused_good hdst) rfl rfl (ext_lt_of_mod hmod) (by decide)) hmore rfl
  have hmsg : (s.eng.issued i).sigrMsg i = s.eng.sigrMsg i := by
    simp only [Eng.sigrMsg, Eng.sa, Eng.sb, Eng.issued_sreg]
    rfl
  rw [← hmsg]
  exact hrun

theorem sigrMsg_fields (e : Eng) (hmod : i.mod ≤ 1) :
    (e.sigrMsg i).flags = (if i.mod = 1 then 4#8 else 0#8) ∧ (e.sigrMsg i).dst = BitVec.ofNat 16 (e.sa i).toNat ∧
    (e.sigrMsg i).part.val = bitsOf (e.sa i).toNat 20 16 ∧ (e.sigrMsg i).offset = BitVec.ofNat 16 (bitsOf (e.sa i).toNat 47 32) ∧
    (e.sigrMsg i).tag = BitVec.ofNat 24 i.imm24 ∧ (e.sigrMsg i).body = BitVec.ofNat 128 ((e.sb i).toNat % 2 ^ 32) ∧
    (e.sigrMsg i).payload = [] ∧ (e.sigrMsg i).src = BitVec.ofNat 16 (e.fld Reg.syncEngineId 15 0) := by
  refine ⟨?_, ?_, ?_, rfl, rfl, ?_, rfl, rfl⟩
  · show BitVec.ofNat 8 (if i.ext.getLsbD 24 then 4 else 0) = _
    simp only [ext_bit_iff_mod hmod]
    split <;> rfl
  · refine BitVec.eq_of_toNat_eq ?_
    show bitsOf (e.sa i).toNat 15 0 % 2 ^ 16 = (e.sa i).toNat % 2 ^ 16
    show (e.sa i).toNat / 2 ^ 0 % 2 ^ 16 % 2 ^ 16 = (e.sa i).toNat % 2 ^ 16
    omega
  · exact Nat.mod_eq_of_lt (bitsOf_lt (e.sa i).toNat 20 16)
  · show BitVec.ofNat 128 (low32 (e.sb i)).toNat = _
    rw [low32, BitVec.toNat_setWidth]

/-- The instruction's own context after SIGR, and the ports. -/
theorem finish_sends (h : s.issues i) {f t : Eng} (hctx : f.ctx i.p i.c = (s.eng.issued i).ctx i.p i.c) (ht : t = f.finish s.beat i.p i.c id) :
    (s.eng.ctx i.p i.c).advanced (t.ctx i.p i.c) ∧ t.cells = f.cells ∧ t.rmHeld = f.rmHeld ∧ t.rmCredit = f.rmCredit ∧ t.out = f.out := by
  obtain ⟨_, _, _, _, _, _, _, hstop, _, _, _⟩ := h
  have hnone : (f.ctx i.p i.c).stopReq = none := by
    rw [hctx, Eng.issued_ctx]
    exact hstop
  obtain ⟨⟨_, _, _, _, _, _, _, _, hout, _⟩, hs, hp, hv, helen, hfault, hpc, hsem, hscr⟩ := Eng.finish_frame s.beat f i.p i.c id hnone
  have hunsent : f.Unsent (f.finish s.beat i.p i.c id) := Eng.Unsent.finish (.refl f) hnone
  rw [hctx, Eng.issued_ctx] at hs hp hv helen hfault hpc hsem hscr
  rw [ht]
  exact ⟨⟨hpc, hs, hp, hv, helen, hfault, rfl, hsem, hscr⟩, hunsent.cells, hunsent.held, hunsent.credit, hout⟩

/-- The waits, adds and barriers send their operation to the cell of their virtual id. -/
theorem exec_withCell (h : s.issues i) (hext : i.ext.toNat < 2 ^ 12) {op : Instr} {o : CellOp}
    (hop : (op = .swait i ∧ o = .wait ⟨i.p, i.c, .take, (low32 ((s.eng.ctx i.p i.c).sreg i.srca.toNat)).toNat, 0, false, i.dst, BitVec.ofNat 12 i.vid, false⟩
          (((s.eng.ctx i.p i.c).sreg i.srcb.toNat).toNat % 2 ^ 48)) ∨
      (op = .swaitp i ∧ o = .wait ⟨i.p, i.c, .peek, (low32 ((s.eng.ctx i.p i.c).sreg i.srca.toNat)).toNat, 0, false, i.dst, BitVec.ofNat 12 i.vid, false⟩
          (((s.eng.ctx i.p i.c).sreg i.srcb.toNat).toNat % 2 ^ 48)) ∨
      (op = .sbar i ∧ o = .wait ⟨i.p, i.c, .bar, max 1 (low32 ((s.eng.ctx i.p i.c).sreg i.srca.toNat)).toNat, 0, false, i.dst, BitVec.ofNat 12 i.vid, false⟩
          (((s.eng.ctx i.p i.c).sreg i.srcb.toNat).toNat % 2 ^ 48)) ∨
      (i.srcb = 0 ∧ op = .sadd i ∧ o = .sadd i.p i.c i.dst (low32 ((s.eng.ctx i.p i.c).sreg i.srca.toNat))) ∨
      (i.srcb = 0 ∧ op = .ssub i ∧ o = .ssub i.p i.c i.dst (low32 ((s.eng.ctx i.p i.c).sreg i.srca.toNat)))) :
    exec op s = .next { s with eng := (s.eng.issued i).withCell s.beat i fun n e => e.travelOp s.beat i n o } := by
  have hsend : ∀ {self : Instr} {n : Enc} {body : Eng → CellOp}, n.illegal i = none → n.waits = false → body (s.eng.issued i) = o →
      runIns self n i none (fun b e => e.withCell b i fun n e => e.travelOp b i n (body e)) s =
        .next { s with eng := (s.eng.issued i).withCell s.beat i fun n e => e.travelOp s.beat i n o } := by
    intro self n body hn hw hbody
    rw [runIns_issued h hn rfl hw, Eng.withCell_congr s.beat i (g := fun n e => e.travelOp s.beat i n o)]
    intro n
    rw [hbody]
  have hwait : ∀ k m, (s.eng.issued i).waitOf i k m = .wait ⟨i.p, i.c, k, m, 0, false, i.dst, BitVec.ofNat 12 i.vid, false⟩
      (((s.eng.ctx i.p i.c).sreg i.srcb.toNat).toNat % 2 ^ 48) := fun k m => by rw [Eng.waitOf, Eng.issued_sb]
  rcases hop with ⟨rfl, rfl⟩ | ⟨rfl, rfl⟩ | ⟨rfl, rfl⟩ | ⟨hb, rfl, rfl⟩ | ⟨hb, rfl, rfl⟩
  · exact hsend (body := fun e => e.waitOf i .take (low32 (e.sa i)).toNat) (Enc.illegal_none rfl rfl rfl hext (by decide)) rfl
      (by rw [Eng.issued_sa, hwait])
  · exact hsend (body := fun e => e.waitOf i .peek (low32 (e.sa i)).toNat) (Enc.illegal_none rfl rfl rfl hext (by decide)) rfl
      (by rw [Eng.issued_sa, hwait])
  · exact hsend (body := fun e => e.waitOf i .bar (max 1 (low32 (e.sa i)).toNat)) (Enc.illegal_none rfl rfl rfl hext (by decide)) rfl
      (by rw [Eng.issued_sa, hwait])
  · exact hsend (body := fun e => .sadd i.p i.c i.dst (low32 (e.sa i))) (Enc.illegal_none rfl rfl (OpKind.unused_good hb) hext (by decide)) rfl
      (by rw [Eng.issued_sa])
  · exact hsend (body := fun e => .ssub i.p i.c i.dst (low32 (e.sa i))) (Enc.illegal_none rfl rfl (OpKind.unused_good hb) hext (by decide)) rfl
      (by rw [Eng.issued_sa])

/-- SMAP writes the entry of its virtual id. -/
theorem exec_smap (h : s.issues i) (hext : i.ext.toNat < 2 ^ 12) (hdst : i.dst = 0) (hsrcb : i.srcb = 0) {op : Instr} {y : SemEnt}
    (hop : (op = .smapShared i ∧ y = ⟨true, false, ((s.eng.ctx i.p i.c).sreg i.srca.toNat).setWidth 16⟩) ∨
      (op = .smapPrivate i ∧ y = ⟨true, true, ((s.eng.ctx i.p i.c).sreg i.srca.toNat).setWidth 16⟩) ∨ (op = .smapInvalid i ∧ y = SemEnt.invalid))
    (hy : y = SemEnt.invalid ∨ y.off.toNat < s.eng.semSize i.p) :
    exec op s = .next { s with eng := (s.eng.issued i).finish s.beat i.p i.c fun x => { x with semtab := kset SemEnt.invalid x.semtab i.vid y } } := by
  have hmaps : ∀ priv, y = ⟨true, priv, ((s.eng.ctx i.p i.c).sreg i.srca.toNat).setWidth 16⟩ → (s.eng.issued i).smap s.beat i priv =
      (s.eng.issued i).finish s.beat i.p i.c fun x => { x with semtab := kset SemEnt.invalid x.semtab i.vid y } := by
    rintro priv rfl
    exact smap_maps priv (hy.resolve_left fun hinv => Bool.noConfusion (congrArg SemEnt.valid hinv))
  have hgood : ∀ minor, (⟨0x25, minor, .unused, .s, .unused, 0xFFF⟩ : Enc).illegal i = none := fun minor =>
    Enc.illegal_none (OpKind.unused_good hdst) rfl (OpKind.unused_good hsrcb) hext (by show (0xFFFFFFFF ^^^ 0xFFF) % 2 ^ 12 = 0; decide)
  rcases hop with ⟨rfl, hent⟩ | ⟨rfl, hent⟩ | ⟨rfl, rfl⟩
  · rw [← hmaps false hent]
    exact runIns_issued (self := .smapShared i) (body := fun b e => e.smap b i false) h (hgood 0) rfl rfl
  · rw [← hmaps true hent]
    exact runIns_issued (self := .smapPrivate i) (body := fun b e => e.smap b i true) h (hgood 1) rfl rfl
  · exact runIns_issued (self := .smapInvalid i) (body := fun b e => e.finish b i.p i.c fun x =>
      { x with semtab := kset SemEnt.invalid x.semtab i.vid SemEnt.invalid }) h (hgood 2) rfl rfl

theorem exec_sigr (h : s.issues i) (hdst : i.dst = 0) (hmod : i.mod ≤ 1) (himm : i.mod = 0 → i.imm24 = 0) (hheld : s.eng.rmHeld = []) :
    ∃ t m, exec (.sigr i) s = .next t ∧
      (s.eng.ctx i.p i.c).advanced (t.eng.ctx i.p i.c) ∧ t.eng.cells = s.eng.cells ∧
      m.flags = (if i.mod = 1 then 4#8 else 0#8) ∧ m.dst = BitVec.ofNat 16 (s.eng.sa i).toNat ∧
      m.part.val = bitsOf (s.eng.sa i).toNat 20 16 ∧ m.offset = BitVec.ofNat 16 (bitsOf (s.eng.sa i).toNat 47 32) ∧
      m.tag = BitVec.ofNat 24 i.imm24 ∧ m.body = BitVec.ofNat 128 ((s.eng.sb i).toNat % 2 ^ 32) ∧ m.payload = [] ∧
      m.src = BitVec.ofNat 16 (s.eng.fld Reg.syncEngineId 15 0) ∧
      ((∃ q, s.eng.rmPortFor 2 1 = some q ∧ t.eng.rmHeld = [] ∧ t.eng.out = s.eng.out ++ [.rm q 0x81 m] ∧
        kget 0 t.eng.rmCredit (4 * q + 2) + 1 = kget 0 s.eng.rmCredit (4 * q + 2)) ∨
       (s.eng.rmPortFor 2 1 = none ∧ t.eng.rmHeld = [(0x81, m)] ∧ t.eng.out = s.eng.out)) := by
  have hexec := sigr_hands h hdst hmod himm
  obtain ⟨hflags, hto, hpart, hoff, htag, hbody, hpay, hsrc⟩ := sigrMsg_fields (i := i) s.eng hmod
  have hpump := (s.eng.issued i).rmPump_one (s.eng.sigrMsg i) hpay hheld
  rw [s.eng.issued_rmPortFor] at hpump
  obtain ⟨f, hf⟩ : ∃ f, f = ((s.eng.issued i).rmSend 0x81 (s.eng.sigrMsg i)).rmPump := ⟨_, rfl⟩
  obtain ⟨e, he⟩ : ∃ e, e = f.finish s.beat i.p i.c id := ⟨_, rfl⟩
  rw [← hf, ← he] at hexec
  rw [← hf] at hpump
  rcases hpump with ⟨q, hq, hpump⟩ | ⟨hq, hpump⟩
  · obtain ⟨hadv, hcells, hrm, hcredit, hout⟩ := finish_sends h (Eng.ctx_congr (by rw [hpump]) _ _) he
    rw [hpump] at hcells hrm hcredit hout
    dsimp only at hcells hrm hcredit hout
    refine ⟨{ s with eng := e }, { s.eng.sigrMsg i with port := Fin.ofNat 4 q }, hexec, hadv, hcells, hflags, hto, hpart, hoff, htag, hbody,
      hpay, hsrc, .inl ⟨q, hq, hrm, hout, ?_⟩⟩
    have hone : 1 ≤ kget 0 s.eng.rmCredit (4 * q + 2) := Eng.rmPortFor_credit hq
    rw [hcredit, kget_kmod_self]
    exact Nat.sub_add_cancel hone
  · obtain ⟨hadv, hcells, hrm, _, hout⟩ := finish_sends h (Eng.ctx_congr (by rw [hpump]) _ _) he
    rw [hpump] at hcells hrm hout
    exact ⟨{ s with eng := e }, s.eng.sigrMsg i, hexec, hadv, hcells, hflags, hto, hpart, hoff, htag, hbody, hpay, hsrc, .inr ⟨hq, hrm, hout⟩⟩

end

/-- Settles O27. The bodies of the waits, adds and barriers are one (`withCell_sends`, `withCell_faults`), those of SMAP another
(`finish_maps`); SIGR's message meets empty ports (`Eng.rmPump_one`). -/
theorem semaphoreInstructions : Obligations.SemaphoreInstructions := by
  unfold Obligations.SemaphoreInstructions
  intro s i h x v a span w
  refine ⟨fun hext op o hop => ?_, fun hext hdst hsrcb op y hop hy => ?_, fun hdst hmod himm hheld => exec_sigr h hdst hmod himm hheld⟩
  · have hexec := exec_withCell h hext hop
    obtain ⟨e, he⟩ : ∃ e, e = (s.eng.issued i).withCell s.beat i fun n e => e.travelOp s.beat i n o := ⟨_, rfl⟩
    rw [← he] at hexec
    exact ⟨fun hvalid hoff => ⟨{ s with eng := e }, hexec, withCell_sends h hvalid hoff he⟩,
      fun hinv => ⟨{ s with eng := e }, hexec, withCell_faults h hinv he⟩⟩
  · obtain ⟨e, he⟩ : ∃ e, e = (s.eng.issued i).finish s.beat i.p i.c fun x => { x with semtab := kset SemEnt.invalid x.semtab i.vid y } := ⟨_, rfl⟩
    have hexec := exec_smap h hext hdst hsrcb hop hy
    rw [← he] at hexec
    exact ⟨{ s with eng := e }, hexec, finish_maps h y he⟩

end Sys2Proof.Machine
end

section
/-! PROOFS. Doorbells that are dropped, host signals, manual writes, cleared flags, realignment entries and gated cores (R59, R169, R170,
R192, R193, R195 to R197, R497, R528). -/

namespace Sys2Proof.Machine

set_option Elab.async false

open Sys2Proof

/-! ## A doorbell that is dropped -/

/-- The registers that a dropped doorbell write does not change are all but DB_DROP and the events of WX_PART. -/
theorem Eng.dbDrop_rd (e : Eng) (p : Nat) {a : Nat} (hd : a ≠ Reg.partDbDrop p) (he : a ≠ Reg.partEvent p) : (e.dbDrop p).rd a = e.rd a := by
  rw [Eng.dbDrop, Eng.partEv, Eng.rd_ev_ne _ _ he, Eng.bump, Eng.rd_setF_ne _ _ _ _ hd]

theorem Eng.dbDrop_counts (e : Eng) (p : Nat) :
    (e.dbDrop p).fld (Reg.partDbDrop p) 31 0 = min (e.fld (Reg.partDbDrop p) 31 0 + 1) (2 ^ 32 - 1) ∧
    (e.dbDrop p).bit (Reg.partEvent p) 2 = true := by
  have hne : Reg.partDbDrop p ≠ Reg.partEvent p := by
    show 0x20050 + 0x400 * p ≠ 0x20008 + 0x400 * p
    omega
  rw [Eng.dbDrop, Eng.partEv]
  refine ⟨?_, Eng.bit_ev_self _ _ (by decide)⟩
  rw [Eng.fld_congr (Eng.rd_ev_ne _ _ hne), Eng.fld_bump_self _ _ _ (by decide) (by decide)]

theorem running_iff {e : Eng} {p : Nat} : e.running p = true ↔ e.pstate p = psRunning := decide_eq_true_iff

/-- A doorbell write of a RUNNING partition in an open window, for a doorbell that is taken while RUNNING. -/
theorem doorWrite_running {s : State} {p : Nat} (hwin : s.eng.windowOpen = true) (hrun : s.eng.running p = true) (off : Nat) (l : List Nat)
    (f : BeatUnit → Eng → Eng) :
    doorWrite p off (psRunning :: l) f s = .next { s with eng := { f s.beat s.eng with resp := ⟨true, 0⟩ } } := by
  refine doorWrite_pass p off _ f s hwin ?_
  rw [running_iff.mp hrun, List.contains_cons, beq_self_eq_true, Bool.true_or]

/-! ## Host signals -/

/-- A host signal that names a cell of the partition sends its amount there. -/
theorem hostSignal_sends {s : State} {p : Fin 32} {v : Word} (hwin : s.eng.windowOpen = true) (hrun : s.eng.running p = true)
    (hk : bitsOf v.toNat 31 16 ≠ 0) (hoff : bitsOf v.toNat 15 0 < s.eng.semSize p) :
    ∃ t, exec (.hostSignal p v) s = .next t ∧ t.eng.cells = s.eng.cells ∧ t.eng.mem = s.eng.mem ∧
      t.eng.travel = s.eng.travel ++ [⟨s.eng.nextId, s.eng.semBase p + bitsOf v.toNat 15 0, .add (BitVec.ofNat 32 (bitsOf v.toNat 31 16))⟩] := by
  refine ⟨_, doorWrite_running hwin hrun _ _ _, ?_⟩
  dsimp only
  rw [if_neg (by omega)]
  exact ⟨rfl, rfl, rfl⟩

theorem hostSignal_drops {s : State} {p : Fin 32} {v : Word} (hwin : s.eng.windowOpen = true) (hrun : s.eng.running p = true)
    (hbad : bitsOf v.toNat 31 16 = 0 ∨ s.eng.semSize p ≤ bitsOf v.toNat 15 0) :
    ∃ t, exec (.hostSignal p v) s = .next t ∧ t.eng.cells = s.eng.cells ∧ t.eng.mem = s.eng.mem ∧ t.eng.travel = s.eng.travel ∧
      t.eng.bit (Reg.partEvent p) 2 = true ∧
      t.eng.fld (Reg.partDbDrop p) 31 0 = min (s.eng.fld (Reg.partDbDrop p) 31 0 + 1) (2 ^ 32 - 1) := by
  refine ⟨_, doorWrite_running hwin hrun _ _ _, ?_⟩
  dsimp only
  rw [if_pos hbad]
  obtain ⟨hcount, hevent⟩ := s.eng.dbDrop_counts p
  exact ⟨rfl, rfl, rfl, hevent, hcount⟩

/-! ## A manual write of a cell at which nothing else happens -/

/-- What a Strings write or an entry of the log leaves alone: cells and the operations at them, partitions, and the registers of
WX_PART and below. -/
structure Eng.Beside (e f : Eng) : Prop where
  cells : f.cells = e.cells
  joined : f.joined = e.joined
  hold : f.sliceHold = e.sliceHold
  wait : f.sliceWait = e.sliceWait
  parts : f.parts = e.parts
  rd : ∀ a, a < 0x28000 → f.rd a = e.rd a

section
variable {e f g : Eng}

theorem Eng.Beside.refl (e : Eng) : e.Beside e := ⟨rfl, rfl, rfl, rfl, rfl, fun _ _ => rfl⟩

theorem Eng.Beside.trans (h : e.Beside f) (k : f.Beside g) : e.Beside g :=
  ⟨k.cells.trans h.cells, k.joined.trans h.joined, k.hold.trans h.hold, k.wait.trans h.wait, k.parts.trans h.parts,
    fun a ha => (k.rd a ha).trans (h.rd a ha)⟩

theorem Eng.Beside.setF (e : Eng) {a hi lo n : Nat} (ha : 0x28000 ≤ a) : e.Beside (e.setF a hi lo n) :=
  ⟨rfl, rfl, rfl, rfl, rfl, fun _ hx => Eng.rd_setF_ne _ _ _ _ (by omega)⟩

theorem Eng.Beside.wr (e : Eng) {a : Nat} {v : Word} (ha : 0x28000 ≤ a) : e.Beside (e.wr a v) :=
  ⟨rfl, rfl, rfl, rfl, rfl, fun _ hx => Eng.rd_wr_ne _ _ (by omega)⟩

theorem logRegs_high {a : Nat} (h : a < 0x28000) : a ∉ logRegs := fun hm =>
  Nat.not_le_of_lt h ((by decide : ∀ a ∈ logRegs, 0x28000 ≤ a) a hm)

theorem Eng.LogsOnly.beside (h : e.LogsOnly f) : e.Beside f := by
  obtain ⟨⟨r, m, l, k, rfl⟩, hrd⟩ := h
  exact ⟨rfl, rfl, rfl, rfl, rfl, fun a ha => hrd a (logRegs_high ha)⟩

theorem Eng.strLog_beside (b : BeatUnit) (src : Nat) (part : Option Nat) (space addr old new : Nat) (e : Eng) :
    e.Beside (e.strLog b src part space addr old new) :=
  ((Eng.logAdd_logsOnly ..).beside.trans (.setF _ (by decide))).trans (.setF _ (by decide))

theorem Eng.strWrote_beside {b : BeatUnit} {src a : Nat} {φ : Eng → Eng} (h : e.Beside (φ e)) : e.Beside (e.strWrote b src a φ) :=
  h.trans (Eng.strLog_beside ..)

/-- The owner of a cell is read from the registers of WX_PART. -/
theorem Eng.cellOwner_congr (h : ∀ a, a < 0x28000 → f.rd a = e.rd a) (n : Nat) : f.cellOwner n = e.cellOwner n := by
  unfold Eng.cellOwner
  refine List.find?_congr fun p hp => ?_
  have hlt := List.mem_range.mp hp
  have hst : f.rd (Reg.partStatus p) = e.rd (Reg.partStatus p) := h _ (by show 0x20004 + 0x400 * p < 0x28000; omega)
  have hsem : f.rd (Reg.partSem p) = e.rd (Reg.partSem p) := h _ (by show 0x20014 + 0x400 * p < 0x28000; omega)
  have huse : f.inUse p = e.inUse p := by rw [Eng.inUse, Eng.pstate, Eng.fld_congr hst, Eng.bit_congr hst, Eng.inUse, Eng.pstate]
  have hbase : f.semBase p = e.semBase p := by rw [Eng.semBase, Eng.fld_congr hsem, Eng.semBase]
  have hsize : f.semSize p = e.semSize p := by rw [Eng.semSize, Eng.fld_congr hsem, Eng.semSize]
  rw [huse, hbase, hsize]

theorem Eng.Beside.cell (h : e.Beside f) (n : Nat) : f.cell n = e.cell n := by rw [Eng.cell, h.cells, Eng.cell]

theorem Eng.Beside.plainCell (h : e.Beside f) {n : Nat} (hp : e.plainCell n) : f.plainCell n := by
  obtain ⟨⟨hheld, hjoin, hload⟩, hq⟩ := hp
  refine ⟨⟨?_, ?_, fun p ho k hk => ?_⟩, by rw [h.cell, hq]⟩
  · rw [Eng.cellHeld, h.hold, h.wait]
    exact hheld
  · rw [Eng.joinedAt, h.joined]
    exact hjoin
  · rw [Eng.vslot, Eng.part_congr h.parts]
    exact hload p (by rwa [Eng.cellOwner_congr h.rd] at ho) k hk

end

/-! ## The cycle of a manual write -/

section
variable (b : BeatUnit) (n src : Nat) (v : Option Word) (e : Eng)

/-- The registers that a manual write may change: those of the log, MANUAL_COUNT and the events of WX_SYNC. -/
theorem Eng.manualPut_rd {a : Nat} (hl : a ∉ logRegs) (hc : a ≠ Reg.syncManualCount) (he : ∀ p, p < 32 → a ≠ Reg.syncEvent p) :
    (e.manualPut b n src v).rd a = e.rd a := by
  have hlog : ∀ part l, ((e.logAdd b 0x0002 src part l).bump Reg.syncManualCount 31 0).rd a = e.rd a := fun part l =>
    (Eng.rd_setF_ne _ _ _ _ hc).trans ((Eng.logAdd_logsOnly ..).rd a hl)
  unfold Eng.manualPut
  dsimp only
  split
  · rename_i p hp
    have hlt : p < 32 := List.mem_range.mp (List.mem_of_find?_eq_some hp)
    exact (Eng.rd_ev_ne _ _ (he p hlt)).trans (hlog _ _)
  · exact hlog _ _

theorem syncEvent_ne {p : Nat} (hp : p < 32) {a : Nat} (ha : a < 0x50000 ∨ 0x52000 ≤ a) : a ≠ Reg.syncEvent p := by
  show a ≠ 0x50004 + 0x100 * p
  omega

theorem Eng.manualPut_low {a : Nat} (ha : a < 0x28000) : (e.manualPut b n src v).rd a = e.rd a :=
  e.manualPut_rd b n src v (logRegs_high ha) (Nat.ne_of_lt (Nat.lt_trans ha (by decide))) fun _ hp => syncEvent_ne hp (.inl (Nat.lt_trans ha (by decide)))

theorem Eng.manualPut_count : (e.manualPut b n src v).fld Reg.syncManualCount 31 0 = min (e.fld Reg.syncManualCount 31 0 + 1) (2 ^ 32 - 1) := by
  have hlog : ∀ part l, ((e.logAdd b 0x0002 src part l).bump Reg.syncManualCount 31 0).fld Reg.syncManualCount 31 0 =
      min (e.fld Reg.syncManualCount 31 0 + 1) (2 ^ 32 - 1) := fun part l => by
    rw [Eng.fld_bump_self _ _ _ (by decide) (by decide), Eng.fld_congr ((Eng.logAdd_logsOnly ..).rd _ (by decide))]
  unfold Eng.manualPut
  dsimp only
  split
  · rename_i p hp
    have hlt : p < 32 := List.mem_range.mp (List.mem_of_find?_eq_some hp)
    refine (Eng.fld_congr (Eng.rd_ev_ne _ _ (syncEvent_ne hlt (.inr (by decide)))) 31 0).trans (hlog _ _)
  · exact hlog _ _

/-- A manual write changes nothing of the cells and partitions but its cell. -/
theorem Eng.manualPut_eq : ∃ f : Eng, e.manualPut b n src v = f.onCell n (fun _ => { e.cell n with count := v.getD (e.cell n).count, sat := false }) ∧
    f.cells = e.cells ∧ f.joined = e.joined ∧ f.parts = e.parts := by
  have hlog : ∀ part l, e.Beside (e.logAdd b 0x0002 src part l) := fun part l => (Eng.logAdd_logsOnly ..).beside
  unfold Eng.manualPut
  dsimp only
  split
  · exact ⟨_, rfl, (hlog _ _).cells, (hlog _ _).joined, (hlog _ _).parts⟩
  · exact ⟨_, rfl, (hlog _ _).cells, (hlog _ _).joined, (hlog _ _).parts⟩

theorem Eng.manualPut_cell : (e.manualPut b n src v).cell n = { e.cell n with count := v.getD (e.cell n).count, sat := false } := by
  obtain ⟨f, hf, _⟩ := e.manualPut_eq b n src v
  rw [hf, Eng.cell_onCell_self]

theorem Eng.manualPut_cell_ne {m : Nat} (hm : m ≠ n) : (e.manualPut b n src v).cell m = e.cell m := by
  obtain ⟨f, hf, hcells, _⟩ := e.manualPut_eq b n src v
  rw [hf, Eng.cell_onCell_ne _ _ hm, Eng.cell, hcells, Eng.cell]

theorem Eng.manualPut_parts : (e.manualPut b n src v).parts = e.parts := by
  obtain ⟨f, hf, _, _, hparts⟩ := e.manualPut_eq b n src v
  rw [hf]
  exact hparts

theorem Eng.manualPut_cellOwner (m : Nat) : (e.manualPut b n src v).cellOwner m = e.cellOwner m :=
  Eng.cellOwner_congr (fun _ => e.manualPut_low b n src v) m

end

section
variable {b : BeatUnit} {n : Nat} {e : Eng}

/-- A partition that loads no version commits none. -/
theorem Partn.commitList_none {q : Partn} (h : ∀ k, k < 4 → (q.vslot k).st ≠ vsLoading) (off count : Nat) :
    q.commitList off count = (count, []) := by
  have hnone : (List.range 4).filter (fun k => decide ((q.vslot k).st = vsLoading)) = [] := by
    refine List.filter_eq_nil_iff.mpr fun k hk => ?_
    rw [decide_eq_true_iff]
    exact h k (List.mem_range.mp hk)
  rw [Partn.commitList, Partn.vslotsIn, hnone]
  rfl

theorem Eng.cellCommit_none (h : ∀ p, e.cellOwner n = some p → ∀ k, k < 4 → (e.vslot p k).st ≠ vsLoading) : e.cellCommit b n = e := by
  unfold Eng.cellCommit
  split
  · rfl
  · rename_i p hp
    rw [Partn.commitList_none (h p hp)]
    rfl

theorem Eng.walk_nil (h : (e.cell n).queue = []) : e.walk b n = e := by
  rw [Eng.walk, h]
  rfl

theorem Eng.expireAll_nil (h : (e.cell n).queue = []) : e.expireAll b n = e := by
  rw [Eng.expireAll, h]
  rfl

theorem Eng.barCheck_nil (h : (e.cell n).queue = []) : e.barCheck b n = (e, []) := by
  unfold Eng.barCheck
  dsimp only
  rw [h]
  rfl

theorem Eng.stopping_nil (h : (e.cell n).queue = []) : e.stopping n = [] := by
  rw [Eng.stopping, h]
  rfl

theorem Eng.onCell_queue (e : Eng) (n m : Nat) : ((e.onCell n fun x => { x with queue := x.queue ++ [] }).cell m) = e.cell m := by
  by_cases hm : m = n
  · rw [hm, Eng.cell_onCell_self, List.append_nil]
  · rw [Eng.cell_onCell_ne _ _ hm]

/-- The cycle of a cell at which nothing waits, for one manual write: the write, and nothing more. -/
theorem Eng.cellCycle_manual (hq : (e.cell n).queue = []) (hload : ∀ p, e.cellOwner n = some p → ∀ k, k < 4 → (e.vslot p k).st ≠ vsLoading)
    (src : Nat) (v : Option Word) :
    e.cellCycle b n [.manual src v] = ((e.manualPut b n src v).onCell n fun x => { x with queue := x.queue ++ [] }, []) := by
  obtain ⟨g, hg⟩ : ∃ g, g = e.manualPut b n src v := ⟨_, rfl⟩
  have hset : e.cellSet b n [.manual src v] = g := hg ▸ rfl
  have hgq : (g.cell n).queue = [] := by rw [hg, Eng.manualPut_cell, hq]
  have hcommit : g.cellCommit b n = g := Eng.cellCommit_none fun p hp k hk => by
    rw [hg, Eng.manualPut_cellOwner] at hp
    rw [hg, Eng.vslot, Eng.part_congr (e.manualPut_parts b n src v)]
    exact hload p hp k hk
  have hg' : ((g.onCell n fun x => { x with queue := x.queue ++ [] }).cell n).queue = [] := by rw [Eng.onCell_queue, hgq]
  unfold Eng.cellCycle
  rw [Eng.stopping_nil hq, hset, ← hg]
  dsimp only
  rw [if_pos (by rfl : sumOps addOf [.manual src v] = 0), if_pos (by rfl : sumOps subOf [.manual src v] = 0)]
  have hnew : newWaits b [.manual src v] = [] := rfl
  have hcome : comers [.manual src v] = [] := rfl
  have hack : ∀ sub, g.ackOps n sub [.manual src v] = g := fun sub => by cases sub <;> rfl
  have hops : ∀ x, Eng.xbOps b [.manual src v] x = x := fun _ => rfl
  rw [hack, hcommit, hack, hnew, hcome, hops, List.filter_nil, List.filter_nil, List.foldl_nil, Eng.barCheck_nil hg']
  dsimp only
  rw [Eng.walk_nil hg', Eng.expireAll_nil hg']
  rfl

/-- A manual write takes effect at once at a cell at which nothing waits and nothing else happens (R175, R195). -/
theorem Eng.reach_manual (h : e.plainCell n) (src : Nat) (v : Option Word) :
    ∃ g : Eng, (∀ m, g.cell m = e.cell m) ∧ (∀ a, g.rd a = e.rd a) ∧
      e.reach b false n (.manual src v) = (g.manualPut b n src v).onCell n fun x => { x with queue := x.queue ++ [] } := by
  obtain ⟨⟨hheld, hjoin, hload⟩, hq⟩ := h
  obtain ⟨g, hg⟩ : ∃ g : Eng, g = { e with joined := e.joined.filter fun x => decide (x.1 ≠ n) } := ⟨_, rfl⟩
  have hgq : (g.cell n).queue = [] := hg ▸ hq
  have hgload : ∀ p, g.cellOwner n = some p → ∀ k, k < 4 → (g.vslot p k).st ≠ vsLoading := hg ▸ hload
  have hrd : ∀ a, g.rd a = e.rd a := fun _ => hg ▸ rfl
  obtain ⟨t, ht⟩ : ∃ t, t = (g.manualPut b n src v).onCell n fun x => { x with queue := x.queue ++ [] } := ⟨_, rfl⟩
  have hrun : e.cellRun b (1024 + 1) [(n, [.manual src v])] [] = t := by
    have hparts : e.cellParts n [.manual src v] = [] := by
      rw [Eng.cellParts, hq]
      rfl
    rw [Eng.cellRun, hheld, if_neg Bool.false_ne_true, hjoin]
    dsimp only
    rw [List.nil_append [CellOp.manual src v], hparts, ← hg, Eng.cellCycle_manual hgq hgload, ← ht]
    rfl
  refine ⟨g, fun _ => hg ▸ rfl, hrd, ?_⟩
  have hgated : t.rd Reg.pwrGated = e.rd Reg.pwrGated := by
    rw [ht]
    refine Eq.trans ?_ ((g.manualPut_rd b n src v (by decide) (by decide) fun _ hp => syncEvent_ne hp (.inr (by decide))).trans (hrd _))
    rfl
  rw [← ht, Eng.reach, if_neg Bool.false_ne_true, Eng.atCell, Eng.atCells, Eng.oneCycle]
  rw [List.length_singleton, Nat.add_comm, hrun, if_pos hgated]

end

/-! ## Manual writes through Strings -/

section
variable {b : BeatUnit} {n : Nat} {e : Eng} {src log : Nat}

/-- What a manual write through Strings does to a cell at which nothing waits and nothing else happens. -/
structure Eng.PutByHand (n : Nat) (v : Option Word) (e f : Eng) : Prop where
  cell : f.cell n = ⟨v.getD (e.cell n).count, false, []⟩
  others : ∀ m, m ≠ n → f.cell m = e.cell m
  count : f.fld Reg.syncManualCount 31 0 = min (e.fld Reg.syncManualCount 31 0 + 1) (2 ^ 32 - 1)
  writes : f.fld Reg.dbgWrites 31 0 = min (e.fld Reg.dbgWrites 31 0 + 1) (2 ^ 32 - 1)

/-- The manual write and the Strings write that makes it. -/
theorem Eng.strWrote_manual (cell : BitVec 16) (h : e.plainCell cell.toNat) (v : Option Word) :
    e.PutByHand cell.toNat v (e.strWrote b src Reg.syncManualCell fun e => e.manual b log { what := cell } v) := by
  have hbeside : e.Beside (e.setF Reg.syncManualCell 15 0 cell.toNat) := .setF e (by decide)
  have hrd : ∀ a, a ≠ Reg.syncManualCell → (e.setF Reg.syncManualCell 15 0 cell.toNat).rd a = e.rd a := fun a ha => Eng.rd_setF_ne _ _ _ _ ha
  obtain ⟨g, hcell, hgrd, hreach⟩ := Eng.reach_manual (b := b) (hbeside.plainCell h) log v
  obtain ⟨t, ht⟩ : ∃ t, t = e.manual b log { what := cell } v := ⟨_, rfl⟩
  have htg : t = (g.manualPut b cell.toNat log v).onCell cell.toNat fun x => { x with queue := x.queue ++ [] } := ht.trans hreach
  have htcell : ∀ m, t.cell m = (g.manualPut b cell.toNat log v).cell m := fun m => by rw [htg, Eng.onCell_queue]
  have htrd : ∀ a, t.rd a = (g.manualPut b cell.toNat log v).rd a := fun a => by
    rw [htg]
    rfl
  have hlog : ∀ old new, t.Beside (t.strLog b src none 0 Reg.syncManualCell old new) := fun _ _ => Eng.strLog_beside ..
  have hq : (e.cell cell.toNat).queue = [] := h.2
  rw [Eng.strWrote, ← ht]
  refine ⟨?_, fun m hm => ?_, ?_, ?_⟩
  · rw [(hlog _ _).cell, htcell, Eng.manualPut_cell, hcell, hbeside.cell]
    dsimp only
    rw [hq]
  · rw [(hlog _ _).cell, htcell, Eng.manualPut_cell_ne _ _ _ _ _ hm, hcell, hbeside.cell]
  · rw [Eng.fld_congr (Eng.strLog_rd_ne _ _ _ _ _ _ _ _ (by decide)), Eng.fld_congr (htrd _), Eng.manualPut_count, Eng.fld_congr (hgrd _),
      Eng.fld_congr (hrd _ (by decide))]
  · have hput : t.rd Reg.dbgWrites = e.rd Reg.dbgWrites := by
      rw [htrd, Eng.manualPut_rd _ _ _ _ _ (by decide) (by decide) (fun _ hp => syncEvent_ne hp (.inr (by decide))), hgrd, hrd _ (by decide)]
    rw [(Eng.strLog_counts ..).1, Eng.fld_congr hput]

end

section
variable {s : State} {src : StringsSrc} {cell : BitVec 16}

theorem manualClearSat_clears (hmay : s.eng.mayString src = true) (h : s.eng.plainCell cell.toNat) :
    ∃ u, exec (.manualClearSat src { what := cell }) s = .next u ∧ s.eng.PutByHand cell.toNat none u.eng := by
  refine ⟨{ s with eng := s.eng.strWrote s.beat src.log Reg.syncManualCell fun e => e.manual s.beat src.log { what := cell } none }, ?_, Eng.strWrote_manual cell h none⟩
  show execManualClearSat src { what := cell } s = _
  rw [execManualClearSat, State.onEng, hmay]
  rfl

/-- The value's Strings write, then the cell's. -/
theorem manualSet_sets (hmay : s.eng.mayString src = true) (h : s.eng.plainCell cell.toNat) (v : Word) :
    ∃ t f, exec (.manualSet src { what := cell } v) s = .next t ∧ f.PutByHand cell.toNat (some v) t.eng ∧ s.eng.Beside f ∧
      f.fld Reg.syncManualCount 31 0 = s.eng.fld Reg.syncManualCount 31 0 ∧
      f.fld Reg.dbgWrites 31 0 = min (s.eng.fld Reg.dbgWrites 31 0 + 1) (2 ^ 32 - 1) := by
  obtain ⟨f, hf⟩ : ∃ f, f = s.eng.strWrote s.beat src.log Reg.syncManualValue fun e => e.wr Reg.syncManualValue v := ⟨_, rfl⟩
  have hbeside : s.eng.Beside f := hf ▸ Eng.strWrote_beside (.wr s.eng (by decide))
  refine ⟨{ s with eng := f.strWrote s.beat src.log Reg.syncManualCell fun e => e.manual s.beat src.log { what := cell } (some v) }, f, ?_,
    Eng.strWrote_manual cell (hbeside.plainCell h) (some v), hbeside, ?_, ?_⟩
  · show execManualSet src { what := cell } v s = _
    rw [execManualSet, State.onEng, hmay, hf]
    rfl
  · rw [hf, Eng.strWrote, Eng.fld_congr (Eng.strLog_rd_ne _ _ _ _ _ _ _ _ (by decide)), Eng.fld_congr (Eng.rd_wr_ne _ _ (by decide))]
  · rw [hf, Eng.strWrote, (Eng.strLog_counts ..).1, Eng.fld_congr (Eng.rd_wr_ne _ _ (by decide))]

end

/-! ## Flags, realignment entries and gated cores -/

section
variable {s : State} {path : Path} {p : Fin 32}

theorem satClr_clears {off : BitVec 16} (hgate : s.eng.gate path (Reg.syncSatClr p) = .pass)
    (hheld : s.eng.cellHeld (s.eng.semBase p + off.toNat) = false) :
    ∃ t, exec (.satClr path p off) s = .next t ∧ t.eng.regs = s.eng.regs ∧ ∀ m, t.eng.cell m =
      if m = s.eng.semBase p + off.toNat ∧ off.toNat < s.eng.semSize p then { s.eng.cell m with sat := false } else s.eng.cell m := by
  refine ⟨_, ctlWrite_pass _ _ _ _ hgate, ?_⟩
  dsimp only
  by_cases hoff : s.eng.semSize p ≤ off.toNat
  · rw [if_pos hoff]
    refine ⟨rfl, fun m => ?_⟩
    rw [if_neg (by omega)]
    rfl
  · rw [if_neg hoff, hheld, if_neg Bool.false_ne_true]
    refine ⟨rfl, fun m => ?_⟩
    by_cases hm : m = s.eng.semBase p + off.toNat
    · rw [if_pos ⟨hm, by omega⟩, hm]
      exact Eng.cell_onCell_self s.eng (s.eng.semBase p + off.toNat) fun x => { x with sat := false }
    · rw [if_neg fun h => hm h.1]
      exact Eng.cell_onCell_ne s.eng (fun x => { x with sat := false }) hm

/-- An entry that EN arms takes the cell's count as BASE. -/
theorem Eng.raWrite_arms (e : Eng) {p : Nat} {n : Fin 16} {v : Word} (hwas : e.bit (Reg.syncRaCell p n) 31 = false) (hon : v.getLsbD 31 = true) :
    kget Realign.off ((e.raWrite p n v).part p).realigns n = ⟨true, (e.cell (e.semBase p + bitsOf v.toNat 15 0)).count, 0, 0⟩ := by
  have hne : Reg.partSem p ≠ Reg.syncRaCell p n := by
    show 0x20014 + 0x400 * p ≠ 0x50040 + 0x100 * p + 8 * n.val
    omega
  have hsem : (e.wr (Reg.syncRaCell p n) (v &&& 0x8000FFFF#32)).semBase p = e.semBase p := by
    rw [Eng.semBase, Eng.fld_congr (Eng.rd_wr_ne _ _ hne), Eng.semBase]
  unfold Eng.raWrite
  dsimp only
  rw [hwas, hon, hsem, Eng.part_onPart_self]
  dsimp only
  exact kget_kset_self Realign.off _ n _

theorem realignArm_arms {n : Fin 16} {v : Word} (hgate : s.eng.gate path (Reg.syncRaCell p n) = .pass)
    (hwas : s.eng.bit (Reg.syncRaCell p n) 31 = false) (hon : v.getLsbD 31 = true) :
    ∃ t, exec (.realignArm path p n v) s = .next t ∧ t.eng.cells = s.eng.cells ∧ t.eng.rd (Reg.syncRaCell p n) = v &&& 0x8000FFFF#32 ∧
      kget Realign.off (t.eng.part p).realigns n = ⟨true, (s.eng.cell (s.eng.semBase p + bitsOf v.toNat 15 0)).count, 0, 0⟩ := by
  refine ⟨_, ctlWrite_pass _ _ _ _ hgate, rfl, ?_, s.eng.raWrite_arms hwas hon⟩
  exact Eng.rd_wr_self s.eng (Reg.syncRaCell p n) (v &&& 0x8000FFFF#32)

/-- The gate and the loan of a core that gates (R192, R497). -/
def Eng.gating (p : Nat) (e : Eng) : Eng :=
  { (e.setF Reg.pwrGated p p 1) with loans := kset 0 e.loans p (if e.bit Reg.pwrCtrl 8 then e.lend else 0) }

theorem Eng.gating_rd (e : Eng) (p a : Nat) : (e.gating p).rd a = (e.setF Reg.pwrGated p p 1).rd a := rfl

/-- A core with nothing to issue, nothing outstanding and a waiting context gates. -/
theorem coreGate_exec (hgated : s.eng.gated p = false) (hctrl : s.eng.fld (Reg.syncCtrl p) 15 0 ≠ 0xFFFF)
    (hidle : ∀ c, c < 16 → (s.eng.ctx p c).canIssue = false ∧ (s.eng.ctx p c).pend = none)
    (hwait : ∃ c, c < 16 ∧ ((s.eng.ctx p c).st = .waiting ∨ (s.eng.ctx p c).st = .delayed)) :
    exec (.coreGate p) s = .next { s with eng := (s.eng.gating p).showPower ((s.eng.gating p).fld Reg.pwrStatus 20 16) } := by
  have hissue : ((List.range 16).map fun c => s.eng.ctx p c).any Ctx.canIssue = false := by
    rw [List.any_map, List.any_eq_false]
    exact fun c hc => by rw [Function.comp_apply, (hidle c (List.mem_range.mp hc)).1]; exact Bool.false_ne_true
  have hpend : (((List.range 16).map fun c => s.eng.ctx p c).any fun x => x.pend.isSome) = false := by
    rw [List.any_map, List.any_eq_false]
    exact fun c hc => by rw [Function.comp_apply, (hidle c (List.mem_range.mp hc)).2]; exact Bool.false_ne_true
  have hsome : (((List.range 16).map fun c => s.eng.ctx p c).any fun x => decide (x.st = .waiting) || decide (x.st = .delayed)) = true := by
    obtain ⟨c, hc, hst⟩ := hwait
    rw [List.any_map, List.any_eq_true]
    exact ⟨c, List.mem_range.mpr hc, by rcases hst with h | h <;> simp [h]⟩
  show execCoreGate p s = _
  unfold execCoreGate State.onEng
  dsimp only
  rw [hgated, hissue, hpend, hsome, decide_eq_false hctrl, if_neg (by decide)]
  rfl

theorem coreGate_gates (hgated : s.eng.gated p = false) (hctrl : s.eng.fld (Reg.syncCtrl p) 15 0 ≠ 0xFFFF)
    (hidle : ∀ c, c < 16 → (s.eng.ctx p c).canIssue = false ∧ (s.eng.ctx p c).pend = none)
    (hwait : ∃ c, c < 16 ∧ ((s.eng.ctx p c).st = .waiting ∨ (s.eng.ctx p c).st = .delayed)) :
    ∃ t, exec (.coreGate p) s = .next t ∧ t.eng.gated p = true ∧ t.eng.parts = s.eng.parts ∧
      kget 0 t.eng.loans p = if s.eng.bit Reg.pwrCtrl 8 then s.eng.lend else 0 := by
  refine ⟨_, coreGate_exec hgated hctrl hidle hwait, ?_, rfl, kget_kset_self 0 _ p.val _⟩
  rw [Eng.gated, Eng.showPower, Eng.bit_setF_ne _ _ _ _ _ (by decide), Eng.bit_setF_ne _ _ _ _ _ (by decide),
    Eng.bit_setF_ne _ _ _ _ _ (by decide), Eng.bit_congr (Eng.gating_rd _ _ _), Eng.bit_setF_self _ _ _ _ p.isLt]
  rfl

end

theorem min_add_two (x M : Nat) : min (min (x + 1) M + 1) M = min (x + 2) M := by omega

/-- Settles O29. Its heart is the cycle of a cell at which nothing waits, in which a manual write does nothing but its write
(`Eng.cellCycle_manual`, `Eng.reach_manual`). -/
theorem cellsSetByHostHandAndRealignment : Obligations.CellsSetByHostHandAndRealignment := by
  unfold Obligations.CellsSetByHostHandAndRealignment
  refine ⟨fun s p v hwin hrun => ⟨hostSignal_sends hwin hrun, hostSignal_drops hwin hrun⟩, fun s src cell v hmay hplain => ?_,
    fun s path p off => satClr_clears, fun s path p n v => realignArm_arms, fun s p => coreGate_gates⟩
  obtain ⟨u, huexec, hu⟩ := manualClearSat_clears hmay hplain
  obtain ⟨t, f, htexec, ht, hbeside, hcount, hwrites⟩ := manualSet_sets hmay hplain v
  refine ⟨t, u, htexec, huexec, ht.cell, hu.cell, fun m hm => ⟨?_, hu.others m hm⟩, ?_, hu.count, ?_, hu.writes⟩
  · rw [ht.others m hm, hbeside.cell]
  · rw [ht.count, hcount]
  · rw [ht.writes, hwrites, min_add_two]

end Sys2Proof.Machine
end

section
/-! PROOFS. SQ_TAIL, CQ_HEAD, TR_HEAD and CANCEL (R59, R199, R222, R415, R422, R424). -/

namespace Sys2Proof.Machine

set_option Elab.async false

open Sys2Proof

/-! ## What leaves the doorbell pages and the hold on a token ring -/

/-- The doorbell pages' words stand, and every token ring is held, and left by its request, as it was. -/
structure Eng.Pours (e f : Eng) : Prop where
  rd : ∀ a, 0x200000 ≤ a → f.rd a = e.rd a
  held : ∀ n, (f.tring n).held = (e.tring n).held
  left : ∀ n, (f.tring n).left = (e.tring n).left

theorem family_low (p : Fin 32) {a : Nat} (ha : a < 0x100000 := by decide) : a + 0x100 * p.val < 0x200000 := by omega

section
variable {e g k : Eng} {b : BeatUnit} {p : Fin 32} {m : Nat}

theorem Eng.Pours.refl (e : Eng) : e.Pours e := ⟨fun _ _ => rfl, fun _ => rfl, fun _ => rfl⟩

theorem Eng.Pours.rest (h : e.Pours g) (hr : k.regs = g.regs := by rfl) (ht : k.trings = g.trings := by rfl) : e.Pours k :=
  ⟨fun a ha => by rw [Eng.rd, hr]; exact h.rd a ha, fun n => by rw [Eng.tring, ht]; exact h.held n, fun n => by rw [Eng.tring, ht]; exact h.left n⟩

theorem Eng.Pours.ite {P : Prop} [Decidable P] (h : e.Pours g) (h' : e.Pours k) : e.Pours (if P then g else k) := by
  split
  · exact h
  · exact h'

theorem Eng.Pours.wr (h : e.Pours g) {a : Nat} {v : Word} (ha : a < 0x200000) : e.Pours (g.wr a v) :=
  ⟨fun x hx => (Eng.rd_wr_ne _ _ (by omega)).trans (h.rd x hx), h.held, h.left⟩

theorem Eng.Pours.setF (h : e.Pours g) {a hi lo n : Nat} (ha : a < 0x200000) : e.Pours (g.setF a hi lo n) := h.wr ha

theorem Eng.Pours.bump (h : e.Pours g) {a hi lo : Nat} (ha : a < 0x200000) : e.Pours (g.bump a hi lo) := h.wr ha

theorem Eng.Pours.ev (h : e.Pours g) {a i : Nat} (ha : a < 0x200000) : e.Pours (g.ev a i) := h.wr ha

theorem Eng.Pours.worst (h : e.Pours g) {a hi lo n : Nat} (ha : a < 0x200000) : e.Pours (g.worst a hi lo n) := h.wr ha

theorem Eng.Pours.setRqw (h : e.Pours g) {w : Nat} {v : Dword} : e.Pours (g.setRqw m w v) := h.rest

theorem Eng.Pours.setRqf (h : e.Pours g) {w hi lo n : Nat} : e.Pours (g.setRqf m w hi lo n) := h.setRqw

theorem Eng.Pours.onReq (h : e.Pours g) {f : Req → Req} : e.Pours (g.onReq m f) := h.rest

theorem Eng.Pours.measureFirst (h : e.Pours g) : e.Pours (g.measureFirst b p m) := by
  unfold Eng.measureFirst
  extract_lets t g1 g2 g3 g4
  have h1 : e.Pours g1 := h.setRqw.setRqf
  have h2 : e.Pours g2 := h1.worst (family_low p)
  have h3 : e.Pours g3 := .ite h2.setRqf h2
  exact (Eng.Pours.ite (h3.bump (family_low p)) (.ite ((h3.setRqf.bump (family_low p)).ev (family_low p)) h3)).onReq

theorem Eng.Pours.disarm (h : e.Pours g) : e.Pours (g.disarm p m) := by
  have hdis : e.Pours ((g.onReq m fun r => { r with alert := none }).onPart p fun q =>
      { q with alertHeld := q.alertHeld.filter fun s => decide (s ≠ m) }) := h.rest
  exact .ite h hdis

theorem Eng.Pours.measure (h : e.Pours g) : e.Pours (g.measure b p m) := by
  unfold Eng.measure
  extract_lets first g1 g2
  have h1 : e.Pours g1 := .ite h.measureFirst h
  exact (Eng.Pours.ite h1.disarm h1).onReq

theorem Eng.Pours.onRing (h : e.Pours g) {r : Option Nat} {f : Ring → Ring} : e.Pours (g.onRing p r f) := by
  cases r with
  | none => exact h.rest
  | some n =>
    have hring : ∀ j, ((g.onRing p (some n) f).tring j).held = (g.tring j).held ∧ ((g.onRing p (some n) f).tring j).left = (g.tring j).left := by
      intro j
      rw [Eng.onRing, Eng.onTring, Eng.tring, Eng.tring]
      dsimp only
      by_cases hj : j = n
      · rw [hj, kget_kmod_self]
        exact ⟨rfl, rfl⟩
      · rw [kget_kmod_ne _ _ _ hj]
        exact ⟨rfl, rfl⟩
    exact ⟨h.rd, fun j => (hring j).1.trans (h.held j), fun j => (hring j).2.trans (h.left j)⟩

theorem Eng.Pours.issueRec (h : e.Pours g) {r : Option Nat} {x : QRec} : e.Pours (g.issueRec b p r x) := by
  have hsend : ∀ {g a k}, e.Pours g → e.Pours ((g.onRing p r fun g => { g with next := (g.next + 1) % 2 ^ 32 }).issueTxn p a k) :=
    fun h => h.onRing.rest
  unfold Eng.issueRec
  dsimp only
  split
  · exact hsend h.measure
  · exact hsend h

/-- Records outside spill only are issued: none is read back. -/
theorem Eng.Pours.drain (h : e.Pours g) {r : Option Nat} (f : Nat) : e.Pours (g.drain b p r true f) := by
  induction f generalizing g with
  | zero => exact h
  | succ f ih =>
    unfold Eng.drain
    split
    · exact h
    · rename_i x rest _
      split
      · exact h
      · rename_i hgo
        split
        · exact ih h.onRing.issueRec
        · rename_i j hj
          exact absurd (by rw [hj]; simp) hgo

theorem Eng.Pours.drainRing (h : e.Pours g) {r : Option Nat} : e.Pours (g.drainRing b p r true) :=
  Eng.Pours.setF (Eng.Pours.setF (h.drain _) (family_low p)) (family_low p)

end

/-! ## The doorbells -/

section
variable {s : State} {p : Fin 32} {v : Word}

/-- A doorbell write that is dropped and counted. -/
structure Drops (p : Nat) (e f : Eng) : Prop where
  count : f.fld (Reg.partDbDrop p) 31 0 = min (e.fld (Reg.partDbDrop p) 31 0 + 1) (2 ^ 32 - 1)
  event : f.bit (Reg.partEvent p) 2 = true
  parts : f.parts = e.parts
  mem : f.mem = e.mem

theorem Eng.dbDrop_drops (e : Eng) (p : Nat) : Drops p e (e.dbDrop p) :=
  ⟨(e.dbDrop_counts p).1, (e.dbDrop_counts p).2, rfl, rfl⟩

theorem Drops.answered {p : Nat} {e f : Eng} (h : Drops p e f) (r : Resp) : Drops p e { f with resp := r } :=
  ⟨h.count, h.event, h.parts, h.mem⟩

/-- A doorbell's word is no register of WX_PART. -/
theorem door_ne_drop (p : Fin 32) (off : Nat) : door p off ≠ Reg.partDbDrop p ∧ door p off ≠ Reg.partEvent p := by
  constructor
  · show 0x200000 + 0x10000 * p.val + off ≠ 0x20050 + 0x400 * p.val
    omega
  · show 0x200000 + 0x10000 * p.val + off ≠ 0x20008 + 0x400 * p.val
    omega

theorem Eng.dbDrop_door (e : Eng) (p : Fin 32) (off : Nat) : (e.dbDrop p).rd (door p off) = e.rd (door p off) :=
  e.dbDrop_rd p (door_ne_drop p off).1 (door_ne_drop p off).2

theorem door_high (p off : Nat) : 0x200000 ≤ door p off := by
  show 0x200000 ≤ 0x200000 + 0x10000 * p + off
  omega

/-- A doorbell's write, as the engine `g` that it leaves. -/
theorem doorWrite_leaves {off : Nat} {l : List Nat} {f : BeatUnit → Eng → Eng} {g : Eng} (hwin : s.eng.windowOpen = true)
    (hrun : s.eng.running p = true) (hg : g = f s.beat s.eng) :
    doorWrite p off (psRunning :: l) f s = .next { s with eng := { g with resp := ⟨true, 0⟩ } } := by
  rw [hg]
  exact doorWrite_running hwin hrun off l f

theorem admEvent_ne (p : Fin 32) : Reg.partDbDrop p ≠ Reg.admEvent p ∧ Reg.partEvent p ≠ Reg.admEvent p := by
  constructor
  · show 0x20050 + 0x400 * p.val ≠ 0x60010 + 0x100 * p.val
    omega
  · show 0x20008 + 0x400 * p.val ≠ 0x60010 + 0x100 * p.val
    omega

theorem door_ne_admEvent (p : Fin 32) (off : Nat) : door p off ≠ Reg.admEvent p := by
  show 0x200000 + 0x10000 * p.val + off ≠ 0x60010 + 0x100 * p.val
  omega

theorem Drops.admEv {e f : Eng} (h : Drops p e f) (i : Nat) : Drops p e (f.ev (Reg.admEvent p) i) := by
  refine ⟨?_, ?_, h.parts, h.mem⟩
  · rw [Eng.fld_congr (Eng.rd_ev_ne _ _ (admEvent_ne p).1), h.count]
  · rw [Eng.bit_congr (Eng.rd_ev_ne _ _ (admEvent_ne p).2), h.event]

/-! ### SQ_TAIL -/

/-- What SQ_TAIL does with a value (R199). -/
def Eng.sqTailed (p : Nat) (v : Word) (e : Eng) : Eng :=
  let head := e.fld (door p doorSqHead) 31 0
  let now := (e.fld (door p doorSqTail) 31 0 + 2 ^ 32 - head) % 2 ^ 32
  let new := (v.toNat + 2 ^ 32 - head) % 2 ^ 32
  if 2 ^ e.fld (Reg.admSqSize p) 4 0 < new then (e.dbDrop p).ev (Reg.admEvent p) 2
  else if new < now then e.dbDrop p
  else e.wr (door p doorSqTail) v

theorem exec_sqTail (hwin : s.eng.windowOpen = true) (hrun : s.eng.running p = true) {g : Eng} (hg : g = s.eng.sqTailed p v) :
    exec (.sqTail p v) s = .next { s with eng := { g with resp := ⟨true, 0⟩ } } := by
  have hexec : exec (.sqTail p v) s = execSqTail p v s := rfl
  rw [hexec]
  exact doorWrite_leaves hwin hrun hg

theorem Eng.sqTailed_over (e : Eng) (p : Fin 32) (hover : 2 ^ e.fld (Reg.admSqSize p) 4 0 < (v.toNat + 2 ^ 32 - e.fld (door p doorSqHead) 31 0) % 2 ^ 32) :
    e.sqTailed p v = (e.dbDrop p).ev (Reg.admEvent p) 2 := by
  unfold Eng.sqTailed
  dsimp only
  rw [if_pos hover]

/-- A value that withdraws what was announced is dropped, whether or not it is beyond the ring. -/
theorem Eng.sqTailed_less (e : Eng) (p : Fin 32) (hless : (v.toNat + 2 ^ 32 - e.fld (door p doorSqHead) 31 0) % 2 ^ 32 <
    (e.fld (door p doorSqTail) 31 0 + 2 ^ 32 - e.fld (door p doorSqHead) 31 0) % 2 ^ 32) :
    e.sqTailed p v = e.dbDrop p ∨ e.sqTailed p v = (e.dbDrop p).ev (Reg.admEvent p) 2 := by
  by_cases hover : 2 ^ e.fld (Reg.admSqSize p) 4 0 < (v.toNat + 2 ^ 32 - e.fld (door p doorSqHead) 31 0) % 2 ^ 32
  · exact .inr (e.sqTailed_over p hover)
  · left
    unfold Eng.sqTailed
    dsimp only
    rw [if_neg hover, if_pos hless]

theorem Eng.sqTailed_takes (e : Eng) (p : Fin 32) (hroom : (v.toNat + 2 ^ 32 - e.fld (door p doorSqHead) 31 0) % 2 ^ 32 ≤ 2 ^ e.fld (Reg.admSqSize p) 4 0)
    (hmore : (e.fld (door p doorSqTail) 31 0 + 2 ^ 32 - e.fld (door p doorSqHead) 31 0) % 2 ^ 32 ≤
      (v.toNat + 2 ^ 32 - e.fld (door p doorSqHead) 31 0) % 2 ^ 32) : e.sqTailed p v = e.wr (door p doorSqTail) v := by
  unfold Eng.sqTailed
  dsimp only
  rw [if_neg (Nat.not_lt_of_le hroom), if_neg (Nat.not_lt_of_le hmore)]

/-- The announcement of a value that is dropped. -/
theorem sqTailed_drops {g : Eng} (h : g = s.eng.dbDrop p ∨ g = (s.eng.dbDrop p).ev (Reg.admEvent p) 2) :
    Drops p s.eng g ∧ g.rd (door p doorSqTail) = s.eng.rd (door p doorSqTail) := by
  rcases h with rfl | rfl
  · exact ⟨s.eng.dbDrop_drops p, s.eng.dbDrop_door p _⟩
  · exact ⟨(s.eng.dbDrop_drops p).admEv 2, (Eng.rd_ev_ne _ _ (door_ne_admEvent p _)).trans (s.eng.dbDrop_door p _)⟩

/-! ### CQ_HEAD and TR_HEAD -/

/-- What CQ_HEAD does with a value (R415). -/
def Eng.cqHeaded (b : BeatUnit) (p : Nat) (v : Word) (e : Eng) : Eng :=
  if headMoves (e.ringHead p none) (e.ring p none).tail v.toNat then (e.wr (door p doorCqHead) v).drainRing b p none true else e.dbDrop p

theorem exec_cqHead (hwin : s.eng.windowOpen = true) (hrun : s.eng.running p = true) {g : Eng} (hg : g = s.eng.cqHeaded s.beat p v) :
    exec (.cqHead p v) s = .next { s with eng := { g with resp := ⟨true, 0⟩ } } := by
  have hexec : exec (.cqHead p v) s = execCqHead p v s := rfl
  rw [hexec]
  exact doorWrite_leaves hwin hrun hg

/-- What TR_HEAD does with a value (R415, R422, R424). -/
def Eng.trHeaded (b : BeatUnit) (p n : Nat) (v : Word) (e : Eng) : Eng :=
  if (e.tring n).held && decide ((e.tring n).part = p) && headMoves (e.ringHead p (some n)) (e.ring p (some n)).tail v.toNat then
    ((e.wr (door p (doorTrHead n)) v).drainRing b p (some n) true).tryFreeTring n
  else e.dbDrop p

theorem exec_trHead {n : Fin 256} (hwin : s.eng.windowOpen = true) (hrun : s.eng.running p = true) {g : Eng} (hg : g = s.eng.trHeaded s.beat p n v) :
    exec (.trHead p n v) s = .next { s with eng := { g with resp := ⟨true, 0⟩ } } := by
  have hexec : exec (.trHead p n v) s = execTrHead p n v s := rfl
  rw [hexec]
  exact doorWrite_leaves hwin hrun hg

/-- A consumer index and the records that it makes room for. -/
theorem Eng.headed_pours (e : Eng) (b : BeatUnit) (p : Fin 32) (r : Option Nat) (off : Nat) :
    (e.wr (door p off) v).Pours ((e.wr (door p off) v).drainRing b p r true) := Eng.Pours.drainRing (.refl _)

theorem Eng.tryFreeTring_stays {e : Eng} {n : Nat} (h : (e.tring n).left = false) : e.tryFreeTring n = e := by
  unfold Eng.tryFreeTring
  dsimp only
  rw [h, Bool.and_false, Bool.false_and, Bool.false_and, Bool.false_and, if_neg Bool.false_ne_true]

theorem Eng.freeTring_held (e : Eng) (n : Nat) : ((e.freeTring n).tring n).held = false :=
  congrArg TokenRing.held (kget_kdel_self TokenRing.free e.trings n)

/-- Draining a ring at which no record waits changes no ring. -/
theorem Eng.drainRing_nil (e : Eng) (b : BeatUnit) (p : Nat) {r : Option Nat} (u : Bool) (h : (e.ring p r).queue = []) :
    e.drainRing b p r u = e.showSpill p := by
  rw [Eng.drainRing, h]
  rfl

/-- A ring that its request has left and that its consumer reads to the end returns to the pool. -/
theorem Eng.tryFreeTring_frees {e : Eng} {n : Nat} (hheld : (e.tring n).held = true) (hleft : (e.tring n).left = true)
    (hq : (e.tring n).ring.queue = []) (hnext : (e.tring n).ring.next = (e.tring n).ring.tail)
    (hhead : e.ringHead (e.tring n).part (some n) = (e.tring n).ring.tail) : ((e.tryFreeTring n).tring n).held = false := by
  unfold Eng.tryFreeTring
  dsimp only
  rw [hheld, hleft, hq, hnext, hhead, if_pos (by simp)]
  exact e.freeTring_held n

theorem bitsOf_word (v : Word) : bitsOf v.toNat 31 0 = v.toNat := by
  have hlt := v.isLt
  show v.toNat / 2 ^ 0 % 2 ^ 32 = v.toNat
  omega

theorem headMoves_tail (head tail : Nat) : headMoves head tail tail = true := decide_eq_true (Nat.le_refl _)

/-! ### CANCEL -/

/-- What CANCEL does with a handle (R222). -/
def Eng.cancelled (p : Nat) (h : Word) (e : Eng) : Eng :=
  if bitsOf h.toNat 31 27 ≠ p then e.dbDrop p
  else match e.slotOf p h.toNat with
    | none => (e.bump (Reg.admStaleCount p) 31 0).ev (Reg.admEvent p) 1
    | some n =>
      if (e.req n).cancel then e
      else (e.bumpWrap (Reg.admCancelCount p) 31 0).onReq n fun r => { r with cancel := true }

theorem exec_cancel (hwin : s.eng.windowOpen = true) (hrun : s.eng.running p = true) {g : Eng} (hg : g = s.eng.cancelled p v) :
    exec (.cancel p v) s = .next { s with eng := { g with resp := ⟨true, 0⟩ } } := by
  have hexec : exec (.cancel p v) s = execCancel p v s := rfl
  rw [hexec]
  exact doorWrite_leaves hwin hrun hg

/-- A request that CANCEL marks: once, and no other. -/
theorem Eng.cancelled_marks (e : Eng) (p : Fin 32) {n : Nat} (hp : bitsOf v.toNat 31 27 = p) (hslot : e.slotOf p v.toNat = some n) :
    (e.cancelled p v).rqt = e.rqt ∧ ((e.cancelled p v).req n).cancel = true ∧ (∀ m, m ≠ n → (e.cancelled p v).req m = e.req m) ∧
    (e.cancelled p v).fld (Reg.admCancelCount p) 31 0 = (e.fld (Reg.admCancelCount p) 31 0 + if (e.req n).cancel then 0 else 1) % 2 ^ 32 := by
  have heq : e.cancelled p v = if (e.req n).cancel then e else (e.bumpWrap (Reg.admCancelCount p) 31 0).onReq n fun r => { r with cancel := true } := by
    rw [Eng.cancelled, if_neg (not_not_intro hp), hslot]
  rw [heq]
  by_cases hc : (e.req n).cancel = true
  · rw [if_pos hc, if_pos hc]
    exact ⟨rfl, hc, fun _ _ => rfl, (Nat.mod_eq_of_lt (bitsOf_lt _ 31 0)).symm⟩
  · rw [if_neg hc, if_neg hc]
    refine ⟨rfl, ?_, fun m hm => ?_, ?_⟩
    · rw [Eng.req_onReq_self]
    · exact Eng.req_onReq_ne _ _ hm
    · refine (Eng.fld_congr (e := e.bumpWrap (Reg.admCancelCount p) 31 0) rfl 31 0).trans ?_
      rw [Eng.bumpWrap, Eng.fld_setF_self _ _ _ (by decide) (by decide), show 31 + 1 - 0 = 32 from rfl, Nat.mod_mod]

theorem Eng.cancelled_stale (e : Eng) (p : Fin 32) (hp : bitsOf v.toNat 31 27 = p) (hslot : e.slotOf p v.toNat = none) :
    (e.cancelled p v).rqt = e.rqt ∧ (e.cancelled p v).reqs = e.reqs ∧ (e.cancelled p v).bit (Reg.admEvent p) 1 = true ∧
    (e.cancelled p v).fld (Reg.admStaleCount p) 31 0 = min (e.fld (Reg.admStaleCount p) 31 0 + 1) (2 ^ 32 - 1) := by
  have hne : Reg.admStaleCount p ≠ Reg.admEvent p := by
    show 0x60028 + 0x100 * p.val ≠ 0x60010 + 0x100 * p.val
    omega
  rw [Eng.cancelled, if_neg (not_not_intro hp), hslot]
  refine ⟨rfl, rfl, Eng.bit_ev_self _ _ (by decide), ?_⟩
  rw [Eng.fld_congr (Eng.rd_ev_ne _ _ hne), Eng.fld_bump_self _ _ _ (by decide) (by decide)]

end

/-! ## The obligation -/

section
variable {s : State} {p : Fin 32} {v : Word} (hwin : s.eng.windowOpen = true) (hrun : s.eng.running p = true)
include hwin hrun

/-- CQ_HEAD of a value that does not pass the producer index. -/
theorem cqHead_takes (hmoves : headMoves (s.eng.ringHead p none) (s.eng.part p).cq.tail v.toNat = true) :
    ∃ t, exec (.cqHead p v) s = .next t ∧ t.eng.rd (door p 0x10) = v := by
  obtain ⟨g, hg⟩ : ∃ g, g = s.eng.cqHeaded s.beat p v := ⟨_, rfl⟩
  refine ⟨_, exec_cqHead hwin hrun hg, ?_⟩
  have htaken : g = (s.eng.wr (door p doorCqHead) v).drainRing s.beat p none true := hg.trans (if_pos hmoves)
  have hpours := s.eng.headed_pours (v := v) s.beat p none doorCqHead
  rw [← htaken] at hpours
  exact (hpours.rd _ (door_high p doorCqHead)).trans (Eng.rd_wr_self _ _ _)

theorem cqHead_drops (hmoves : headMoves (s.eng.ringHead p none) (s.eng.part p).cq.tail v.toNat = false) :
    ∃ t, exec (.cqHead p v) s = .next t ∧ Drops p s.eng t.eng ∧ t.eng.rd (door p 0x10) = s.eng.rd (door p 0x10) := by
  have hdrop : s.eng.cqHeaded s.beat p v = s.eng.dbDrop p := if_neg (Bool.eq_false_iff.mp hmoves)
  exact ⟨_, exec_cqHead hwin hrun hdrop.symm, (s.eng.dbDrop_drops p).answered _, s.eng.dbDrop_door p _⟩

theorem trHead_takes {n : Fin 256} (hheld : (s.eng.tring n).held = true) (hpart : (s.eng.tring n).part = p)
    (hleft : (s.eng.tring n).left = false) (hmoves : headMoves (s.eng.ringHead p (some n)) (s.eng.tring n).ring.tail v.toNat = true) :
    ∃ t, exec (.trHead p n v) s = .next t ∧ t.eng.rd (door p (0x1000 + 4 * n.val)) = v ∧ (t.eng.tring n).held = true := by
  obtain ⟨g, hg⟩ : ∃ g, g = s.eng.trHeaded s.beat p n v := ⟨_, rfl⟩
  refine ⟨_, exec_trHead hwin hrun hg, ?_⟩
  have hcond : ((s.eng.tring n).held && decide ((s.eng.tring n).part = p) &&
      headMoves (s.eng.ringHead p (some n)) (s.eng.ring p (some n)).tail v.toNat) = true := by
    rw [hheld, decide_eq_true hpart, Bool.true_and, Bool.true_and]
    exact hmoves
  have hpours := s.eng.headed_pours (v := v) s.beat p (some n) (doorTrHead n)
  have htaken : g = (s.eng.wr (door p (doorTrHead n)) v).drainRing s.beat p (some n) true := by
    rw [hg, Eng.trHeaded, if_pos hcond]
    exact Eng.tryFreeTring_stays ((hpours.left n).trans hleft)
  rw [← htaken] at hpours
  exact ⟨(hpours.rd _ (door_high p (doorTrHead n))).trans (Eng.rd_wr_self _ _ _), (hpours.held n).trans hheld⟩

/-- The consumer reads a ring that its request has left to its end. -/
theorem trHead_frees {n : Fin 256} (hheld : (s.eng.tring n).held = true) (hpart : (s.eng.tring n).part = p)
    (hleft : (s.eng.tring n).left = true) (hq : (s.eng.tring n).ring.queue = []) (hnext : (s.eng.tring n).ring.next = (s.eng.tring n).ring.tail)
    (hv : v.toNat = (s.eng.tring n).ring.tail) : ∃ t, exec (.trHead p n v) s = .next t ∧ (t.eng.tring n).held = false := by
  obtain ⟨g, hg⟩ : ∃ g, g = s.eng.trHeaded s.beat p n v := ⟨_, rfl⟩
  refine ⟨_, exec_trHead hwin hrun hg, ?_⟩
  have hcond : ((s.eng.tring n).held && decide ((s.eng.tring n).part = p) &&
      headMoves (s.eng.ringHead p (some n)) (s.eng.ring p (some n)).tail v.toNat) = true := by
    rw [hheld, decide_eq_true hpart, Bool.true_and, Bool.true_and, hv]
    exact headMoves_tail _ _
  obtain ⟨f, hf⟩ : ∃ f, f = (s.eng.wr (door p (doorTrHead n)) v).showSpill p := ⟨_, rfl⟩
  have hempty : ((s.eng.wr (door p (doorTrHead n)) v).ring p (some n.val)).queue = [] := hq
  have hfree : g = f.tryFreeTring n := by
    rw [hg, Eng.trHeaded, if_pos hcond, Eng.drainRing_nil _ _ _ _ hempty, hf]
  have hring : f.tring n = s.eng.tring n := hf ▸ rfl
  have hhead : f.rd (door p (doorTrHead n)) = v := by
    have hpours : (s.eng.wr (door p (doorTrHead n)) v).Pours f := hf ▸ Eng.Pours.setF (.setF (.refl _) (family_low p)) (family_low p)
    exact (hpours.rd _ (door_high p _)).trans (Eng.rd_wr_self _ _ _)
  have hindex : f.ringHead p (some n) = v.toNat := by
    rw [Eng.ringHead, Eng.fld, hhead]
    exact bitsOf_word v
  rw [show ({ g with resp := ⟨true, 0⟩ } : Eng).tring n = g.tring n from rfl, hfree]
  exact Eng.tryFreeTring_frees (hring ▸ hheld) (hring ▸ hleft) (hring ▸ hq) (hring ▸ hnext) (by rw [hring, hpart, hindex, hv])

theorem trHead_drops {n : Fin 256} (hfree : (s.eng.tring n).held = false) :
    ∃ t, exec (.trHead p n v) s = .next t ∧ Drops p s.eng t.eng := by
  have hdrop : s.eng.trHeaded s.beat p n v = s.eng.dbDrop p := by
    rw [Eng.trHeaded, hfree, Bool.false_and, Bool.false_and, if_neg Bool.false_ne_true]
  exact ⟨_, exec_trHead hwin hrun hdrop.symm, (s.eng.dbDrop_drops p).answered _⟩

end

/-- Settles O32. Each doorbell's write is followed to the engine that it leaves; draining a ring for a consumer index reads nothing back
from spill, so no doorbell word and no hold on a ring changes (`Eng.Pours.drain`). -/
theorem doorbellIndicesAndCancellation : Obligations.DoorbellIndicesAndCancellation := by
  unfold Obligations.DoorbellIndicesAndCancellation
  intro s p v hwin hrun drops head new now
  have hdrops : ∀ t : State, Drops p s.eng t.eng → drops t := fun t h => ⟨h.count, h.event, h.parts, h.mem⟩
  refine ⟨fun hroom hmore => ?_, fun hover => ?_, fun hless => ?_, cqHead_takes hwin hrun, fun hmoves => ?_, fun n => ⟨trHead_takes hwin hrun,
    trHead_frees hwin hrun, fun hfree => ?_⟩, fun hother => ?_, fun n hp hslot => ?_, fun hp hslot => ?_⟩
  · obtain ⟨g, hg⟩ : ∃ g, g = s.eng.sqTailed p v := ⟨_, rfl⟩
    have heq := hg.trans (s.eng.sqTailed_takes p hroom hmore)
    refine ⟨{ s with eng := { g with resp := ⟨true, 0⟩ } }, exec_sqTail hwin hrun hg, ?_⟩
    rw [heq]
    exact ⟨Eng.rd_wr_self s.eng _ _, rfl, Eng.fld_congr (Eng.rd_wr_ne s.eng v (door_ne_drop p doorSqTail).1.symm) 31 0⟩
  · obtain ⟨g, hg⟩ : ∃ g, g = s.eng.sqTailed p v := ⟨_, rfl⟩
    have heq := hg.trans (s.eng.sqTailed_over p hover)
    obtain ⟨hd, hrd⟩ := sqTailed_drops (.inr heq)
    have hbit : g.bit (Reg.admEvent p) 2 = true := by rw [heq, Eng.bit_ev_self _ _ (by decide)]
    exact ⟨{ s with eng := { g with resp := ⟨true, 0⟩ } }, exec_sqTail hwin hrun hg, hdrops _ (hd.answered _), hrd, hbit⟩
  · obtain ⟨g, hg⟩ : ∃ g, g = s.eng.sqTailed p v := ⟨_, rfl⟩
    have heq := s.eng.sqTailed_less p hless
    rw [← hg] at heq
    obtain ⟨hd, hrd⟩ := sqTailed_drops heq
    exact ⟨{ s with eng := { g with resp := ⟨true, 0⟩ } }, exec_sqTail hwin hrun hg, hdrops _ (hd.answered _), hrd⟩
  · obtain ⟨t, hexec, hd, hrd⟩ := cqHead_drops hwin hrun hmoves
    exact ⟨t, hexec, hdrops t hd, hrd⟩
  · obtain ⟨t, hexec, hd⟩ := trHead_drops (v := v) hwin hrun hfree
    exact ⟨t, hexec, hdrops t hd⟩
  · have heq : s.eng.cancelled p v = s.eng.dbDrop p := if_pos hother
    exact ⟨_, exec_cancel hwin hrun heq.symm, rfl, hdrops _ ((s.eng.dbDrop_drops p).answered _), rfl⟩
  · obtain ⟨g, hg⟩ : ∃ g, g = s.eng.cancelled p v := ⟨_, rfl⟩
    have hmarks := s.eng.cancelled_marks p hp hslot
    rw [← hg] at hmarks
    exact ⟨{ s with eng := { g with resp := ⟨true, 0⟩ } }, exec_cancel hwin hrun hg, hmarks⟩
  · obtain ⟨g, hg⟩ : ∃ g, g = s.eng.cancelled p v := ⟨_, rfl⟩
    have hstale := s.eng.cancelled_stale p hp hslot
    rw [← hg] at hstale
    exact ⟨{ s with eng := { g with resp := ⟨true, 0⟩ } }, exec_cancel hwin hrun hg, hstale⟩

end Sys2Proof.Machine
end
